-- ==== Sys2Proof/Word.lean ====
section
/-! DEFINITION. The word types of the module: a byte, the 16, 32 and 64-bit words of its registers,
command records and images (00 R11). -/

namespace Sys2Proof

/-- A byte of memory, of an image or of a block. -/
abbrev Byte := BitVec 8

/-- A 16-bit half word: a 16-bit format, a line check or a table field. -/
abbrev Half := BitVec 16

/-- A 32-bit register word or operand word (R11). -/
abbrev Word := BitVec 32

/-- A 64-bit register (two words, low word first) or s-register. -/
abbrev DWord := BitVec 64

end Sys2Proof
end

