-- ==== Sys2Proof/Syntax.lean ====
section
/-! DEFINITION. The commands the module takes: one constructor of `Instr` for each row of
spec/opcode_table.json. The table gives no row any bits, so a command's operands are what its rule
needs: the unit it concerns, and what only the outside world knows (raw bytes of a block or a frame,
a measured temperature, which of several waiting things comes next). A row that is an operation of a
command record names the record by die, step and command number; its operand words are read from the
record itself. -/

namespace Sys2Proof

/-- A record in flight: its compute die, step number and command number (R78). -/
structure RecRef where
  die : Nat
  step : Nat
  cmd : Nat
deriving DecidableEq, Repr

/-- A site of the probe (R445): a compute die, a stack with its hub, an update die, a light engine or
a Baith port. -/
inductive Site
  | cd (n : Nat)
  | stack (n : Nat)
  | ud (n : Nat)
  | le (n : Nat)
  | baith (n : Nat)
deriving DecidableEq, Repr

/-- A port that lights and goes dark: fabric port P0 to P127 or Baith port B0 to B3 (R329, R419). -/
inductive PortRef
  | fabric (n : Nat)
  | baith (n : Nat)
deriving DecidableEq, Repr

/-- A block that keeps its own clock and lull state (R397): block `i` of a compute die by the block
index of R416, a hub, an update die or a light engine. -/
inductive BlockRef
  | die (d i : Nat)
  | hub (h : Nat)
  | ud (u : Nat)
  | le (m : Nat)
deriving DecidableEq, Repr

/-- Whose loader block a command addresses: the frame's or a partition's (R59). -/
inductive WrTarget
  | frame
  | part (p : Nat)
deriving DecidableEq, Repr

/-- A memory whose lines carry checks (R288, R289): a die's scratchpad, a stack, or the copies in a
hub's shared cache. -/
inductive MemSite
  | scratch (d : Nat)
  | stack (h : Nat)
  | cache (h : Nat)
deriving DecidableEq, Repr

/-- What befell a stored line: its next read fails once (R291, recovered on the second read), its
stored check or one of its bytes changed (failing until a whole-line write, R290), or the place fails
for good. -/
inductive UpsetKind
  | glitch
  | check (c : Half)
  | byte (i : Nat) (v : Byte)
  | hard
deriving DecidableEq, Repr

/-- A physical upset of one line. `line` is a scratchpad address div 64, a stack's physical line (the
pseudo-channel times its lines plus pseudo-channel offset div 64), or for a cached copy the
stack-local line. A cached copy has no place of its own that could fail for good. -/
structure Upset where
  mem : MemSite
  line : Nat
  kind : UpsetKind
deriving DecidableEq, Repr

/-- What the search finds on one ring (R343): the heater settings, in 1/256 mW, at which a tone window
named each line. -/
structure RingFound where
  port : Nat
  ring : Nat
  dips : List (Nat × Nat)
deriving DecidableEq, Repr

/-- What a phase of the ring search observed. -/
structure SearchObs where
  rings : List RingFound
  tones : List (Nat × Nat × Nat)
  ms : Nat
deriving DecidableEq, Repr

/-- A poll's answer from one site (R387, Table 15.5). -/
structure PollAnswer where
  site : Site
  answered : Bool
  fault : Bool
  lostTraining : Nat
deriving DecidableEq, Repr

/-- A site with a trip column in Table 22.5. -/
inductive TripSite
  | hub (h : Nat)
  | stack (h : Nat)
  | lightEngine (m : Nat)
  | laserArray (m : Nat)
  | control
deriving DecidableEq, Repr

/-- A command of the module: one constructor per row of spec/opcode_table.json, in the table's order. -/
inductive Instr
  -- start-up and reset (18, 19)
  | powerUp (held10ms below60For1s : Bool)
  | stagePowerGood (resetHigh : Bool)
  | resetLReleaseStandby
  | firmwareVerifyDone (ms : Nat) (flashReadsOk : Bool)
  | homeGroupPower
  | siteProbeResult (site : Site) (answers : Bool) (lanes : Nat)
  | hubTrainDone (h : Nat) (failed : Half) (ms : Nat)
  | ringSearchPhaseEnd (le : Nat) (port : Option Nat) (obs : SearchObs)
  | moduleReady
  | identityDeriveDone (ok : Bool)
  | powerFail
  | thermalTrip (site : TripSite) (t1 t2 : Int)
  | resetLFall (heldFor1us : Bool)
  | warmToColdTimeout
  | resetLRise
  | modResetWarm (b : Nat)
  | modResetCold (b : Nat)
  | partReset (b p : Nat)
  | partResetDone (p ms : Nat)
  -- light of a port (13, 17)
  | portDarkExpiry (port : PortRef)
  | probePulse (port : PortRef)
  | lightSeen (port : PortRef) (lanes : Byte)
  | lossOfLight (port : PortRef) (together : Bool)
  -- Baith blocks and host requests (17)
  | baithBlockReceive (b : Nat) (bytes : List Byte)
  | keepAliveReceive (b : Nat) (bytes : List Byte)
  | commandSegmentTransfer (b : Nat)
  | windroseTransfer (b : Nat)
  | memoryWrite (b : Nat)
  | memoryRead (b : Nat)
  | registerRead (b : Nat)
  | registerWrite (b : Nat)
  | logbookRead (b : Nat)
  | attestationReport (b : Nat)
  | attestationCertificates (b : Nat)
  | attestationSign
  | recoveryFirmwareTransfer (b : Nat)
  | firmwareWriteDone (readBack : List Byte)
  | keepAliveSend (b : Nat)
  | blockTruncateTimeout (b : Nat) (bytes : List Byte)
  | baithResendTimeout (b : Nat)
  | baithSilenceTimeout (b : Nat)
  | baithBlockSend (b : Nat)
  -- Windrose (02)
  | windroseCommit (t : WrTarget)
  | cellAreaReady (h : Nat)
  | wrAbort (b : Nat) (t : WrTarget) (v : Word)
  -- ticks, records and streams (03)
  | tickBoundary (p : Nat)
  | recordIssue (r : RecRef) (upsets : List Upset)
  | recordComplete (r : RecRef)
  | replayRangeRerun (d : Nat)
  | stStop (b p : Nat)
  | stAbort (b p : Nat)
  -- sequencer operations (Table 03.6)
  | nop (r : RecRef)
  | smovi (r : RecRef)
  | salu (r : RecRef)
  | sld (r : RecRef)
  | sst (r : RecRef)
  | choice (r : RecRef)
  | replay (r : RecRef)
  | evadd (r : RecRef)
  -- matrix engine operations (Table 05.2)
  | mma (r : RecRef)
  | aclr (r : RecRef)
  | ast (r : RecRef)
  | asv (r : RecRef)
  | ald (r : RecRef)
  -- vector engine operations (Table 06.1)
  | vadd (r : RecRef)
  | vmul (r : RecRef)
  | vfma (r : RecRef)
  | vmin (r : RecRef)
  | vmax (r : RecRef)
  | vcmp (r : RecRef)
  | vsel (r : RecRef)
  | vred (r : RecRef)
  -- transposer and gather engine (Tables 07.1 to 07.4)
  | txp (r : RecRef)
  | load (r : RecRef)
  | store (r : RecRef)
  | gather (r : RecRef)
  | narrowQueueFree (h : Nat)
  -- conversion engine (Table 07.5)
  | cvt (r : RecRef)
  | amxout (r : RecRef)
  | amxpush (r : RecRef)
  | scsel (r : RecRef)
  | tst (r : RecRef)
  | tld (r : RecRef)
  | cveTableWrite (b d off : Nat) (v : Word)
  -- collective engine (Table 07.9) and the step control word (09)
  | put (r : RecRef)
  | waitin (r : RecRef)
  | accum (r : RecRef)
  | ringag (r : RecRef)
  | stepword (r : RecRef)
  | stepwordGatherDone (p : Nat)
  | verdictDelivery (p : Nat)
  -- Pepper, hub and update-die operations
  | fill (r : RecRef)
  | scrub (r : RecRef)
  | ufold (r : RecRef)
  | ushare (r : RecRef)
  | update (r : RecRef)
  | updateApply (r : RecRef)
  -- reductions at the hub (08)
  | accumArrival (h i : Nat)
  | heldArrivalOpen (h : Nat)
  | granuleStallDiscard (h region granule : Nat)
  -- hub registers and line checks (11, 12)
  | hubCacheCtrl (b h : Nat) (v : Word)
  | hubWritebackDone (h : Nat)
  | hubNarrowDepthRead (b h : Nat)
  | scrubPassStart (b h : Nat)
  | scrubPassStop (b h : Nat)
  | scrubPassEnd (h : Nat)
  | breezeRead (h : Nat) (upsets : List Upset)
  | breezeHeldRecheck (h : Nat)
  | retTableWrite (b h i : Nat) (v : Word)
  | retireEntryInForce (h : Nat)
  -- registers with a behaviour of their own
  | mxeFeStat (b d e : Nat) (v : Word)
  | gxeOorStat (b d : Nat) (v : Word)
  | gxeBadCount (b d : Nat) (v : Word)
  | redNvStat (b h : Nat) (v : Word)
  | arbFlagStat (b n : Nat) (v : Word)
  | segWaitMax (b d g : Nat) (v : Word)
  | stagedWrite (b win off : Nat) (v : Word)
  | closingFieldWrite (b win off : Nat) (v : Word)
  | mtAnchorSet (b : Nat) (v : Word)
  -- Nurok links (13)
  | frameSend (n lane : Nat)
  -- a frame on its way: its bytes and the far end's scrambler as it left, and the levels that changed on the line
  | frameReceive (n lane : Nat) (bytes : List Byte) (scr : Nat) (noise : List (Nat × Byte))
  | identityFrameReceive (n lane : Nat) (bytes : List Byte) (scr : Nat) (noise : List (Nat × Byte))
  | linkOnlyFrameReceive (n lane : Nat) (bytes : List Byte) (scr : Nat) (noise : List (Nat × Byte))
  | timeRequestSend (p : Nat)
  | timeResponseSend (n : Nat)
  | linkReportSend (n : Nat)
  | nakTimer (n : Nat)
  | replayTimeout (n : Nat)
  | portDown (n : Nat)
  | laneAcquireTimeout (n lane : Nat)
  | laneLightLoss (n lane : Nat)
  | lkCmd (b n : Nat) (v : Word)
  | lkCtrl (b n : Nat) (v : Word)
  | lkLaneHold (b n : Nat) (v : Word)
  -- rings and lasers (14)
  | ringLockLoop (n ring : Nat) (detune heaterStep : Int)
  | ringUnlock (n ring : Nat)
  | toneWindowEnd (n ring : Nat) (levels : List Int)
  | ringRelock (n ring : Nat)
  | kappaFit (le : Nat) (fits : List (Nat × Nat × Int))
  | laserBiasLoop (le j : Nat) (output : Int) (biasStep : Int)
  | laserThresholdJudge (le j bias : Nat) (output : Int)
  | laserSwapStart (le : Nat)
  | swapSpareTuned (le : Nat)
  | swapResume (le : Nat)
  | leSwapCmd (b le : Nat) (v : Word)
  -- fabric messages (15)
  | messageBind (p i : Nat)
  | arbitrationPhase (n : Nat)
  | holderStall (n : Nat)
  | parkedEligible (n i : Nat)
  | receiveHeldRelease (n : Nat)
  | becalmStallLimit (r : RecRef)
  | messageStallDiscard (p i : Nat)
  | senderStallLimit (r : RecRef)
  | moduleOut (p m : Nat)
  | sitePoll (answers : List PollAnswer)
  -- power (16)
  | clockChoice (blk : BlockRef) (powerMax currentMax thermalMax : Nat)
  | lullEnter (blk : BlockRef)
  | wakeBegin (d g : Nat)
  | wakeComplete (blk : BlockRef)
  | tokenRefill (d g : Nat)
  | junctionSample (blk : BlockRef) (temp : Int) (powerMw : Nat)
  | segmentCurrentSample (d g mean peak : Nat)
  | currentStopRestart (d g : Nat)
  -- Fennel, logbook, sideband (18 to 21)
  | fennelSampleCompare (d : Nat)
  | logbookBucketRefill
  | lifetimeSnapshot
  | lbSnapCmd (b : Nat) (v : Word)
  | smbusReadState
  | smbusReadCause
  | smbusReadTemp
  | smbusReadPower (watts : Nat)
  | smbusReadAlert
  | smbusClearAlert (v : Half)
  | smbusReadDescriptor (code : Nat)
  | smbusAlertResponse
  | modResetRelease
  | laneLightReturn (n lane : Nat) (shortGap : Bool)
  | laneAlignmentLost (n lane : Nat)
  | lullEntryDone (blk : BlockRef)
  | meshMessageArrival (p i : Nat)
  | snapshotWriteDone
  | logbookPageErased
deriving DecidableEq, Repr

end Sys2Proof
end

