-- ==== Sys2Proof/WellFormed.lean ====
section
/-! DEFINITION. Which commands name units that the family has: R1, R2, Table 00.1 (part ADT7-F, the
largest), R311 (lanes), Table 14.8 (rings), Table 14.10 (lasers), R417 (rail segments). -/

namespace Sys2Proof

/-- A record reference whose die exists (R1). -/
def RecRef.wf (r : RecRef) : Bool := r.die < 16

/-- A site that exists (R1). -/
def Site.wf : Site → Bool
  | .cd n => n < 16
  | .stack n => n < 32
  | .ud n => n < 32
  | .le n => n < 8
  | .baith n => n < 4

/-- A port that exists (R1). -/
def PortRef.wf : PortRef → Bool
  | .fabric n => n < 128
  | .baith n => n < 4

/-- The block indices of a die's power registers (R416): the units of Table 03.4, Fennel, and the
sixteen slices. -/
def blockIndexOk (i : Nat) : Bool := i < 0x11 || i == 0x18 || (0x20 ≤ i && i < 0x30)

/-- A power block that exists (R416). -/
def BlockRef.wf : BlockRef → Bool
  | .die d i => d < 16 && blockIndexOk i
  | .hub h => h < 32
  | .ud u => u < 32
  | .le m => m < 8

/-- A loader block that exists (R59). -/
def WrTarget.wf : WrTarget → Bool
  | .frame => true
  | .part p => p < 4

/-- A checked memory that exists (R288). -/
def MemSite.wf : MemSite → Bool
  | .scratch d => d < 16
  | .stack h => h < 32
  | .cache h => h < 32

/-- A trip site that exists (Table 22.5). -/
def TripSite.wf : TripSite → Bool
  | .hub h => h < 32
  | .stack h => h < 32
  | .lightEngine m => m < 8
  | .laserArray m => m < 8
  | .control => true

/-- Ports, lanes and rings in range. -/
def laneWf (n lane : Nat) : Bool := n < 128 && lane < 8
def ringWf (n ring : Nat) : Bool := n < 128 && ring < 16

/-- Whether a command names only units that exist. -/
def Instr.wf : Instr → Bool
  | .powerUp _ _ | .stagePowerGood _ | .resetLReleaseStandby | .firmwareVerifyDone _ _
  | .homeGroupPower | .moduleReady | .identityDeriveDone _ | .powerFail | .resetLFall _
  | .warmToColdTimeout | .resetLRise | .attestationSign | .firmwareWriteDone _
  | .logbookBucketRefill | .lifetimeSnapshot | .smbusReadState | .smbusReadCause | .smbusReadTemp
  | .smbusReadPower _ | .smbusReadAlert | .smbusClearAlert _ | .smbusReadDescriptor _
  | .smbusAlertResponse | .modResetRelease | .snapshotWriteDone | .logbookPageErased => true
  | .siteProbeResult site _ _ => site.wf
  | .hubTrainDone h _ _ | .cellAreaReady h | .narrowQueueFree h | .accumArrival h _
  | .heldArrivalOpen h | .granuleStallDiscard h _ _ | .hubWritebackDone h | .scrubPassEnd h
  | .breezeHeldRecheck h | .retireEntryInForce h => h < 32
  | .ringSearchPhaseEnd le port _ => le < 8 && (match port with | none => true | some n => n < 128)
  | .thermalTrip site _ _ => site.wf
  | .modResetWarm b | .modResetCold b | .baithBlockReceive b _ | .keepAliveReceive b _
  | .commandSegmentTransfer b | .windroseTransfer b | .memoryWrite b | .memoryRead b
  | .registerRead b | .registerWrite b | .logbookRead b | .attestationReport b
  | .attestationCertificates b | .recoveryFirmwareTransfer b | .keepAliveSend b
  | .blockTruncateTimeout b _ | .baithResendTimeout b | .baithSilenceTimeout b | .baithBlockSend b
  | .stagedWrite b _ _ _ | .closingFieldWrite b _ _ _ | .mtAnchorSet b _ | .lbSnapCmd b _ => b < 4
  | .partReset b p | .stStop b p | .stAbort b p => b < 4 && p < 4
  | .partResetDone p _ | .tickBoundary p | .stepwordGatherDone p | .verdictDelivery p
  | .timeRequestSend p | .messageBind p _ | .messageStallDiscard p _ | .moduleOut p _
  | .meshMessageArrival p _ => p < 4
  | .portDarkExpiry port | .probePulse port | .lightSeen port _ | .lossOfLight port _ => port.wf
  | .windroseCommit t => t.wf
  | .wrAbort b t _ => b < 4 && t.wf
  | .recordIssue r us => r.wf && us.all fun u => u.mem.wf
  | .breezeRead h us => h < 32 && us.all fun u => u.mem.wf
  | .recordComplete r | .nop r | .smovi r | .salu r | .sld r | .sst r | .choice r | .replay r
  | .evadd r | .mma r | .aclr r | .ast r | .asv r | .ald r | .vadd r | .vmul r | .vfma r | .vmin r
  | .vmax r | .vcmp r | .vsel r | .vred r | .txp r | .load r | .store r | .gather r | .cvt r
  | .amxout r | .amxpush r | .scsel r | .tst r | .tld r | .put r | .waitin r | .accum r | .ringag r
  | .stepword r | .fill r | .scrub r | .ufold r | .ushare r | .update r | .updateApply r
  | .becalmStallLimit r | .senderStallLimit r => r.wf
  | .replayRangeRerun d | .fennelSampleCompare d => d < 16
  | .cveTableWrite b d _ _ | .gxeOorStat b d _ | .gxeBadCount b d _ => b < 4 && d < 16
  | .hubCacheCtrl b h _ | .redNvStat b h _ => b < 4 && h < 32
  | .hubNarrowDepthRead b h | .scrubPassStart b h | .scrubPassStop b h => b < 4 && h < 32
  | .retTableWrite b h i _ => b < 4 && h < 32 && i < 4096
  | .mxeFeStat b d e _ => b < 4 && d < 16 && e < 10
  | .arbFlagStat b n _ | .lkCmd b n _ | .lkCtrl b n _ | .lkLaneHold b n _ => b < 4 && n < 128
  | .segWaitMax b d g _ => b < 4 && d < 16 && g < 4
  | .frameSend n lane | .frameReceive n lane _ _ _ | .identityFrameReceive n lane _ _ _
  | .linkOnlyFrameReceive n lane _ _ _ | .laneAcquireTimeout n lane | .laneLightLoss n lane
  | .laneLightReturn n lane _ | .laneAlignmentLost n lane => laneWf n lane
  | .timeResponseSend n | .linkReportSend n | .nakTimer n | .replayTimeout n | .portDown n
  | .arbitrationPhase n | .holderStall n | .parkedEligible n _ | .receiveHeldRelease n => n < 128
  | .ringLockLoop n ring _ _ | .ringUnlock n ring | .toneWindowEnd n ring _
  | .ringRelock n ring => ringWf n ring
  | .kappaFit le fits => le < 8 && fits.all fun f => f.1 / 16 == le && f.1 < 128 && f.2.1 < 16
  | .laserBiasLoop le j _ _ | .laserThresholdJudge le j _ _ => le < 8 && j < 10
  | .laserSwapStart le | .swapSpareTuned le | .swapResume le => le < 8
  | .leSwapCmd b le _ => b < 4 && le < 8
  | .sitePoll answers => answers.all fun a => a.site.wf
  | .clockChoice blk _ _ _ | .lullEnter blk | .wakeComplete blk | .junctionSample blk _ _
  | .lullEntryDone blk => blk.wf
  | .wakeBegin d g | .tokenRefill d g | .segmentCurrentSample d g _ _
  | .currentStopRestart d g => d < 16 && g < 4

end Sys2Proof
end

