-- ==== Sys2Proof/Machine/State.lean ====
section
/-! DEFINITION. What the module holds: every register, table, queue, log and memory the spec gives it,
as plain data. Each structure's docstring names the rule that gives it. `State.reset` is the module
with every register at its reset value, before its input has reached 64 V. -/

namespace Sys2Proof.Machine

/-! ## Shared small structures -/

/-- The sticky flags of an engine (R14): long sum (matrix engines only), invalid, overflow, underflow
and inexact. -/
structure Flags where
  ls : Bool := false
  nv : Bool := false
  ovf : Bool := false
  uf : Bool := false
  ix : Bool := false
deriving DecidableEq, Repr

/-- A published set (R60 to R66): its members' live and staged values, the closing field last, the
capture that awaits a boundary, and which members were written after the closing write. -/
structure PubSet where
  live : List Nat
  staged : List Nat
  captured : Option (List Nat) := none
  after : List Bool := []
deriving DecidableEq, Repr

/-- A set with these values live and staged. -/
def PubSet.ofValues (v : List Nat) : PubSet :=
  { live := v, staged := v, captured := none, after := v.map fun _ => false }

/-- A memory of bytes in canonical form: addresses strictly rising, and no byte equal to what an
unlisted address reads as, which is 0. -/
abbrev Memory := List Host.Cell

/-- A memory whose 64-byte lines carry checks (R288): its bytes; the stored checks of the lines whose
stored check is not the one computed from their bytes; the lines whose next read fails once (R291);
and the lines whose place fails at every read. -/
structure LineStore where
  bytes : Memory := []
  bad : List (Nat × Half) := []
  glitch : List Nat := []
  hard : List Nat := []
deriving DecidableEq, Repr

/-- A fault record (R297, Table 12.2). -/
structure FaultRec where
  time : Nat
  kind : Nat
  source : Nat
  site : Nat
  pc : Nat
  line : Nat
  address : Nat
  step : Nat
  stored : Half
  computed : Half
deriving DecidableEq, Repr

/-- A ring of records that overwrites its oldest: newest first, the next slot, and the saturating
count of records written. -/
structure Ring (α : Type) where
  items : List α := []
  head : Nat := 0
  count : Nat := 0
deriving DecidableEq, Repr

/-! ## Power blocks and rail segments (16) -/

/-- What a block is doing (Table 16.6, PWR_STATE bits [2:0]). -/
inductive PwrMode
  | running | lull1 | lull2 | lull3 | waking | entering | throttled | stopped
deriving DecidableEq, Repr

/-- A squall record (Table 16.4). -/
structure SquallRec where
  start : Nat
  stop : Nat := 0
  block : Nat
  kind : Nat
  clockMin : Nat
  tempMax : Int
  currentMax : Nat
  step : Nat
  segment : Nat
deriving DecidableEq, Repr

/-- A wake request waiting for tokens (R406, R408): its class (1 before 2) and when it was made. -/
structure WakeReq where
  cls : Nat
  time : Nat
deriving DecidableEq, Repr

/-- A power block (R416, Table 16.6) with what the rules of chapter 16 keep for it: the lull being
entered or left, its R401 choice and the µs of climbing back to it, the hottest sample of
the tick, the last power, the sum and number of powers of the tick, the mean power of the tick that ended, its
waiting wake request, its squall if it is in one, and whether a thermal stop holds it. The set's members are PWR_CLK_MIN, PWR_CLK_MAX and PWR_CTRL. -/
structure PwrBlock where
  mode : PwrMode := .running
  clock : Nat := 400
  choice : Nat := 400
  climb : Nat := 0
  head : Word := 0
  set : PubSet := PubSet.ofValues [0x190, 0x640, 3]
  temp : Int := 0
  tempTick : Int := 0
  powerMw : Nat := 0
  powerSum : Nat := 0
  powerCount : Nat := 0
  powerTick : Nat := 0
  wakes : Nat := 0
  wakeWait : Nat := 0
  share : Nat := 0
  limited : Nat := 0
  squalls : Nat := 0
  lull : Nat := 0
  request : Option WakeReq := none
  squall : Option SquallRec := none
  halted : Bool := false
deriving DecidableEq, Repr

/-- A rail segment of a compute die (R417, Table 16.7) with its tick's current samples and its squall. -/
structure Segment where
  tokens : Nat := 8
  current : Nat := 0
  limit : Nat
  wakes : Nat := 0
  waitUs : Nat := 0
  waitMax : Nat := 0
  squalls : Nat := 0
  sumTick : Nat := 0
  samples : Nat := 0
  stopped : Bool := false
  squall : Option SquallRec := none
deriving DecidableEq, Repr

/-! ## Partition frames and job images (02) -/

/-- A partition frame entry (Table 02.4). `noCds`, `noStacks` and `noUds` are the model's own: the units in
its spans that it does not hold, as masks. A frame image gives none; the default frame (R28) holds only the units that are present. -/
structure FrameEntry where
  cdFirst : Nat := 0
  cdCount : Nat := 0
  stackFirst : Nat := 0
  stackCount : Nat := 0
  udFirst : Nat := 0
  udCount : Nat := 0
  hostPort : Nat := 0
  portMask : Nat := 0
  moduleNumber : Nat := 0
  power : Nat := 0
  noCds : Nat := 0
  noStacks : Nat := 0
  noUds : Nat := 0
deriving DecidableEq, Repr

/-- A memory region entry (Table 02.5). -/
structure Region where
  base : Nat
  length : Nat
  cls : Nat
  placement : Nat
  stack : Nat
  mode : Nat
  contributions : Nat
  source : Nat
deriving DecidableEq, Repr

/-- An update region entry (Table 02.7). -/
structure UpdEntry where
  elements : Nat
  offset : Nat
  master : Nat
  moment1 : Nat
  moment2 : Nat
  gradient : Nat
  fp8 : Nat
  bf16 : Nat
  tensor : Nat
  frozen : Bool
deriving DecidableEq, Repr

/-- The update regions section (R40): header and entries. -/
structure UpdSection where
  rule : Nat
  beta1 : Word
  beta2 : Word
  epsilon : Word
  decay : Word
  bf16Copies : Bool
  entries : List UpdEntry
deriving DecidableEq, Repr

/-- A port allocation entry (R42). -/
structure PortAlloc where
  peer : Nat
  count : Nat
  kind : Nat
deriving DecidableEq, Repr

/-- An expected-peer entry (R43). -/
structure Peer where
  module : Nat := 0
  port : Nat := 0
  inUse : Bool := false
deriving DecidableEq, Repr

/-- A ring plan (R44): its identity, direction and members (module, die). -/
structure RingPlan where
  ident : Nat
  direction : Nat
  members : List (Nat × Nat)
deriving DecidableEq, Repr

/-- The cadence section (R45), with the period in ns. -/
structure Cadence where
  period : Nat := 4000
  timeSource : Nat := 0xFF
  phase : Nat := 0
  stallLimit : Nat := 250000
deriving DecidableEq, Repr

/-- The power policy section (R46). -/
structure Policy where
  floor : Nat := 400
  ceiling : Nat := 1600
  deepest : Nat := 3
  forecast : Bool := false
deriving DecidableEq, Repr

/-- The service section (R47). -/
structure Service where
  breeze : Bool := false
  fennel : Nat := 0
  breezeRate : Nat := 0
deriving DecidableEq, Repr

/-- A job image (R30 to R47): its sections parsed, and their bytes by section type for the comparison
of R53. -/
structure JobImage where
  epoch : Nat
  digest : List Byte
  commitTick : Nat
  regions : List Region
  mapout : List Half
  upd : UpdSection
  alloc : List PortAlloc
  peers : List Peer
  rings : List RingPlan
  cadence : Cadence
  policy : Policy
  service : Service
  sections : List (Nat × List Byte)
deriving DecidableEq, Repr

/-! ## Command records, steps and the sequencer (03) -/

/-- A command record (R78, Table 03.3). -/
structure Record where
  opcode : Nat
  unit : Nat
  flags : Nat
  slot : Nat
  span : Nat
  res07 : Nat
  waitEv : Nat
  signalEv : Nat
  waitValue : Nat
  count : Nat
  ops : List Word
  subst : Nat
  res3e : Nat
deriving DecidableEq, Repr

/-- How far a record of a begun step has come (R81, R88): not yet started, running, completed, or never
to start (an alternate not chosen, an aborted or stopped record). -/
inductive Phase
  | waiting | running | done | never
deriving DecidableEq, Repr

/-- A record of a begun step: its words after substitution (R79), whether its operation has been
carried out, the statuses it has met, the first failing memory address, whether it has slipped (R83),
whether an operation that waits has begun, the tick at which it became becalmed if it did, the
boundaries since input last arrived (R383), and what it took when it started: the image then in force (R55), the
frozen bits of an update record (R261), a GATHER's indices, none where their line failed, and whether one did (R185),
and a CVT's scale (R191). `pick` is the alternate a CHOICE took at its slot's boundary (R87), `decided` says that it has
been carried out, and `signalled` that the record's signal_ev has been raised (R81, R92). -/
structure RecState where
  record : Record
  cycles : Nat
  phase : Phase := .waiting
  words : List Word := []
  executed : Bool := false
  lost : Bool := false
  skipped : Bool := false
  lineBad : Bool := false
  frozen : Bool := false
  slipped : Bool := false
  badAddr : Option Nat := none
  begun : Bool := false
  becalmed : Option Nat := none
  idle : Nat := 0
  freeze : List Nat := []
  image : Option JobImage := none
  index : List (Option Nat) := []
  indexBad : Bool := false
  scaleExp : Int := 0
  pick : Option Nat := none
  decided : Bool := false
  signalled : Bool := false
deriving DecidableEq, Repr

/-- A replay range (R91): its partition addresses and the commands that recompute it, those after the REPLAY
record. It is open once that record has completed. -/
structure ReplayRange where
  base : Nat
  length : Nat
  first : Nat
  records : Nat
deriving DecidableEq, Repr

/-- A begun step on one die: its records in order, and its open replay ranges. `late` is the first
slip's latch of the step (R83). -/
structure StepRun where
  step : Nat
  startTick : Nat
  ticks : Nat
  closing : Bool
  recs : List RecState
  ranges : List ReplayRange := []
  slipLatched : Bool := false
deriving DecidableEq, Repr

/-- A replay (R92): the failed record's step and command, its failing address, and the records, by step and
command, still to be run again, the failed record last. -/
structure ReplayRun where
  step : Nat
  cmd : Nat
  addr : Nat
  todo : List (Nat × Nat)
  draining : Bool
deriving DecidableEq, Repr

/-- A completion log entry (Table 03.8). -/
structure LogEntry where
  step : Nat
  cmd : Nat
  unit : Nat
  status : Nat
  late : Nat
deriving DecidableEq, Repr

/-- The sequencer of a compute die (R77, R80, R90, Table 03.13): s0 to s55, both event banks, the begun
steps, the replays, that in progress first, and its counters and log. -/
structure Seq where
  sregs : List DWord := List.replicate 56 0
  ev : List Nat := List.replicate 128 0
  steps : List StepRun := []
  replays : List ReplayRun := []
  lastStatus : Nat := 0
  lastChoice : Nat := 0
  free : Nat := 0x8000
  slip : Nat := 0
  slipFirst : Nat := 0
  slipStep : Nat := 0
  slipInfo : Word := 0
  log : Ring LogEntry := {}
deriving DecidableEq, Repr

/-! ## Engines of a compute die (05, 06, 07, 09, 21) -/

/-- An accumulator pair (R130): binary32 hi and lo. -/
structure Pair where
  hi : Word := 0
  lo : Word := 0
deriving DecidableEq, Repr

/-- A tile (R130, R146): the pairs that are not (+0, +0), by element index m × 256 + n rising, its
chunk counter, and whether it is clear for R405. -/
structure Tile where
  pairs : List (Nat × Pair) := []
  chunks : Nat := 0
  clear : Bool := true
deriving DecidableEq, Repr

/-- The first-event record of a matrix engine (R156 to R158). -/
structure FirstEvent where
  valid : Bool := false
  kind : Nat := 0
  step : Nat := 0
  cmd : Nat := 0
  pos : Word := 0
  chunk : Nat := 0
  k : Nat := 0
  a : Word := 0
  b : Word := 0
  scale : Word := 0
deriving DecidableEq, Repr

/-- A matrix engine (R130, R158): four tiles, flags, first-event record, records completed, and the
counts Fennel keeps for it (R491). -/
structure Mxe where
  tiles : List Tile := List.replicate 4 {}
  flags : Flags := {}
  fe : FirstEvent := {}
  records : Nat := 0
  fnCount : Nat := 0
  fnSelected : Nat := 0
deriving DecidableEq, Repr

/-- The vector engine's registers (R179). -/
structure Vxe where
  flags : Flags := {}
  records : Nat := 0
  conflict : Nat := 0
  tileWait : Nat := 0
deriving DecidableEq, Repr

/-- The gather engine's registers (Table 07.12), and the hubs of the line reads that wait because 2048 are
outstanding (R187). -/
structure Gxe where
  flags : Flags := {}
  records : Nat := 0
  outstanding : Nat := 0
  toIssue : List Nat := []
  oorValid : Bool := false
  oorStep : Nat := 0
  oorCmd : Nat := 0
  oorElem : Nat := 0
  oorIndex : Word := 0
  badValid : Bool := false
  badAddr : Nat := 0
  badCount : Nat := 0
deriving DecidableEq, Repr

/-- A per-tensor table entry (R192, Table 07.7). -/
structure CveEntry where
  scaleExp : Int := 0
  head : Nat := 0
  filled : Nat := 0
  stepAmax : Word := 0
  nonfinite : Nat := 0
  history : List Word := List.replicate 24 0
deriving DecidableEq, Repr

/-- A verdict as a die or update die holds it (R242, Table 09.6). -/
structure Verdict where
  step : Nat
  skip : Bool
  reason : Nat
  lexpUsed : Int
  clip : Word
  norm : Word
  nonfinite : Nat
  maxNorm : Word
  normSq64 : DWord
  clipped : Bool
deriving DecidableEq, Repr

/-- The conversion engine (R192, Table 07.13, Table 09.7): the table entries that are not zero, the
loss-scale set (LSC_LOAD, LSC_BOUNDS, LSC_POLICY, LSC_CTRL), the current exponent and clean count, and
the steps whose verdict's adjustment awaits a step boundary, each with the verdict's reason (R230). -/
structure Cve where
  flags : Flags := {}
  records : Nat := 0
  tileWait : Nat := 0
  table : List (Nat × CveEntry) := []
  set : PubSet := PubSet.ofValues [0, 0x1800, 0x7D0, 1]
  cur : Int := 0
  clean : Nat := 0
  lowers : Nat := 0
  raises : Nat := 0
  lastStep : Word := 0xFFFFFFFF
  adjusts : List (Nat × Nat) := []
deriving DecidableEq, Repr

/-- The two byte counters of a channel (R202): for parity 0 and 1, the step number held and the count. -/
structure Chan where
  step0 : Nat := 0
  count0 : Nat := 0
  step1 : Nat := 0
  count1 : Nat := 0
deriving DecidableEq, Repr

/-- The collective engine's registers (Table 07.14) and the step-word registers (Table 09.8). -/
structure Coe where
  records : Nat := 0
  inReject : Nat := 0
  outBytes : Nat := 0
  inBytes : Nat := 0
  chans : List Chan := List.replicate 64 {}
  numbers : List (Nat × Nat) := []
  swState : Nat := 0
  swStep : Word := 0xFFFFFFFF
  swVerdict : Word := 0
  swNorm : Word := 0
  swClip : Word := 0
  swApplied : Nat := 0
  swClipped : Nat := 0
  swSkipNf : Nat := 0
  swSkipOther : Nat := 0
  swLost : Nat := 0
deriving DecidableEq, Repr

/-- Pepper's registers (Table 07.15): the seed as written and as live. -/
structure Pepper where
  records : Nat := 0
  seed : List Word := List.replicate 4 0
  live : List Word := List.replicate 4 0
deriving DecidableEq, Repr

/-- A Fennel divergence record (Table 21.5). -/
structure FennelRec where
  time : Nat
  step : Nat
  cmd : Nat
  engine : Nat
  tile : Nat
  row : Nat
  column : Nat
  chunks : Nat
  after : Pair
  before : Pair
  reference : DWord
  tolerance : DWord
  difference : DWord
deriving DecidableEq, Repr

/-- A dyadic number man × 2^exp, the exact value of a finite operand. -/
structure Dyadic where
  man : Int
  exp : Int
deriving DecidableEq, Repr

/-- What Fennel holds of a sample in progress (R492): the record, the row, the pairs before and after,
the exact products by column (none where one is a NaN or an infinity) and the chunk counter before. -/
structure FennelSample where
  ref : RecRef
  engine : Nat
  tile : Nat
  row : Nat
  k : Nat
  before : List Pair
  after : List Pair
  products : List (Option (List Dyadic))
  chunksBefore : Nat
  chunksAfter : Nat
deriving DecidableEq, Repr

/-- Fennel's registers (Table 21.6) and its sample. -/
structure Fennel where
  rate : Nat := 0
  checked : Nat := 0
  busy : Nat := 0
  exempt : Nat := 0
  diverge : Nat := 0
  divergeSamples : Nat := 0
  log : Ring FennelRec := {}
  sample : Option FennelSample := none
deriving DecidableEq, Repr

/-- The scratchpad (R285) with its check registers (R310, Table 12.6). -/
structure Scratch where
  store : LineStore := {}
  recovered : Nat := 0
  badCount : Nat := 0
  partials : Nat := 0
  log : Ring FaultRec := {}
deriving DecidableEq, Repr

/-- The engines of a compute die. -/
structure Engines where
  mxe : List Mxe := List.replicate 10 {}
  vxe : Vxe := {}
  txeRecords : Nat := 0
  gxe : Gxe := {}
  cve : Cve := {}
  coe : Coe := {}
  pepper : Pepper := {}
  fennel : Fennel := {}
deriving DecidableEq, Repr

/-- The power side of a compute die (R416, R417): its blocks by block index, its four rail segments,
and its header and squall log. -/
structure DiePower where
  blocks : List (Nat × PwrBlock) :=
    ((List.range 17) ++ [0x18] ++ (List.range 16).map (· + 0x20)).map fun i => (i, {})
  segs : List Segment :=
    [{ limit := 0x320 }, { limit := 0x320 }, { limit := 0x1E0 }, { limit := 0x190 }]
  head : Word := 0
  forecast : Nat := 0
  log : Ring SquallRec := {}
deriving DecidableEq, Repr

/-- A compute die. -/
structure Cd where
  seq : Seq := {}
  eng : Engines := {}
  scratch : Scratch := {}
  pwr : DiePower := {}
deriving DecidableEq, Repr

/-! ## Stack hubs (08, 11, 12) -/

/-- An ACCUM element on its way to a cell (R206): the region and byte offset of its element, its
format code and bits, its sender, step, ordinal and element position, and the record that sent it
when the sender is this module. -/
structure Arrival where
  part : Nat
  region : Nat
  offset : Nat
  format : Nat
  bits : Word
  srcModule : Nat
  srcDie : Nat
  step : Nat
  ordinal : Nat
  pos : Nat
  sender : Option RecRef := none
deriving DecidableEq, Repr

/-- A cell of an open granule (R208, R211, R217): the pair of modes 1 and 2, mode 2's raw arrivals,
mode 3's N and counters, mode 4's value. -/
structure RedCell where
  count : Nat := 0
  pair : Pair := {}
  raw : List Arrival := []
  n : Int := 0
  posInf : Nat := 0
  negInf : Nat := 0
  nan : Nat := 0
  value : Word := 0
deriving DecidableEq, Repr

/-- An open granule (R207): its region and index, step, landing format and mode, its cells, its cell
space and the tick of its last arrival. -/
structure Granule where
  part : Nat
  region : Nat
  index : Nat
  step : Nat
  format : Nat
  mode : Nat
  contributions : Nat
  cells : List (Nat × RedCell) := []
  space : Nat
  lastTick : Nat
deriving DecidableEq, Repr

/-- How a granule last closed (R209). -/
structure Closed where
  part : Nat
  region : Nat
  index : Nat
  step : Nat
  completed : Bool
deriving DecidableEq, Repr

/-- The hub's NV record (R219, Table 08.6). -/
structure NvRec where
  valid : Bool := false
  kind : Nat := 0
  addr : Nat := 0
  sender : Word := 0
  ordinal : Nat := 0
  step : Nat := 0
  value : Word := 0
deriving DecidableEq, Repr

/-- A hub's reduction state (R222): registers, open granules, closing records (R209), the closings of the steps whose
records may still wait on them (R24), arrivals on their way in, and arrivals held under R209 in the order in which they
began to wait. -/
structure Reduce where
  flags : Flags := {}
  cellFree : Nat := 0x02000000
  reserved : Bool := false
  complete : Nat := 0
  excess : Nat := 0
  stale : Nat := 0
  discard : Nat := 0
  nv : NvRec := {}
  granules : List Granule := []
  closed : List Closed := []
  history : List Closed := []
  inFlight : List Arrival := []
  held : List Arrival := []
deriving DecidableEq, Repr

/-- A line in the shared cache (R278): its stack-local line number, way, data, stored check, whether
it is dirty, and whether its next read fails once. -/
structure CacheLine where
  line : Nat
  way : Nat
  dirty : Bool
  data : List Byte
  check : Half
  glitch : Bool := false
deriving DecidableEq, Repr

/-- A hub's memory state (R287): the stack's bytes by physical place, the shared cache most recently
used first, the narrow queue and whether it has been full in the tick, and the registers. -/
structure HubMem where
  state : Nat := 0
  stack : LineStore := {}
  cache : List CacheLine := []
  chanUse : Half := 0xFFFF
  usable : Nat := 0x11F0000000
  interleaved : Nat := 0
  ways : Nat := 32
  writingBack : Bool := false
  clearing : Bool := false
  hits : Nat := 0
  misses : Nat := 0
  wideBytes : Nat := 0
  narrowReads : Nat := 0
  queue : List Nat := []
  waiting : List Nat := []
  lastDie : Nat := 15
  highWater : Nat := 0
  narrowWasFull : Bool := false
  narrowFull : Nat := 0
  linkRetry : Nat := 0
  temp : Word := 0
  trainMs : Nat := 0
  trainFail : Half := 0
deriving DecidableEq, Repr

/-- A retire table entry (R299, Table 12.3). -/
structure RetEntry where
  spare : Nat := 0
  valid : Bool := false
  q : Nat := 0
  granule : Nat := 0
deriving DecidableEq, Repr

/-- A hub's line-check state (R309): counters and log, the register scrub pass (`scrSpan` holds the base and
lines with which it began), Breeze (set members
BRZ_FIRST, BRZ_LAST, BRZ_RATE, BRZ_CTRL; repairs held under R307) and the retire table's entries that
are not zero, with the one being put in force. -/
structure LineCheck where
  recovered : Nat := 0
  badCount : Nat := 0
  partials : Nat := 0
  log : Ring FaultRec := {}
  scrBase : Nat := 0
  scrLines : Nat := 0
  scrRunning : Bool := false
  scrSpan : Nat × Nat := (0, 0)
  scrDone : Nat := 0
  scrFound : Nat := 0
  brz : PubSet := PubSet.ofValues [0, 0x11EFFFFFC0, 0, 0]
  brzPos : Nat := 0
  brzPasses : Nat := 0
  brzRepaired : Nat := 0
  brzUnrepaired : Nat := 0
  brzUs : Nat := 0
  brzInUs : Nat := 0
  brzHeld : List Nat := []
  ret : List (Nat × RetEntry) := []
  retPending : Option (Nat × RetEntry) := none
  retRefused : Nat := 0
deriving DecidableEq, Repr

/-- A stack with its hub. -/
structure Hub where
  red : Reduce := {}
  mem : HubMem := {}
  chk : LineCheck := {}
  pwr : PwrBlock := { set := PubSet.ofValues [0x190, 0x640, 0] }
deriving DecidableEq, Repr

/-! ## Update dies (10) -/

/-- A share an update die sends to the lead die (R254): its norm² partial in units of 2^-448, the
norm-overflow bit, the non-finite count, the input-lost bit and the master amax it contributes. -/
structure Share where
  normSq : Nat := 0
  normOvf : Bool := false
  nonfinite : Nat := 0
  inputLost : Bool := false
  amax : List Word := []
deriving DecidableEq, Repr

/-- An update die (R264): registers, the region control set (UD_FREEZE0 to UD_FREEZE127, then
UD_REGION_CTRL), pending master amax and recorded wc_scale where not at their reset values, the share
being formed, the non-finite values that the last applied UPDATE left and its step (R257), the tensors whose pending amax
has been written since the last USHARE (R258), and the verdicts its hub holds, each with the step it is the verdict
of. -/
structure Ud where
  flags : Flags := {}
  records : Nat := 0
  frozenSkip : Nat := 0
  stepSkip : Nat := 0
  masterNf : Nat := 0
  params : Nat := 0
  lastStep : Word := 0xFFFFFFFF
  set : PubSet := PubSet.ofValues (List.replicate 129 0)
  pendAmax : List (Nat × Word) := []
  pendFresh : List Nat := []
  wcScale : List (Nat × Int) := []
  share : Share := {}
  nextNf : Nat := 0
  nextNfStep : Option Nat := none
  verdicts : List (Nat × Verdict) := []
  pwr : PwrBlock := { set := PubSet.ofValues [0x190, 0x640, 3] }
deriving DecidableEq, Repr

/-! ## Links, rings and lasers (13, 14), ports' arbiters (15) -/

/-- A receive lane (Table 13.10, R331, R332): its state of Table 13.6, held causes of withdrawal as a
mask by cause number, whether it has been withdrawn and has not qualified since, the corrected symbols of each of the
last 64 identity frames that passed in a row, newest first, and of the time since, the last 58 scrambled bits received
(R315), tries, and its register counters. -/
structure RxLane where
  state : Nat := 0
  cause : Nat := 0
  causes : Nat := 0
  asked : Bool := false
  hist : List Nat := []
  runCorrected : Nat := 0
  descr : Nat := 0
  tries : Nat := 0
  lastWave : Nat := 0
  corrected : Nat := 0
  uncorr : Nat := 0
  uncorrMs : Nat := 0
  msStart : Nat := 0
  idBad : Nat := 0
  lostAt : Option Nat := none
  admits : Nat := 0
  positions : Nat := 0
deriving DecidableEq, Repr

/-- A transmit lane: in service, held causes of withdrawal, frames since alignment (R316), the last 58 scrambled bits
sent (R315), the last sequence sent on it (R323), whether the far end has been told it is withdrawn, and its
admissions. The cause of its last withdrawal reads in the lane's one LN_CAUSE. -/
structure TxLane where
  inService : Bool := false
  causes : Nat := 0
  frame : Nat := 0
  scr : Nat := 0
  lastSeq : Nat := 0
  done : Bool := false
  admits : Nat := 0
deriving DecidableEq, Repr

/-- A ring resonator (Table 14.8): its state, assigned line, order, expected laser, heater power in
1/256 mW, the settings the search found by line, the setting it is assigned, and its counters. -/
structure RingRes where
  state : Nat := 0
  line : Nat := 0xF
  order : Bool := false
  expect : Nat := 0
  heater : Int := 0
  detune : Int := 0
  detunes : List Int := []
  tone : Nat := 0xF
  windows : Nat := 0
  ffCoef : Int := 0
  relocks : Nat := 0
  hops : Nat := 0
  unlocks : Nat := 0
  nameless : Nat := 0
  dips : List (Nat × Nat) := []
  setting : Int := 0
deriving DecidableEq, Repr

/-- A sequenced frame in the replay buffer (R324): its sequence, map and flits, the messages it
carries with the offset after its last byte of each, its place in the order in which frames were last sent, times
resent, and whether a NAK or the 20 µs
limit has called for it again. -/
structure SentFrame where
  seq : Nat
  map : Nat
  flits : List (List Byte)
  msgs : List (Nat × Nat)
  sent : Nat := 0
  resends : Nat := 0
  again : Bool := false
deriving DecidableEq, Repr

/-- A received sequenced frame held for its turn (R322), and whether it has been counted as held back
(R378). -/
structure HeldFrame where
  seq : Nat
  epoch : Nat
  map : Nat
  flits : List (List Byte)
  stuck : Bool := false
deriving DecidableEq, Repr

/-- A request at an egress arbiter (R371 to R374): a message by its identity, and since when. -/
structure Request where
  msg : Nat
  parked : Bool := false
  eligible : Bool := true
deriving DecidableEq, Repr

/-- The arbiter's flag record (R375). -/
structure ArbFlag where
  valid : Bool := false
  cut : Bool := false
  step : Nat := 0
  cmd : Nat := 0
  src : Word := 0
  msg : Nat := 0
deriving DecidableEq, Repr

/-- A port's egress arbiter and peer status (R371 to R376, Table 15.3). The set's members are
ARB_GRANT_MAX, ARB_PARK_MAX and ARB_CTRL; `grant` is the ARB_GRANT_MAX under which the holder was granted. -/
structure Arbiter where
  set : PubSet := PubSet.ofValues [0x60, 8, 1]
  requests : List Request := []
  holder : Option Nat := none
  grant : Nat := 0x60
  sent : Nat := 0
  needHead : Bool := false
  lastDie : Nat := 15
  grants : Nat := 0
  cutoffs : Nat := 0
  stalls : Nat := 0
  flag : ArbFlag := {}
  peer : Nat := 0
  peerDrop : Nat := 0
  peerChanges : Nat := 0
  crossedAlerted : Bool := false
deriving DecidableEq, Repr

/-- What identifies a message at its receiver (R377): sending module and die, destination module and number. -/
structure MsgKey where
  srcModule : Nat
  srcDie : Nat
  dstModule : Nat
  number : Nat
deriving DecidableEq, Repr

/-- A TIME exchange on a port (R337): requests waiting to be answered, TIME flits waiting to be sent,
and the serial and departure of each request that no response has answered, the last first. -/
structure TimeLink where
  toAnswer : List (Nat × Nat × Nat) := []
  serial : Nat := 0
  departed : List (Nat × Nat) := []
deriving DecidableEq, Repr

/-- A Nurok port's link state (R322 to R334, Table 13.9). Light states: 0 dark, 1 probing, 2 lit,
3 up (Table 13.5). `searching` is the 200 ms search of a retrain (R343), `sends` the count of sequenced frames sent and
resent, `named` the missing sequences that a LINK flit has named, `lastSent` the last frame sent with its lane, and
`lastLine` its levels on the line (R314). -/
structure Link where
  light : Nat := 0
  ctrl : Word := 0
  laneHold : Word := 0
  far : Option (Nat × Nat) := none
  epochFar : Nat := 0
  farService : Byte := 0
  farDone : Byte := 0
  txSeq : Nat := 0
  rxSeq : Nat := 0
  txFrames : Nat := 0
  rxFrames : Nat := 0
  replays : Nat := 0
  crcDrop : Nat := 0
  dupDrop : Nat := 0
  epochDrop : Nat := 0
  downs : Nat := 0
  withdraws : Nat := 0
  rtt : Nat := 0
  timeAsym : Word := 0
  buffer : List SentFrame := []
  held : List HeldFrame := []
  naks : List Nat := []
  control : List (List Byte) := []
  time : TimeLink := {}
  current : Option MsgKey := none
  currentOff : Nat := 0
  probes : Nat := 0
  searching : Bool := false
  sends : Nat := 0
  named : List Nat := []
  lastSent : Option (Nat × List Byte) := none
  lastLine : List Byte := []
deriving DecidableEq, Repr

/-- A fabric port (R311): its link, lanes, rings (transmit 0 to 7, receive 8 to 15), shifts and
arbiter. -/
structure Port where
  link : Link := {}
  rx : List RxLane := List.replicate 8 {}
  tx : List TxLane := List.replicate 8 {}
  rings : List RingRes := List.replicate 16 {}
  txShift : Nat := 0
  rxShift : Nat := 0
  adopted : Bool := false
  searchMs : Nat := 0
  ringsFailed : Nat := 0
  arb : Arbiter := {}
deriving DecidableEq, Repr

/-- A laser (Table 14.10). States: 0 off, 1 standby, 2 warming, 3 serving, 4 spent. -/
structure Laser where
  state : Nat := 0
  line : Nat := 0xF
  warned : Bool := false
  noSpare : Bool := false
  queued : Bool := false
  bias : Nat := 0
  drive : Nat := 0
  power : Int := 0
  target : Int := 0x7D0
  swapsIn : Nat := 0
deriving DecidableEq, Repr

/-- A swap in progress (R357): the line, outgoing and incoming laser, and the step reached. -/
structure Swap where
  line : Nat
  old : Nat
  new : Nat
  stage : Nat
deriving DecidableEq, Repr

/-- A light engine (Table 14.11). `queue` holds the lines that wait for a swap with the times at which
their conditions arose (R359). -/
structure Le where
  optState : Nat := 0
  phase : Nat := 0
  searchMs : Nat := 0
  lasers : List Laser := List.replicate 10 {}
  swap : Option Swap := none
  queue : List (Nat × Nat) := []
  spares : Nat := 3
  removed : Byte := 0
  ffCtrl : Word := 0x2801
  ffLast0 : Nat := 0
  ffLast1 : Nat := 0
  ffNow0 : Nat := 0
  ffNow1 : Nat := 0
  relocks : Nat := 0
  denied : Nat := 0
  pwr : PwrBlock := { set := PubSet.ofValues [0x190, 0x640, 0] }
deriving DecidableEq, Repr

/-! ## Frame images, loaders, streams and partitions (02, 03, 09, 15, 17) -/

/-- A frame image (R33). -/
structure FrameImage where
  digest : List Byte
  commitTick : Nat
  entries : List FrameEntry
deriving DecidableEq, Repr

/-- A block of loader registers (Table 02.9) without its state-dependent fields. -/
structure Loader where
  state : Nat := 0
  reason : Nat := 0
  faultSection : Nat := 0xFFFF
  faultOffset : Nat := 0
  commitTick : Nat := 0
  pendingTick : Nat := 0
  digest : List Byte := List.replicate 48 0
  refusals : Nat := 0
  commits : Nat := 0
deriving DecidableEq, Repr

/-- One die's part of a segment (Table 03.2): its records and their cycles. -/
structure SegDie where
  die : Nat
  records : List Record
  cycles : List Nat
  scratchPeak : Nat
  unitMask : Nat
  accMask : Nat
deriving DecidableEq, Repr

/-- A checked segment (R75) with the lead die fixed when it was checked (R237). -/
structure SegmentImg where
  opening : Bool
  closing : Bool
  step : Nat
  startTick : Nat
  ticks : Nat
  dieMask : Nat
  dies : List SegDie
  lead : Option Nat
deriving DecidableEq, Repr

/-- A partition's stream (R82 to R85, R517, Table 03.12). `width` holds the landing width each class 4
region took from its first ACCUM (R274), and `begun` the segments of the begun steps (R98). -/
structure Stream where
  state : Nat := 0
  step : Nat := 0xFFFFFFFF
  queued : List SegmentImg := []
  begun : List SegmentImg := []
  lastStep : Nat := 0
  started : Bool := false
  stepStart : Nat := 0
  stepTicks : Nat := 0
  closing : Bool := false
  stopReq : Bool := false
  abortReq : Bool := false
  width : List (Nat × Nat) := []
  reason : Nat := 0
  faultDie : Nat := 0
  faultRecord : Nat := 0
  faultOffset : Nat := 0
  slip : Nat := 0
  stepLate : Nat := 0
  starve : Nat := 0
  choices : List Nat := [0, 0, 0, 0]
  replays : Nat := 0
  refusals : Nat := 0
  accepted : Nat := 0
deriving DecidableEq, Repr

/-- A partition's time discipline (R69 to R71). Offsets are in 1/16 ns: `offset` is the one of module time
`since`, and `rate` what 10 µs then add to it. -/
structure Discipline where
  sync : Nat := 0
  offset : Int := 0
  rate : Int := 0
  err : Int := 0
  run : Nat := 0
  since : Nat := 0
  reacquiring : Bool := false
  returned : Bool := false
  tick : Nat := 0
deriving DecidableEq, Repr

/-- A step control word (Table 09.2). -/
structure StepWordVal where
  stepMin : Nat
  stepMax : Nat
  lexpMin : Int
  lexpMax : Int
  mismatch : Bool
  normOvf : Bool
  inputLost : Bool
  cfgMin : Nat
  cfgMax : Nat
  nonfinite : Nat
  normSq : Nat
  amax : List Word
deriving DecidableEq, Repr

/-- The gathering of one step's control word in a partition (R238 to R241): its ring and lead die, the
compute dies and update dies that are to contribute, the contributions by die with the command of its
STEPWORD, the shares, the words that have come over the ring, how many have been sent on, the module's
word once formed, and the combined word. -/
structure Gather where
  step : Nat
  ring : Nat := 0xFF
  members : List (Nat × Nat) := []
  lead : Option Nat := none
  mask : Nat := 0
  dies : List (Nat × Nat × StepWordVal) := []
  shares : List (Nat × Share) := []
  inbox : List StepWordVal := []
  sent : Nat := 0
  moduleWord : Option StepWordVal := none
  combined : Option StepWordVal := none
deriving DecidableEq, Repr

/-- A message at a sending COE (R365, Table 13.3): what its HEAD says, its data, the record that sends
it, how far it has been sent and acknowledged, its port while it is bound, and the port it last sent
flits on. -/
structure OutMsg where
  ident : Nat
  kind : Nat
  ref : RecRef
  dstModule : Nat
  dstDie : Nat
  channel : Nat
  format : Nat
  number : Nat
  ordinal : Nat
  ring : Nat
  region : Nat
  offset : Nat
  data : List Byte
  sent : Nat := 0
  acked : Nat := 0
  port : Option Nat := none
  last : Option Nat := none
  idle : Nat := 0
deriving DecidableEq, Repr

/-- A HEAD flit (Table 13.3). -/
structure Head where
  message : Nat
  srcModule : Nat
  srcDie : Nat
  dstDie : Nat
  dstModule : Nat
  channel : Nat
  format : Nat
  step : Nat
  number : Nat
  length : Nat
  resume : Nat
  ordinal : Nat
  ring : Nat
  region : Nat
  offset : Nat
deriving DecidableEq, Repr

/-- A partial message in the receive table (R377): its HEAD, high-water mark, boundaries since its
last arrival, and the bytes of a STEPWORD or ACCUM kept until they take effect. -/
structure InMsg where
  head : Head
  hwm : Nat := 0
  idle : Nat := 0
  data : List Byte := []
deriving DecidableEq, Repr

/-- A message crossing the panel mesh inside the module (R201, R202): a PUT or RINGAG shard with the
message offsets of the lines that failed at their source, or an update die's share. -/
inductive MeshMsg
  | put (ref : RecRef) (dst channel region offset : Nat) (data : List Byte) (skip : List Nat)
  | shard (ref : RecRef) (dst ring region offset : Nat) (data : List Byte) (skip : List Nat)
      (empty : Bool)
  | share (ud step : Nat) (sh : Share)
deriving DecidableEq, Repr

/-- A RINGAG in progress on a die (R201, R393): the members and direction of its plan as they stood when the record
started (R55), its die's position, the positions counted, those counted empty, and whether the ring is broken at this
member (R392). -/
structure RingProgress where
  ref : RecRef
  ring : Nat
  count : Nat
  region : Nat
  offset : Nat
  pos : Nat
  members : List (Nat × Nat)
  both : Bool
  got : List Nat
  empty : List Nat := []
  broken : Bool := false
deriving DecidableEq, Repr

/-- A shard that has arrived before the RINGAG that counts it has started. -/
structure EarlyShard where
  die : Nat
  step : Nat
  ring : Nat
  region : Nat
  offset : Nat
  empty : Bool
deriving DecidableEq, Repr

/-- A partition's fabric state (R377 to R396, Table 15.4). `gone` holds the messages completed or discarded, the flag
being set for one discarded whose sender has not been told; `forwarded` the rings (step, ring, region) whose empty shards
have gone past a die that has been cut out; `reports` what the receivers have reported to senders, newest first: that
every byte of a PUT is written, or, with the flag, that a message was discarded (R201, R384). -/
structure Fabric where
  msgs : List OutMsg := []
  nextMsg : Nat := 0
  mesh : List MeshMsg := []
  table : List InMsg := []
  gone : List (MsgKey × Bool) := []
  rings : List RingProgress := []
  early : List EarlyShard := []
  forwarded : List (Nat × Nat × Nat) := []
  reports : List (MsgKey × Bool) := []
  modulesOut : List Nat := []
  becalmTotal : Nat := 0
  lost : Nat := 0
  discarded : Nat := 0
  stale : Nat := 0
  dup : Nat := 0
  heldCount : Nat := 0
  ringsBroken : List Nat := []
  lostStep : Word := 0xFFFFFFFF
deriving DecidableEq, Repr

/-- A partition (R433): its frame entry, loader block, images, time, stream, fabric and step-word
state, and its reset registers (Table 17.8). -/
structure Part where
  present : Bool := false
  frame : FrameEntry := {}
  loader : Loader := {}
  pendingImg : Option JobImage := none
  active : Option JobImage := none
  disc : Discipline := {}
  stream : Stream := {}
  gathers : List Gather := []
  fab : Fabric := {}
  resetting : Bool := false
  resetStep : Nat := 0
  resets : Nat := 0
  resetMs : Nat := 0
  meshReject : Nat := 0
deriving DecidableEq, Repr

/-! ## Baith ports (17) -/

/-- A Baith block (Table 17.1) as accepted or as it waits to be sent. -/
structure Block where
  kind : Nat
  more : Bool
  seq : Nat
  tag : Nat
  payload : List Byte
deriving DecidableEq, Repr

/-- An open transfer (R429): its type, its bytes so far, and the sequence and tag of its last block. -/
structure Transfer where
  kind : Nat
  bytes : List Byte
  seq : Nat
  tag : Nat
deriving DecidableEq, Repr

/-- Something the module tells a host by telemetry or as an alert. -/
inductive Telem
  | completion (r : RecRef) (unit status late : Nat)
  | segmentBytes (step die : Nat) (bytes : List (Nat × Nat))
  | fault (f : FaultRec)
  | squall (d : Nat) (q : SquallRec)
  | fennel (d : Nat) (f : FennelRec)
  | stepWord (d : Nat) (regs : List Nat)
  | partitionResetDone (p : Nat)
  | alertTime
  | alertAbandoned (r : RecRef) (unit addr : Nat)
  | alertInputLost (r : RecRef)
  | alertGranule (region index arrived expected : Nat)
  | alertMessage (srcModule srcDie number hwm : Nat)
  | alertVerdict (step reason fields : Nat)
  | alertPortDown (n cause : Nat)
  | alertPeerDark (n : Nat)
  | alertPeer (n expModule expPort farModule farPort : Nat)
  | alertStall (n step die cmd msg : Nat)
  | alertLaser (le laser kind : Nat)
  | alertCut (window cause : Nat)
  | alertRingBroken (ring : Nat)
  | alertHot (window : Nat)
deriving DecidableEq, Repr

/-- A Baith port (R418 to R428, Table 17.7). Light states as Table 13.5. `inbound` holds accepted requests and whole
transfers, oldest first; `transfers` the open transfers, at most one of a type (R429); `part` the bytes received of a block that is
not whole yet; `heldTelem` the telemetry held while the outbound buffer is full (R424); `outQueue` what waits to be sent, `unacked` what has been sent and not yet acknowledged;
`unitsIn` and `unitsOut` are the units of credit that blocks have used; `wire` is what was last put on the line. -/
structure Baith where
  light : Nat := 0
  silent : Bool := false
  rxNext : Nat := 0
  txNext : Nat := 0
  txAcked : Nat := 0
  creditOut : Nat := 0x400
  creditIn : Nat := 0
  unitsIn : Nat := 0
  unitsOut : Nat := 0
  truncated : Nat := 0
  hunt : Nat := 0
  seqDrop : Nat := 0
  crcDrop : Nat := 0
  creditDrop : Nat := 0
  resent : Nat := 0
  telemDrop : Nat := 0
  denied : Nat := 0
  inBytes : Nat := 0
  outBytes : Nat := 0
  transfers : List Transfer := []
  part : List Byte := []
  inbound : List Block := []
  outQueue : List Block := []
  unacked : List Block := []
  telemetry : List Telem := []
  heldTelem : List Telem := []
  keepAlives : Nat := 0
  sentBlock : Bool := false
  gotBlock : Bool := false
  wire : List Byte := []
  probes : Nat := 0
deriving DecidableEq, Repr

/-! ## The control die (03, 18, 19, 20) -/

/-- The identity store in flash (R5, R348, R364, R446, R464): the part code of Table 18.4, revision and
serial number, each engine's I_sol by laser, ring calibrations, and the two certificates. -/
structure IdentStore where
  part : Nat := 0
  revision : Nat := 0xFF
  serial : DWord := 0xFFFFFFFFFFFFFFFF
  sol : List (Nat × Nat) := []
  kappa : List (Nat × Int) := []
  rsaCert : List Byte := []
  slhCert : List Byte := []
deriving DecidableEq, Repr

/-- An attestation request waiting for its report (R466 to R468). -/
structure AttReq where
  port : Nat
  tag : Nat
  seq : Nat
  nonce : List Byte
deriving DecidableEq, Repr

/-- Facts of a firmware image that has been verified (R454, R469). -/
structure FwFacts where
  secVersion : Nat
  keyIndex : Nat
  keyFloor : Nat
  build : DWord
  measure : List Byte
deriving DecidableEq, Repr

/-- Firmware and attestation state (Table 19.5): the flash slot, an image held for writing, the image
that runs, and the attestation queue. -/
structure Firmware where
  state : Nat := 0
  result : Nat := 0
  fromTransfer : Bool := false
  slot : List Byte := []
  writing : Option (List Byte) := none
  running : Option FwFacts := none
  pending : Option FwFacts := none
  updates : Nat := 0
  rsaReady : Bool := false
  slhReady : Bool := false
  idFailed : Bool := false
  derived : Bool := false
  reports : Nat := 0
  queue : List AttReq := []
deriving DecidableEq, Repr

/-- The security page (R471): the stored security version and key floor, as the number of bits
cleared, in copies A and B. -/
structure SecurityPage where
  versionA : Nat := 0
  floorA : Nat := 0
  versionB : Nat := 0
  floorB : Nat := 0
deriving DecidableEq, Repr

/-- An event record (Table 20.2) with its payload bytes. -/
structure EventRec where
  seq : Nat
  boot : Nat
  time : Nat
  utc : Option Nat
  kind : Nat
  site : Nat
  partition : Nat
  payload : List Byte
deriving DecidableEq, Repr

/-- A laser map record (R472): for each engine, the laser serving each line, the spent lasers as a
mask and the removed lines. -/
structure MapRec where
  seq : Nat
  boot : Nat
  time : Nat
  engines : List (List Nat × Nat × Byte)
deriving DecidableEq, Repr

/-- Lifetime counters (R478, Table 20.4), with the entries of ports, lasers and rings that are not
zero. -/
structure Lifetime where
  powerS : Nat := 0
  powerOns : Nat := 0
  warm : Nat := 0
  cold : Nat := 0
  partResets : Nat := 0
  energyWh : Nat := 0
  hotS : Nat := 0
  squalls : Nat := 0
  lineBad : Nat := 0
  repaired : Nat := 0
  fwWrites : Nat := 0
  swaps : Nat := 0
  relocks : Nat := 0
  ports : List (Nat × (Nat × Nat × Nat)) := []
  lasers : List (Nat × (Nat × Nat × Nat × Nat)) := []
  rings : List (Nat × (Nat × Nat)) := []
deriving DecidableEq, Repr

/-- A lifetime snapshot (Table 20.4), with the bias, state and line of each laser when it was taken. -/
structure Snapshot where
  number : Nat
  boot : Nat
  time : Nat
  counters : Lifetime
  lasers : List (Nat × Nat × Nat) := []
deriving DecidableEq, Repr

/-- The logbook, error log and lifetime counters (20). The error log, the ring, the map records and the
snapshots are held newest first; `erases` holds the erase counts of the pages that are not zero. -/
structure Logbook where
  errors : Ring EventRec := {}
  ring : List EventRec := []
  seq : Nat := 0
  headSlot : Nat := 0
  boot : Nat := 0
  bucket : Nat := 0x400
  suppressed : Nat := 0
  span : Option (Nat × Nat × Nat) := none
  erasing : Bool := false
  flashFault : Bool := false
  erases : List (Nat × Nat) := []
  maps : List MapRec := []
  live : Lifetime := {}
  snapshots : List Snapshot := []
  writing : Option Snapshot := none
  snapNext : Nat := 0
  lastSnapCmd : Option Nat := none
deriving DecidableEq, Repr

/-- What the probe has found of a site (R445). -/
structure ProbeRec where
  site : Site
  answers : Bool
  lanes : Nat
deriving DecidableEq, Repr

/-- Module registers and start-up (Table 18.9, R441 to R449). `stage` is 0 while the input has not
reached 64 V, then the start-up stage of Table 18.2. `resetL` is the level of RESET_L, `pwrgd` and `stbyL` say
that PWRGD is released and that STBY_L is driven low. `level` is the module reset in progress, 1 warm or 2 cold,
until the module is ready again; `byPin` says that it waits for RESET_L, `counted` that it has been counted, and
`resetPending` holds the level and cause of a reset that waits for a flash write (R462). Ready times count from
`startAt`. -/
structure Module where
  state : Nat := 1
  stage : Nat := 0
  tripped : Bool := false
  resetL : Bool := true
  pwrgd : Bool := true
  stbyL : Bool := false
  cause : Nat := 0
  level : Nat := 0
  byPin : Bool := false
  counted : Bool := false
  resetPending : Option (Nat × Nat) := none
  startAt : Nat := 0
  stageAt : Nat := 0
  readyMs : Nat := 0
  verifyMs : Nat := 0
  trainMs : Nat := 0
  searchMs : Nat := 0
  warm : Nat := 0
  cold : Nat := 0
  alert : Nat := 0
  cutCd : Nat := 0
  cutStack : Nat := 0
  cutUd : Nat := 0
  cutLe : Nat := 0
  groups : Nat := 0
  probes : List ProbeRec := []
  descriptor : List Byte := []
  misses : List (Site × Nat) := []
deriving DecidableEq, Repr

/-- Module time and the UTC anchor (Table 03.11). -/
structure Clock where
  time : DWord := 0
  anchorMt : DWord := 0
  anchorUtc : DWord := 0
  baseMt : DWord := 0
  baseUtc : DWord := 0
  anchored : Bool := false
deriving DecidableEq, Repr

/-- The control die. -/
structure Ctrl where
  clock : Clock := {}
  module : Module := {}
  ident : IdentStore := {}
  fw : Firmware := {}
  sec : SecurityPage := {}
  log : Logbook := {}
  frameLoader : Loader := {}
  pendingFrame : Option FrameImage := none
  smbus : List Byte := []
  turn : Nat := 0
deriving DecidableEq, Repr

/-- The module: its dies, ports and partitions, the control die, the commands that wait, first in
first out, and the counter from which the free values of `Config` are drawn. -/
structure State where
  pending : List Instr := []
  free : Nat := 0
  ctrl : Ctrl := {}
  parts : List Part := List.replicate 4 {}
  baith : List Baith := List.replicate 4 {}
  cds : List Cd := List.replicate 16 {}
  hubs : List Hub := List.replicate 32 {}
  uds : List Ud := List.replicate 32 {}
  les : List Le := List.replicate 8 {}
  ports : List Port := List.replicate 128 {}
deriving DecidableEq, Repr

/-- Why the module's model stops. -/
inductive Fault
  /-- A command names a die, hub, port or other unit the family does not have (R1, R2): raised by any
  meaning whose operand is out of range. Safe: no such command exists on the hardware. -/
  | noSuchUnit
deriving DecidableEq, Repr

/-- Why a command is refused by the model. -/
inductive Refusal
  /-- The command has no meaning yet. Safe: nothing can be proved of it. -/
  | notModelled (mnemonic : String)
deriving DecidableEq, Repr

/-- The module at reset: every register at the reset value the spec states, or at the value the
assumption log names; memory lists nothing; no command waits. -/
def State.reset : State := {}

end Sys2Proof.Machine
end

