-- ==== Sys2Proof/Machine/Bits.lean ====
section
/-! DEFINITION. Bit fields, little-endian bytes and the saturating and wrapping counters of the
registers (00 R11). -/

namespace Sys2Proof.Machine

/-- Bits [hi:lo] of a word, as a number (R11). -/
def field (w : Word) (hi lo : Nat) : Nat := (w.toNat >>> lo) % 2 ^ (hi + 1 - lo)

/-- Bit i of a number. -/
def bit (n i : Nat) : Bool := n.testBit i

/-- 1 or 0. -/
def b2n (b : Bool) : Nat := if b then 1 else 0

/-- A counter of 32 bits that saturates, raised by n. -/
def satAdd (c n : Nat) : Nat := min (c + n) 0xFFFFFFFF

/-- A counter of 32 bits that saturates, raised by one. -/
def sat (c : Nat) : Nat := satAdd c 1

/-- A counter of 16 bits that saturates, raised by one. -/
def sat16 (c : Nat) : Nat := min (c + 1) 0xFFFF

/-- A counter modulo 2^32, raised by one. -/
def wrap32 (c : Nat) : Nat := (c + 1) % 2 ^ 32

/-- A counter modulo 2^64, raised by n. -/
def wrap64 (c n : Nat) : Nat := (c + n) % 2 ^ 64

/-- The signed value of the low n bits (n > 0) of a number. -/
def signed (n v : Nat) : Int :=
  let m := v % 2 ^ n
  if m < 2 ^ (n - 1) then (m : Int) else (m : Int) - (2 ^ n : Nat)

/-- The two's complement of an integer in n bits. -/
def twos (n : Nat) (v : Int) : Nat := (v % ((2 ^ n : Nat) : Int)).toNat

/-- An integer held within lo and hi. -/
def clampInt (lo hi v : Int) : Int := max lo (min hi v)

/-- The signed value of a 32-bit word. -/
def wordInt (w : Word) : Int := signed 32 w.toNat

/-- n bytes of v, least significant first (R11). -/
def leBytes : Nat → Nat → List Byte
  | 0, _ => []
  | n + 1, v => BitVec.ofNat 8 v :: leBytes n (v / 256)

/-- The number whose bytes, least significant first, these are. -/
def leNat : List Byte → Nat
  | [] => 0
  | b :: bs => b.toNat + 256 * leNat bs

/-- n bytes of v, most significant first (R31, R455). -/
def beBytes (n v : Nat) : List Byte := (leBytes n v).reverse

/-- n bytes at byte offset o; bytes past the end read as 0. -/
def slice (bs : List Byte) (o n : Nat) : List Byte :=
  let got := (bs.drop o).take n
  got ++ List.replicate (n - got.length) 0

/-- The little-endian field of n bytes at offset o. -/
def leAt (bs : List Byte) (o n : Nat) : Nat := leNat (slice bs o n)

/-- The 32-bit word at offset o. -/
def wordAt (bs : List Byte) (o : Nat) : Word := BitVec.ofNat 32 (leAt bs o 4)

/-- Whether every byte from offset o on, n of them, is zero. -/
def zeroAt (bs : List Byte) (o n : Nat) : Bool := (slice bs o n).all (· == 0)

/-- The bytes with the field at offset o replaced by `new`. -/
def patch (bs : List Byte) (o : Nat) (new : List Byte) : List Byte :=
  bs.take o ++ new ++ bs.drop (o + new.length)

/-- A list with its entry at i changed by f. -/
def modAt {α : Type} (l : List α) (i : Nat) (f : α → α) : List α :=
  match l, i with
  | [], _ => []
  | a :: as, 0 => f a :: as
  | a :: as, i + 1 => a :: modAt as i f

/-- The value that a table holds for key k, or d where it lists none. -/
def look {α : Type} (t : List (Nat × α)) (k : Nat) (d : α) : α :=
  match t with
  | [] => d
  | (j, a) :: r => if j == k then a else look r k d

/-- A table in canonical form (keys rising, no default listed) with k set to a. -/
def place {α : Type} [DecidableEq α] (t : List (Nat × α)) (k : Nat) (d a : α) : List (Nat × α) :=
  match t with
  | [] => if a = d then [] else [(k, a)]
  | (j, b) :: r =>
    if j < k then (j, b) :: place r k d a
    else if j = k then (if a = d then r else (k, a) :: r)
    else if a = d then (j, b) :: r else (k, a) :: (j, b) :: r

/-- x put into a list sorted by key, before the first larger key. -/
def insertBy {α : Type} (key : α → Nat) (x : α) : List α → List α
  | [] => [x]
  | y :: ys => if key x < key y then x :: y :: ys else y :: insertBy key x ys

/-- A list sorted by key, equal keys in their order. -/
def sortBy {α : Type} (key : α → Nat) (l : List α) : List α :=
  l.foldl (fun acc x => insertBy key x acc) []

/-- ceil(a / b). -/
def ceilDiv (a b : Nat) : Nat := (a + b - 1) / b

/-- Add a record to a ring of n slots that overwrites its oldest. -/
def Ring.push {α : Type} (r : Ring α) (n : Nat) (a : α) : Ring α :=
  { items := (a :: r.items).take n, head := (r.head + 1) % n, count := sat r.count }

/-- The record in slot i of a ring of n slots, if one has been written there. -/
def Ring.slot {α : Type} (r : Ring α) (n i : Nat) : Option α :=
  r.items[(r.head + n - 1 - i) % n]?

/-- The union of two sets of flags: flags are sticky (R14). -/
def Flags.or (a b : Flags) : Flags :=
  { ls := a.ls || b.ls, nv := a.nv || b.nv, ovf := a.ovf || b.ovf, uf := a.uf || b.uf,
    ix := a.ix || b.ix }

/-- A flags register: bit 4 LS, bit 3 NV, bit 2 OF, bit 1 UF, bit 0 IX (Table 05.6). -/
def Flags.toNat (f : Flags) : Nat :=
  16 * b2n f.ls + 8 * b2n f.nv + 4 * b2n f.ovf + 2 * b2n f.uf + b2n f.ix

/-- A flags register after a write: a 1 clears its flag (R13 RW1C). -/
def Flags.clear1 (f : Flags) (w : Word) : Flags :=
  { ls := f.ls && !bit w.toNat 4, nv := f.nv && !bit w.toNat 3, ovf := f.ovf && !bit w.toNat 2,
    uf := f.uf && !bit w.toNat 1, ix := f.ix && !bit w.toNat 0 }

/-- Entry i of a list of words, 0 where there is none. -/
def nthWord (l : List Word) (i : Nat) : Word := l.getD i 0

/-- floor(log2 n) for n > 0. -/
def log2 (n : Nat) : Nat := Nat.log2 n

/-- The integer square root of n, by bits from bit `fuel` down. -/
def isqrtAux (n : Nat) : Nat → Nat → Nat
  | 0, r => r
  | k + 1, r =>
    let t := r + 2 ^ k
    isqrtAux n k (if t * t ≤ n then t else r)

/-- The integer square root of n. -/
def isqrt (n : Nat) : Nat := isqrtAux n (Nat.log2 n / 2 + 1) 0

end Sys2Proof.Machine
end

