-- ==== Sys2Proof/Machine/Formats.lean ====
section
/-! DEFINITION. The number formats of chapter 04 and the one set of conversion rules (R102 to R127,
R515). Finite values are exact: a magnitude man × 2^exp with a sign. -/

namespace Sys2Proof.Machine

/-- The element formats of Table 04.1 and E2M1, with MXINT8's element apart from INT8. -/
inductive Elem
  | fp32 | f19 | bf16 | fp16 | e4m3 | e5m2 | e2m1 | int8 | int4 | int32 | e8m0 | mxint8
deriving DecidableEq, Repr

/-- A value that an element stands for: a NaN with sign, quietness and its fraction left aligned to
23 bits; an infinity; or a finite value with its sign (R103, R107, R108). -/
inductive Num
  | nan (neg quiet : Bool) (frac : Nat)
  | inf (neg : Bool)
  | fin (neg : Bool) (man : Nat) (exp : Int)
deriving DecidableEq, Repr

/-- The rounding modes of the control word (Table 04.4). -/
inductive Rnd
  | rne | rz | sto
deriving DecidableEq, Repr

/-- A format code of Table 04.1: its element format, and whether it is an MX format. The reserved
codes have none. -/
def fmtOf (code : Nat) : Option (Elem × Bool) :=
  match code with
  | 0 => some (.fp32, false)
  | 1 => some (.f19, false)
  | 2 => some (.bf16, false)
  | 3 => some (.fp16, false)
  | 4 => some (.e4m3, false)
  | 5 => some (.e5m2, false)
  | 6 => some (.int8, false)
  | 7 => some (.int4, false)
  | 8 => some (.int32, false)
  | 9 => some (.e4m3, true)
  | 10 => some (.e5m2, true)
  | 11 => some (.mxint8, true)
  | 12 => some (.e2m1, true)
  | 13 => some (.e8m0, false)
  | _ => none

/-- The bits an element takes in memory (Table 04.1). -/
def Elem.bits : Elem → Nat
  | .fp32 | .f19 | .int32 => 32
  | .bf16 | .fp16 => 16
  | .e2m1 | .int4 => 4
  | _ => 8

/-- A floating-point layout (Tables 04.2, 04.3): exponent and fraction bits, bias, the position of the
last fraction bit in its container, whether it has infinities, its canonical NaN, and its largest
finite magnitude maxMan × 2^maxExp with its encoding. -/
structure Layout where
  ebits : Nat
  p : Nat
  bias : Nat
  shl : Nat := 0
  inf : Bool
  nan : Nat
  maxMan : Nat
  maxExp : Int
  maxBits : Nat

/-- Table 04.2 with Table 04.3. -/
def Elem.layout : Elem → Option Layout
  | .fp32 => some ⟨8, 23, 127, 0, true, 0x7FC00000, 2 ^ 24 - 1, 104, 0x7F7FFFFF⟩
  | .f19 => some ⟨8, 10, 127, 13, true, 0x7FC00000, 2 ^ 11 - 1, 117, 0x7F7FE000⟩
  | .bf16 => some ⟨8, 7, 127, 0, true, 0x7FC0, 2 ^ 8 - 1, 120, 0x7F7F⟩
  | .fp16 => some ⟨5, 10, 15, 0, true, 0x7E00, 2 ^ 11 - 1, 5, 0x7BFF⟩
  | .e4m3 => some ⟨4, 3, 7, 0, false, 0x7F, 14, 5, 0x7E⟩
  | .e5m2 => some ⟨5, 2, 15, 0, true, 0x7E, 7, 13, 0x7B⟩
  | .e2m1 => some ⟨2, 1, 1, 0, false, 0, 3, 1, 7⟩
  | _ => none

/-- The range of an integer format (R111). -/
def Elem.intRange : Elem → Option (Int × Int)
  | .int32 => some (-(2 ^ 31 : Int), 2 ^ 31 - 1)
  | .int8 => some (-128, 127)
  | .int4 => some (-8, 7)
  | _ => none

/-- The exponent of a layout's smallest normal. -/
def Layout.emin (l : Layout) : Int := 1 - (l.bias : Int)

/-- The position of a layout's sign bit in its container. -/
def Layout.signBit (l : Layout) : Nat := l.shl + l.p + l.ebits

/-- A value of an integer. -/
def Num.ofInt (v : Int) : Num := .fin (v < 0) v.natAbs 0

/-- A value scaled by 2^s (R117 step 1). -/
def Num.scale (x : Num) (s : Int) : Num :=
  match x with
  | .fin n m e => .fin n m (e + s)
  | y => y

/-- The value that a floating-point encoding stands for (R103, R107). -/
def readFloat (l : Layout) (e4m3 e2m1 : Bool) (b : Nat) : Num :=
  let neg := bit b l.signBit
  let f := (b >>> l.shl) % 2 ^ l.p
  let e := (b >>> (l.shl + l.p)) % 2 ^ l.ebits
  let top := 2 ^ l.ebits - 1
  if e == 0 then .fin neg f (l.emin - l.p)
  else if e == top && l.inf then
    if f == 0 then .inf neg else .nan neg (bit f (l.p - 1)) (f <<< (23 - l.p))
  else if e == top && e4m3 && !e2m1 && f == 7 then .nan neg true 0
  else .fin neg (f + 2 ^ l.p) ((e : Int) - l.bias - l.p)

/-- The value an element stands for (R103 to R107, R111, R113). -/
def Num.read (e : Elem) (b : Nat) : Num :=
  match e with
  | .int32 => .ofInt (signed 32 b)
  | .int8 => .ofInt (signed 8 b)
  | .int4 => .ofInt (signed 4 b)
  | .mxint8 => (Num.ofInt (signed 8 b)).scale (-6)
  | .e8m0 => if b % 256 == 0xFF then .nan false true 0 else .fin false 1 ((b % 256 : Nat) - 127 : Int)
  | f => match f.layout with
    | some l => readFloat l (f == .e4m3) (f == .e2m1) b
    | none => .fin false 0 0

/-- An element of an MX block with scale byte c (R113). -/
def Num.readMx (e : Elem) (c b : Nat) : Num :=
  if c % 256 == 0xFF then .nan false true 0
  else (Num.read e b).scale ((c % 256 : Nat) - 127 : Int)

/-- Whether the value is a signalling NaN (R108). -/
def Num.signalling : Num → Bool
  | .nan _ q _ => !q
  | _ => false

/-- Whether the value is a NaN. -/
def Num.isNan : Num → Bool
  | .nan _ _ _ => true
  | _ => false

/-- Whether the value is an infinity. -/
def Num.isInf : Num → Bool
  | .inf _ => true
  | _ => false

/-- floor(log2(man × 2^exp)) for man > 0. -/
def magLog (man : Nat) (exp : Int) : Int := (log2 man : Int) + exp

/-- man × 2^exp rounded to a multiple of 2^q by the mode, r the 16 random bits (R118, R119): the
multiple, and whether it is exact. -/
def roundMag (rnd : Rnd) (r : Nat) (man : Nat) (exp q : Int) : Nat × Bool :=
  if q ≤ exp then (man <<< (exp - q).toNat, true)
  else
    let sh := (q - exp).toNat
    let n := man >>> sh
    let rem := man % 2 ^ sh
    let w := match rnd with
      | .rz => n
      | .rne => if 2 * rem > 2 ^ sh || (2 * rem == 2 ^ sh && n % 2 == 1) then n + 1 else n
      | .sto => ((man * 2 ^ 16) >>> sh) / 2 ^ 16 + (((man * 2 ^ 16) >>> sh) % 2 ^ 16 + r % 2 ^ 16) / 2 ^ 16
    (w, rem == 0)

/-- Whether a × 2^e exceeds b × 2^f. -/
def magGt (a : Nat) (e : Int) (b : Nat) (f : Int) : Bool :=
  if e ≥ f then a <<< (e - f).toNat > b else a > b <<< (f - e).toNat

/-- The sign bit of an encoding. -/
def signOf (l : Layout) (neg : Bool) : Nat := if neg then 2 ^ l.signBit else 0

/-- A finite value into a floating-point target (R117 to R122): the bits and the flags. With `mx`, as
the element of an MX block: beyond the largest finite magnitude it becomes that magnitude, with IX
and not OF (R114 step 4). -/
def finToFloat (l : Layout) (canNan mx sat : Bool) (rnd : Rnd) (r : Nat) (neg : Bool) (man : Nat)
    (exp : Int) : Nat × Flags :=
  if man == 0 then (signOf l neg, {})
  else
    let e := magLog man exp
    let q := max e l.emin - l.p
    let (w, exact) := roundMag rnd r man exp q
    let tiny : Bool := e < l.emin
    if magGt w q l.maxMan l.maxExp then
      let fl : Flags := { ovf := !mx, ix := true }
      let big := l.maxBits + signOf l neg
      if mx || sat || rnd == .rz then (big, fl)
      else if l.inf then (signOf l neg + (((2 ^ l.ebits - 1) <<< l.p) <<< l.shl), fl)
      else if canNan then (l.nan, fl)
      else (big, fl)
    else
      let b := ((q + l.p + l.bias - 1) * (2 ^ l.p : Nat) + w).toNat
      (signOf l neg + (b <<< l.shl), { ix := !exact, uf := tiny && !exact })

/-- A finite value into an integer format (R127). -/
def finToInt (lo hi : Int) (rnd : Rnd) (r : Nat) (neg : Bool) (man : Nat) (exp : Int) :
    Int × Flags :=
  let (w, exact) := roundMag rnd r man exp 0
  let v : Int := if neg then -(w : Int) else w
  if v < lo then (lo, { nv := true })
  else if v > hi then (hi, { nv := true })
  else (v, { ix := !exact })

/-- A value into E8M0 (R515). -/
def toE8m0 (sat : Bool) (rnd : Rnd) (r : Nat) (x : Num) : Nat × Flags :=
  match x with
  | .nan _ q _ => (0xFF, { nv := !q })
  | .inf true => (0xFF, { nv := true })
  | .inf false => (if sat then 0xFE else 0xFF, { nv := true })
  | .fin neg man exp =>
    if man == 0 then (0, { ix := true })
    else if neg then (0xFF, { nv := true })
    else
      let e := magLog man exp
      let q := max e (-127)
      let (w, exact) := roundMag rnd r man exp q
      let tiny : Bool := e < -127
      if w == 0 then (0, { uf := true, ix := true })
      else
        let c := 127 + q + log2 w
        if c > 254 then
          (if rnd != .rz && !sat then 0xFF else 0xFE, { ovf := true, ix := true })
        else (c.toNat, { ix := !exact, uf := tiny && !exact })

/-- Whether an element format is one of FP32, F19, BF16 and FP16, among which a NaN keeps its sign and
leading fraction bits (R108). -/
def Elem.wide : Elem → Bool
  | .fp32 | .f19 | .bf16 | .fp16 => true
  | _ => false

/-- A value into a target that is not an MX format (R108 to R122, R127, R515). `wideSrc` says that the
source was FP32, F19, BF16 or FP16. -/
def convert (dst : Elem) (sat : Bool) (rnd : Rnd) (r : Nat) (wideSrc : Bool) (x : Num) :
    Nat × Flags :=
  match dst.intRange with
  | some (lo, hi) =>
    match x with
    | .nan _ _ _ => (0, { nv := true })
    | .inf n => (twos dst.bits (if n then lo else hi), { nv := true })
    | .fin n m e => let (v, f) := finToInt lo hi rnd r n m e; (twos dst.bits v, f)
  | none =>
    match dst.layout with
    | none => if dst == .e8m0 then toE8m0 sat rnd r x else (0, {})
    | some l =>
      match x with
      | .nan n q f =>
        if dst.wide && wideSrc then
          (signOf l n + ((((2 ^ l.ebits - 1) <<< l.p) + ((f >>> (23 - l.p)) ||| 2 ^ (l.p - 1))) <<< l.shl),
            { nv := !q })
        else (l.nan, { nv := !q })
      | .inf n =>
        if l.inf then (signOf l n + (((2 ^ l.ebits - 1) <<< l.p) <<< l.shl), {})
        else (if sat then l.maxBits + signOf l n else l.nan, { nv := true })
      | .fin n m e => finToFloat l (dst == .e4m3) false sat rnd r n m e

/-- A conversion between identical codes with s = 0 (R116): the bits are copied, F19's container bits
[12:0] written as zero (R104); a signalling NaN sets NV. -/
def copySame (e : Elem) (b : Nat) : Nat × Flags :=
  (if e == .f19 then (b >>> 13) <<< 13 else b, { nv := (Num.read e b).signalling })

/-- One element converted outside MX formats: from bits of `src` scaled by 2^s into `dst` (R116,
R117). -/
def convBits (src dst : Elem) (sat : Bool) (rnd : Rnd) (r : Nat) (s : Int) (b : Nat) :
    Nat × Flags :=
  if src == dst && s == 0 then copySame src b
  else convert dst sat rnd r src.wide ((Num.read src b).scale s)

/-- emax of R114 step 3. -/
def mxEmax : Elem → Int
  | .e4m3 => 8
  | .e5m2 => 15
  | .e2m1 => 2
  | _ => 0

/-- floor(log2) of the largest magnitude of a block's values, none when all are zero. -/
def blockLog : List Num → Option Int
  | [] => none
  | .fin _ m e :: xs =>
    if m == 0 then blockLog xs
    else match blockLog xs with
      | none => some (magLog m e)
      | some k => some (max k (magLog m e))
  | _ :: xs => blockLog xs

/-- One element of a block, given its value over 2^E (R114 step 4). -/
def mxElem (dst : Elem) (rnd : Rnd) (r : Nat) (x : Num) : Nat × Flags :=
  match x with
  | .fin n m e =>
    if dst == .mxint8 then
      let (w, exact) := roundMag rnd r m (e + 6) 0
      let v : Int := if n then -(w : Int) else w
      if w > 127 then (twos 8 (if n then -127 else 127), { ix := true })
      else (twos 8 v, { ix := !exact })
    else match dst.layout with
      | some l => finToFloat l false true true rnd r n m e
      | none => (0, {})
  | _ => (0, {})

/-- A block of source values into an MX format (R114, R115): the scale byte, the elements and the
flags. `rs` holds each element's random bits. -/
def mxBlock (dst : Elem) (rnd : Rnd) (rs : List Nat) (xs : List Num) : Nat × List Nat × Flags :=
  if xs.any (fun x => x.isNan || x.isInf) then
    (0xFF, xs.map (fun _ => 0), { nv := xs.any fun x => x.isInf || x.signalling })
  else match blockLog xs with
    | none => (0, xs.map (fun x => (mxElem dst .rne 0 x).1), {})
    | some k =>
      let e := clampInt (-127) 127 (k - mxEmax dst)
      let out := (xs.zip (rs ++ List.replicate (xs.length - rs.length) 0)).map
        fun p => mxElem dst rnd p.2 (p.1.scale (-e))
      ((e + 127).toNat, out.map (·.1), (out.map (·.2)).foldl Flags.or {})

/-- Whether a code's elements are packed two to a byte (R111). -/
def Elem.nibble (e : Elem) : Bool := e.bits == 4

/-- The bytes that n elements of a format take, 4-bit elements two to a byte. -/
def elemBytes (e : Elem) (n : Nat) : Nat := n * e.bits / 8

/-- Element i of an array of a format, read from its bytes: a 4-bit element 2i is bits [3:0] of byte i
and 2i + 1 bits [7:4] (R111). -/
def elemAt (e : Elem) (bs : List Byte) (i : Nat) : Nat :=
  if e.nibble then (leAt bs (i / 2) 1 >>> (4 * (i % 2))) % 16
  else leAt bs (i * (e.bits / 8)) (e.bits / 8)

/-- Nibbles packed two to a byte, element 2i low. -/
def packNibbles : List Nat → List Byte
  | a :: b :: r => BitVec.ofNat 8 (a % 16 + 16 * (b % 16)) :: packNibbles r
  | [a] => [BitVec.ofNat 8 (a % 16)]
  | [] => []

/-- The bytes of elements of a format. -/
def packElems (e : Elem) (vs : List Nat) : List Byte :=
  if e.nibble then packNibbles vs else vs.flatMap (leBytes (e.bits / 8))

/-- The elements of an array of n elements. -/
def elems (e : Elem) (bs : List Byte) (n : Nat) : List Nat := (List.range n).map (elemAt e bs)

/-- The fields of the conversion control word (Table 04.4). -/
structure CtlWord where
  rnd : Nat
  sat : Bool
  dst : Nat
  src : Nat
deriving DecidableEq, Repr

/-- A control word taken apart. -/
def ctlOf (w : Word) : CtlWord :=
  { rnd := field w 18 17, sat := bit w.toNat 16, dst := field w 15 8, src := field w 7 0 }

/-- The rounding mode of a code 0 to 2. -/
def rndOf (n : Nat) : Rnd := if n == 1 then .rz else if n == 2 then .sto else .rne

end Sys2Proof.Machine
end

