-- ==== Sys2Proof/Machine/Flags.lean ====
section
/-! DEFINITION. Exact arithmetic on values, its rounding to binary32 with the flags of 04 R121 to R123,
and the accumulator pair (05 R133, R143, R152). -/

namespace Sys2Proof.Machine

/-! ## Exact sums and products -/

/-- A magnitude with its sign. -/
def sgn (neg : Bool) (m : Nat) : Int := if neg then -(m : Int) else m

/-- man × 2^exp written at exponent e ≤ exp. -/
def atExp (v : Int) (exp e : Int) : Int := v * ((2 ^ (exp - e).toNat : Nat) : Int)

/-- The exact sum of two finite values; an exact zero is −0 only when both are −0 (Table 06.3). -/
def finAdd (n1 : Bool) (m1 : Nat) (e1 : Int) (n2 : Bool) (m2 : Nat) (e2 : Int) : Num :=
  let e := min e1 e2
  let v := atExp (sgn n1 m1) e1 e + atExp (sgn n2 m2) e2 e
  if v = 0 then .fin (n1 && n2) 0 0 else .fin (v < 0) v.natAbs e

/-- The NaN that an operation creates. -/
def Num.qnan : Num := .nan false true 0

/-- The exact sum, and whether NV is raised (Table 06.3). -/
def numAdd (x y : Num) : Num × Bool :=
  match x, y with
  | .nan _ q _, y => (.qnan, !q || y.signalling)
  | x, .nan _ q _ => (.qnan, !q || x.signalling)
  | .inf a, .inf b => if a == b then (.inf a, false) else (.qnan, true)
  | .inf a, _ => (.inf a, false)
  | _, .inf b => (.inf b, false)
  | .fin a m e, .fin b n f => (finAdd a m e b n f, false)

/-- Whether two values are a zero and an infinity. -/
def zeroTimesInf (x y : Num) : Bool :=
  match x, y with
  | .fin _ 0 _, .inf _ => true
  | .inf _, .fin _ 0 _ => true
  | _, _ => false

/-- The exact product, and whether NV is raised (Table 06.3). -/
def numMul (x y : Num) : Num × Bool :=
  if zeroTimesInf x y then (.qnan, true)
  else match x, y with
    | .nan _ q _, y => (.qnan, !q || y.signalling)
    | x, .nan _ q _ => (.qnan, !q || x.signalling)
    | .inf a, .inf b => (.inf (a != b), false)
    | .inf a, .fin b _ _ => (.inf (a != b), false)
    | .fin a _ _, .inf b => (.inf (a != b), false)
    | .fin a m e, .fin b n f => (.fin (a != b) (m * n) (e + f), false)

/-- The exact product-sum, and whether NV is raised: zero times infinity raises it whatever the
addend is (Table 06.3). -/
def numFma (x y z : Num) : Num × Bool :=
  let p := numMul x y
  let r := numAdd p.1 z
  (r.1, p.2 || r.2)

/-- A value with its sign inverted. -/
def Num.neg : Num → Num
  | .nan n q f => .nan (!n) q f
  | .inf n => .inf (!n)
  | .fin n m e => .fin (!n) m e

/-- Whether one finite or infinite value is below another, −0 and +0 equal. -/
def numLt (x y : Num) : Bool :=
  match x, y with
  | .nan _ _ _, _ => false
  | _, .nan _ _ _ => false
  | .inf a, .inf b => a && !b
  | .inf a, _ => a
  | _, .inf b => !b
  | .fin a m e, .fin b n f =>
    let g := min e f
    atExp (sgn a m) e g < atExp (sgn b n) f g

/-- Whether two values that are not NaNs are equal, −0 and +0 equal. -/
def numEq (x y : Num) : Bool := !x.isNan && !y.isNan && !numLt x y && !numLt y x

/-- Whether a value's sign is minus. -/
def Num.isNeg : Num → Bool
  | .nan n _ _ => n
  | .inf n => n
  | .fin n _ _ => n

/-- Whether x comes before y in the order of IEEE 754-2019 minimum, −0 below +0 (R165). -/
def minFirst (x y : Num) : Bool := numLt x y || (numEq x y && x.isNeg)

/-- Minimum or maximum by R165, and whether NV is raised. -/
def numMinMax (isMax : Bool) (x y : Num) : Num × Bool :=
  if x.isNan || y.isNan then (.qnan, x.signalling || y.signalling)
  else if minFirst x y then (if isMax then y else x, false) else (if isMax then x else y, false)

/-! ## Rounding to binary32 -/

/-- The FP32 value of a word. -/
def f32 (w : Word) : Num := Num.read .fp32 w.toNat

/-- A value rounded to binary32 by nearest even or toward zero, special values as R108 and R109 say. -/
def round32 (rnd : Rnd) (x : Num) : Word × Flags :=
  let r := convert .fp32 false rnd 0 false x
  (BitVec.ofNat 32 r.1, r.2)

/-- A value and an NV indication rounded to binary32. -/
def round32nv (rnd : Rnd) (x : Num × Bool) : Word × Flags :=
  let r := round32 rnd x.1
  (r.1, { r.2 with nv := r.2.nv || x.2 })

/-- The canonical NaN of FP32. -/
def canon32 : Word := 0x7FC00000

/-- a + b in binary32, nearest even. -/
def add32 (a b : Word) : Word × Flags := round32nv .rne (numAdd (f32 a) (f32 b))

/-- a × b in binary32, nearest even. -/
def mul32 (a b : Word) : Word × Flags := round32nv .rne (numMul (f32 a) (f32 b))

/-- a × b + c in binary32, rounded once. -/
def fma32 (a b c : Word) : Word × Flags := round32nv .rne (numFma (f32 a) (f32 b) (f32 c))

/-- A quotient or root known to 2 bits beyond any target's precision, with a sticky bit below. -/
def withSticky (q : Nat) (exact : Bool) (e : Int) (neg : Bool) : Num :=
  .fin neg (2 * q + b2n (!exact)) (e - 1)

/-- The exact quotient to enough bits (IEEE 754-2019), and NV and the divide-by-zero case: x / 0 is an
infinity. -/
def numDiv (x y : Num) : Num × Bool :=
  match x, y with
  | .nan _ q _, y => (.qnan, !q || y.signalling)
  | x, .nan _ q _ => (.qnan, !q || x.signalling)
  | .inf _, .inf _ => (.qnan, true)
  | .inf a, .fin b _ _ => (.inf (a != b), false)
  | .fin a _ _, .inf b => (.fin (a != b) 0 0, false)
  | .fin a m e, .fin b n f =>
    if n = 0 then (if m = 0 then (.qnan, true) else (.inf (a != b), false))
    else if m = 0 then (.fin (a != b) 0 0, false)
    else
      let k := 64 + log2 n
      (withSticky (m * 2 ^ k / n) (m * 2 ^ k % n == 0) (e - f - k) (a != b), false)

/-- The exact square root to enough bits (IEEE 754-2019). -/
def numSqrt (x : Num) : Num × Bool :=
  match x with
  | .nan _ q _ => (.qnan, !q)
  | .inf true => (.qnan, true)
  | .inf false => (.inf false, false)
  | .fin n m e =>
    if m = 0 then (.fin n 0 0, false)
    else if n then (.qnan, true)
    else
      let k : Nat := if (e - 64) % 2 = 0 then 64 else 65
      let v := m * 2 ^ k
      let r := isqrt v
      (withSticky r (r * r == v) ((e - k) / 2) false, false)

/-- a / b in binary32, nearest even. -/
def div32 (a b : Word) : Word × Flags := round32nv .rne (numDiv (f32 a) (f32 b))

/-- The square root in binary32, nearest even. -/
def sqrt32 (a : Word) : Word × Flags := round32nv .rne (numSqrt (f32 a))

/-! ## Pairs -/

/-- Whether a word is a NaN. -/
def isNan32 (w : Word) : Bool := (f32 w).isNan
/-- Whether a word is an infinity. -/
def isInf32 (w : Word) : Bool := (f32 w).isInf

/-- The error-free sum of two binary32 values (R143): s = fl(a + b) and err = (a + b) − s exactly, a
zero error being +0. With s infinite the error is +0 (R133). -/
def twoSum (a b : Word) : Word × Word × Flags :=
  let s := add32 a b
  if isInf32 s.1 || isNan32 s.1 then (s.1, 0, s.2)
  else
    let e := numAdd (numAdd (f32 a) (f32 b)).1 (f32 s.1).neg
    let w := (round32 .rne e.1).1
    (s.1, if w = 0x80000000 then 0 else w, s.2)

/-- A pair made of two words by two_sum. -/
def pairOf (hi lo : Word) : Pair := let t := twoSum hi lo; ⟨t.1, t.2.1⟩

/-- A finite chunk sum added into a finite pair (R143) with the flags of R144. -/
def addFinite (p : Pair) (c : Word) : Pair × Flags :=
  let a := twoSum p.hi c
  if isInf32 a.1 then (⟨a.1, 0⟩, { ovf := true, ix := true })
  else
    let t := add32 p.lo a.2.1
    let b := twoSum a.1 t.1
    let f : Flags := { ix := t.2.ix }
    if isInf32 b.1 then (⟨b.1, 0⟩, { f with ix := true }) else (⟨b.1, b.2.1⟩, f)

/-- A chunk sum added into a pair, special values by R148: the pair, the flags, and whether opposite
infinities met. -/
def addPair (p : Pair) (c : Word) : Pair × Flags × Bool :=
  match f32 p.hi, f32 c with
  | .nan _ _ _, _ => (⟨canon32, 0⟩, {}, false)
  | _, .nan _ _ _ => (⟨canon32, 0⟩, {}, false)
  | .inf a, .inf b => if a == b then (⟨p.hi, 0⟩, {}, false) else (⟨canon32, 0⟩, { nv := true }, true)
  | .inf _, _ => (⟨p.hi, 0⟩, {}, false)
  | _, .inf _ => (⟨c, 0⟩, {}, false)
  | _, _ => let r := addFinite p c; (r.1, r.2, false)

/-- The value of a pair (R133, R152): hi + lo exactly; hi itself when it is infinite or a NaN; a zero
has the sign of hi. -/
def Pair.value (p : Pair) : Num :=
  match f32 p.hi with
  | .fin n m e =>
    match (numAdd (.fin n m e) (f32 p.lo)).1 with
    | .fin _ 0 f => .fin n 0 f
    | v => v
  | v => v

/-- The bytes of a pair: hi at byte 0 and lo at byte 4 (R154). -/
def Pair.bytes (p : Pair) : List Byte := leBytes 4 p.hi.toNat ++ leBytes 4 p.lo.toNat

end Sys2Proof.Machine
end

