-- ==== Sys2Proof/Config.lean ====
section
/-! DEFINITION. Values the spec leaves open, as constants with no body: nothing can be proved of their
values. Those indexed by a number are drawn with the counter `State.free`. -/

namespace Sys2Proof.Config

/-- The check computed from the data that a failed place delivers (12 R291, R297): the spec does not
say what such a place delivers. -/
opaque garbledCheck : Nat → Half

/-- What a message to another module carries for a byte of a line that failed at its source (12 R292:
the line is to be left unwritten, but a flit has no way to say so). -/
opaque lostByte : Nat → Byte

/-- The bytes of a telemetry item (17 Table 17.2, type 0x09), from its code and its fields: the spec
gives the items' contents but no layout or length. -/
opaque telemItem : Nat → List Nat → List Byte

/-- How far, in 1/16 ns, a discipline moves the offset after a measured error when it slews (03 R71,
which bounds the rate). -/
opaque slew : Nat → Int → Int

/-- Whether two heater settings, in 1/256 mW, are one free spectral range apart for the search (14
R340, R343: about 45 mW). -/
opaque oneRange : Nat → Nat → Bool

/-- The heat of one free spectral range of a ring, in 1/256 mW, as its search measured it (14 R340). -/
opaque rangeHeat : Nat → Nat

/-- A serving laser's offset from its grid frequency, in 0.1 GHz, by laser and time (14 Table 14.10). -/
opaque freqErr : Nat → Nat → Int

/-- Between which two neighbouring lines the search placed a ring's parking setting (14 R351). -/
opaque parkPair : Nat → Nat

/-- Which way a fraction of a unit of κ_r (14 R348) or of a mean detuning (14 Table 14.8) goes. -/
opaque halfUp : Nat → Bool

/-- What a squall record of a hub, update die or light engine has in its block field (0) and its segment
field (1): Table 16.4 gives neither for a block outside a compute die. -/
opaque squallPlace : Nat → Nat

/-- The kind of the error-log record of an event to which Table 20.3 gives no kind (08 R209). -/
opaque plainKind : Nat

/-- The payload of such a record, from what it names. -/
opaque plainPayload : List Nat → List Byte

/-- The input energy, in Wh, that the control die's meter adds in a second (20 Table 20.4): it depends on
the input current, which the spec does not derive. -/
opaque secondWh : Nat → Nat

/-- Cycles that a unit spends waiting in a tick, by the register that counts them (06 VXE_TILE_WAIT 0, 07
CVE_TILE_WAIT 1, 11 HUB_NARROW_FULL 2, HUB_LINK_RETRY 3), or loses to the die's other engines (06 VXE_CONFLICT 4):
the model keeps no cycles. -/
opaque waitCycles : Nat → Nat → Nat

/-- A byte of a span that an update die is asked to read and cannot reach, since it lies outside its own stack (01 R18):
by its offset in the span and the read. -/
opaque foreignByte : Nat → Nat → Byte

/-- A stack's hottest temperature in °C, as its report gives it (11 HUB_TEMP). -/
opaque stackTemp : Nat → Nat

/-- The area number of an area of the logbook, in the order of Table 20.1 (20 R470). -/
opaque areaNumber : Nat → Byte

/-- The bytes of the logbook's pages that no rule names, by 4096 × page + offset: the rest of a page's header
(20 R470), and what follows a snapshot's crc (20 R478). -/
opaque headerByte : Nat → Byte

/-- The mask ROM's entry for a vendor key pair, 48 bytes (19 R456). -/
opaque maskRom : Nat → List Byte

/-- Whether SLH-DSA-SHA2-192s in its pure form with an empty context string verifies: public key, message
and signature (19 R456, which gives the scheme by reference to FIPS 205). -/
opaque slhVerify : List Byte → List Byte → List Byte → Bool

/-- The RSASSA-PSS signature that the module's identity key makes over a report, by its salt (19 R463, R466). -/
opaque reportRsa : Nat → List Byte → List Byte

/-- The SLH-DSA signature that the module's identity key makes over a report (19 R463, R466). -/
opaque reportSlh : Nat → List Byte → List Byte

end Sys2Proof.Config
end

