-- ==== Sys2Proof/Machine/Crypto.lean ====
section
/-! DEFINITION. The checks and ciphers the spec names: the CRC-16 of a line (12 R288), the CRC-32C of
links and blocks (13 R317), SHA-384 (FIPS 180-4, 02 R31) and AES-128 encryption (FIPS 197, 07 R196). -/

namespace Sys2Proof.Machine

/-! ## CRC -/

/-- One bit step of the CRC-16 with polynomial 0x8BB7, most significant bit first. -/
def crc16Bits : Nat → Nat → Nat
  | 0, c => c
  | n + 1, c => crc16Bits n (if c.testBit 15 then ((c * 2) ^^^ 0x8BB7) % 0x10000 else c * 2 % 0x10000)

/-- The CRC-16 of R288: polynomial 0x8BB7, start 0, no reflection, no final inversion. -/
def crc16 (bs : List Byte) : Half :=
  BitVec.ofNat 16 (bs.foldl (fun c b => crc16Bits 8 (c ^^^ (b.toNat * 256))) 0)

/-- The check of a line: the CRC over its 64 bytes and the 4-byte seal, least significant byte first. -/
def lineCheck (data : List Byte) (sl : Nat) : Half := crc16 (data ++ leBytes 4 sl)

/-- One bit step of the reflected CRC-32C (polynomial 0x1EDC6F41 reflected is 0x82F63B78). -/
def crc32Bits : Nat → Nat → Nat
  | 0, c => c
  | n + 1, c => crc32Bits n (if c.testBit 0 then (c / 2) ^^^ 0x82F63B78 else c / 2)

/-- The link CRC of R317: CRC-32C, start 0xFFFFFFFF, final inversion. -/
def crc32c (bs : List Byte) : Word :=
  BitVec.ofNat 32
    ((bs.foldl (fun c b => crc32Bits 8 (c ^^^ b.toNat)) 0xFFFFFFFF) ^^^ 0xFFFFFFFF)

/-! ## SHA-384 -/

/-- The digits of the largest r with r ^ k ≤ n, found from bit i downwards. -/
def rootFrom (k n : Nat) : Nat → Nat → Nat
  | 0, r => r
  | i + 1, r => rootFrom k n i (if (r + 2 ^ i) ^ k ≤ n then r + 2 ^ i else r)

/-- The first 64 bits of the fraction of the k-th root of p, p < 2^16: a word that SHA-384 takes
from p. -/
def rootWord (k p : Nat) : Nat := rootFrom k (p * 2 ^ (64 * k)) 72 0 % 2 ^ 64

/-- The first eighty primes. -/
def shaPrimes : List Nat :=
  (List.range 410).filter fun p => 2 ≤ p && !((List.range 21).any fun d => 2 ≤ d && d < p && p % d == 0)

/-- The eighty round constants: the cube roots of the first eighty primes (FIPS 180-4, 4.2.3). -/
def shaRoundWords : List Nat := shaPrimes.map (rootWord 3)

/-- Rotation right of a 64-bit number. -/
def rotr64 (x n : Nat) : Nat := (x >>> n) ||| ((x <<< (64 - n)) % 2 ^ 64)

/-- The message schedule: sixteen words extended to 80, newest first. -/
def shaSchedule : Nat → List Nat → List Nat
  | 0, w => w
  | n + 1, w =>
    let w2 := w.getD 1 0
    let w7 := w.getD 6 0
    let w15 := w.getD 14 0
    let w16 := w.getD 15 0
    let s0 := rotr64 w15 1 ^^^ rotr64 w15 8 ^^^ (w15 >>> 7)
    let s1 := rotr64 w2 19 ^^^ rotr64 w2 61 ^^^ (w2 >>> 6)
    shaSchedule n (((s1 + w7 + s0 + w16) % 2 ^ 64) :: w)

/-- The eight working variables of SHA-384. -/
structure ShaState where
  a : Nat
  b : Nat
  c : Nat
  d : Nat
  e : Nat
  f : Nat
  g : Nat
  h : Nat

/-- One round. -/
def shaRound (v : ShaState) (kw : Nat × Nat) : ShaState :=
  let s1 := rotr64 v.e 14 ^^^ rotr64 v.e 18 ^^^ rotr64 v.e 41
  let ch := (v.e &&& v.f) ^^^ ((2 ^ 64 - 1 - v.e) &&& v.g)
  let t1 := (v.h + s1 + ch + kw.1 + kw.2) % 2 ^ 64
  let s0 := rotr64 v.a 28 ^^^ rotr64 v.a 34 ^^^ rotr64 v.a 39
  let maj := (v.a &&& v.b) ^^^ (v.a &&& v.c) ^^^ (v.b &&& v.c)
  { a := (t1 + s0 + maj) % 2 ^ 64, b := v.a, c := v.b, d := v.c, e := (v.d + t1) % 2 ^ 64,
    f := v.e, g := v.f, h := v.g }

/-- The big-endian number of a byte list. -/
def beNat (bs : List Byte) : Nat := bs.foldl (fun n b => n * 256 + b.toNat) 0

/-- n words of 8 bytes from the front of the message. -/
def shaWords : Nat → List Byte → List Nat
  | 0, _ => []
  | n + 1, bs => beNat (bs.take 8) :: shaWords n (bs.drop 8)

/-- One 128-byte block. -/
def shaBlock (v : ShaState) (bs : List Byte) : ShaState :=
  let w := (shaSchedule 64 (shaWords 16 bs).reverse).reverse
  let r := (shaRoundWords.zip w).foldl shaRound v
  { a := (v.a + r.a) % 2 ^ 64, b := (v.b + r.b) % 2 ^ 64, c := (v.c + r.c) % 2 ^ 64,
    d := (v.d + r.d) % 2 ^ 64, e := (v.e + r.e) % 2 ^ 64, f := (v.f + r.f) % 2 ^ 64,
    g := (v.g + r.g) % 2 ^ 64, h := (v.h + r.h) % 2 ^ 64 }

/-- n blocks from the front of a padded message. -/
def shaBlocks : Nat → List Byte → ShaState → ShaState
  | 0, _, v => v
  | n + 1, bs, v => shaBlocks n (bs.drop 128) (shaBlock v (bs.take 128))

/-- The initial hash value: the square roots of the ninth to the sixteenth prime (FIPS 180-4, 5.3.4). -/
def shaInit : ShaState :=
  let w := fun i => rootWord 2 (shaPrimes.getD (8 + i) 0)
  { a := w 0, b := w 1, c := w 2, d := w 3, e := w 4, f := w 5, g := w 6, h := w 7 }

/-- SHA-384 of a message: 48 bytes in the order FIPS 180-4 produces them (R31). -/
def sha384 (m : List Byte) : List Byte :=
  let pad := (128 + 111 - m.length % 128) % 128
  let p := m ++ (0x80 :: List.replicate pad 0) ++ beBytes 16 (8 * m.length)
  let v := shaBlocks (p.length / 128) p shaInit
  beBytes 8 v.a ++ beBytes 8 v.b ++ beBytes 8 v.c ++ beBytes 8 v.d ++ beBytes 8 v.e ++ beBytes 8 v.f

/-! ## AES-128 -/

/-- Multiplication by x in GF(2^8) (FIPS 197, 4.2.1). -/
def xtime (a : Nat) : Nat := if a < 128 then a * 2 else (a * 2) ^^^ 0x11B

/-- Multiplication in GF(2^8), over n bits of b. -/
def gmulAux : Nat → Nat → Nat → Nat
  | 0, _, _ => 0
  | n + 1, a, b => (if b % 2 = 1 then a else 0) ^^^ gmulAux n (xtime a) (b / 2)

/-- Multiplication in GF(2^8). -/
def gmul (a b : Nat) : Nat := gmulAux 8 a b

/-- a^(2^n - 2) in GF(2^8): with n = 8 the inverse, 0 for 0. -/
def ginvAux : Nat → Nat → Nat → Nat
  | 0, _, r => r
  | n + 1, a, r => let s := gmul a a; ginvAux n s (gmul r s)

/-- The S-box: the inverse followed by the affine map of FIPS 197, 5.1.1. -/
def sbox (a : Nat) : Nat :=
  let x := ginvAux 7 a 1
  let rot := fun n : Nat => ((x <<< n) ||| (x >>> (8 - n))) % 256
  x ^^^ rot 1 ^^^ rot 2 ^^^ rot 3 ^^^ rot 4 ^^^ 0x63

/-- The next round key from the last, each four words of four bytes. -/
def nextKey (k : List Nat) (rc : Nat) : List Nat :=
  let g := fun i => k.getD i 0
  let t0 := sbox (g 13) ^^^ rc
  let t1 := sbox (g 14)
  let t2 := sbox (g 15)
  let t3 := sbox (g 12)
  let w0 := [g 0 ^^^ t0, g 1 ^^^ t1, g 2 ^^^ t2, g 3 ^^^ t3]
  let w1 := (List.zipWith (· ^^^ ·) w0 [g 4, g 5, g 6, g 7])
  let w2 := (List.zipWith (· ^^^ ·) w1 [g 8, g 9, g 10, g 11])
  let w3 := (List.zipWith (· ^^^ ·) w2 [g 12, g 13, g 14, g 15])
  w0 ++ w1 ++ w2 ++ w3

/-- SubBytes and ShiftRows. -/
def subShift (s : List Nat) : List Nat :=
  [0, 5, 10, 15, 4, 9, 14, 3, 8, 13, 2, 7, 12, 1, 6, 11].map fun i => sbox (s.getD i 0)

/-- MixColumns of the column at i. -/
def mixCol (s : List Nat) (i : Nat) : List Nat :=
  let a := s.getD i 0
  let b := s.getD (i + 1) 0
  let c := s.getD (i + 2) 0
  let d := s.getD (i + 3) 0
  [xtime a ^^^ (xtime b ^^^ b) ^^^ c ^^^ d, a ^^^ xtime b ^^^ (xtime c ^^^ c) ^^^ d,
   a ^^^ b ^^^ xtime c ^^^ (xtime d ^^^ d), (xtime a ^^^ a) ^^^ b ^^^ c ^^^ xtime d]

/-- The rounds of AES-128: n left, the round constant rc next. -/
def aesRounds : Nat → List Nat → List Nat → Nat → List Nat
  | 0, s, _, _ => s
  | n + 1, s, k, rc =>
    let k' := nextKey k rc
    let t := subShift s
    let m := if n = 0 then t else mixCol t 0 ++ mixCol t 4 ++ mixCol t 8 ++ mixCol t 12
    aesRounds n (List.zipWith (· ^^^ ·) m k') k' (xtime rc)

/-- AES-128 encryption of a 16-byte block under a 16-byte key (FIPS 197). -/
def aes128 (key block : List Nat) : List Nat :=
  aesRounds 10 (List.zipWith (· ^^^ ·) block key) key 1

end Sys2Proof.Machine
end

