-- ==== Sys2Proof/Machine/Ops.lean ====
section
/-! DEFINITION. Reading and changing one unit of the module, whether a site is there, and which
partition owns it. Every meaning is built from these. -/

namespace Sys2Proof.Machine

/-! ## One unit of the state -/

/-- The next state of a command whose operands name units that exist; a fault otherwise. -/
def onlyIf (ok : Bool) (t : State) : Host.Outcome State Fault Refusal :=
  if ok then .next t else .fault .noSuchUnit

/-- Compute die d. -/
def State.cd (s : State) (d : Nat) : Cd := s.cds.getD d {}
/-- Stack hub h. -/
def State.hub (s : State) (h : Nat) : Hub := s.hubs.getD h {}
/-- Update die u. -/
def State.ud (s : State) (u : Nat) : Ud := s.uds.getD u {}
/-- Light engine m. -/
def State.le (s : State) (m : Nat) : Le := s.les.getD m {}
/-- Fabric port n. -/
def State.port (s : State) (n : Nat) : Port := s.ports.getD n {}
/-- Partition p. -/
def State.part (s : State) (p : Nat) : Part := s.parts.getD p {}
/-- Baith port b. -/
def State.bp (s : State) (b : Nat) : Baith := s.baith.getD b {}

def State.modCd (s : State) (d : Nat) (f : Cd → Cd) : State := { s with cds := modAt s.cds d f }
def State.modHub (s : State) (h : Nat) (f : Hub → Hub) : State := { s with hubs := modAt s.hubs h f }
def State.modUd (s : State) (u : Nat) (f : Ud → Ud) : State := { s with uds := modAt s.uds u f }
def State.modLe (s : State) (m : Nat) (f : Le → Le) : State := { s with les := modAt s.les m f }
def State.modPort (s : State) (n : Nat) (f : Port → Port) : State :=
  { s with ports := modAt s.ports n f }
def State.modPart (s : State) (p : Nat) (f : Part → Part) : State :=
  { s with parts := modAt s.parts p f }
def State.modBp (s : State) (b : Nat) (f : Baith → Baith) : State :=
  { s with baith := modAt s.baith b f }
def State.modCtrl (s : State) (f : Ctrl → Ctrl) : State := { s with ctrl := f s.ctrl }
def State.modMod (s : State) (f : Module → Module) : State :=
  s.modCtrl fun c => { c with module := f c.module }
def State.modLog (s : State) (f : Logbook → Logbook) : State :=
  s.modCtrl fun c => { c with log := f c.log }
def State.modFw (s : State) (f : Firmware → Firmware) : State :=
  s.modCtrl fun c => { c with fw := f c.fw }

def State.modSeq (s : State) (d : Nat) (f : Seq → Seq) : State :=
  s.modCd d fun c => { c with seq := f c.seq }
def State.modEng (s : State) (d : Nat) (f : Engines → Engines) : State :=
  s.modCd d fun c => { c with eng := f c.eng }
def State.modScratch (s : State) (d : Nat) (f : Scratch → Scratch) : State :=
  s.modCd d fun c => { c with scratch := f c.scratch }
def State.modDiePwr (s : State) (d : Nat) (f : DiePower → DiePower) : State :=
  s.modCd d fun c => { c with pwr := f c.pwr }
def State.modMxe (s : State) (d e : Nat) (f : Mxe → Mxe) : State :=
  s.modEng d fun g => { g with mxe := modAt g.mxe e f }
def State.modVxe (s : State) (d : Nat) (f : Vxe → Vxe) : State :=
  s.modEng d fun g => { g with vxe := f g.vxe }
def State.modGxe (s : State) (d : Nat) (f : Gxe → Gxe) : State :=
  s.modEng d fun g => { g with gxe := f g.gxe }
def State.modCve (s : State) (d : Nat) (f : Cve → Cve) : State :=
  s.modEng d fun g => { g with cve := f g.cve }
def State.modCoe (s : State) (d : Nat) (f : Coe → Coe) : State :=
  s.modEng d fun g => { g with coe := f g.coe }
def State.modFennel (s : State) (d : Nat) (f : Fennel → Fennel) : State :=
  s.modEng d fun g => { g with fennel := f g.fennel }
def State.modRed (s : State) (h : Nat) (f : Reduce → Reduce) : State :=
  s.modHub h fun b => { b with red := f b.red }
def State.modMem (s : State) (h : Nat) (f : HubMem → HubMem) : State :=
  s.modHub h fun b => { b with mem := f b.mem }
def State.modChk (s : State) (h : Nat) (f : LineCheck → LineCheck) : State :=
  s.modHub h fun b => { b with chk := f b.chk }
def State.modLink (s : State) (n : Nat) (f : Link → Link) : State :=
  s.modPort n fun q => { q with link := f q.link }
def State.modArb (s : State) (n : Nat) (f : Arbiter → Arbiter) : State :=
  s.modPort n fun q => { q with arb := f q.arb }
def State.modRx (s : State) (n l : Nat) (f : RxLane → RxLane) : State :=
  s.modPort n fun q => { q with rx := modAt q.rx l f }
def State.modTx (s : State) (n l : Nat) (f : TxLane → TxLane) : State :=
  s.modPort n fun q => { q with tx := modAt q.tx l f }
def State.modRing (s : State) (n r : Nat) (f : RingRes → RingRes) : State :=
  s.modPort n fun q => { q with rings := modAt q.rings r f }
def State.modLaser (s : State) (m j : Nat) (f : Laser → Laser) : State :=
  s.modLe m fun e => { e with lasers := modAt e.lasers j f }
def State.modStream (s : State) (p : Nat) (f : Stream → Stream) : State :=
  s.modPart p fun q => { q with stream := f q.stream }
def State.modFab (s : State) (p : Nat) (f : Fabric → Fabric) : State :=
  s.modPart p fun q => { q with fab := f q.fab }
def State.modDisc (s : State) (p : Nat) (f : Discipline → Discipline) : State :=
  s.modPart p fun q => { q with disc := f q.disc }
def State.modLoader (s : State) (t : WrTarget) (f : Loader → Loader) : State :=
  match t with
  | .frame => s.modCtrl fun c => { c with frameLoader := f c.frameLoader }
  | .part p => s.modPart p fun q => { q with loader := f q.loader }

/-- The loader block a command addresses (R59). -/
def State.loader (s : State) : WrTarget → Loader
  | .frame => s.ctrl.frameLoader
  | .part p => (s.part p).loader

/-- The free-value counter read and advanced. -/
def State.drawn (s : State) : State := { s with free := s.free + 1 }

/-- Module time in ns (R68). -/
def State.now (s : State) : Nat := s.ctrl.clock.time.toNat

/-- f for every unit number below n in order. -/
def forRange (n : Nat) (f : Nat → State → State) (s : State) : State :=
  (List.range n).foldl (fun t i => f i t) s

/-- f for every item in order. -/
def forAll {α : Type} (l : List α) (f : α → State → State) (s : State) : State :=
  l.foldl (fun t a => f a t) s

/-! ## Sites (R1, R2, R6, R10) -/

/-- Compute dies of a part code (Table 00.1; codes of Table 18.4). -/
def partCds (part : Nat) : Nat := if part = 2 then 12 else if part = 3 then 8 else 16

/-- The population of a part, by kind (R2). -/
def inPopulation (part : Nat) : Site → Bool
  | .cd n => n < partCds part
  | .stack n => n < 2 * partCds part
  | .ud n => part != 3 && n < 2 * partCds part
  | .le n => n < partCds part / 2
  | .baith n => n < (if part = 3 then 2 else 4)

/-- Vector lanes per compute die (Table 00.1). -/
def partLanes (part : Nat) : Nat := if part = 1 then 4096 else 2048

/-- Whether the part has Breeze (Table 00.1). -/
def hasBreeze (part : Nat) : Bool := part = 0 || part = 1

/-- Whether the part has Fennel (Table 00.1). -/
def hasFennel (part : Nat) : Bool := part != 3

/-- A site's two status bits in the descriptor (R446): 0 absent, 1 present, 2 failed. A number past the
places of Table 00.1 is absent. -/
def State.status (s : State) (site : Site) : Nat :=
  let d := s.ctrl.module.descriptor
  let at2 := fun base room n => if n < room then (leAt d (base + n / 4) 1 >>> (2 * (n % 4))) % 4 else 0
  match site with
  | .cd n => at2 0x20 16 n
  | .stack n => at2 0x24 32 n
  | .ud n => at2 0x2C 32 n
  | .le n => at2 0x34 8 n
  | .baith n => at2 0x36 4 n

/-- Whether a site has been cut out (R7, R387). -/
def State.isCut (s : State) : Site → Bool
  | .cd n => bit s.ctrl.module.cutCd n
  | .stack n => bit s.ctrl.module.cutStack n
  | .ud n => bit s.ctrl.module.cutUd n
  | .le n => bit s.ctrl.module.cutLe n
  | .baith _ => false

/-- Whether a site is present and not cut out: otherwise its window reads 0 and discards writes
(Table 00.3). -/
def State.live (s : State) (site : Site) : Bool := s.status site == 1 && !s.isCut site

/-- Whether fabric port n is present in the descriptor (Table 18.4). -/
def State.portPresent (s : State) (n : Nat) : Bool :=
  bit (leAt s.ctrl.module.descriptor (0x38 + n / 8) 1) (n % 8)

/-! ## Partitions (R33, R433) -/

/-- Whether n lies among count units from first. -/
def within (n first count : Nat) : Bool := first ≤ n && n < first + count

/-- The partitions' numbers. -/
def partNums : List Nat := [0, 1, 2, 3]

/-- The present partition that satisfies f. -/
def State.partWith (s : State) (f : FrameEntry → Bool) : Option Nat :=
  partNums.find? fun p => (s.part p).present && f (s.part p).frame

def State.partOfCd (s : State) (d : Nat) : Option Nat :=
  s.partWith fun e => within d e.cdFirst e.cdCount && !bit e.noCds d
def State.partOfHub (s : State) (h : Nat) : Option Nat :=
  s.partWith fun e => within h e.stackFirst e.stackCount && !bit e.noStacks h
def State.partOfUd (s : State) (u : Nat) : Option Nat :=
  s.partWith fun e => within u e.udFirst e.udCount && !bit e.noUds u
def State.partOfPort (s : State) (n : Nat) : Option Nat := s.partWith fun e => bit e.portMask n
def State.partOfBaith (s : State) (b : Nat) : Option Nat := s.partWith fun e => e.hostPort == b

/-- The compute dies of a partition, in order. -/
def FrameEntry.cds (e : FrameEntry) : List Nat :=
  ((List.range e.cdCount).map (· + e.cdFirst)).filter fun d => !bit e.noCds d
def FrameEntry.stacks (e : FrameEntry) : List Nat :=
  ((List.range e.stackCount).map (· + e.stackFirst)).filter fun h => !bit e.noStacks h
def FrameEntry.uds (e : FrameEntry) : List Nat :=
  ((List.range e.udCount).map (· + e.udFirst)).filter fun u => !bit e.noUds u
def FrameEntry.ports (e : FrameEntry) : List Nat := (List.range 128).filter (bit e.portMask ·)

/-- A partition's offset at a module time, in 1/16 ns: it slews at its rate over the 10 µs that follow a
measurement (R71), and in holdover goes on at its last rate (R70). -/
def Discipline.offsetAt (d : Discipline) (now : Nat) : Int :=
  let dt := if d.sync = 3 then now - d.since else min (now - d.since) 10000
  d.offset + d.rate * (dt : Int) / 10000

/-- The discipline with its offset taken at a module time, in a state of Table R70. -/
def Discipline.rebase (d : Discipline) (now sync : Nat) : Discipline :=
  { d with offset := d.offsetAt now, since := now, sync }

/-- Partition time in units of 1/16 ns, modulo 2^64 (R69, R337). -/
def State.partTime16 (s : State) (p : Nat) : Nat :=
  twos 64 (16 * (s.now : Int) + (s.part p).disc.offsetAt s.now)

/-- Partition time in ns: module time plus the offset (R69). -/
def State.partTime (s : State) (p : Nat) : Nat :=
  twos 64 ((s.now : Int) + (s.part p).disc.offsetAt s.now / 16)

/-- Whether a partition's stream runs (R82, Table 03.12: ST_STATE 1, 2 or 3). -/
def Stream.running (st : Stream) : Bool := st.state == 1 || st.state == 2 || st.state == 3

/-- The partition's committed image's policy, or the default (R28, R399). -/
def Part.policy (q : Part) : Policy := match q.active with | some i => i.policy | none => {}

/-- The partition's committed cadence, or the default of R74. -/
def Part.cadence (q : Part) : Cadence := match q.active with | some i => i.cadence | none => {}

/-- The number of the latest boundary of a cadence at a partition time (R73). -/
def latestTick (c : Cadence) (t : Nat) : Nat := (t - c.phase) / c.period

/-- The partition's step number for records of faults: 0xFFFF_FFFF if no stream runs (Table 12.2). -/
def Part.stepNow (q : Part) : Nat := if q.stream.running then q.stream.step else 0xFFFFFFFF

end Sys2Proof.Machine
end

