-- ==== Sys2Proof/Machine/Log.lean ====
section
/-! DEFINITION. Where events go: the error log and the logbook ring (20 R473 to R475), telemetry and
alerts to the hosts (17 R424), and the module's alert bits (18 Table 18.9). -/

namespace Sys2Proof.Machine

/-! ## Event records -/

/-- Slots of the logbook ring (Table 20.1). -/
def ringSlots : Nat := 55818

/-- Whether a kind is written whatever the bucket holds (Table 20.3). -/
def kindPriority (kind : Nat) : Bool := (1 ≤ kind && kind ≤ 7) || (0x33 ≤ kind && kind ≤ 0x36)

/-- Whether an event goes to the logbook ring (Table 20.3): every kind, but a line fault only of fault
kinds 2 to 9. -/
def kindToRing (kind : Nat) (payload : List Byte) : Bool :=
  kind != 0x10 || (2 ≤ leAt payload 8 1 && leAt payload 8 1 ≤ 9)

/-- The UTC of an event (R479): given only while the anchor is valid. -/
def Clock.utcAt (c : Clock) (t : Nat) : Option Nat :=
  if c.anchored then some ((c.baseUtc.toNat + 2 ^ 64 + t - c.baseMt.toNat) % 2 ^ 64) else none

/-- A page's erase count raised (R470). -/
def Logbook.erased (l : Logbook) (page : Nat) : Logbook :=
  { l with erases := place l.erases page 0 (look l.erases page 0 + 1) }

/-- A record written at the head of the logbook ring (R474), whose pages are 138 to 1023. When it fills a
page the next page is erased. -/
def Logbook.writeRing (l : Logbook) (r : EventRec) : Logbook :=
  if l.flashFault then l
  else
    let h := (l.headSlot + 1) % ringSlots
    if h % 63 == 0 then
      ({ l with ring := (r :: l.ring).take (ringSlots - 63), headSlot := h, erasing := true }).erased
        (138 + h / 63)
    else { l with ring := r :: l.ring, headSlot := h }

/-- A record kept from the logbook for want of a token (R475): counted, and its time taken into the
span of the next summary. -/
def Logbook.suppress (l : Logbook) (t : Nat) : Logbook :=
  { l with suppressed := sat l.suppressed
           span := match l.span with
             | none => some (1, t, t)
             | some (n, a, _) => some (n + 1, a, t) }

/-- An event accepted by the control die (R473, R475). -/
def Logbook.accept (l : Logbook) (r : EventRec) : Logbook :=
  let l1 : Logbook := { l with errors := l.errors.push 4096 r, seq := (l.seq + 1) % 0xFFFFFFFF }
  if !kindToRing r.kind r.payload then l1
  else if kindPriority r.kind then l1.writeRing r
  else if l1.bucket == 0 then l1.suppress r.time
  else ({ l1 with bucket := l1.bucket - 1 }).writeRing r

/-- The event record of an event now. -/
def State.eventRec (s : State) (kind site part : Nat) (payload : List Byte) : EventRec :=
  { seq := s.ctrl.log.seq, boot := s.ctrl.log.boot, time := s.now,
    utc := s.ctrl.clock.utcAt s.now, kind, site, partition := part, payload := slice payload 0 32 }

/-- An event sent to the error log and the logbook: its kind, the reporting window (0xFF for the
module), the partition (0xFF for none) and its payload (Tables 20.2, 20.3). -/
def logEvent (kind site part : Nat) (payload : List Byte) (s : State) : State :=
  s.modLog fun l => l.accept (s.eventRec kind site part payload)

/-- An event that the spec sends to the error log alone, with no kind of Table 20.3. -/
def errorOnly (site part : Nat) (names : List Nat) (s : State) : State :=
  s.modLog fun l =>
    { l with errors := l.errors.push 4096
               (s.eventRec (Config.plainKind % 256) site part (Config.plainPayload names))
             seq := (l.seq + 1) % 0xFFFFFFFF }

/-- The 64 bytes of an event record (Table 20.2). -/
def EventRec.bytes (r : EventRec) : List Byte :=
  let body := leBytes 4 r.seq ++ leBytes 4 r.boot ++ leBytes 8 r.time ++
    leBytes 8 (r.utc.getD 0) ++ leBytes 1 r.kind ++ leBytes 1 r.site ++ leBytes 1 r.partition ++
    leBytes 1 (b2n r.utc.isSome) ++ slice r.payload 0 32
  body ++ leBytes 4 (crc32c body).toNat

/-- A partition's number as an event names it. -/
def partCode (p : Option Nat) : Nat := p.getD 0xFF

/-- The windows of Table 11.3. -/
def winCd (d : Nat) : Nat := d
def winHub (h : Nat) : Nat := 0x20 + h
def winUd (u : Nat) : Nat := 0x40 + u
def winLe (m : Nat) : Nat := 0x60 + m
def winCtrl : Nat := 0x70

/-! ## Telemetry and alerts -/

/-- The code of a telemetry item. -/
def Telem.code : Telem → Nat
  | .completion .. => 0
  | .fault .. => 1
  | .squall .. => 2
  | .fennel .. => 3
  | .stepWord .. => 4
  | .partitionResetDone .. => 5
  | .alertTime => 6
  | .alertAbandoned .. => 7
  | .alertInputLost .. => 8
  | .alertGranule .. => 9
  | .alertMessage .. => 10
  | .alertVerdict .. => 11
  | .alertPortDown .. => 12
  | .alertPeerDark .. => 13
  | .alertPeer .. => 14
  | .alertStall .. => 15
  | .alertLaser .. => 16
  | .alertCut .. => 17
  | .alertRingBroken .. => 18
  | .alertHot .. => 19
  | .segmentBytes .. => 20

/-- What a telemetry item tells, as numbers. -/
def Telem.fields : Telem → List Nat
  | .completion r u st late => [r.die, r.step, r.cmd, u, st, late]
  | .fault f => [f.time, f.kind, f.source, f.site, f.pc, f.line, f.address, f.step, f.stored.toNat,
      f.computed.toNat]
  | .squall d q => [d, q.start, q.stop, q.block, q.kind, q.clockMin, twos 16 q.tempMax, q.currentMax,
      q.step, q.segment]
  | .fennel d f => [d, f.time, f.step, f.cmd, f.engine, f.tile, f.row, f.column, f.chunks,
      f.after.hi.toNat, f.after.lo.toNat, f.before.hi.toNat, f.before.lo.toNat, f.reference.toNat,
      f.tolerance.toNat, f.difference.toNat]
  | .stepWord d rs => d :: rs
  | .partitionResetDone p => [p]
  | .alertTime => []
  | .alertAbandoned r u a => [r.die, r.step, r.cmd, u, a]
  | .alertInputLost r => [r.die, r.step, r.cmd]
  | .alertGranule a b c d => [a, b, c, d]
  | .alertMessage a b c d => [a, b, c, d]
  | .alertVerdict a b c => [a, b, c]
  | .alertPortDown a b => [a, b]
  | .alertPeerDark a => [a]
  | .alertPeer a b c d e => [a, b, c, d, e]
  | .alertStall a b c d e => [a, b, c, d, e]
  | .alertLaser a b c => [a, b, c]
  | .alertCut a b => [a, b]
  | .alertRingBroken a => [a]
  | .alertHot a => [a]
  | .segmentBytes st d bs => st :: d :: bs.flatMap fun x => [x.1, x.2]

/-- An item's bytes. -/
def Telem.bytes (t : Telem) : List Byte := Config.telemItem t.code t.fields

/-- Items held, oldest first, with the oldest discarded while they pass 256 KiB (R424): those kept,
and how many were discarded. -/
def trimTelem : List Telem → List Telem × Nat
  | [] => ([], 0)
  | t :: ts =>
    if ((t :: ts).map fun x => x.bytes.length).foldl (· + ·) 0 ≤ 262144 then (t :: ts, 0)
    else ((trimTelem ts).1, (trimTelem ts).2 + 1)

/-- The outbound buffer of a port, in bytes (R424). -/
def outBuffer : Nat := 4194304

/-- Bytes in the outbound buffer: the blocks sent that no ack covers. -/
def Baith.buffered (q : Baith) : Nat := q.unacked.foldl (fun n x => n + x.payload.length) 0

/-- A telemetry item as a block (Table 17.2). -/
def Telem.block (t : Telem) : Block :=
  { kind := 0x09, more := false, seq := 0, tag := 0
    payload := slice t.bytes 0 (max 4 (min 65536 (ceilDiv t.bytes.length 4 * 4))) }

/-- The next block that would be sent, and the port without it in its queues: the oldest that waits, or else the
oldest telemetry item, those held while the buffer was full last. -/
def Baith.nextOut (q : Baith) : Option (Block × Baith) :=
  match q.outQueue, q.telemetry, q.heldTelem with
  | x :: r, _, _ => some (x, { q with outQueue := r })
  | [], t :: r, _ => some (t.block, { q with telemetry := r })
  | [], [], t :: r => some (t.block, { q with heldTelem := r })
  | [], [], [] => none

/-- Whether the outbound buffer is full: it has no room for the next block (R424). -/
def Baith.full (q : Baith) : Bool :=
  match q.nextOut with
  | some (x, _) => outBuffer < q.buffered + x.payload.length
  | none => outBuffer ≤ q.buffered

/-- A telemetry item for a port's host: it waits to be sent; while the outbound buffer is full it is held in the
separate queue of 256 KiB, whose oldest items are discarded and counted (R424). -/
def Baith.telem (q : Baith) (t : Telem) : Baith :=
  if q.full || !q.heldTelem.isEmpty then
    let r := trimTelem (q.heldTelem ++ [t])
    { q with heldTelem := r.1, telemDrop := satAdd q.telemDrop r.2 }
  else { q with telemetry := q.telemetry ++ [t] }

/-- Telemetry or an alert to a partition's host. -/
def telem (p : Nat) (t : Telem) (s : State) : State :=
  s.modBp (s.part p).frame.hostPort fun q => q.telem t

/-- Telemetry or an alert to the host of a unit's partition, if it has one. -/
def telemTo (p : Option Nat) (t : Telem) (s : State) : State :=
  match p with
  | some p => telem p t s
  | none => s

/-- An alert to the host of every present partition. -/
def telemAll (t : Telem) (s : State) : State :=
  forAll partNums (fun p u => if (u.part p).present then telem p t u else u) s

/-- A bit of MOD_ALERT set (Table 18.9). -/
def raiseAlert (i : Nat) (s : State) : State :=
  s.modMod fun m => { m with alert := m.alert ||| 2 ^ i }

/-! ## Fault records -/

/-- The 32 bytes of a fault record (Table 12.2). -/
def FaultRec.bytes (f : FaultRec) : List Byte :=
  leBytes 8 f.time ++ leBytes 1 f.kind ++ leBytes 1 f.source ++ leBytes 1 f.site ++ leBytes 1 f.pc ++
    leBytes 4 f.line ++ leBytes 8 f.address ++ leBytes 4 f.step ++ leBytes 2 f.computed.toNat ++
    leBytes 2 f.stored.toNat

/-- Whether a fault kind is a LINE_BAD event: a read that failed twice under R291, other than one that refused a
partial write (kind 5), which has a count of its own. -/
def lineBadKind (k : Nat) : Bool := k != 1 && k != 5

/-- A fault record sent to the error log and the partition's host (R297). LINE_BAD events and Breeze
repairs are counted among the lifetime counters (Table 20.4). -/
def sendFault (site : Nat) (p : Option Nat) (f : FaultRec) (s : State) : State :=
  let s := s.modLog fun l =>
    { l with live := { l.live with
        lineBad := if lineBadKind f.kind then sat l.live.lineBad else l.live.lineBad
        repaired := if f.kind == 8 then sat l.live.repaired else l.live.repaired } }
  telemTo p (.fault f) (logEvent 0x10 site (partCode p) f.bytes s)

end Sys2Proof.Machine
end

