-- ==== Sys2Proof/Machine/Address.lean ====
section
/-! DEFINITION. From a region's byte to its place in a stack (11 R272 to R275), through the retire
table (12 R298), and back. -/

namespace Sys2Proof.Machine

/-- Bytes of a pseudo-channel, 2.25 GiB (R266). -/
def pcBytes : Nat := 2415919104
/-- Bytes of a channel, 4.5 GiB (R266). -/
def chanBytes : Nat := 4831838208
/-- The spare area of a stack, 256 MiB (R39). -/
def spareBytes : Nat := 268435456

/-- Channels in use (HUB_CHAN_USE). -/
def chanCount (use : Half) : Nat := ((List.range 16).filter (bit use.toNat ·)).length
/-- Pseudo-channels in use, ascending (R275). -/
def pcsInUse (use : Half) : List Nat := (List.range 32).filter fun q => bit use.toNat (q / 2)
/-- Usable capacity (R39). -/
def usableBytes (use : Half) : Nat := chanCount use * chanBytes - spareBytes

/-- The pseudo-channel and the offset in it of a stack-local byte (R275). -/
def spreadPc (use : Half) (loc : Nat) : Nat × Nat :=
  let p := 2 * chanCount use
  let u := loc / 256
  ((pcsInUse use).getD (u % p) 0, u / p * 256 + loc % 256)

/-- The entry of the retire table in force for granule j of pseudo-channel q, if any (R298). -/
def retFind (t : List (Nat × RetEntry)) (q j : Nat) : Option RetEntry :=
  (t.find? fun e => e.2.valid && e.2.q == q && e.2.granule == j).map (·.2)

/-- A place after the retire table (R298). -/
def throughRet (t : List (Nat × RetEntry)) (q off : Nat) : Nat × Nat :=
  match retFind t q (off / 2048) with
  | some e => (q, e.spare * 2048 + off % 2048)
  | none => (q, off)

/-- The pseudo-channel and offset at which a hub holds a stack-local byte. -/
def Hub.place (h : Hub) (loc : Nat) : Nat × Nat :=
  let a := spreadPc h.mem.chanUse loc
  throughRet h.chk.ret a.1 a.2

/-- The physical line of a place: the pseudo-channel times its lines plus offset div 64. -/
def physLine (a : Nat × Nat) : Nat := a.1 * (pcBytes / 64) + a.2 / 64

/-- The seal of a stack line (R288). -/
def stackSeal (a : Nat × Nat) : Nat := a.1 * 2 ^ 26 + a.2 / 64

/-! ## Regions -/

/-- A partition's regions; none without a committed image (R58). -/
def Part.regions (q : Part) : List Region := match q.active with | some i => i.regions | none => []

/-- Region r of a partition, if its entry is in use. -/
def Part.region? (q : Part) (r : Nat) : Option Region :=
  match q.regions[r]? with
  | some g => if g.length = 0 then none else some g
  | none => none

/-- A region's element width (R247, R274): 4, 2 or 1 bytes; regions without one count as 1. An update entry
with no elements names its regions like any other (log entry 37). -/
def elemWidth (i : JobImage) (st : Stream) (r : Nat) : Nat :=
  match i.regions[r]? with
  | none => 1
  | some g =>
    match g.cls with
    | 1 => 4
    | 2 => 4
    | 3 =>
      if i.upd.entries.any (fun e => e.fp8 == r) then 1
      else if i.upd.entries.any (fun e => e.bf16 == r) then 2
      else 1
    | 4 => if st.running then look st.width r 4 else 4
    | _ => 1

/-- The regions of non-zero length in increasing order of base, with their indices (R272). -/
def sortedRegions (rs : List Region) : List (Nat × Region) :=
  sortBy (fun x => x.2.base) (((List.range rs.length).zip rs).filter fun x => x.2.length != 0)

/-- Interleaved shares packed upward: the share bases by region, and I (R272). -/
def packShares (n : Nat) : List (Nat × Region) → Nat → List (Nat × Nat) × Nat
  | [], at0 => ([], at0)
  | (r, g) :: rest, at0 =>
    if g.placement == 0 then
      let x := packShares n rest (at0 + g.length / n)
      ((r, at0) :: x.1, x.2)
    else packShares n rest at0

/-- Single-stack shares of one stack packed upward from I (R272). -/
def packSingles (stack : Nat) : List (Nat × Region) → Nat → List (Nat × Nat)
  | [], _ => []
  | (r, g) :: rest, at0 =>
    if g.placement == 1 && g.stack == stack then
      (r, at0) :: packSingles stack rest (at0 + g.length)
    else packSingles stack rest at0

/-- I of R272 for n stacks. -/
def interleavedEnd (rs : List Region) (n : Nat) : Nat := (packShares n (sortedRegions rs) 0).2

/-- The share base of region r (R272). -/
def shareBase (rs : List Region) (n r : Nat) : Nat :=
  match rs[r]? with
  | none => 0
  | some g =>
    let l := packShares n (sortedRegions rs) 0
    if g.placement == 0 then look l.1 r 0
    else look (packSingles g.stack (sortedRegions rs) l.2) r 0

/-- The stack and stack-local offset of byte o of region r (R273). -/
def Part.place? (q : Part) (r o : Nat) : Option (Nat × Nat) :=
  match q.active, q.region? r with
  | some i, some g =>
    let l := q.frame.stacks
    let sb := shareBase i.regions l.length r
    if o ≥ g.length then none
    else if g.placement == 1 then some (g.stack, sb + o)
    else
      let blk := 4096 * elemWidth i q.stream r
      let b := o / blk
      some (l.getD (b % l.length) 0, sb + b / l.length * blk + o % blk)
  | _, _ => none

/-- The region and byte offset that stack h holds at a stack-local offset, if any. -/
def Part.regionAt (q : Part) (h loc : Nat) : Option (Nat × Nat) :=
  match q.active with
  | none => none
  | some i =>
    let l := q.frame.stacks
    let n := l.length
    (List.range i.regions.length).findSome? fun r =>
      match q.region? r with
      | none => none
      | some g =>
        let sb := shareBase i.regions n r
        if g.placement == 1 then
          if g.stack == h && sb ≤ loc && loc < sb + g.length then some (r, loc - sb) else none
        else if sb ≤ loc && loc < sb + g.length / n then
          let blk := 4096 * elemWidth i q.stream r
          some (r, ((loc - sb) / blk * n + l.findIdx (· == h)) * blk + (loc - sb) % blk)
        else none

/-- The region that holds a partition address, with the byte offset in it (R271). -/
def Part.regionOfAddr (q : Part) (a : Nat) : Option (Nat × Nat) :=
  (List.range q.regions.length).findSome? fun r =>
    match q.region? r with
    | some g => if g.base ≤ a && a < g.base + g.length then some (r, a - g.base) else none
    | none => none

/-- The module address of a partition address (R269). -/
def memAddr (p a : Nat) : Nat := p * 2 ^ 44 + a

/-- The module address of a control-space register (R269). -/
def ctlAddr (win off : Nat) : Nat := 3 * 2 ^ 46 + win * 2 ^ 24 + off

/-- The module address of the stack-local line, or all ones where it lies in no region (Table 12.2). -/
def State.lineAddr (s : State) (h loc : Nat) : Nat :=
  match s.partOfHub h with
  | none => 2 ^ 64 - 1
  | some p =>
    match (s.part p).regionAt h (loc / 64 * 64) with
    | some (r, o) => memAddr p (((s.part p).region? r).elim 0 (·.base) + o)
    | none => 2 ^ 64 - 1

end Sys2Proof.Machine
end

