-- ==== Sys2Proof/Machine/Lines.lean ====
section
/-! DEFINITION. Lines and their checks: reading with one refetch (12 R288 to R293), the shared cache
(11 R277 to R280) and the scratchpad (11 R285), with their fault records (12 R297). -/

namespace Sys2Proof.Machine

/-! ## One memory of checked lines -/

/-- Bytes written from address a on. -/
def Memory.write : Memory → Nat → List Byte → Memory
  | m, _, [] => m
  | m, a, b :: bs => Memory.write (place m a 0 b) (a + 1) bs

/-- n bytes read from address a on. -/
def Memory.read (m : Memory) (a n : Nat) : List Byte := (List.range n).map fun i => look m (a + i) 0

/-- n bytes from address a on set to zero. -/
def Memory.clear (m : Memory) (a n : Nat) : Memory := m.filter fun c => !(a ≤ c.1 && c.1 < a + n)

/-- Whether a memory is in its one canonical form: addresses strictly rising, no byte equal to what an unlisted
address reads as. -/
def Memory.wf : Memory → Bool
  | [] => true
  | [c] => c.2 != 0
  | c :: d :: r => c.2 != 0 && c.1 < d.1 && Memory.wf (d :: r)

/-- The 64 bytes of a line. -/
def LineStore.data (st : LineStore) (l : Nat) : List Byte := Memory.read st.bytes (64 * l) 64

/-- The stored check of a line whose seal is sl (R288). -/
def LineStore.stored (st : LineStore) (l sl : Nat) : Half :=
  match st.bad.find? fun e => e.1 == l with
  | some e => e.2
  | none => lineCheck (st.data l) sl

/-- A line stored with a check: kept apart only where it is not the one computed. -/
def LineStore.put (st : LineStore) (l sl : Nat) (data : List Byte) (check : Half) : LineStore :=
  let bad := st.bad.filter fun e => e.1 != l
  { st with bytes := Memory.write st.bytes (64 * l) (slice data 0 64)
            bad := if check = lineCheck (slice data 0 64) sl then bad
                   else insertBy (·.1) (l, check) bad
            glitch := st.glitch.filter (· != l) }

/-- A whole-line write: the check is computed from the data (R289, R290). -/
def LineStore.write (st : LineStore) (l sl : Nat) (data : List Byte) : LineStore :=
  st.put l sl data (lineCheck (slice data 0 64) sl)

/-- One read of a line: whether its check passed, the data, and the stored and computed checks. -/
structure OneRead where
  store : LineStore
  ok : Bool
  data : List Byte
  stored : Half
  computed : Half

/-- One read of a line. `off` says that its place cannot be reached, salt draws what a failed place
delivers. -/
def LineStore.readOnce (st : LineStore) (l sl salt : Nat) (off : Bool) : OneRead :=
  let d := st.data l
  let c := st.stored l sl
  if off || st.hard.contains l then ⟨st, false, d, c, Config.garbledCheck salt⟩
  else if st.glitch.contains l then
    ⟨{ st with glitch := st.glitch.filter (· != l) }, false, d, c, Config.garbledCheck salt⟩
  else ⟨st, c == lineCheck d sl, d, c, lineCheck d sl⟩

/-- What a read with one refetch came to (R291). -/
inductive Fate
  | good | recovered | failed
deriving DecidableEq, Repr

/-- A read with one refetch. -/
structure TwoRead where
  store : LineStore
  fate : Fate
  data : List Byte
  stored : Half
  computed : Half

/-- A line read, and read once more from the same place when its check is bad (R291). -/
def LineStore.readTwice (st : LineStore) (l sl salt : Nat) (off : Bool) : TwoRead :=
  let a := st.readOnce l sl salt off
  if a.ok then ⟨a.store, .good, a.data, a.stored, a.computed⟩
  else
    let b := a.store.readOnce l sl salt off
    ⟨b.store, if b.ok then .recovered else .failed, b.data, b.stored, b.computed⟩

/-- An upset of a line of a memory (Syntax `Upset`). -/
def LineStore.upset (st : LineStore) (l sl : Nat) : UpsetKind → LineStore
  | .glitch => if st.glitch.contains l then st else { st with glitch := insertBy id l st.glitch }
  | .hard => if st.hard.contains l then st else { st with hard := insertBy id l st.hard }
  | .check c => st.put l sl (st.data l) c
  | .byte i v => st.put l sl (patch (st.data l) (i % 64) [v]) (st.stored l sl)

/-! ## The hub and its shared cache -/

/-- A line event of a hub, before its record is made: its fault kind, source, stack-local line and
checks. -/
structure RawFault where
  kind : Nat
  source : Nat
  line : Nat
  stored : Half
  computed : Half

/-- A hub after a read or write, the data if the line did not fail, and the line events. -/
structure HubRes where
  hub : Hub
  data : Option (List Byte) := none
  faults : List RawFault := []

def Hub.setStack (h : Hub) (st : LineStore) : Hub := { h with mem := { h.mem with stack := st } }
def Hub.setCache (h : Hub) (c : List CacheLine) : Hub := { h with mem := { h.mem with cache := c } }

/-- Whether the channel that holds a place failed training, so that no access to it succeeds (R267). -/
def Hub.unreachable (h : Hub) (a : Nat × Nat) : Bool := bit h.mem.trainFail.toNat (a.1 / 2)

/-- The sets of the shared cache (R278). -/
def cacheSets : Nat := 32768

/-- A cached line read for a write-back (R289): written to the stack as it is, check and all (R292);
its own check is judged with one re-read from the cache. -/
def Hub.flush (h : Hub) (c : CacheLine) : HubRes :=
  let a := h.place (64 * c.line)
  let sl := stackSeal a
  let want := lineCheck c.data sl
  let fs : List RawFault :=
    if c.check != want then [⟨4, 0x23, c.line, c.check, want⟩]
    else if c.glitch then [⟨1, 0x23, c.line, c.check, want⟩] else []
  { hub := if h.unreachable a then h else h.setStack (h.mem.stack.put (physLine a) sl c.data c.check)
    faults := fs }

/-- Room made in a line's set: the least recently used line replaced when every open way is taken,
written back if it is dirty (R278). The result's hub lacks the victim; the way is given. -/
def Hub.makeRoom (h : Hub) (line : Nat) : HubRes × Nat :=
  let mine := h.mem.cache.filter fun c => c.line % cacheSets == line % cacheSets && c.way < h.mem.ways
  if mine.length < h.mem.ways then
    ({ hub := h }, ((List.range h.mem.ways).find? fun w => !(mine.any fun c => c.way == w)).getD 0)
  else match mine.getLast? with
    | none => ({ hub := h }, 0)
    | some v =>
      let h1 := h.setCache (h.mem.cache.filter fun c => c.line != v.line)
      if v.dirty then (h1.flush v, v.way) else ({ hub := h1 }, v.way)

/-- A line put into the cache as its most recently used. -/
def Hub.fillLine (h : Hub) (line : Nat) (data : List Byte) (check : Half) (dirty : Bool) : HubRes :=
  let r := h.makeRoom line
  { r.1 with hub := r.1.hub.setCache (⟨line, r.2, dirty, data, check, false⟩ :: r.1.hub.mem.cache) }

/-- The cached copy of a line. -/
def Hub.cached (h : Hub) (line : Nat) : Option CacheLine := h.mem.cache.find? fun c => c.line == line

/-- A cached line replaced by c, most recently used. -/
def Hub.touch (h : Hub) (c : CacheLine) : Hub :=
  h.setCache (c :: h.mem.cache.filter fun x => x.line != c.line)

def Hub.hit (h : Hub) : Hub := { h with mem := { h.mem with hits := wrap64 h.mem.hits 1 } }
def Hub.miss (h : Hub) : Hub := { h with mem := { h.mem with misses := wrap64 h.mem.misses 1 } }

/-- A line read from the stack itself, past the cache, with one refetch (R291). -/
def Hub.readStack (h : Hub) (line src salt : Nat) : HubRes :=
  let a := h.place (64 * line)
  let t := h.mem.stack.readTwice (physLine a) (stackSeal a) salt (h.unreachable a)
  let h1 := h.setStack t.store
  match t.fate with
  | .good => { hub := h1, data := some t.data }
  | .recovered => { hub := h1, data := some t.data, faults := [⟨1, src, line, t.stored, t.computed⟩] }
  | .failed => { hub := h1, data := none, faults := [⟨3, src, line, t.stored, t.computed⟩] }

/-- A line read through the hub (R279, R289, R291). `alloc` says whether a miss allocates. -/
def Hub.read (h : Hub) (alloc : Bool) (line src salt : Nat) : HubRes :=
  match h.cached line with
  | some c =>
    let h1 := (h.hit).touch { c with glitch := false }
    let a := h.place (64 * line)
    let want := lineCheck c.data (stackSeal a)
    if c.check == want && !c.glitch then { hub := h1, data := some c.data }
    else if c.dirty then
      if c.check == want then { hub := h1, data := some c.data, faults := [⟨1, src, line, c.check, want⟩] }
      else { hub := h1, data := none, faults := [⟨4, src, line, c.check, want⟩] }
    else
      let b := h.mem.stack.readOnce (physLine a) (stackSeal a) salt (h.unreachable a)
      let h2 := h1.setStack b.store
      if b.ok then
        { hub := h2.touch { c with glitch := false, data := b.data, check := b.stored }
          data := some b.data, faults := [⟨1, src, line, b.stored, b.computed⟩] }
      else { hub := h2, data := none, faults := [⟨3, src, line, b.stored, b.computed⟩] }
  | none =>
    let r := h.miss.readStack line src salt
    match r.data, alloc with
    | some d, true =>
      let f := r.hub.fillLine line d (lineCheck d (stackSeal (h.place (64 * line)))) false
      { f with data := some d, faults := r.faults ++ f.faults }
    | _, _ => r

/-- A whole line written at the hub (R279, R290). `wb` says that the region's class is written back
and allocated; otherwise it is written through. A line present in the cache is updated either way.
Any access to a channel that failed training fails (R267): nothing is stored or cached, and the result has no data. -/
def Hub.write (h : Hub) (wb : Bool) (line : Nat) (data : List Byte) : HubRes :=
  let a := h.place (64 * line)
  let sl := stackSeal a
  let d := slice data 0 64
  let ck := lineCheck d sl
  let through := fun (x : Hub) => x.setStack (x.mem.stack.write (physLine a) sl d)
  if h.unreachable a then { hub := h, data := none }
  else match h.cached line with
  | some c =>
    let c' : CacheLine := { c with data := d, check := ck, glitch := false }
    if wb then { hub := h.hit.touch { c' with dirty := true }, data := some d }
    else { hub := through (h.hit.touch { c' with dirty := false }), data := some d }
  | none =>
    if wb then { h.miss.fillLine line d ck true with data := some d }
    else { hub := through h.miss, data := some d }

/-- Every dirty line written back and left clean (R280, R268). -/
def Hub.cleanAll (h : Hub) : HubRes :=
  h.mem.cache.foldl
    (fun r c =>
      if c.dirty then
        let f := r.hub.flush c
        { hub := f.hub.setCache (f.hub.mem.cache.map fun x =>
            if x.line == c.line then { x with dirty := false, glitch := false } else x)
          faults := r.faults ++ f.faults }
      else r)
    { hub := h }

/-- Lines of ways from w on written back if dirty, and invalidated (R278). -/
def Hub.dropWays (h : Hub) (w : Nat) : HubRes :=
  let out := h.mem.cache.filter fun c => w ≤ c.way
  let r := out.foldl
    (fun r c => if c.dirty then let f := r.hub.flush c; { hub := f.hub, faults := r.faults ++ f.faults }
                else r) ({ hub := h } : HubRes)
  { r with hub := r.hub.setCache (r.hub.mem.cache.filter fun c => c.way < w) }

/-- Dirty lines in the cache (HUB_DIRTY). -/
def HubMem.dirtyCount (m : HubMem) : Nat := (m.cache.filter (·.dirty)).length

/-! ## Fault records -/

/-- One line event of hub h recorded (R297, Table 12.5). -/
def hubFault (h : Nat) (f : RawFault) (s : State) : State :=
  let a := (s.hub h).place (64 * f.line)
  let p := s.partOfHub h
  let rec' : FaultRec :=
    { time := s.now, kind := f.kind, source := f.source, site := h, pc := a.1, line := a.2 / 64,
      address := s.lineAddr h (64 * f.line), step := p.elim 0xFFFFFFFF fun p => (s.part p).stepNow,
      stored := f.stored, computed := f.computed }
  let s := s.modChk h fun c =>
    { c with log := c.log.push 64 rec'
             recovered := if f.kind == 1 then sat c.recovered else c.recovered
             badCount := if lineBadKind f.kind then sat c.badCount else c.badCount
             partials := if f.kind == 5 then sat c.partials else c.partials }
  sendFault (winHub h) p rec' s

/-- A hub's result taken into the state, its line events recorded. -/
def State.setHub (s : State) (h : Nat) (r : HubRes) : State :=
  let s := s.modHub h fun _ => r.hub
  if r.faults.isEmpty then s else forAll r.faults (hubFault h) s.drawn

/-- One line event of a die's scratchpad recorded (R297, Table 12.6). -/
def scratchFault (d kind src line : Nat) (stored computed : Half) (s : State) : State :=
  let p := s.partOfCd d
  let rec' : FaultRec :=
    { time := s.now, kind, source := src, site := d, pc := 0xFF, line, address := 2 ^ 64 - 1,
      step := p.elim 0xFFFFFFFF fun p => (s.part p).stepNow, stored, computed }
  let s := s.drawn.modScratch d fun c =>
    { c with log := c.log.push 64 rec'
             recovered := if kind == 1 then sat c.recovered else c.recovered
             badCount := if lineBadKind kind then sat c.badCount else c.badCount
             partials := if kind == 5 then sat c.partials else c.partials }
  sendFault (winCd d) p rec' s

/-! ## Spans of bytes -/

/-- Bytes of a scratchpad (R285). -/
def scratchBytes : Nat := 2 ^ 27

/-- The part of one line that a span touches: its offset from the span's start, the line, the first
byte in the line and the count. -/
structure Piece where
  off : Nat
  line : Nat
  from' : Nat
  count : Nat

/-- The pieces of n bytes from address a, line by line. -/
def pieces (a n : Nat) : List Piece :=
  if n = 0 then []
  else (List.range ((a + n - 1) / 64 + 1 - a / 64)).map fun i =>
    let l := a / 64 + i
    let lo := max a (64 * l)
    let hi := min (a + n) (64 * l + 64)
    ⟨lo - a, l, lo - 64 * l, hi - lo⟩

/-- A run of bytes read, none where its line failed: the offset from the span's start and the count. -/
structure Chunk where
  off : Nat
  count : Nat
  data : Option (List Byte)

/-- The bytes of chunks in order, those of failed lines taken as 0x00 (R292). -/
def chunkBytes (cs : List Chunk) : List Byte :=
  cs.flatMap fun c => c.data.getD (List.replicate c.count 0)

/-- What reading or writing a span came to: the state, the chunks read, and the address of the first
line that failed. -/
structure SpanRes where
  state : State
  chunks : List Chunk := []
  bad : Option Nat := none

/-- The first of two failing addresses. -/
def firstBad (a b : Option Nat) : Option Nat := match a with | some x => some x | none => b

/-! ## Scratchpad -/

/-- One scratchpad line read by unit src (R285, R289, R291). -/
def readScratchLine (d src line : Nat) (s : State) : State × Option (List Byte) :=
  let t := (s.cd d).scratch.store.readTwice line line s.free false
  let s1 := s.modScratch d fun c => { c with store := t.store }
  match t.fate with
  | .good => (s1, some t.data)
  | .recovered => (scratchFault d 1 src line t.stored t.computed s1, some t.data)
  | .failed => (scratchFault d 2 src line t.stored t.computed s1, none)

/-- n scratchpad bytes read from address a by unit src. -/
def readScratch (d src a n : Nat) (s : State) : SpanRes :=
  (pieces a n).foldl
    (fun r p =>
      let x := readScratchLine d src p.line r.state
      { state := x.1
        chunks := r.chunks ++ [⟨p.off, p.count, x.2.map fun b => slice b p.from' p.count⟩]
        bad := firstBad r.bad (if x.2.isSome then none else some (64 * p.line)) })
    { state := s }

/-- Part of a scratchpad line written by unit src: a whole line is written without reading; part of
one merges into the line, and is refused if that line fails twice (R285, R293). -/
def writeScratchPiece (d src : Nat) (p : Piece) (bs : List Byte) (s : State) : State × Bool :=
  if p.count = 64 then
    (s.modScratch d fun c => { c with store := c.store.write p.line p.line bs }, true)
  else
    let t := (s.cd d).scratch.store.readTwice p.line p.line s.free false
    let s1 := s.modScratch d fun c => { c with store := t.store }
    let merged := patch t.data p.from' bs
    match t.fate with
    | .good => (s1.modScratch d fun c => { c with store := c.store.write p.line p.line merged }, true)
    | .recovered =>
      (scratchFault d 1 src p.line t.stored t.computed
        (s1.modScratch d fun c => { c with store := c.store.write p.line p.line merged }), true)
    | .failed => (scratchFault d 5 src p.line t.stored t.computed s1, false)

/-- Bytes written to a scratchpad from address a by unit src. -/
def writeScratch (d src a : Nat) (bs : List Byte) (s : State) : SpanRes :=
  (pieces a bs.length).foldl
    (fun r p =>
      let x := writeScratchPiece d src p (slice bs p.off p.count) r.state
      { state := x.1, bad := firstBad r.bad (if x.2 then none else some (64 * p.line)) })
    { state := s }

/-! ## Regions through the hub -/

/-- The paths of Table 11.5 and R281. -/
inductive Path
  | wide | narrow | ud | internal
deriving DecidableEq, Repr

/-- Whether a read miss allocates (Table 11.5). -/
def readAllocates (p : Path) (cls : Nat) : Bool :=
  match p with
  | .wide => cls == 0 || cls == 3 || cls == 5
  | .narrow => true
  | _ => false

/-- Whether a class is written back and allocated (Table 11.5). -/
def writesBack (cls : Nat) : Bool := cls == 0 || cls == 3 || cls == 5

/-- The traffic counters of a path (Table 11.7). -/
def HubMem.count (m : HubMem) (p : Path) (n : Nat) : HubMem :=
  match p with
  | .wide => { m with wideBytes := wrap64 m.wideBytes n }
  | .narrow => { m with narrowReads := wrap64 m.narrowReads 1 }
  | _ => m

/-- The line at byte o (a multiple of 64) of region r of partition p, read by unit src. A line of a
stack that has been cut out fails (Table 15.6). -/
def readRegionLine (p r o src : Nat) (path : Path) (s : State) : State × Option (List Byte) :=
  match (s.part p).place? r o with
  | none => (s, none)
  | some (h, loc) =>
    let cls := ((s.part p).region? r).elim 0 (·.cls)
    if s.isCut (.stack h) then (s, none)
    else
      let x := (s.hub h).read (readAllocates path cls) (loc / 64) src s.free
      ((s.setHub h x).modMem h fun m => m.count path 64, x.data)

/-- n bytes of region r read from byte o. Failing addresses are partition addresses. -/
def readRegion (p r o n src : Nat) (path : Path) (s : State) : SpanRes :=
  let base := ((s.part p).region? r).elim 0 (·.base)
  (pieces o n).foldl
    (fun x q =>
      let y := readRegionLine p r (64 * q.line) src path x.state
      { state := y.1
        chunks := x.chunks ++ [⟨q.off, q.count, y.2.map fun b => slice b q.from' q.count⟩]
        bad := firstBad x.bad (if y.2.isSome then none else some (base + 64 * q.line)) })
    { state := s }

/-- Part of a line of a region written: whole lines without reading, parts by merging (R290, R293). -/
def writeRegionPiece (p r src : Nat) (path : Path) (q : Piece) (bs : List Byte) (s : State) :
    State × Bool :=
  match (s.part p).place? r (64 * q.line) with
  | none => (s, false)
  | some (h, loc) =>
    let cls := ((s.part p).region? r).elim 0 (·.cls)
    let wb := writesBack cls
    if s.isCut (.stack h) then (s, false)
    else if q.count = 64 then
      let x := (s.hub h).write wb (loc / 64) bs
      ((s.setHub h x).modMem h fun m => if path = .narrow then m else m.count path 64, x.data.isSome)
    else
      let x := (s.hub h).read false (loc / 64) src s.free
      match x.data with
      | none =>
        let fs := x.faults.map fun f => if f.kind == 3 || f.kind == 4 then { f with kind := 5 } else f
        (s.setHub h { x with faults := fs }, false)
      | some old =>
        let s1 := s.setHub h x
        let y := (s1.hub h).write wb (loc / 64) (patch old q.from' bs)
        ((s1.setHub h y).modMem h fun m => if path = .narrow then m else m.count path q.count,
          y.data.isSome)

/-- Bytes written to region r from byte o by unit src. -/
def writeRegion (p r o src : Nat) (path : Path) (bs : List Byte) (s : State) : SpanRes :=
  let base := ((s.part p).region? r).elim 0 (·.base)
  (pieces o bs.length).foldl
    (fun x q =>
      let y := writeRegionPiece p r src path q (slice bs q.off q.count) x.state
      { state := y.1, bad := firstBad x.bad (if y.2 then none else some (base + 64 * q.line)) })
    { state := s }

/-- A physical upset enters (Syntax `Upset`). -/
def applyUpset (u : Upset) (s : State) : State :=
  match u.mem with
  | .scratch d => s.modScratch d fun c => { c with store := c.store.upset u.line u.line u.kind }
  | .stack h =>
    let a := (u.line / (pcBytes / 64), u.line % (pcBytes / 64) * 64)
    s.modMem h fun m => { m with stack := m.stack.upset u.line (stackSeal a) u.kind }
  | .cache h =>
    s.modMem h fun m =>
      { m with cache := m.cache.map fun c =>
          if c.line == u.line then
            match u.kind with
            | .glitch => { c with glitch := true }
            | .check k => { c with check := k }
            | .byte i v => { c with data := patch c.data (i % 64) [v] }
            | .hard => c
          else c }

end Sys2Proof.Machine
end

