-- ==== Sys2Proof/Machine/Hub.lean ====
section
/-! DEFINITION. Reductions at a stack hub (08 R205 to R219): granules and their cells, the four modes,
reading out, and what closes a granule. -/

namespace Sys2Proof.Machine

/-! ## Granules -/

/-- The element format of a format code; FP32 for a reserved one, which no checked record names. -/
def elemOf (code : Nat) : Elem := ((fmtOf code).map (·.1)).getD .fp32

/-- The elements of a granule of a landing format (R211). -/
def granuleElems (code : Nat) : Nat := 4096 / ((elemOf code).bits / 8)

/-- The cell-area bytes of an open granule (Table 08.1). -/
def granuleSpace (mode code contributions : Nat) : Nat :=
  match mode with
  | 1 => 16 * granuleElems code
  | 2 => 16 * granuleElems code + 4096 * contributions
  | 3 => 48 * granuleElems code
  | _ => 8 * 1024

/-- The open granule of a region. -/
def Reduce.open? (q : Reduce) (p g i : Nat) : Option Granule :=
  q.granules.find? fun x => x.part == p && x.region == g && x.index == i

/-- How a granule last closed, if it has (R209). -/
def Reduce.closed? (q : Reduce) (p g i : Nat) : Option Closed :=
  q.closed.find? fun x => x.part == p && x.region == g && x.index == i

/-- Whether byte o of region g of partition p lies in a granule that is open at its hub. -/
def granuleOpen (p g o : Nat) (s : State) : Bool :=
  match (s.part p).place? g o with
  | some (h, _) => (s.hub h).red.granules.any fun q =>
      q.part == p && q.region == g && q.index == o / 4096
  | none => false

/-- Whether any of n bytes of a region from byte o lies in an open granule, so that an access waits (R210). -/
def spanOpen (p g o n : Nat) (s : State) : Bool :=
  n != 0 && (List.range ((o + n - 1) / 4096 + 1 - o / 4096)).any fun i =>
    granuleOpen p g (4096 * (o / 4096 + i)) s

/-- An open granule replaced by g. -/
def Reduce.setGranule (q : Reduce) (g : Granule) : Reduce :=
  { q with granules := q.granules.map fun x =>
      if x.part == g.part && x.region == g.region && x.index == g.index then g else x }

/-- A granule closed: its cells freed, its closing record made, and its closing kept for the records of its step
(R208 to R210). -/
def Reduce.close (q : Reduce) (g : Granule) (completed : Bool) : Reduce :=
  { q with
    granules := q.granules.filter fun x =>
      !(x.part == g.part && x.region == g.region && x.index == g.index)
    cellFree := q.cellFree + g.space
    closed := ⟨g.part, g.region, g.index, g.step, completed⟩ ::
      q.closed.filter fun x => !(x.part == g.part && x.region == g.region && x.index == g.index)
    history := ⟨g.part, g.region, g.index, g.step, completed⟩ :: q.history }

/-- The partition address of an arrival's element. -/
def Arrival.addr (a : Arrival) (s : State) : Nat :=
  ((s.part a.part).region? a.region).elim 0 (·.base) + a.offset

/-- The NV record latched by the first event that raises NV (R219). -/
def Reduce.raiseNv (q : Reduce) (kind addr : Nat) (a : Arrival) : Reduce :=
  { q with
    flags := { q.flags with nv := true }
    nv := if q.nv.valid then q.nv else
      { valid := true, kind, addr, sender := BitVec.ofNat 32 (16 * a.srcModule + a.srcDie)
        ordinal := a.ordinal, step := a.step, value := a.bits } }

def Reduce.raise (q : Reduce) (f : Flags) : Reduce := { q with flags := q.flags.or f }

/-! ## Adding by the region's mode (R213 to R219) -/

/-- An arrival as an FP32 word, widened exactly (R213). -/
def Arrival.word (a : Arrival) : Word := (round32 .rne (Num.read (elemOf a.format) a.bits.toNat)).1

/-- An arrival added into a pair, its flags and NV events taken by the hub. -/
def pairAdd (addr : Nat) (a : Arrival) (q : Reduce) (p : Pair) : Reduce × Pair :=
  let r := addPair p a.word
  let q1 := q.raise r.2.1
  (if r.2.2 then q1.raiseNv 2 addr a else q1, r.1)

/-- Ticket order (R214): module, die, ordinal, element position. -/
def ticketKey (a : Arrival) : Nat :=
  ((a.srcModule * 16 + a.srcDie) * 2 ^ 32 + a.ordinal) * 2 ^ 32 + a.pos

/-- A finite value as a multiple of 2^-149 (R217). -/
def exactUnits : Num → Int
  | .fin n m e => sgn n (if 0 ≤ e + 149 then m <<< (e + 149).toNat else m >>> (-(e + 149)).toNat)
  | _ => 0

/-- An arrival added into an exact cell (R215). The arrival that makes both infinity counters non-zero
is kept for the NV record (R222). -/
def exactAdd (c : RedCell) (a : Arrival) : RedCell :=
  match Num.read (elemOf a.format) a.bits.toNat with
  | .nan _ _ _ => { c with nan := c.nan + 1 }
  | .inf neg =>
    let d : RedCell := if neg then { c with negInf := c.negInf + 1 } else { c with posInf := c.posInf + 1 }
    if d.posInf != 0 && d.negInf != 0 && c.raw.isEmpty then { d with raw := [a] } else d
  | x => { c with n := c.n + exactUnits x }

/-- An arrival added into an INT32 cell (R216), and whether OF is raised. -/
def intAdd (c : RedCell) (a : Arrival) : RedCell × Bool :=
  let v := wordInt c.value + wordInt a.bits
  ({ c with value := c.value + a.bits }, v < -(2 ^ 31 : Int) || v ≥ (2 ^ 31 : Int))

/-- An arrival counted and added into its cell. -/
def cellAdd (mode addr : Nat) (a : Arrival) (q : Reduce) (c : RedCell) : Reduce × RedCell :=
  let c := { c with count := c.count + 1 }
  let q := if mode != 4 && (Num.read (elemOf a.format) a.bits.toNat).signalling
    then q.raiseNv 1 addr a else q
  match mode with
  | 1 => let r := pairAdd addr a q c.pair; (r.1, { c with pair := r.2 })
  | 2 => (q, { c with raw := c.raw ++ [a] })
  | 3 => (q, exactAdd c a)
  | _ => let r := intAdd c a; (if r.2 then q.raise { ovf := true } else q, r.1)

/-! ## Reading out (R218, Table 08.3) -/

/-- One cell read out in its landing format: the hub with the flags raised, and the bits. `addr` is
the partition address of the cell's element. -/
def readCell (mode code addr : Nat) (q : Reduce) (c : RedCell) : Reduce × Nat :=
  let land := fun (q : Reduce) (x : Num) =>
    let r := convert (elemOf code) false .rne 0 false x
    (q.raise r.2, r.1)
  match mode with
  | 1 => land q c.pair.value
  | 2 =>
    let r := (sortBy ticketKey c.raw).foldl (fun r a => pairAdd addr a r.1 r.2) (q, ({} : Pair))
    land r.1 r.2.value
  | 3 =>
    let both := c.posInf != 0 && c.negInf != 0
    let q := match both, c.raw with
      | true, a :: _ => q.raiseNv 2 addr a
      | _, _ => q
    if c.nan != 0 || both then land q .qnan
    else if c.posInf != 0 then land q (.inf false)
    else if c.negInf != 0 then land q (.inf true)
    else land q (.fin (c.n < 0) c.n.natAbs (-149))
  | _ => (q, c.value.toNat)

/-- Every cell of a granule read out in order: the hub and the granule's bytes. -/
def readGranule (base : Nat) (g : Granule) (q : Reduce) : Reduce × List Byte :=
  let w := (elemOf g.format).bits / 8
  let r := (List.range (granuleElems g.format)).foldl
    (fun (r : Reduce × List Byte) k =>
      let c := readCell g.mode g.format (base + 4096 * g.index + k * w) r.1 (look g.cells k {})
      (c.1, r.2 ++ leBytes w c.2)) (q, [])
  r

/-- Whether every cell has counted the region's contributions (R208). -/
def Granule.full (g : Granule) : Bool :=
  g.cells.length == granuleElems g.format && g.cells.all fun c => c.2.count == g.contributions

/-- A granule that is complete is read out, written as whole lines, and closed (R208). -/
def completeGranule (h : Nat) (g : Granule) (s : State) : State :=
  let base := ((s.part g.part).region? g.region).elim 0 (·.base)
  let r := readGranule base g (s.hub h).red
  let s := s.modRed h fun _ => { r.1.close g true with complete := wrap64 r.1.complete 1 }
  (writeRegion g.part g.region (4096 * g.index) 0x23 .internal r.2 s).state

/-! ## Arrivals (R209) -/

/-- What becomes of an arrival (the table of R209). -/
inductive ArrivalFate
  | add | excess | hold | stale | opens
deriving DecidableEq, Repr

/-- The cell of an arrival in its granule. -/
def Arrival.cell (a : Arrival) : Nat := a.offset % 4096 / ((elemOf a.format).bits / 8)

/-- The cell-area bytes the granule of an arrival would take. -/
def Arrival.need (a : Arrival) (s : State) : Nat :=
  match (s.part a.part).region? a.region with
  | some g => granuleSpace g.mode a.format g.contributions
  | none => 0

/-- The table of R209. -/
def arrivalFate (h : Nat) (a : Arrival) (s : State) : ArrivalFate :=
  let q := (s.hub h).red
  match q.open? a.part a.region (a.offset / 4096) with
  | some g =>
    if a.step = g.step then
      if (look g.cells a.cell {}).count < g.contributions then .add else .excess
    else if g.step < a.step then .hold
    else .stale
  | none =>
    let room : ArrivalFate := if a.need s ≤ q.cellFree then .opens else .hold
    match q.closed? a.part a.region (a.offset / 4096) with
    | none => room
    | some c =>
      if c.step < a.step then room
      else if c.step = a.step && c.completed then .excess
      else .stale

/-- An excess arrival counted and reported to the error log, which names the cell and the sender. The
spec gives the record no kind of Table 20.3. -/
def excessArrival (h : Nat) (a : Arrival) (s : State) : State :=
  errorOnly (winHub h) (partCode (some a.part))
    [a.addr s, a.srcModule, a.srcDie, a.step, a.ordinal]
    (s.modRed h fun q => { q with excess := sat q.excess })

/-- The granule that an arrival opens (R207). -/
def newGranule (a : Arrival) (s : State) : Granule :=
  let g := (s.part a.part).region? a.region
  { part := a.part, region := a.region, index := a.offset / 4096, step := a.step, format := a.format
    mode := g.elim 0 (·.mode), contributions := g.elim 0 (·.contributions), space := a.need s
    lastTick := (s.part a.part).disc.tick }

/-- An arrival added into an open granule, which completes if it was the last. -/
def landArrival (h : Nat) (a : Arrival) (s : State) : State :=
  match (s.hub h).red.open? a.part a.region (a.offset / 4096) with
  | none => s
  | some g =>
    let r := cellAdd g.mode (a.addr s) a (s.hub h).red (look g.cells a.cell {})
    let g' : Granule :=
      { g with cells := place g.cells a.cell {} r.2, lastTick := (s.part a.part).disc.tick }
    let s := s.modRed h fun _ => r.1.setGranule g'
    if g'.full then completeGranule h g' s else s

/-- An arrival that need not wait, handled by the table of R209. -/
def takeArrival (h : Nat) (a : Arrival) (s : State) : State :=
  match arrivalFate h a s with
  | .add => landArrival h a s
  | .excess => excessArrival h a s
  | .stale => s.modRed h fun q => { q with stale := sat q.stale }
  | .hold => s.modRed h fun q => { q with held := q.held ++ [a] }
  | .opens =>
    landArrival h a (s.modRed h fun q =>
      { q with granules := q.granules ++ [newGranule a s], cellFree := q.cellFree - a.need s })

/-- ACCUM_ARRIVAL: the i-th element on its way to the hub arrives. -/
def execAccumArrival (h i : Nat) (s : State) : Host.Outcome State Fault Refusal :=
  onlyIf (Instr.wf (.accumArrival h i)) <|
    match (s.hub h).red.inFlight[i]? with
    | some a => takeArrival h a (s.modRed h fun q => { q with inFlight := q.inFlight.eraseIdx i })
    | none => s

/-- The first held arrival that need wait no longer. Held arrivals open granules in the order in which
they began to wait: after one that finds no room, none opens a granule (R209). -/
def heldReady (h : Nat) (s : State) : Bool → List Arrival → Nat → Option Nat
  | _, [], _ => none
  | blocked, a :: rest, i =>
    match arrivalFate h a s with
    | .hold =>
      let noRoom := ((s.hub h).red.open? a.part a.region (a.offset / 4096)).isNone
      heldReady h s (blocked || noRoom) rest (i + 1)
    | .opens => if blocked then heldReady h s blocked rest (i + 1) else some i
    | _ => some i

/-- HELD_ARRIVAL_OPEN: the first held arrival that can lands, or opens its granule. -/
def execHeldArrivalOpen (h : Nat) (s : State) : Host.Outcome State Fault Refusal :=
  onlyIf (Instr.wf (.heldArrivalOpen h)) <|
    let held := (s.hub h).red.held
    match heldReady h s false held 0 with
    | some i =>
      match held[i]? with
      | some a => takeArrival h a (s.modRed h fun q => { q with held := q.held.eraseIdx i })
      | none => s
    | none => s

/-! ## Discards (R210) -/

/-- The contributions counted by a granule's fullest cell. -/
def Granule.arrived (g : Granule) : Nat := g.cells.foldl (fun n c => max n c.2.count) 0

/-- An open granule discarded: its lines keep their contents (R210), and the partition's host is told
its region, granule index and counts (R384). -/
def discardGranule (h : Nat) (g : Granule) (s : State) : State :=
  telem g.part (.alertGranule g.region g.index g.arrived g.contributions)
    (s.modRed h fun q => { q.close g false with discard := sat q.discard })

/-- GRANULE_STALL_DISCARD: a granule whose last arrival lies more than stall_limit ticks in the past. -/
def execGranuleStallDiscard (h region granule : Nat) (s : State) :
    Host.Outcome State Fault Refusal :=
  onlyIf (Instr.wf (.granuleStallDiscard h region granule)) <|
    match s.partOfHub h with
    | none => s
    | some p =>
      match (s.hub h).red.open? p region granule with
      | none => s
      | some g =>
        if (s.part p).disc.tick > g.lastTick + (s.part p).cadence.stallLimit then discardGranule h g s
        else s

end Sys2Proof.Machine
end

