-- ==== Sys2Proof/Machine/Power.lean ====
section
/-! DEFINITION. Blocks and rail segments (16): shares, clocks, tokens and wakes, squalls and the published
headroom. -/

namespace Sys2Proof.Machine

/-! ## Blocks (Table 16.1) -/

/-- The power block that a reference names. -/
def State.blk (s : State) : BlockRef → PwrBlock
  | .die d i => look (s.cd d).pwr.blocks i {}
  | .hub h => (s.hub h).pwr
  | .ud u => (s.ud u).pwr
  | .le m => (s.le m).pwr

/-- A table's listed entry for key i changed. -/
def modKey {α : Type} (t : List (Nat × α)) (i : Nat) (f : α → α) : List (Nat × α) :=
  t.map fun x => if x.1 == i then (x.1, f x.2) else x

/-- A power block changed. -/
def State.modBlk (s : State) (b : BlockRef) (f : PwrBlock → PwrBlock) : State :=
  match b with
  | .die d i => s.modDiePwr d fun w => { w with blocks := modKey w.blocks i f }
  | .hub h => s.modHub h fun x => { x with pwr := f x.pwr }
  | .ud u => s.modUd u fun x => { x with pwr := f x.pwr }
  | .le m => s.modLe m fun x => { x with pwr := f x.pwr }

/-- A rail segment. -/
def State.seg (s : State) (d g : Nat) : Segment := (s.cd d).pwr.segs.getD g { limit := 0 }

/-- A rail segment changed. -/
def State.modSeg (s : State) (d g : Nat) (f : Segment → Segment) : State :=
  s.modDiePwr d fun w => { w with segs := modAt w.segs g f }

/-- The block indices of a compute die (R416). -/
def dieBlocks : List Nat := (List.range 17) ++ [0x18] ++ (List.range 16).map (· + 0x20)

/-- The rail segment of a compute die's block (Table 16.1): SEQ, GXE, COE and the slices load segment
3, the other engines 0 to 2. -/
def blockSeg (i : Nat) : Nat :=
  if i < 5 then 0 else if i < 10 then 1
  else if i = 0x0A || i = 0x0B || i = 0x0D || i = 0x10 || i = 0x18 then 2 else 3

/-- Nominal power in mW (Table 16.1). -/
def blockNominal : BlockRef → Nat
  | .die _ i =>
    if i < 10 then 30000
    else match i with
      | 0x0A => 36000
      | 0x0B => 6000
      | 0x0C => 10000
      | 0x0D => 12000
      | 0x0E => 14000
      | 0x0F => 4000
      | 0x10 => 2000
      | 0x18 => 6000
      | _ => 1875
  | .hub _ => 40000
  | .ud _ => 8000
  | .le _ => 110000

/-- Lull-3 tokens of a compute die's block (Table 16.1). -/
def blockTokens (i : Nat) : Nat :=
  if i < 10 then 4
  else match i with
    | 0x0A => 3
    | 0x0B => 1
    | 0x10 => 1
    | 0x18 => 1
    | _ => 2

/-- The deepest lull of a block (Table 16.1): hubs and light engines have none. -/
def blockDeepest : BlockRef → Nat
  | .die _ _ => 3
  | .ud _ => 2
  | _ => 0

/-- The site of a block. -/
def blockSite : BlockRef → Site
  | .die d _ => .cd d
  | .hub h => .stack h
  | .ud u => .ud u
  | .le m => .le m

/-- The partition of a block; light engines are shared by all. -/
def State.blockPart (s : State) : BlockRef → Option Nat
  | .die d _ => s.partOfCd d
  | .hub h => s.partOfHub h
  | .ud u => s.partOfUd u
  | .le _ => none

/-- The compute die and segment whose tokens a block uses. -/
def blockTokenSeg : BlockRef → Option (Nat × Nat)
  | .die d i => some (d, blockSeg i)
  | .ud u => some (u / 2, 3)
  | _ => none

/-- The blocks that load a segment: a die's own by index, then the update dies of its home group. -/
def segBlocks (d g : Nat) : List BlockRef :=
  ((dieBlocks.filter fun i => blockSeg i == g).map fun i => BlockRef.die d i) ++
    if g = 3 then [.ud (2 * d), .ud (2 * d + 1)] else []

/-! ## Shares (R399) -/

/-- The blocks of a partition that share its power, present ones only. -/
def State.shareBlocks (s : State) (p : Nat) : List BlockRef :=
  let e := (s.part p).frame
  (e.cds.filter fun d => s.live (.cd d)).flatMap (fun d => dieBlocks.map fun i => BlockRef.die d i) ++
    ((e.stacks.filter fun h => s.live (.stack h)).map fun h => BlockRef.hub h) ++
    (e.uds.filter fun u => s.live (.ud u)).map fun u => BlockRef.ud u

/-- No block has a share. -/
def clearShares (s : State) : State :=
  let none := fun (x : PwrBlock) => { x with share := 0 }
  { s with
    cds := s.cds.map fun c => { c with pwr := { c.pwr with blocks := c.pwr.blocks.map fun e => (e.1, none e.2) } }
    hubs := s.hubs.map fun h => { h with pwr := none h.pwr }
    uds := s.uds.map fun u => { u with pwr := none u.pwr } }

/-- A partition's power allowance divided among its blocks in proportion to nominal power. -/
def setShares (p : Nat) (s : State) : State :=
  let bs := s.shareBlocks p
  let total := bs.foldl (fun n b => n + blockNominal b) 0
  let all := (s.part p).frame.power * 1000
  forAll bs (fun b t => t.modBlk b fun x => { x with share := all * blockNominal b / total }) s

/-! ## Clocks (R400, R401) -/

/-- A value clamped into 400 to 1600 MHz. -/
def mhz (v : Nat) : Nat := max 400 (min 1600 v)

/-- A block's effective floor (R400). -/
def State.floorOf (s : State) (b : BlockRef) : Nat :=
  let f := mhz ((s.blk b).set.live.getD 0 0)
  match s.blockPart b with
  | some p => if (s.part p).stream.running then max f (s.part p).policy.floor else f
  | none => f

/-- A block's effective ceiling (R400). -/
def State.ceilOf (s : State) (b : BlockRef) : Nat :=
  max (s.floorOf b) (mhz ((s.blk b).set.live.getD 1 0))

/-- Whether a block is in a squall of its own or of its segment. -/
def State.inSquall (s : State) (b : BlockRef) : Bool :=
  (s.blk b).squall.isSome ||
    match b with
    | .die d i => (s.seg d (blockSeg i)).squall.isSome
    | _ => false

/-- The highest multiple of 25 MHz at most v, if it reaches the floor. -/
def stepClock (floor v : Nat) : Option Nat := if floor ≤ v / 25 * 25 then some (v / 25 * 25) else none

/-- CLOCK_CHOICE: a block takes the highest clock its share, its segment's current and its junction
allow, at least its floor (R401). The three limits are the highest clocks that keep each. In a squall
the choice is what the clock climbs back to. -/
def execClockChoice (blk : BlockRef) (powerMax currentMax thermalMax : Nat) (s : State) :
    Host.Outcome State Fault Refusal :=
  onlyIf blk.wf <|
    let floor := s.floorOf blk
    let ceil := s.ceilOf blk
    let hold := bit ((s.blk blk).set.live.getD 2 0) 4
    let other := min currentMax (min thermalMax ceil)
    let best := stepClock floor (min powerMax other)
    let clock := if hold then ceil else best.getD floor
    let above := !hold && best.isNone && (stepClock floor other).isSome
    let calm := !s.inSquall blk
    s.modBlk blk fun x =>
      { x with
        choice := clock
        clock := if calm then clock else x.clock
        limited := if calm && above then sat x.limited else x.limited }

/-! ## Tokens and wakes (R406 to R409) -/

/-- Whether a block sleeps so that its wake takes tokens, or is on its way there. -/
def PwrBlock.asleep (x : PwrBlock) : Bool := x.mode == .lull2 || x.mode == .lull3 || x.mode == .entering

/-- Whether a block can start a record: running, throttled, or in lull-1 (R406). A stop suspends its work (R414). -/
def PwrBlock.awake (x : PwrBlock) : Bool :=
  x.mode == .running || x.mode == .throttled || x.mode == .lull1

/-- A wake requested in a class; a waiting request is raised to class 1 (R406). -/
def requestWake (b : BlockRef) (cls : Nat) (s : State) : State :=
  if (s.blk b).asleep then
    s.modBlk b fun x =>
      { x with request := match x.request with
          | none => some ⟨cls, s.now⟩
          | some q => some { q with cls := min q.cls cls } }
  else s

/-- The order of R408 among the requests of a segment. -/
def wakeKey (q : WakeReq) (pos : Nat) : Nat := (q.cls * 2 ^ 64 + q.time / 1000) * 64 + pos

/-- The request at the head of a segment's order. -/
def State.wakeHead (s : State) (d g : Nat) : Option (BlockRef × WakeReq) :=
  let bs := segBlocks d g
  let qs := ((List.range bs.length).zip bs).filterMap fun x =>
    (s.blk x.2).request.map fun q => (wakeKey q x.1, x.2, q)
  ((sortBy (·.1) qs).head?).map (·.2)

/-- The tokens a wake takes. -/
def wakeCost (b : BlockRef) (x : PwrBlock) : Nat :=
  match b with
  | .die _ i => if x.mode == .lull3 then blockTokens i else 1
  | _ => 1

/-- WAKE_BEGIN: the head request of a segment finds its tokens, and the wake begins (R407, R408). -/
def execWakeBegin (d g : Nat) (s : State) : Host.Outcome State Fault Refusal :=
  onlyIf (d < 16 && g < 4) <|
    match s.wakeHead d g with
    | none => s
    | some (b, q) =>
      let x := s.blk b
      let cost := wakeCost b x
      let wait := (s.now - q.time) / 1000
      if x.mode != .entering && (s.seg d g).squall.isNone && cost ≤ (s.seg d g).tokens then
        (s.modBlk b fun x =>
          { x with
            mode := .waking, lull := if x.mode == .lull3 then 3 else 2, request := none
            wakes := sat x.wakes, wakeWait := satAdd x.wakeWait wait }).modSeg d g fun y =>
          { y with
            tokens := y.tokens - cost, wakes := sat y.wakes, waitUs := satAdd y.waitUs wait
            waitMax := max y.waitMax wait }
      else s

/-- A scratchpad slice's contents lost: its lines are written as zeros with good checks (R286). -/
def clearSlice (d j : Nat) (s : State) : State :=
  let lo := j * 2 ^ 23
  let hi := (j + 1) * 2 ^ 23
  let off := fun (l : Nat) => 64 * l < lo || hi ≤ 64 * l
  s.modScratch d fun c =>
    { c with store :=
        { c.store with
          bytes := c.store.bytes.filter fun e => e.1 < lo || hi ≤ e.1
          bad := c.store.bad.filter fun e => off e.1
          glitch := c.store.glitch.filter off } }

/-- WAKE_COMPLETE: a block's wake time elapses (R403). A slice that wakes from lull-3 is cleared, and so
are a matrix engine's tiles; Fennel's sample ends (R132, R286, R495). -/
def execWakeComplete (blk : BlockRef) (s : State) : Host.Outcome State Fault Refusal :=
  onlyIf blk.wf <|
    let x := s.blk blk
    if x.mode == .waking then
      let s := s.modBlk blk fun x => { x with mode := .running, lull := 0 }
      match blk with
      | .die d i =>
        if x.lull != 3 then s
        else if 0x20 ≤ i then clearSlice d (i - 0x20) s
        else if i < 10 then s.modMxe d i fun m => { m with tiles := List.replicate 4 {} }
        else if i = 0x18 then s.modFennel d fun f => { f with sample := none }
        else s
      | _ => s
    else s

/-- TOKEN_REFILL: a bucket below 8 gains a token (R407). -/
def execTokenRefill (d g : Nat) (s : State) : Host.Outcome State Fault Refusal :=
  onlyIf (d < 16 && g < 4) (s.modSeg d g fun y => { y with tokens := min 8 (y.tokens + 1) })

/-- LULL_ENTRY_DONE: the entry into lull-2 or lull-3 ends (R403). -/
def execLullEntryDone (blk : BlockRef) (s : State) : Host.Outcome State Fault Refusal :=
  onlyIf blk.wf <|
    s.modBlk blk fun x =>
      if x.mode == .entering then { x with mode := if x.lull = 3 then .lull3 else .lull2 } else x

/-! ## Squalls (R414, R415) -/

/-- The 32 bytes of a squall record (Table 16.4). -/
def SquallRec.bytes (q : SquallRec) : List Byte :=
  leBytes 8 q.start ++ leBytes 8 q.stop ++ leBytes 1 q.block ++ leBytes 1 q.kind ++ leBytes 2 q.clockMin ++
    leBytes 2 (twos 16 q.tempMax) ++ leBytes 2 q.currentMax ++ leBytes 4 q.step ++ leBytes 1 q.segment ++
    leBytes 3 0

/-- The reporting window of a block. -/
def blockWindow : BlockRef → Nat
  | .die d _ => winCd d
  | .hub h => winHub h
  | .ud u => winUd u
  | .le m => winLe m

/-- The compute die in whose log a block's squalls are kept: its own, or its home group's. -/
def blockHome : BlockRef → Option Nat
  | .die d _ => some d
  | .hub h => some (h / 2)
  | .ud u => some (u / 2)
  | .le _ => none

/-- A squall record written at its end: to the die's log, the logbook and the hosts (R415). -/
def writeSquall (home : Option Nat) (win : Nat) (hosts : List Nat) (q : SquallRec) (s : State) : State :=
  let q := { q with stop := s.now }
  let s := match home with
    | some d => s.modDiePwr d fun w => { w with log := w.log.push 32 q }
    | none => s
  let s := s.modLog fun l => { l with live := { l.live with squalls := sat l.live.squalls } }
  let s := logEvent 0x20 win (partCode hosts.head?) q.bytes s
  forAll hosts (fun p t => telem p (.squall (home.getD 0xFF) q) t) s

/-- The partitions with blocks in home group d: of its compute die, stacks and update dies (R16). -/
def State.groupParts (s : State) (d : Nat) : List Nat :=
  ([s.partOfCd d, s.partOfHub (2 * d), s.partOfHub (2 * d + 1), s.partOfUd (2 * d),
    s.partOfUd (2 * d + 1)].filterMap id)

/-- The hosts told of a block's squall: its own partition's, then the others with blocks in its home group
(R415). Every partition shares a light engine. -/
def State.squallHosts (s : State) (b : BlockRef) : List Nat :=
  match blockHome b with
  | none => partNums.filter fun p => (s.part p).present
  | some d => ((s.blockPart b).toList ++ s.groupParts d).eraseDups

/-- A new squall record for a block. -/
def State.newSquall (s : State) (b : BlockRef) (kind : Nat) : SquallRec :=
  let seg := match b with
    | .die _ i => blockSeg i
    | .ud _ => 3
    | _ => Config.squallPlace 1 % 256
  { start := s.now, block := match b with | .die _ i => i | _ => Config.squallPlace 0 % 256, kind
    clockMin := (s.blk b).clock, tempMax := (s.blk b).temp
    currentMax := match blockTokenSeg b with | some (d, g) => (s.seg d g).current | none => 0
    step := (s.blockPart b).elim 0xFFFFFFFF fun p => (s.part p).stepNow, segment := seg }

/-- A block's squall begun or made more severe, and brought up to date (R415). -/
def touchSquall (b : BlockRef) (kind : Nat) (s : State) : State :=
  let x := s.blk b
  let q := x.squall.getD (s.newSquall b kind)
  let amps := match blockTokenSeg b with | some (d, g) => (s.seg d g).current | none => 0
  let q : SquallRec :=
    { q with
      kind := max q.kind kind, clockMin := min q.clockMin x.clock, tempMax := max q.tempMax x.temp
      currentMax := max q.currentMax amps }
  (if x.squall.isNone then raiseAlert 0 s else s).modBlk b fun x => { x with squall := some q }

/-- Whether a block's work is under way: it can be throttled or stopped. -/
def PwrBlock.atWork (x : PwrBlock) : Bool := x.mode == .running || x.mode == .throttled || x.mode == .stopped

/-- A block's thermal squall ended: its record is written (R414, R415). A block in a lull stays there. -/
def endSquall (b : BlockRef) (s : State) : State :=
  match (s.blk b).squall with
  | none => s
  | some q =>
    let s := s.modBlk b fun x =>
      { x with
        squall := none, squalls := sat x.squalls, climb := 0, clock := x.choice
        mode := if x.atWork then .running else x.mode }
    writeSquall (blockHome b) (blockWindow b) (s.squallHosts b) q s

/-- A clock lowered by 100 MHz, to 400 MHz at the lowest. -/
def slower (c : Nat) : Nat := max 400 (c - 100)

/-- A clock that climbs 25 MHz each 10 µs, with its count of µs. -/
def climbed (x : PwrBlock) : PwrBlock :=
  if x.climb + 1 < 10 then { x with climb := x.climb + 1 }
  else { x with climb := 0, clock := min x.choice (x.clock + 25) }

/-- Whether a current stop holds a block's segment (Table 16.3, kind 4). -/
def State.segStopped (s : State) : BlockRef → Bool
  | .die d i => (s.seg d (blockSeg i)).stopped
  | _ => false

/-- Whether a block can start a record now: awake, in a segment that no current stop holds. -/
def State.awake (s : State) (b : BlockRef) : Bool := (s.blk b).awake && !s.segStopped b

/-- The effect of a junction sample (Table 16.3, kinds 1 and 2). A block that a current stop holds stays stopped. A squall
arises in a block in a lull too, whose clock stands: one in lull-1 is stopped as a running one is. -/
def thermal (b : BlockRef) (temp : Int) (s : State) : State :=
  let x := s.blk b
  let stops := match b with | .hub _ => false | .le _ => false | _ => true
  let held := s.segStopped b
  let runs := x.atWork
  if temp ≥ 1760 && stops then
    touchSquall b 2 <|
      if runs || x.mode == .lull1 then
        s.modBlk b fun x => { x with mode := .stopped, clock := 0, climb := 0, halted := true }
      else s
  else if temp ≥ 1760 then
    forAll (if x.squall.any fun q => 1760 ≤ q.tempMax then [] else s.squallHosts b)
      (fun p t => telem p (.alertHot (blockWindow b)) t)
      (touchSquall b 1 (if runs then s.modBlk b fun x => { x with mode := .throttled, clock := 400, climb := 0 } else s))
  else if x.halted then
    if temp < 1600 then
      touchSquall b 1 (s.modBlk b fun x =>
        { x with
          halted := false, mode := if held then .stopped else .throttled, clock := if held then 0 else 400 })
    else touchSquall b 2 s
  else if temp ≥ 1600 then
    touchSquall b 1 (s.modBlk b fun x =>
      if held || !runs then x else { x with mode := .throttled, clock := slower x.clock, climb := 0 })
  else if x.squall.isSome then
    if temp < 1552 && !held then
      let s := touchSquall b 1 (if runs then s.modBlk b climbed else s)
      if !runs || x.choice ≤ (s.blk b).clock then endSquall b s else s
    else touchSquall b 1 s
  else s

/-- JUNCTION_SAMPLE: a block's junction temperature, in 1/16 °C, and mean power (R414). -/
def execJunctionSample (blk : BlockRef) (temp : Int) (powerMw : Nat) (s : State) :
    Host.Outcome State Fault Refusal :=
  onlyIf blk.wf <|
    let s := s.modBlk blk fun x =>
      { x with
        temp, tempTick := if x.powerCount = 0 then temp else max x.tempTick temp, powerMw, powerSum := x.powerSum + powerMw
        powerCount := x.powerCount + 1 }
    thermal blk temp s

/-- The blocks of a die that load a segment. -/
def dieSegBlocks (d g : Nat) : List BlockRef :=
  (dieBlocks.filter fun i => blockSeg i == g).map fun i => BlockRef.die d i

/-- A segment's current squall begun or made more severe. -/
def touchSegSquall (d g kind amps : Nat) (s : State) : State :=
  let y := s.seg d g
  let bs := dieSegBlocks d g
  let slow := bs.foldl (fun n b => if (s.blk b).atWork then min n (s.blk b).clock else n) 1600
  let hot := bs.foldl (fun n b => max n (s.blk b).temp) (s.blk (bs.headD (.die d 0))).temp
  let q := y.squall.getD
    { start := s.now, block := 0xFF, kind, clockMin := slow, tempMax := hot, currentMax := amps
      step := (s.partOfCd d).elim 0xFFFFFFFF fun p => (s.part p).stepNow, segment := g }
  let q : SquallRec :=
    { q with
      kind := max q.kind kind, clockMin := min q.clockMin slow, tempMax := max q.tempMax hot
      currentMax := max q.currentMax amps }
  (if y.squall.isNone then raiseAlert 0 s else s).modSeg d g fun y => { y with squall := some q }

/-- A segment's current squall ended, its record written. -/
def endSegSquall (d g : Nat) (s : State) : State :=
  match (s.seg d g).squall with
  | none => s
  | some q =>
    let s := s.modSeg d g fun y => { y with squall := none, squalls := sat y.squalls }
    let s := forAll (dieSegBlocks d g)
      (fun b t => t.modBlk b fun x =>
        if x.mode == .throttled && x.squall.isNone then { x with mode := .running, clock := x.choice, climb := 0 }
        else x) s
    writeSquall (some d) (winCd d) (s.groupParts d).eraseDups q s

/-- SEGMENT_CURRENT_SAMPLE: a segment's mean current over a µs and its highest over 100 ns, in 1/4 A
(Table 16.3, kinds 3 and 4). -/
def execSegmentCurrentSample (d g mean peak : Nat) (s : State) : Host.Outcome State Fault Refusal :=
  onlyIf (d < 16 && g < 4) <|
    let limit := (s.seg d g).limit
    let s := s.modSeg d g fun y =>
      { y with current := mean, sumTick := y.sumTick + mean, samples := y.samples + 1 }
    let all := fun (f : PwrBlock → PwrBlock) (s : State) =>
      forAll (dieSegBlocks d g) (fun b t => t.modBlk b fun x => if x.atWork then f x else x) s
    if peak * 100 > limit * 115 then
      touchSegSquall d g 4 (max mean peak)
        ((all (fun x => { x with mode := .stopped, clock := 0, climb := 0 }) s).modSeg d g
          fun y => { y with stopped := true })
    else if (s.seg d g).stopped then touchSegSquall d g 4 mean s
    else if mean > limit then
      touchSegSquall d g 3 mean
        (all (fun x => if x.mode == .stopped then x
          else { x with mode := .throttled, clock := slower x.clock, climb := 0 }) s)
    else if (s.seg d g).squall.isSome && mean * 10 < limit * 9 then
      let s := touchSegSquall d g 3 mean
        (all (fun x => if x.mode == .throttled && x.squall.isNone then climbed x else x) s)
      if (dieSegBlocks d g).all fun b =>
          !((s.blk b).mode == .throttled && (s.blk b).squall.isNone) || (s.blk b).choice ≤ (s.blk b).clock
      then endSegSquall d g s else s
    else s

/-- CURRENT_STOP_RESTART: 2 µs after a current stop, the segment's blocks restart at 400 MHz. -/
def execCurrentStopRestart (d g : Nat) (s : State) : Host.Outcome State Fault Refusal :=
  onlyIf (d < 16 && g < 4) <|
    if (s.seg d g).stopped then
      forAll (dieSegBlocks d g)
        (fun b t => t.modBlk b fun x =>
          if x.mode == .stopped && !x.halted then
            { x with mode := .throttled, clock := 400, climb := 0 }
          else x)
        (s.modSeg d g fun y => { y with stopped := false })
    else s

/-! ## Published headroom (R411, R412) -/

/-- Spare power in mW as current, in 1/4 A, at 4/3 A per watt (R411). -/
def spareAmps (share used : Nat) : Nat := (share - used) * 16 / 3000

/-- A segment's mean current over the tick. -/
def Segment.mean (y : Segment) : Nat := if y.samples = 0 then y.current else y.sumTick / y.samples

/-- The thermal field of a block: 100 °C less its hottest sample, in 1/64 K (Table 16.2). -/
def thermalField (t : Int) : Nat := min ((1600 - t) * 4).toNat 0xFFFF

/-- A block's mean power over the tick in mW. -/
def PwrBlock.mean (x : PwrBlock) : Nat := if x.powerCount = 0 then x.powerMw else x.powerSum / x.powerCount

/-- The headroom word of a block (R411): no segment limits a hub, an update die or a light engine. -/
def State.headWord (s : State) (b : BlockRef) : Word :=
  if s.inSquall b then 0
  else
    let x := s.blk b
    let own := spareAmps x.share x.mean
    let amps := match b with
      | .die d i =>
        let y := s.seg d (blockSeg i)
        min (y.limit - y.mean) own
      | _ => own
    BitVec.ofNat 32 (min amps 0xFFFF * 2 ^ 16 + thermalField x.tempTick)

/-- A block's headroom published; its tick begins anew, with the last sample until the first of the next. -/
def publishHead (b : BlockRef) (s : State) : State :=
  let w := s.headWord b
  s.modBlk b fun x =>
    { x with head := w, tempTick := x.temp, powerTick := x.mean, powerSum := 0, powerCount := 0 }

/-- The die word of R412, from the words and mean powers just published. -/
def State.dieHead (s : State) (d : Nat) : Word :=
  let bs := dieBlocks.map fun i => s.blk (.die d i)
  let therm := bs.foldl (fun n x => min n (field x.head 15 0)) 0xFFFF
  let segs := (s.cd d).pwr.segs.foldl (fun n y => n + (y.limit - y.mean)) 0
  let share := bs.foldl (fun n x => n + x.share) 0
  let used := bs.foldl (fun n x => n + x.powerTick) 0
  BitVec.ofNat 32 (min (min segs (spareAmps share used)) 0xFFFF * 2 ^ 16 + therm)

/-- Every block and die of a partition publishes at a tick boundary. -/
def publishHeads (p : Nat) (s : State) : State :=
  let e := (s.part p).frame
  let s := forAll e.cds
    (fun d t =>
      let t := forAll dieBlocks (fun i u => publishHead (.die d i) u) t
      t.modDiePwr d fun w =>
        { w with head := t.dieHead d, segs := w.segs.map fun y => { y with sumTick := 0, samples := 0 } }) s
  let s := forAll e.stacks (fun h t => publishHead (.hub h) t) s
  let s := forAll e.uds (fun u t => publishHead (.ud u) t) s
  forAll ((List.range 8).filter fun m => (List.range 16).any fun k => bit e.portMask (16 * m + k))
    (fun m t => publishHead (.le m) t) s

end Sys2Proof.Machine
end

