-- ==== Sys2Proof/Machine/Seq.lean ====
section
/-! DEFINITION. Records in flight and the sequencer's own operations (03 R78 to R93). -/

namespace Sys2Proof.Machine

/-! ## Finding and changing a record -/

/-- The begun step of a die. -/
def Seq.step? (q : Seq) (n : Nat) : Option StepRun := q.steps.find? fun t => t.step == n

/-- A begun step changed. -/
def Seq.modStep (q : Seq) (n : Nat) (f : StepRun → StepRun) : Seq :=
  { q with steps := q.steps.map fun t => if t.step == n then f t else t }

/-- The record a command names, if its step has begun on the die and has not ended there. -/
def State.rec? (s : State) (r : RecRef) : Option RecState :=
  match (s.cd r.die).seq.step? r.step with
  | some t => t.recs[r.cmd]?
  | none => none

/-- A record changed. -/
def State.modRec (s : State) (r : RecRef) (f : RecState → RecState) : State :=
  s.modSeq r.die fun q => q.modStep r.step fun t => { t with recs := modAt t.recs r.cmd f }

/-- Operand word i of a record, as substituted at issue. -/
def RecState.w (x : RecState) (i : Nat) : Word := x.words.getD i 0

/-- The 64-bit value of two operand words, low word first. -/
def RecState.w64 (x : RecState) (i : Nat) : Nat := (x.w i).toNat + 2 ^ 32 * (x.w (i + 1)).toNat

/-- The count of a record. -/
def RecState.count (x : RecState) : Nat := x.record.count

/-- The block of a record's unit (Table 03.4). -/
def unitBlock (d unit : Nat) : BlockRef :=
  if unit < 0x11 then .die d unit
  else if unit < 0x13 then .hub (2 * d + (unit - 0x11))
  else .ud (2 * d + (unit - 0x13))

/-- Whether a stop of its block's clock suspends a running record (R414). -/
def State.suspended (s : State) (r : RecRef) (x : RecState) : Bool :=
  (s.blk (unitBlock r.die x.record.unit)).mode == .stopped

/-- The image under which a running record started, with its partition, where another has been committed
since (R55). -/
def State.oldImage? (s : State) (r : RecRef) (x : RecState) : Option (Nat × JobImage) :=
  match s.partOfCd r.die, x.image with
  | some p, some i => if (s.part p).active = some i then none else some (p, i)
  | _, _ => none

/-- Another job image in force in a partition. -/
def State.withImage (s : State) (p : Nat) (i : Option JobImage) : State := s.modPart p fun q => { q with active := i }

/-- What a record's operation does, under the image with which the record started (R55). -/
def underImage (r : RecRef) (x : RecState) (f : State → State) (s : State) : State :=
  match s.oldImage? r x with
  | none => f s
  | some (p, i) => (f (s.withImage p (some i))).withImage p (s.part p).active

/-- The state that a record's operation sees: the image is that with which the record started (R55). -/
def State.seenBy (s : State) (r : RecRef) (x : RecState) : State :=
  match s.oldImage? r x with
  | none => s
  | some (p, i) => s.withImage p (some i)

/-- An operation carried out for a running record of its opcode, once: the record is then marked, so
that it can complete. Nothing happens where no such record runs, or while a stop suspends it. -/
def runOp (r : RecRef) (code : Nat) (f : RecState → State → State) (s : State) :
    Host.Outcome State Fault Refusal :=
  onlyIf r.wf <|
    match s.rec? r with
    | some x =>
      if x.phase = .running && !x.executed && x.record.opcode == code && !s.suspended r x then
        (underImage r x (f x) s).modRec r fun y => { y with executed := true }
      else s
    | none => s

/-- As `runOp`, for an operation that cannot yet be carried out while `ready` does not hold: it then
waits. -/
def runOpWhen (r : RecRef) (code : Nat) (ready : RecState → State → Bool)
    (f : RecState → State → State) (s : State) : Host.Outcome State Fault Refusal :=
  match s.rec? r with
  | some x => if ready x (s.seenBy r x) then runOp r code f s else onlyIf r.wf s
  | none => onlyIf r.wf s

/-- An operation whose count is 0 touches no memory and raises no flag (R93). -/
def counted (f : RecState → State → State) (x : RecState) (s : State) : State :=
  if x.count = 0 then s else f x s

/-- A record that has met a line that failed: LINE_BAD, with the first failing address (R92). -/
def noteBad (r : RecRef) (bad : Option Nat) (s : State) : State :=
  match bad with
  | none => s
  | some a => s.modRec r fun y => { y with lineBad := true, badAddr := firstBad y.badAddr (some a) }

/-- The failing address of a scratchpad line: no partition address, so inside no replay range. -/
def noAddr : Nat := 2 ^ 64 - 1

/-- A record that has met failing scratchpad lines. -/
def noteBadScratch (r : RecRef) (bad : Option Nat) (s : State) : State :=
  noteBad r (bad.map fun _ => noAddr) s

/-! ## s-registers and events -/

/-- Unit codes (Table 03.4). -/
def unitSeq : Nat := 0x0F

/-- The wake mask of s59: the units of Table 03.4 that run or are in lull-1. A hub or update die that the module does
not have, or that has been cut out, does neither. -/
def State.wakeMask (s : State) (d : Nat) : Nat :=
  (List.range 0x15).foldl
    (fun m u =>
      let here := match unitBlock d u with
        | .hub h => s.live (.stack h)
        | .ud k => s.live (.ud k)
        | _ => true
      let x := s.blk (unitBlock d u)
      if here && (x.mode == .running || x.mode == .lull1) then m + 2 ^ u else m) 0

/-- The value of an s-register (R90, Table 03.5). -/
def State.sreg (s : State) (d i : Nat) : DWord :=
  let q := (s.cd d).seq
  let p := s.partOfCd d
  if i < 56 then q.sregs.getD i 0
  else BitVec.ofNat 64 <|
    match i with
    | 56 => p.elim 0 fun p => (s.part p).disc.tick
    | 57 => p.elim 0 fun p => (s.part p).stream.step
    | 58 => p.elim 0 fun p => s.partTime p
    | 59 => s.wakeMask d
    | 60 => (s.cd d).pwr.head.toNat
    | 61 => q.lastStatus
    | 62 => q.lastChoice
    | _ => 16 * (p.elim 0 fun p => (s.part p).frame.moduleNumber) + d

/-- An s-register written; s56 to s63 are read-only (R90). -/
def State.setSreg (s : State) (d i : Nat) (v : DWord) : State :=
  if i < 56 then s.modSeq d fun q => { q with sregs := modAt q.sregs i fun _ => v } else s

/-- The place of event e of a step in the two banks: even steps use bank 0 (R80). -/
def evIndex (step e : Nat) : Nat := 64 * (step % 2) + e

/-- An event counter of a step. -/
def Seq.event (q : Seq) (step e : Nat) : Nat := q.ev.getD (evIndex step e) 0

/-- An event counter raised by n, modulo 2^16. -/
def Seq.raise (q : Seq) (step e n : Nat) : Seq :=
  { q with ev := modAt q.ev (evIndex step e) fun v => (v + n) % 2 ^ 16 }

/-- Event e of a step raised by one, unless e names none. -/
def signal (d step e : Nat) (s : State) : State :=
  if e < 64 then s.modSeq d fun q => q.raise step e 1 else s

/-! ## Sequencer operations (Table 03.6) -/

/-- NOP. -/
def execNop (r : RecRef) (s : State) : Host.Outcome State Fault Refusal :=
  runOp r 0x0700 (fun _ t => t) s

/-- SMOVI: s[w0] takes words 1 and 2. -/
def execSmovi (r : RecRef) (s : State) : Host.Outcome State Fault Refusal :=
  runOp r 0x0701 (fun x t => t.setSreg r.die (field (x.w 0) 5 0) (BitVec.ofNat 64 (x.w64 1))) s

/-- The operations of SALU by the code in w3 (Table 03.6). -/
def saluOp (op : Nat) (a b : DWord) : DWord :=
  match op with
  | 0 => a + b
  | 1 => a - b
  | 2 => a &&& b
  | 3 => a ||| b
  | 4 => a ^^^ b
  | 5 => a <<< (b.toNat % 64)
  | 6 => a >>> (b.toNat % 64)
  | 7 => if a.toNat ≤ b.toNat then a else b
  | _ => if a.toNat ≤ b.toNat then b else a

/-- SALU: s[w0] takes s[w1] op s[w2]. -/
def execSalu (r : RecRef) (s : State) : Host.Outcome State Fault Refusal :=
  runOp r 0x0702
    (fun x t => t.setSreg r.die (field (x.w 0) 5 0)
      (saluOp (x.w 3).toNat (t.sreg r.die (field (x.w 1) 5 0)) (t.sreg r.die (field (x.w 2) 5 0)))) s

/-- SLD: s[w0] takes 8 scratchpad bytes; those of a failed line are taken as 0x00 (R292). -/
def execSld (r : RecRef) (s : State) : Host.Outcome State Fault Refusal :=
  runOp r 0x0703
    (fun x t =>
      let y := readScratch r.die unitSeq (x.w 1).toNat 8 t
      noteBadScratch r y.bad
        (y.state.setSreg r.die (field (x.w 0) 5 0) (BitVec.ofNat 64 (leNat (chunkBytes y.chunks))))) s

/-- SST: 8 scratchpad bytes take s[w0]. -/
def execSst (r : RecRef) (s : State) : Host.Outcome State Fault Refusal :=
  runOp r 0x0704
    (fun x t =>
      let y := writeScratch r.die unitSeq (x.w 1).toNat
        (leBytes 8 (t.sreg r.die (field (x.w 0) 5 0)).toNat) t
      noteBadScratch r y.bad y.state) s

/-- EVADD: ev[w0] rises by w1, modulo 2^16. -/
def execEvadd (r : RecRef) (s : State) : Host.Outcome State Fault Refusal :=
  runOp r 0x0707
    (fun x t => t.modSeq r.die fun q => q.raise r.step (field (x.w 0) 5 0) (x.w 1).toNat) s

/-- The replay ranges of a die (R91). -/
def Seq.ranges (q : Seq) : List ReplayRange := q.steps.flatMap (·.ranges)

/-- REPLAY: the range it names, its base counted from the start of its region (log entry 118), is held with
the step; it is open from the record's completion on (R91). A die holds at most 16. -/
def execReplay (r : RecRef) (s : State) : Host.Outcome State Fault Refusal :=
  runOp r 0x0706
    (fun x t =>
      let base := ((t.partOfCd r.die).bind fun p => (t.part p).region? (field (x.w 0) 9 0)).elim 0 (·.base)
      let g : ReplayRange :=
        { base := base + x.w64 1, length := x.w64 3, first := r.cmd + 1, records := (x.w 5).toNat }
      t.modSeq r.die fun q =>
        if q.ranges.length < 16 then
          q.modStep r.step fun u => if u.ranges.any fun h => h.first == g.first then u else { u with ranges := u.ranges ++ [g] }
        else q) s

/-! ## Choice points (R86 to R89) -/

/-- An alternate of a CHOICE: its first record, its records, and its current and thermal need. -/
structure Alternate where
  first : Nat
  records : Nat
  current : Nat
  thermal : Nat

/-- The alternates a CHOICE lists, from command `at0` on (R86). -/
def alternates (words : List Word) (at0 : Nat) : Nat → Nat → List Alternate
  | 0, _ => []
  | n + 1, i =>
    let c := (nthWord words (1 + 2 * i)).toNat
    let need := nthWord words (2 + 2 * i)
    ⟨at0, c, field need 31 16, field need 15 0⟩ :: alternates words (at0 + c) n (i + 1)

/-- The alternates of the CHOICE at command cmd. -/
def Record.alternates (c : Record) (cmd : Nat) : List Alternate :=
  Machine.alternates c.ops (cmd + 1) (nthWord c.ops 0).toNat 0

/-- The blocks that an alternate's records name. -/
def alternateBlocks (d : Nat) (recs : List RecState) (a : Alternate) : List BlockRef :=
  ((recs.drop a.first).take a.records).map fun x => unitBlock d x.record.unit

/-- Whether an alternate's blocks are all running or in lull-1, outside a squall (R87, R413). -/
def alternateAwake (s : State) (d : Nat) (recs : List RecState) (a : Alternate) : Bool :=
  (alternateBlocks d recs a).all fun b =>
    ((s.blk b).mode == .running || (s.blk b).mode == .lull1) && !s.inSquall b

/-- Whether an alternate's needs do not exceed the headroom word (R87, R413): current in bits [31:16],
thermal in bits [15:0]. -/
def alternateFits (head : Word) (a : Alternate) : Bool :=
  a.current ≤ field head 31 16 && a.thermal ≤ field head 15 0

/-- The index of the first alternate that qualifies, or of the last. -/
def pickAlternate (s : State) (d : Nat) (recs : List RecState) : List Alternate → Nat → Nat
  | [], i => i
  | [_], i => i
  | a :: as, i =>
    if alternateAwake s d recs a && alternateFits (s.cd d).pwr.head a then i
    else pickAlternate s d recs as (i + 1)

/-- The records of alternates other than the chosen one never start (R88). -/
def dropUnchosen (alts : List Alternate) (k : Nat) (recs : List RecState) : List RecState :=
  ((List.range recs.length).zip recs).map fun x =>
    if ((List.range alts.length).zip alts).any fun a =>
        a.1 != k && a.2.first ≤ x.1 && x.1 < a.2.first + a.2.records
    then { x.2 with phase := .never } else x.2

/-- The alternate that a CHOICE takes: that picked at its slot's boundary (R87). -/
def choicePick (s : State) (r : RecRef) (u : StepRun) (x : RecState) : Nat :=
  x.pick.getD (pickAlternate s r.die u.recs (x.record.alternates r.cmd) 0)

/-- The alternates of a die's CHOICEs picked at the boundary of their slots, in tick n (R87, R413). -/
def pickChoices (n d : Nat) (s : State) : State :=
  let pick := fun (u : StepRun) (c : Nat) (x : RecState) =>
    if x.record.opcode = 0x0705 && x.pick.isNone && x.phase == .waiting && u.startTick + x.record.slot ≤ n then
      { x with pick := some (pickAlternate s d u.recs (x.record.alternates c) 0) }
    else x
  s.modSeq d fun q =>
    { q with steps := q.steps.map fun u =>
        { u with recs := ((List.range u.recs.length).zip u.recs).map fun x => pick u x.1 x.2 } }

/-- CHOICE: the decision made at its slot's boundary is carried out, once: it is counted and copied into s62, and
the wakes of the chosen blocks are requested in class 1 (R406). Its signal waits for the chosen alternate's records
(RECORD_COMPLETE). -/
def execChoice (r : RecRef) (s : State) : Host.Outcome State Fault Refusal :=
  runOp r 0x0705
    (fun x t =>
      match (if x.decided then none else (t.cd r.die).seq.step? r.step) with
      | none => t
      | some u =>
        let alts := x.record.alternates r.cmd
        let k := choicePick t r u x
        let t := match alts[k]? with
          | some a => forAll (alternateBlocks r.die u.recs a) (fun b v => requestWake b 1 v) t
          | none => t
        let t := t.modSeq r.die fun q =>
          { q.modStep r.step fun u => { u with recs := dropUnchosen alts k u.recs } with lastChoice := k }
        let t := t.modRec r fun y => { y with pick := some k, decided := true }
        match t.partOfCd r.die with
        | some p => t.modStream p fun st => { st with choices := modAt st.choices k sat }
        | none => t) s

end Sys2Proof.Machine
end

