-- ==== Sys2Proof/Machine/Messages.lean ====
section
/-! DEFINITION. Messages between collective engines: which ports can carry them (15 R365), ring
successors and closed rings (15 R390 to R393), how a message starts at its sender (13 Table 13.3), and
what its bytes do at the receiving die (07 R201 to R203, 15 R380). -/

namespace Sys2Proof.Machine

def unitCoe : Nat := 0x0E

/-! ## Peers and rings -/

/-- The expected-peer entry of a port (R43). -/
def Part.peer (q : Part) (n : Nat) : Peer := match q.active with | some i => i.peers.getD n {} | none => {}

/-- The fabric module number of a partition. -/
def Part.moduleNo (q : Part) : Nat := q.frame.moduleNumber

/-- The ports of a partition whose expected-peer entry names module m. -/
def Part.portsTo (q : Part) (m : Nat) : List Nat :=
  q.frame.ports.filter fun n => (q.peer n).inUse && (q.peer n).module == m

/-- The number of transmit lanes of a port in service. -/
def Port.txLanes (q : Port) : Nat := (q.tx.filter (·.inService)).length

/-- Whether a port is usable for messages to the module its entry names (R365). -/
def State.usable (s : State) (p n : Nat) : Bool :=
  bit (s.part p).frame.portMask n && ((s.part p).peer n).inUse &&
    ((s.port n).arb.peer == 1 || (s.port n).arb.peer == 2) &&
    (s.port n).link.light == 3 && (s.port n).txLanes != 0

/-- The ports usable for messages to module m. -/
def State.usableTo (s : State) (p m : Nat) : List Nat :=
  ((s.part p).portsTo m).filter fun n => s.usable p n

/-- A ring plan of the committed image. -/
def Part.ringPlan (q : Part) (ident : Nat) : Option RingPlan :=
  match q.active with | some i => i.rings.find? fun g => g.ident == ident | none => none

/-- The members of a ring plan. -/
def Part.members (q : Part) (ident : Nat) : List (Nat × Nat) := (q.ringPlan ident).elim [] (·.members)

/-- Whether every port of a partition to module m is miswired (R391). -/
def State.allMiswired (s : State) (p m : Nat) : Bool :=
  let ports := (s.part p).portsTo m
  !ports.isEmpty && ports.all fun n => (s.port n).arb.peer == 3

/-- Whether module m is out for a partition (R391). -/
def State.peerOut (s : State) (p m : Nat) : Bool :=
  (s.part p).fab.modulesOut.contains m || s.allMiswired p m

/-- Whether a ring member is out for a partition (R391). -/
def State.memberOut (s : State) (p : Nat) (m : Nat × Nat) : Bool :=
  if m.1 == (s.part p).moduleNo then s.isCut (.cd m.2) else s.peerOut p m.1

/-- The positions after i in plan order, or before it, once round. -/
def ringOrder (n i : Nat) (fwd : Bool) : List Nat :=
  (List.range (n - 1)).map fun k => if fwd then (i + 1 + k) % n else (i + (n - 1 - k)) % n

/-- The position of a member in a plan. -/
def ringPos (ms : List (Nat × Nat)) (m : Nat × Nat) : Option Nat :=
  (List.range ms.length).find? fun i => ms[i]? == some m

/-- The first following member in a direction that is not out, with the positions skipped (R392). -/
def State.next (s : State) (p : Nat) (ms : List (Nat × Nat)) (i : Nat) (fwd : Bool) : Option Nat × List Nat :=
  let order := ringOrder ms.length i fwd
  let out := fun k => s.memberOut p (ms.getD k (0, 0))
  (order.find? fun k => !out k, order.takeWhile out)

/-- The first following member in plan order that is not out, with the positions skipped (R392). -/
def State.successor (s : State) (p : Nat) (ms : List (Nat × Nat)) (i : Nat) : Option Nat × List Nat :=
  s.next p ms i true

/-! ## Lost input -/

/-- An INPUT_LOST completion under chapter 15 counted (Table 15.4). -/
def countLost (p step : Nat) (s : State) : State :=
  s.modFab p fun f => { f with lost := sat f.lost, lostStep := BitVec.ofNat 32 step }

/-- A record that has lost its input under chapter 15, counted once. -/
def markLost (p : Nat) (r : RecRef) (s : State) : State :=
  if (s.rec? r).any fun x => !x.lost then countLost p r.step (s.modRec r fun y => { y with lost := true })
  else s

/-! ## Starting a message -/

/-- A message to another module joins its COE's messages, unbound, with the next number of its sending
die and destination module (Table 13.3). -/
def sendMessage (p : Nat) (m : OutMsg) (s : State) : State :=
  let num := look (s.cd m.ref.die).eng.coe.numbers m.dstModule 0
  let s := s.modCoe m.ref.die fun c =>
    { c with numbers := place c.numbers m.dstModule 0 (num + 1) }
  s.modFab p fun f =>
    { f with nextMsg := f.nextMsg + 1, msgs := f.msgs ++ [{ m with ident := f.nextMsg, number := num }] }

/-- A message crossing the panel mesh. -/
def sendMesh (p : Nat) (m : MeshMsg) (s : State) : State :=
  s.modFab p fun f => { f with mesh := f.mesh ++ [m] }

/-- Bytes sent, counted (Table 07.14). -/
def countOut (d n : Nat) (s : State) : State :=
  s.modCoe d fun c => { c with outBytes := wrap64 c.outBytes n }

/-- The lines of a read span that failed, by offset from its start. -/
def badLines (cs : List Chunk) : List Nat := (cs.filter fun c => c.data.isNone).map (·.off)

/-- The bytes of a read span, those of failed lines as nobody's: they are not written where the
destination is on this module, and are open where a flit carries them. -/
def sentBytes (salt : Nat) (cs : List Chunk) : List Byte :=
  cs.flatMap fun c => c.data.getD (List.replicate c.count (Config.lostByte salt))

/-! ## Inbound writes -/

/-- Whether a span lies in the destination a message names: a scratchpad, or a region of the
partition (R203). -/
def inboundOk (q : Part) (region offset n : Nat) : Bool :=
  if region = 0xFFFF then offset + n ≤ scratchBytes
  else match q.region? region with
    | some g => offset + n ≤ g.length
    | none => false

/-- The 64-byte lines of a message's data with their offsets, but for those that failed at the
source. -/
def dataLines (data : List Byte) (skip : List Nat) : List (Nat × List Byte) :=
  ((List.range ((data.length + 63) / 64)).filter fun i => !skip.contains (64 * i)).map
    fun i => (64 * i, (data.drop (64 * i)).take 64)

/-- Message data written at a receiving die from its destination's offset on, and counted in
COE_IN_BYTES. -/
def writeInbound (p d region offset : Nat) (data : List Byte) (skip : List Nat) (s : State) : SpanRes :=
  let r := (dataLines data skip).foldl
    (fun (acc : SpanRes) l =>
      let y := if region = 0xFFFF then writeScratch d unitCoe (offset + l.1) l.2 acc.state
        else writeRegion p region (offset + l.1) unitCoe .wide l.2 acc.state
      { y with bad := firstBad acc.bad y.bad }) ({ state := s } : SpanRes)
  { r with state := r.state.modCoe d fun c => { c with inBytes := wrap64 c.inBytes data.length } }

/-- An inbound write discarded (R203). -/
def rejectInbound (d : Nat) (s : State) : State :=
  s.modCoe d fun c => { c with inReject := sat c.inReject }

/-- The counter of a channel and a step, set to 0 when it is touched for another step than it held
(R202). -/
def Chan.touch (c : Chan) (step : Nat) : Chan :=
  if step % 2 = 0 then if c.step0 = step then c else { c with step0 := step, count0 := 0 }
  else if c.step1 = step then c else { c with step1 := step, count1 := 0 }

/-- The count of a channel for a step. -/
def Chan.count (c : Chan) (step : Nat) : Nat := if step % 2 = 0 then c.count0 else c.count1

/-- The count of a channel for a step changed. -/
def Chan.set (c : Chan) (step n : Nat) : Chan :=
  if step % 2 = 0 then { c with count0 := n } else { c with count1 := n }

/-- A PUT that has arrived whole counts its bytes once (R380). -/
def countPut (d channel step n : Nat) (s : State) : State :=
  s.modCoe d fun c =>
    { c with chans := modAt c.chans channel fun h =>
        let t := h.touch step
        t.set step (t.count step + n) }

/-! ## Shards of a RINGAG (R201, R392, R393) -/

/-- The message of a shard towards ring member m: over the panel mesh on this module, over the fabric
to another. -/
def sendShard (p : Nat) (g : RingProgress) (m : Nat × Nat) (offset : Nat) (empty : Bool) (s : State) :
    State :=
  let y := if empty then { state := s, chunks := [] }
    else readRegion p g.region offset g.count unitCoe .wide s
  let s := noteBad g.ref y.bad y.state
  let data := sentBytes s.free y.chunks
  let s := countOut g.ref.die data.length s
  if m.1 == (s.part p).moduleNo then
    sendMesh p (.shard g.ref m.2 g.ring g.region offset data (badLines y.chunks) empty) s
  else
    sendMessage p
      { ident := 0, kind := 3, ref := g.ref, dstModule := m.1, dstDie := m.2, channel := 0, format := 0
        number := 0, ordinal := 0, ring := g.ring, region := g.region, offset, data } s

/-- A RINGAG's progress changed. -/
def State.modRingag (s : State) (p : Nat) (r : RecRef) (f : RingProgress → RingProgress) : State :=
  s.modFab p fun b => { b with rings := b.rings.map fun g => if g.ref = r then f g else g }

/-- A ring's progress at a record. -/
def State.ringag (s : State) (p : Nat) (r : RecRef) : Option RingProgress :=
  (s.part p).fab.rings.find? fun g => g.ref == r

/-- A ring plan found broken: it is shown, and the host is told (R392). -/
def noteBroken (p ring : Nat) (s : State) : State :=
  telem p (.alertRingBroken ring) (s.modFab p fun f =>
    if f.ringsBroken.contains ring then f else { f with ringsBroken := ring :: f.ringsBroken })

/-- A ring found broken at a member (R392): its record ends with INPUT_LOST, and the host is told. -/
def breakRing (p : Nat) (g : RingProgress) (s : State) : State :=
  if (s.ringag p g.ref).any (·.broken) then s
  else noteBroken p g.ring (markLost p g.ref (s.modRingag p g.ref fun x => { x with broken := true }))

/-- Whether the ring is broken at a member whose new successor is k: it closed the ring, and has no
usable port to the module of k (R392). -/
def State.brokenAt (s : State) (p : Nat) (m : Nat × Nat) (skipped : List Nat) : Bool :=
  !skipped.isEmpty && m.1 != (s.part p).moduleNo && (s.usableTo p m.1).isEmpty

/-- The directions in which shards of a RINGAG travel (R44): forward, or both ways. -/
def RingProgress.ways (g : RingProgress) : List Bool := if g.both then [true, false] else [true]

/-- Whether the shard of position `pos` reaches position k in a direction: all the way round one way; both ways, the
nearer half each way (log entry 62). -/
def RingProgress.reaches (g : RingProgress) (pos k : Nat) (fwd : Bool) : Bool :=
  let n := g.members.length
  let dist := if fwd then (k + n - pos) % n else (pos + n - k) % n
  0 < dist && dist ≤ (if g.both then (if fwd then n / 2 else (n - 1) / 2) else n - 1)

/-- The shard of position `pos`, full or empty, sent on in a direction to the member that follows there, where it is
to reach that member and has not come from behind it. -/
def sendOn (p : Nat) (g : RingProgress) (pos : Nat) (empty fwd : Bool) (s : State) : State :=
  match s.next p g.members g.pos fwd with
  | (none, _) => s
  | (some k, skipped) =>
    let m := g.members.getD k (0, 0)
    if skipped.contains pos || !g.reaches pos k fwd then s
    else if s.brokenAt p m skipped then breakRing p g s
    else sendShard p g m (g.offset + pos * g.count) empty s

/-- The members cut out on this module that stand directly before a member, where the one before them is on another
module and so does not close the ring around them (R392, R393). -/
def State.cutBefore (s : State) (p : Nat) (g : RingProgress) : List Nat :=
  let ms := g.members
  let here := fun k => (ms.getD k (0, 0)).1 == (s.part p).moduleNo
  let gone := fun k => here k && s.memberOut p (ms.getD k (0, 0))
  let back := ringOrder ms.length g.pos false
  match back.find? fun k => !gone k with
  | some k => if here k then [] else back.takeWhile gone
  | none => []

/-- The out members around which a member closes the ring (R392, R393). -/
def State.closes (s : State) (p : Nat) (g : RingProgress) : List Nat :=
  (g.ways.flatMap (fun w => (s.next p g.members g.pos w).2) ++ s.cutBefore p g).eraseDups

/-- A member closes the ring around out members whose positions are not counted yet: it counts each as empty, and an
empty shard for it travels on, the furthest first (R393). -/
def closeRing (p : Nat) (r : RecRef) (s : State) : State :=
  match s.ringag p r with
  | none => s
  | some g =>
    let fresh := (s.closes p g).filter fun j => !g.got.contains j
    let s := s.modRingag p r fun x => { x with got := x.got ++ fresh, empty := x.empty ++ fresh }
    forAll fresh.reverse (fun j t => forAll g.ways (fun w u => sendOn p g j true w u) t) s

/-- The shard of a position passed on by a member that holds it, after it has closed the ring (R393). -/
def passShard (p : Nat) (g : RingProgress) (pos : Nat) (empty : Bool) (s : State) : State :=
  forAll g.ways (fun w t => sendOn p g pos empty w t) (closeRing p g.ref s)

/-- A position counted by its first message, full or empty, and passed on (R393). -/
def takeShard (p : Nat) (g : RingProgress) (pos : Nat) (empty : Bool) (s : State) : State :=
  let s := s.modRingag p g.ref fun x =>
    { x with got := x.got ++ [pos], empty := if empty then x.empty ++ [pos] else x.empty }
  passShard p g pos empty s

/-- Whether a shard at this offset belongs to a running RINGAG of a die. -/
def RingProgress.takes (g : RingProgress) (d step ring region offset : Nat) : Bool :=
  g.ref.die == d && g.ref.step == step && g.ring == ring && g.region == region &&
    g.offset ≤ offset && offset < g.offset + g.members.length * g.count && (offset - g.offset) % g.count == 0

/-- Whether a shard's position has been counted already, or waits to be (R393): a later message for it is a
duplicate. -/
def State.shardCame (s : State) (p d step ring region offset : Nat) : Bool :=
  let f := (s.part p).fab
  f.early.any (fun e => e.die == d && e.step == step && e.ring == ring && e.region == region && e.offset == offset) ||
    f.rings.any fun g => g.takes d step ring region offset && g.got.contains ((offset - g.offset) / g.count)

/-- A shard whose bytes have been written at die d counts in its RINGAG, or waits for it to start. -/
def shardArrived (p d step ring region offset : Nat) (empty : Bool) (s : State) : State :=
  if s.shardCame p d step ring region offset then s
  else match (s.part p).fab.rings.find? fun g => g.takes d step ring region offset with
    | some g => takeShard p g ((offset - g.offset) / g.count) empty s
    | none => s.modFab p fun f => { f with early := f.early ++ [⟨d, step, ring, region, offset, empty⟩] }

/-- The shards that came early for a RINGAG that has started, in order. -/
def takeEarly (p : Nat) (r : RecRef) (s : State) : State :=
  match s.ringag p r with
  | none => s
  | some g =>
    let mine := fun (e : EarlyShard) => g.takes e.die e.step e.ring e.region e.offset
    let es := (s.part p).fab.early.filter mine
    let s := s.modFab p fun f => { f with early := f.early.filter fun e => !mine e }
    forAll es (fun e t => shardArrived p e.die e.step e.ring e.region e.offset e.empty t) s

/-- Whether a ring message from one member to another travels forward: in a plan of both directions, when that is the
nearer way (log entry 62). -/
def Part.goesForward (q : Part) (ring : Nat) (src dst : Nat × Nat) : Bool :=
  let ms := q.members ring
  let n := ms.length
  !(q.ringPlan ring).any (·.direction == 1) ||
    match ringPos ms src, ringPos ms dst with
    | some j, some i => (i + n - j) % n ≤ (j + n - i) % n
    | _, _ => true

/-- The first member in plan order or against it past a member of this module, with the positions skipped, for a
message that comes from `src` (R392). -/
def State.past (s : State) (p ring : Nat) (src : Nat × Nat) (d : Nat) : Option Nat × List Nat :=
  let dst := ((s.part p).moduleNo, d)
  match ringPos ((s.part p).members ring) dst with
  | none => (none, [])
  | some i => s.next p ((s.part p).members ring) i ((s.part p).goesForward ring src dst)

/-- The die of this module at which a ring message to die d lands: d itself, or the member that follows a die
that has been cut out (R392). -/
def State.shardDie (s : State) (p ring : Nat) (src : Nat × Nat) (d : Nat) : Option Nat :=
  if !s.isCut (.cd d) then some d
  else match (s.past p ring src d).1 with
    | none => none
    | some k =>
      let m := ((s.part p).members ring).getD k (0, 0)
      if m.1 == (s.part p).moduleNo then some m.2 else none

/-! ## Elements of an ACCUM (R201, R206) -/

/-- Whether a region offers cells to elements of a format (R206). -/
def Region.reduces (g : Region) (fmt : Nat) : Bool :=
  g.cls == 4 && (if g.mode = 4 then fmt == 8 else g.mode != 0 && (fmt == 0 || fmt == 2 || fmt == 5))

/-- An element on its way to the hub that its offset lies in; false where its hub has been cut out
(Table 15.6) or its region offers no cell. -/
def sendElement (a : Arrival) (s : State) : State × Bool :=
  let q := s.part a.part
  match q.region? a.region, q.place? a.region a.offset with
  | some g, some (h, _) =>
    if g.reduces a.format && !s.isCut (.stack h) then
      (s.modRed h fun r => { r with inFlight := r.inFlight ++ [a] }, true)
    else (s, false)
  | _, _ => (s, false)

/-- The elements of an ACCUM's bytes sent in order, from element `first` on. -/
def sendElements (a : Arrival) (first : Nat) (data : List Byte) (s : State) : State × Bool :=
  let e := elemOf a.format
  let w := e.bits / 8
  (List.range (data.length / w)).foldl
    (fun r k =>
      let x := sendElement
        { a with offset := a.offset + (first + k) * w, pos := first + k
                 bits := BitVec.ofNat 32 (elemAt e data k) } r.1
      (x.1, r.2 && x.2)) (s, true)

end Sys2Proof.Machine
end

