-- ==== Sys2Proof/Machine/Lanes.lean ====
section
/-! DEFINITION. What is common to links, rings and fabric: withdrawing and resuming lanes (13 R333 to
R335), a port coming up, going down or dark (13 R325, R329, R330), its peer status (15 R368) and the
discipline's holdover (03 R70, R71). -/

namespace Sys2Proof.Machine

/-! ## The discipline -/

/-- Holdover begins: the offset goes on at its last rate, and the host is alerted (R70, R71). -/
def holdover (p : Nat) (s : State) : State :=
  let d := (s.part p).disc
  if d.sync = 1 || d.sync = 2 then
    telem p .alertTime (s.modDisc p fun d => { d.rebase s.now 3 with run := 0 })
  else s

/-- The port of a partition's time source. -/
def Part.timePort (q : Part) : Option Nat :=
  match q.active with
  | some i => if i.cadence.timeSource = 0xFF then none else some i.cadence.timeSource
  | none => none

/-- Holdover begins where port n is a partition's time source. -/
def holdoverOn (n : Nat) (s : State) : State :=
  match s.partOfPort n with
  | some p => if (s.part p).timePort == some n then holdover p s else s
  | none => s

/-- The time source is back: the partition acquires again, by slew alone (R70, R71). -/
def reacquireOn (n : Nat) (s : State) : State :=
  match s.partOfPort n with
  | some p =>
    let q := s.part p
    if q.timePort == some n && q.disc.sync = 3 && (s.port n).link.light == 3 &&
        (s.port n).arb.peer != 3 && (s.port n).arb.peer != 4 then
      s.modDisc p fun d =>
        { d.rebase s.now 1 with rate := 0, run := 0, reacquiring := true, returned := true }
    else s
  | none => s

/-! ## Peer status (R368 to R370) -/

/-- The kind of a peer in the port allocation (R42). -/
def Part.peerKind (q : Part) (m : Nat) : Nat :=
  match q.active with
  | some i => ((i.alloc.find? fun a => a.peer == m).map (·.kind)).getD 0
  | none => 0

/-- The status of Table 15.1 for a far identity: 0 unknown, 1 matched, 2 crossed, 3 miswired,
4 unused. -/
def peerStatus (q : Part) (n : Nat) (light : Nat) (far : Option (Nat × Nat)) : Nat :=
  match far with
  | none => 0
  | some (m, k) =>
    let e := q.peer n
    if light < 2 then 0
    else if !e.inUse then 4
    else if q.peerKind e.module == 1 && q.stream.step == 0xFFFFFFFF then 0
    else if m == q.moduleNo || m != e.module then 3
    else if k != e.port then 2 else 1

/-- A module stays out once every port of the partition to it has been miswired (R391). -/
def miswiredOut (p m : Nat) (s : State) : State :=
  if s.allMiswired p m && !(s.part p).fab.modulesOut.contains m then
    s.modFab p fun f => { f with modulesOut := f.modulesOut ++ [m] }
  else s

/-- The alert of a change of peer status: crossed once a session, miswired at once. -/
def peerAlert (p n old new : Nat) (s : State) : State :=
  let e := (s.part p).peer n
  let far := (s.port n).link.far.getD (0, 0)
  let item : Telem := .alertPeer n e.module e.port far.1 far.2
  if new = 3 && old != 3 then telem p item s
  else if new = 2 && !(s.port n).arb.crossedAlerted then
    telem p item (s.modArb n fun a => { a with crossedAlerted := true })
  else s

/-- A port's peer status decided again. Under a status that stays, a crossed port is alerted in its new session, and what
rests on a miswired port is worked out afresh (R368, R369, R391). -/
def decidePeer (n : Nat) (s : State) : State :=
  match s.partOfPort n with
  | none => s.modArb n fun a => { a with peer := 0 }
  | some p =>
    let q := s.port n
    let new := peerStatus (s.part p) n q.link.light q.link.far
    let old := q.arb.peer
    if new = old then
      let s := miswiredOut p ((s.part p).peer n).module (peerAlert p n old new s)
      if new = 3 || new = 4 then holdoverOn n s else s
    else
      let s := s.modArb n fun a => { a with peer := new, peerChanges := sat a.peerChanges }
      let s := peerAlert p n old new s
      let s := miswiredOut p ((s.part p).peer n).module s
      if new = 3 || new = 4 then holdoverOn n s else reacquireOn n s

/-! ## Lanes -/

/-- Withdrawals counted: LK_WITHDRAWS and the lifetime counter of the port (R335). -/
def countWithdraw (n : Nat) (s : State) : State :=
  (s.modLink n fun k => { k with withdraws := sat k.withdraws }).modLog fun l =>
    { l with live := { l.live with
        ports := let e := look l.live.ports n (0, 0, 0)
                 place l.live.ports n (0, 0, 0) (sat e.1, e.2.1, e.2.2) } }

/-- A held cause added to a mask. -/
def addCause (m c : Nat) : Nat := m ||| 2 ^ c

/-- A cause cleared from a mask. -/
def dropCause (m c : Nat) : Nat := if bit m c then m - 2 ^ c else m

/-- A transmit lane held out for a cause: it takes no further sequenced frame, and is reported in
tx_done (R334). -/
def txWithdraw (n l c : Nat) (s : State) : State :=
  let was := ((s.port n).tx.getD l {}).inService
  let s := s.modTx n l fun x =>
    { x with inService := false, causes := addCause x.causes c, done := true }
  if was then countWithdraw n (s.modRx n l fun x => { x with cause := c }) else s

/-- A receive lane withdrawn for a cause; `held` says that the cause lasts until it is cleared
(R334). -/
def rxWithdraw (n l c : Nat) (held : Bool) (s : State) : State :=
  let was := ((s.port n).rx.getD l {}).state
  let s := s.modRx n l fun x =>
    { x with
      causes := if held then addCause x.causes c else x.causes
      cause := if x.state = 3 then c else x.cause, state := if x.state = 3 then 4 else x.state
      asked := x.asked || x.state == 3, hist := [], runCorrected := 0 }
  if was = 3 then countWithdraw n s else s

/-- Whether a transmit lane emits: the port is lit and the lane's ring is locked (Table 13.5). -/
def State.txLit (s : State) (n l : Nat) : Bool :=
  let q := s.port n
  2 ≤ q.link.light && ((q.rings.getD l {}).state == 4 || (q.rings.getD l {}).state == 5)

/-- Bits of the lanes that satisfy f. -/
def laneMask (f : Nat → Bool) : Nat := (List.range 8).foldl (fun m l => if f l then m + 2 ^ l else m) 0

/-- Receive lanes in service. -/
def Port.rxService (q : Port) : Nat := laneMask fun l => (q.rx.getD l {}).state == 3
/-- Transmit lanes in service. -/
def Port.txService (q : Port) : Nat := laneMask fun l => (q.tx.getD l {}).inService
/-- Receive lanes this end asks the far end to withdraw. -/
def Port.withdrawReq (q : Port) : Nat := laneMask fun l => (q.rx.getD l {}).asked
/-- Transmit lanes this end has withdrawn. -/
def Port.txDone (q : Port) : Nat := laneMask fun l => (q.tx.getD l {}).done

/-- A port comes up when it is lit and has a lane of each direction in service, with sequences from 0
(R325). -/
def tryPortUp (n : Nat) (s : State) : State :=
  let q := s.port n
  if q.link.light == 2 && q.txService != 0 && q.rxService != 0 then
    let s := s.modLink n fun k =>
      { k with light := 3, txSeq := 0, rxSeq := 0, buffer := [], held := [], naks := [], named := []
               current := none, currentOff := 0 }
    reacquireOn n (decidePeer n s)
  else s

/-- Transmit lanes that the far end reports in rx_service, are lit and have no cause to stay out
resume at the next frame boundary (R333). -/
def admitTx (n : Nat) (s : State) : State :=
  let s := (List.range 8).foldl
    (fun t l =>
      let x := (t.port n).tx.getD l {}
      if !x.inService && x.causes = 0 && bit (t.port n).link.farService.toNat l && t.txLit n l then
        t.modTx n l fun x => { x with inService := true, done := false, admits := sat x.admits }
      else t) s
  tryPortUp n s

/-- A transmit lane's cause cleared. -/
def txClear (n l c : Nat) (s : State) : State :=
  admitTx n (s.modTx n l fun x => { x with causes := dropCause x.causes c })

/-! ## Rings on lines (14 R344, R345) -/

/-- The laser serving a line (R362). -/
def Le.serving (e : Le) (line : Nat) : Option Nat :=
  (List.range 10).find? fun j => (e.lasers.getD j {}).line == line && (e.lasers.getD j {}).state == 3

/-- Whether a line of an engine has been removed (R361). -/
def Le.isRemoved (e : Le) (line : Nat) : Bool := bit e.removed.toNat line

/-- The settings at which a ring met a line, lowest first. -/
def RingRes.settings (r : RingRes) (line : Nat) : List Nat :=
  sortBy id ((r.dips.filter fun d => d.1 == line).map (·.2))

/-- 4 mW and 58 mW, in 1/256 mW (R344). -/
def lowHeat : Nat := 1024
def highHeat : Nat := 14848

/-- The setting of a ring for a line: the lower of its orders that lies between 4 mW and 58 mW (R344). -/
def RingRes.settingFor (r : RingRes) (line : Nat) : Option Nat :=
  (r.settings line).find? fun v => lowHeat ≤ v && v ≤ highHeat

/-- A ring put on a line at its setting there, in state `st`; parked where it has none or its line is
removed. -/
def RingRes.assign (r : RingRes) (e : Le) (line st : Nat) : RingRes :=
  if r.state = 6 then r
  else match r.settingFor line with
    | some v =>
      if e.isRemoved line then { r with state := 2, line, expect := 0, windows := 0, nameless := 0 }
      else
        { r with
          state := st, line, order := (r.settings line).head? != some v
          expect := (e.serving line).getD 0, heater := v, setting := v, windows := 0, nameless := 0 }
    | none => { r with state := 2, line, expect := (e.serving line).getD 0, windows := 0, nameless := 0 }

/-- A receive ring moved to a line by R344's rule. -/
def RingRes.moveTo (r : RingRes) (e : Le) (line : Nat) : RingRes :=
  if r.line = line && r.state != 2 then r else r.assign e line 3

/-- The receive rings back on the transmit shift: the far shift that they had adopted lasts until the port is dark
(R345). -/
def forgetShift (n : Nat) (s : State) : State :=
  let e := s.le (n / 16)
  s.modPort n fun q =>
    if !q.adopted then q
    else
      { q with
        rxShift := q.txShift, adopted := false
        rings := ((List.range 16).zip q.rings).map fun x =>
          if x.1 < 8 then x.2 else x.2.moveTo e ((x.1 - 8 + q.txShift) % 8) }

/-! ## Ports -/

/-- A message's request or grant withdrawn from the arbiter of its port. -/
def dropRequest (m : OutMsg) (s : State) : State :=
  match m.port with
  | none => s
  | some k => s.modArb k fun a =>
    { a with
      requests := a.requests.filter fun r => r.msg != m.ident
      holder := if a.holder == some m.ident then none else a.holder }

/-- Messages with flits not acknowledged on a port become requests again, from the first offset not
seen acknowledged (R381). -/
def unbindAll (n : Nat) (s : State) : State :=
  match s.partOfPort n with
  | none => s
  | some p =>
    let cut := (s.port n).link.buffer.flatMap fun f => f.msgs.map (·.1)
    let mine := fun (m : OutMsg) => m.port == some n || cut.contains m.ident
    let s := forAll ((s.part p).fab.msgs.filter mine) (fun m t => dropRequest m t) s
    let free := fun (m : OutMsg) =>
      if mine m then { m with port := none, last := none, sent := m.acked } else m
    s.modFab p fun f => { f with msgs := f.msgs.map free }

/-- Port down (R325, R381): both buffers discarded, the event logged, counted and alerted; the port is
left lit. Causes as in kind 0x30 of Table 20.3. -/
def downPort (n cause : Nat) (s : State) : State :=
  let p := s.partOfPort n
  let s := unbindAll n s
  let s := s.modLink n fun k =>
    { k with light := 2, buffer := [], held := [], naks := [], named := [], control := [], current := none
             downs := sat k.downs, time := {} }
  let s := s.modArb n fun a => { a with requests := [], holder := none, crossedAlerted := false }
  let s := s.modLog fun l =>
    let e := look l.live.ports n (0, 0, 0)
    let v := (e.1, min (e.2.1 + 1) 0xFFFF,
      if cause = 4 then min (e.2.2 + 1) 0xFFFF else e.2.2)
    { l with live := { l.live with ports := place l.live.ports n (0, 0, 0) v } }
  let s := logEvent 0x30 (winLe (n / 16)) (partCode p) [BitVec.ofNat 8 n, BitVec.ofNat 8 cause] s
  holdoverOn n (telemTo p (if cause = 4 then .alertPeerDark n else .alertPortDown n cause) s)

/-- A port goes dark and emits nothing (R329, R330): an up port goes down for the cause given. -/
def darkPort (n cause : Nat) (s : State) : State :=
  let s := if (s.port n).link.light = 3 then downPort n cause s else s
  let s := (forgetShift n s).modPort n fun q =>
    { q with
      rx := q.rx.map fun x =>
        { x with
          state := if x.state = 5 then 5 else 0, asked := false, hist := [], tries := 0, positions := 0 }
      tx := q.tx.map fun x =>
        { x with
          inService := false, done := false, frame := 0, causes := dropCause x.causes 1 }
      link := { q.link with light := 0, far := none, farService := 0, farDone := 0 } }
  holdoverOn n (decidePeer n s)

/-- Whether a port takes part: allotted to a partition, present, its light engine neither failed nor
cut out (R313). -/
def State.portServes (s : State) (n : Nat) : Bool :=
  (s.partOfPort n).isSome && s.portPresent n && s.live (.le (n / 16)) && (s.le (n / 16)).optState == 4

/-- The partitions that hold a port of an engine (R356). -/
def State.engineParts (s : State) (m : Nat) : List Nat :=
  partNums.filter fun p => (s.part p).present &&
    (List.range 16).any fun k => bit (s.part p).frame.portMask (16 * m + k)

/-- An alert of an engine's lasers: in MOD_ALERT, and to every partition host that holds a port of it (R356,
Table 18.9). -/
def engineAlert (m : Nat) (t : Telem) (s : State) : State :=
  forAll (s.engineParts m) (fun p u => telem p t u) (raiseAlert 1 s)

end Sys2Proof.Machine
end

