-- ==== Sys2Proof/Machine/Operands.lean ====
section
/-! DEFINITION. Operand forms: the operand words of each operation taken apart, and operand arrays
read from scratchpad. -/

namespace Sys2Proof.Machine

/-! ## Matrix engine operands (Table 05.3, R153, R154) -/

/-- The operand words of MMA (Table 05.3). -/
structure MmaOp where
  aAddr : Nat
  aStride : Nat
  bAddr : Nat
  bStride : Nat
  transB : Bool
  transA : Bool
  strict : Bool
  clear : Bool
  tile : Nat
  n : Nat
  m : Nat
  entry : Word
  bFmt : Nat
  aFmt : Nat
  aScale : Nat
  bScale : Nat
  sb : Int
  sa : Int

/-- MMA's words taken apart. -/
def MmaOp.of (w : Nat → Word) : MmaOp :=
  { aAddr := (w 0).toNat, aStride := (w 1).toNat, bAddr := (w 2).toNat, bStride := (w 3).toNat
    transB := bit (w 4).toNat 23, transA := bit (w 4).toNat 22, strict := bit (w 4).toNat 21
    clear := bit (w 4).toNat 20, tile := field (w 4) 17 16, n := field (w 4) 15 8 + 1
    m := field (w 4) 6 0 + 1, entry := w 5, bFmt := field (w 6) 15 8, aFmt := field (w 6) 7 0
    aScale := (w 7).toNat, bScale := (w 8).toNat
    sb := signed 16 (field (w 9) 31 16), sa := signed 16 (field (w 9) 15 0) }

/-- The operand words of AST (R153). -/
structure AstOp where
  dst : Nat
  stride : Nat
  ctl : CtlWord
  tile : Nat
  n : Nat
  m : Nat
  s : Int
  clear : Bool

/-- AST's words taken apart. -/
def AstOp.of (w : Nat → Word) : AstOp :=
  { dst := (w 0).toNat, stride := (w 1).toNat, ctl := ctlOf (w 2), tile := field (w 3) 17 16
    n := field (w 3) 15 8 + 1, m := field (w 3) 6 0 + 1, s := wordInt (w 4), clear := bit (w 5).toNat 0 }

/-! ## Vector engine operands (Table 06.2) -/

/-- One source operand of a VXE record: its kind, operand word, format code and sign control. -/
structure VxeSrc where
  kind : Nat
  word : Word
  fmt : Nat
  neg : Bool

/-- The operand words of a VXE record (Table 06.2). -/
structure VxeOp where
  dAddr : Nat
  dFmt : Nat
  a : VxeSrc
  b : VxeSrc
  c : VxeSrc
  sub : Nat
  rz : Bool
  accEngine : Nat
  accTile : Nat
  accView : Nat
  accLen : Nat
  accCol : Nat
  accRow : Nat
  group : Nat

/-- A VXE record's words taken apart. -/
def VxeOp.of (w : Nat → Word) : VxeOp :=
  let w5 := (w 5).toNat
  { dAddr := (w 0).toNat, dFmt := field (w 4) 31 24
    a := ⟨field (w 5) 1 0, w 1, field (w 4) 7 0, bit w5 12⟩
    b := ⟨field (w 5) 3 2, w 2, field (w 4) 15 8, bit w5 13⟩
    c := ⟨field (w 5) 5 4, w 3, field (w 4) 23 16, bit w5 14⟩
    sub := field (w 5) 19 16, rz := bit w5 15
    accEngine := field (w 6) 31 28, accTile := field (w 6) 27 26, accView := field (w 6) 25 24
    accLen := field (w 6) 23 16 + 1, accCol := field (w 6) 15 8, accRow := field (w 6) 6 0
    group := (w 7).toNat }

/-! ## Transposer and gather engine operands (Tables 07.1, 07.3, 07.4) -/

/-- TXP's words (Table 07.1); `bits` is the element width in bits. -/
structure TxpOp where
  dAddr : Nat
  sAddr : Nat
  sStride : Nat
  dStride : Nat
  bits : Nat
  cols : Nat

def TxpOp.of (w : Nat → Word) : TxpOp :=
  { dAddr := (w 0).toNat, sAddr := (w 1).toNat, sStride := (w 2).toNat, dStride := (w 3).toNat
    bits := 4 * 2 ^ field (w 4) 18 16, cols := field (w 4) 15 0 + 1 }

/-- LOAD's and STORE's words (Table 07.3). -/
structure MoveOp where
  sAddr : Nat
  region : Nat
  offset : Nat
  rowBytes : Nat
  mStride : Nat
  sStride : Nat

def MoveOp.of (w : Nat → Word) : MoveOp :=
  { sAddr := (w 0).toNat, region := field (w 1) 9 0
    offset := (w 2).toNat + 2 ^ 32 * field (w 3) 9 0
    rowBytes := (w 4).toNat, mStride := (w 5).toNat, sStride := (w 6).toNat }

/-- GATHER's words (Table 07.4). -/
structure GatherOp where
  dAddr : Nat
  idxAddr : Nat
  region : Nat
  rowBytes : Nat
  rStride : Nat

def GatherOp.of (w : Nat → Word) : GatherOp :=
  { dAddr := (w 0).toNat, idxAddr := (w 1).toNat, region := field (w 2) 9 0
    rowBytes := (w 3).toNat, rStride := (w 4).toNat }

/-! ## Conversion engine operands (Table 07.6, R194, R195) -/

/-- CVT's words (Table 07.6). -/
structure CvtOp where
  dAddr : Nat
  sAddr : Nat
  ctl : CtlWord
  acc : Bool
  scaleSrc : Nat
  amax : Bool
  tensor : Nat
  sImm : Int
  key : Word
  pos : Nat
  mxScales : Nat
  posStride : Nat
  engine : Nat
  tile : Nat
  clear : Bool
  len : Nat
  col : Nat
  row : Nat

def CvtOp.of (w : Nat → Word) : CvtOp :=
  { dAddr := (w 0).toNat, sAddr := (w 1).toNat, ctl := ctlOf (w 2), acc := bit (w 3).toNat 31
    scaleSrc := field (w 3) 30 29, amax := bit (w 3).toNat 28, tensor := field (w 3) 11 0
    sImm := wordInt (w 4), key := w 5, pos := (w 6).toNat + 2 ^ 32 * field (w 7) 15 0
    mxScales := (w 8).toNat, posStride := (w 9).toNat
    engine := field (w 10) 31 28, tile := field (w 10) 27 26, clear := bit (w 10).toNat 25
    len := field (w 10) 23 16 + 1, col := field (w 10) 15 8, row := field (w 10) 6 0 }

/-! ## Collective engine operands (Table 07.10) -/

/-- A place a COE record names: scratchpad at an address, or a region at an offset. -/
structure CoePlace where
  region : Option Nat
  offset : Nat
deriving DecidableEq, Repr

/-- PUT's words. -/
structure PutOp where
  src : CoePlace
  dst : CoePlace
  module : Nat
  die : Nat
  channel : Nat

def coePlace (a b : Word) : CoePlace :=
  if field b 31 16 = 0xFFFF then ⟨none, a.toNat⟩
  else ⟨some (field b 31 16), a.toNat + 2 ^ 32 * field b 9 0⟩

def PutOp.of (w : Nat → Word) : PutOp :=
  { src := coePlace (w 0) (w 1), dst := coePlace (w 2) (w 3)
    module := field (w 4) 31 16, die := field (w 4) 15 12, channel := field (w 4) 5 0 }

/-- ACCUM's words. -/
structure AccumOp where
  src : Nat
  region : Nat
  offset : Nat
  module : Nat
  fmt : Nat

def AccumOp.of (w : Nat → Word) : AccumOp :=
  { src := (w 0).toNat, region := field (w 1) 9 0, offset := (w 2).toNat + 2 ^ 32 * field (w 3) 9 0
    module := field (w 4) 31 16, fmt := field (w 4) 7 0 }

/-- RINGAG's words. -/
structure RingOp where
  ring : Nat
  region : Nat
  offset : Nat

def RingOp.of (w : Nat → Word) : RingOp :=
  { ring := field (w 0) 7 0, region := field (w 1) 9 0, offset := (w 2).toNat + 2 ^ 32 * field (w 3) 9 0 }

/-! ## Arrays in scratchpad -/

/-- An operand element as a matrix engine reads it (R136, R140): its bits, its value with its MX scale,
whether it is a signalling NaN as read, and its scale byte (0 where it has none). -/
structure Opnd where
  raw : Nat
  num : Num
  sig : Bool
  sc : Nat

/-- Rows of n bytes at a stride, read from scratchpad by unit src: the rows, with failed lines as
zeros (R292), and the first failing address. -/
def readRows (d src addr stride rows n : Nat) (s : State) : State × List (List Byte) × Option Nat :=
  (List.range rows).foldl
    (fun r i =>
      let x := readScratch d src (addr + i * stride) n r.1
      (x.state, r.2.1 ++ [chunkBytes x.chunks], firstBad r.2.2 x.bad))
    (s, [], none)

/-- Column i of a list of rows. -/
def column (i : Nat) (rows : List (List Nat)) : List Nat := rows.map fun r => r.getD i 0

/-- The bytes that n elements of a format take, rounded up. -/
def rowBytes (e : Elem) (n : Nat) : Nat := (n * e.bits + 7) / 8

/-- An operand array of `outer` rows (of A) or columns (of B) by k terms (Table 05.4). With `entry`, an
FP32 element is entered as F19 by that control word, with its flags (R140). -/
def readOperand (d src addr stride : Nat) (trans : Bool) (fmt outer k scaleAddr : Nat)
    (entry : Option CtlWord) (s : State) :
    State × List (List Opnd) × Flags × Option Nat :=
  match fmtOf fmt with
  | none => (s, [], {}, none)
  | some (e, mx) =>
    let x := if trans then readRows d src addr stride k (rowBytes e outer) s
      else readRows d src addr stride outer (rowBytes e k) s
    let raws : List (List Nat) :=
      if trans then
        let rows := x.2.1.map fun b => elems e b outer
        (List.range outer).map fun i => column i rows
      else x.2.1.map fun b => elems e b k
    let y := if mx then readRows d src scaleAddr (k / 32) outer (k / 32) x.1 else (x.1, [], none)
    let rows := ((List.range raws.length).zip raws).map fun p =>
      ((List.range k).zip p.2).map fun q =>
        let sc := if mx then leAt (y.2.1.getD p.1 []) (q.1 / 32) 1 else 0
        let own := if mx then Num.readMx e sc q.2 else Num.read e q.2
        let en := match entry with
          | some c => some (convBits .fp32 .f19 c.sat (rndOf c.rnd) 0 0 q.2)
          | none => none
        ((⟨q.2, (match en with | some v => Num.read .f19 v.1 | none => own), own.signalling, sc⟩ : Opnd),
          (match en with | some v => v.2 | none => ({} : Flags)))
    (y.1, rows.map (fun r => r.map (·.1)),
      (rows.flatMap fun r => r.map (·.2)).foldl Flags.or {}, firstBad x.2.2 y.2.2)

end Sys2Proof.Machine
end

