-- ==== Sys2Proof/Machine/Coe.lean ====
section
/-! DEFINITION. The collective engine's operations but STEPWORD (07 R200 to R203). -/

namespace Sys2Proof.Machine

/-- The partition of a record's die. -/
def coePart (r : RecRef) (s : State) : Nat := (s.partOfCd r.die).getD 0

/-- Bytes read from a place a COE record names: scratchpad bytes of failed lines are taken as 0x00,
lines of a region that fail are left out (R292). The result holds the bytes and the failed offsets. -/
def readPlace (r : RecRef) (c : CoePlace) (n : Nat) (s : State) : State × List Byte × List Nat :=
  match c.region with
  | none =>
    let y := readScratch r.die unitCoe c.offset n s
    (noteBadScratch r y.bad y.state, chunkBytes y.chunks, [])
  | some g =>
    let y := readRegion (coePart r s) g c.offset n unitCoe .wide s
    (noteBad r y.bad y.state, sentBytes s.free y.chunks, badLines y.chunks)

/-- PUT: the source's bytes go to the named die, over the panel mesh or as a message. -/
def putRun (r : RecRef) (x : RecState) (s : State) : State :=
  let f := PutOp.of x.w
  let p := coePart r s
  let y := readPlace r f.src x.count s
  let s := countOut r.die x.count y.1
  let dst := f.dst.region.getD 0xFFFF
  if f.module = 0xFFFF then sendMesh p (.put r f.die f.channel dst f.dst.offset y.2.1 y.2.2) s
  else sendMessage p
    { ident := 0, kind := 1, ref := r, dstModule := f.module, dstDie := f.die, channel := f.channel
      format := 0, number := 0, ordinal := 0, ring := 0, region := dst, offset := f.dst.offset
      data := y.2.1 } s

/-- Whether a PUT's source touches no open granule (R210). -/
def putReady (r : RecRef) (x : RecState) (s : State) : Bool :=
  let c := (PutOp.of x.w).src
  c.region.all fun g => !spanOpen (coePart r s) g c.offset x.count s

/-- PUT. -/
def execPut (r : RecRef) (s : State) : Host.Outcome State Fault Refusal :=
  runOpWhen r 0x0600 (putReady r) (counted (putRun r)) s

/-- The counter a WAITIN waits on, touched by it (R202). -/
def touchChan (r : RecRef) (x : RecState) (s : State) : State :=
  s.modCoe r.die fun c => { c with chans := modAt c.chans (field (x.w 0) 5 0) fun h => h.touch r.step }

/-- The count that a WAITIN finds. -/
def waitCount (r : RecRef) (x : RecState) (s : State) : Nat :=
  ((((s.cd r.die).eng.coe.chans.getD (field (x.w 0) 5 0) {}).touch r.step).count r.step)

/-- A WAITIN whose counter has reached its expected count subtracts it. -/
def waitRun (r : RecRef) (x : RecState) (s : State) : State :=
  s.modCoe r.die fun c =>
    { c with chans := modAt c.chans (field (x.w 0) 5 0) fun h =>
        (h.touch r.step).set r.step ((h.touch r.step).count r.step - (x.w 1).toNat) }

/-- WAITIN: waits while its counter is below the expected count, touching it. -/
def execWaitin (r : RecRef) (s : State) : Host.Outcome State Fault Refusal :=
  match s.rec? r with
  | some x =>
    if (x.w 1).toNat ≤ waitCount r x s then runOp r 0x0601 (waitRun r) s
    else if x.phase = .running && x.record.opcode == 0x0601 && !s.suspended r x then onlyIf r.wf (touchChan r x s)
    else onlyIf r.wf s
  | none => onlyIf r.wf s

/-- The ordinal of an ACCUM: its index among its die's ACCUM records of the step (R206). -/
def accumOrdinal (r : RecRef) (s : State) : Nat :=
  match (s.cd r.die).seq.step? r.step with
  | some u => ((u.recs.take r.cmd).filter fun x => x.record.opcode == 0x0602).length
  | none => 0

/-- ACCUM: the elements go to the hubs that hold their offsets, here or on another module. Elements
addressed to a hub that has been cut out are discarded, and the record loses its input (Table 15.6). -/
def accumRun (r : RecRef) (x : RecState) (s : State) : State :=
  let f := AccumOp.of x.w
  let p := coePart r s
  let n := x.count * ((elemOf f.fmt).bits / 8)
  let y := readPlace r ⟨none, f.src⟩ n s
  let s := countOut r.die n y.1
  if f.module = 0xFFFF then
    let z := sendElements
      { part := p, region := f.region, offset := f.offset, format := f.fmt, bits := 0
        srcModule := (s.part p).moduleNo, srcDie := r.die, step := r.step, ordinal := accumOrdinal r s
        pos := 0, sender := some r } 0 y.2.1 s
    if z.2 then z.1 else markLost p r z.1
  else sendMessage p
    { ident := 0, kind := 2, ref := r, dstModule := f.module, dstDie := 0xFF, channel := 0
      format := f.fmt, number := 0, ordinal := accumOrdinal r s, ring := 0, region := f.region
      offset := f.offset, data := y.2.1 } s

/-- ACCUM. -/
def execAccum (r : RecRef) (s : State) : Host.Outcome State Fault Refusal :=
  runOp r 0x0602 (counted (accumRun r)) s

/-- RINGAG: the die's own position counts at once; after the empty shards of the out members that it stands in for,
its shard starts along the ring, and shards that came early are counted (R201, R393). -/
def ringRun (r : RecRef) (x : RecState) (s : State) : State :=
  let f := RingOp.of x.w
  let p := coePart r s
  let ms := (s.part p).members f.ring
  match ringPos ms ((s.part p).moduleNo, r.die) with
  | none => s
  | some i =>
    let g : RingProgress :=
      { ref := r, ring := f.ring, count := x.count, region := f.region, offset := f.offset, pos := i, members := ms
        both := ((s.part p).ringPlan f.ring).any (·.direction == 1), got := [i] }
    let s := s.modFab p fun b => { b with rings := b.rings ++ [g] }
    takeEarly p r (passShard p g i false s)

/-- Whether the shard that a RINGAG reads first lies in no open granule (R210). -/
def ringReady (r : RecRef) (x : RecState) (s : State) : Bool :=
  let f := RingOp.of x.w
  let p := coePart r s
  match ringPos ((s.part p).members f.ring) ((s.part p).moduleNo, r.die) with
  | none => true
  | some i => !spanOpen p f.region (f.offset + i * x.count) x.count s

/-- RINGAG. -/
def execRingag (r : RecRef) (s : State) : Host.Outcome State Fault Refusal :=
  runOpWhen r 0x0603 (ringReady r) (counted (ringRun r)) s

end Sys2Proof.Machine
end

