-- ==== Sys2Proof/Machine/Mxe.lean ====
section
/-! DEFINITION. The matrix engines (chapter 05): MMA in fast and strict mode, ACLR, AST, ASV and ALD,
the first-event record, and what Fennel takes of a selected record (21 R491, R492). -/

namespace Sys2Proof.Machine

/-- The chunk count up to which the error bound is promised (R146). -/
def longSumLimit : Nat := 2 ^ 20

/-- An event that raises NV (R156): its keys chunk, k, row, column and whether it follows the product
events, its kind, and its operand fields. -/
structure NvEvent where
  chunk : Nat
  k : Nat
  row : Nat
  col : Nat
  after : Bool
  kind : Nat
  a : Nat
  b : Nat

/-- The order of events by the keys of R156. -/
def NvEvent.before (x y : NvEvent) : Bool :=
  if x.chunk != y.chunk then x.chunk < y.chunk
  else if x.k != y.k then x.k < y.k
  else if x.row != y.row then x.row < y.row
  else if x.col != y.col then x.col < y.col
  else !x.after && y.after

/-- The first of a list of events. -/
def firstEvent : List NvEvent → Option NvEvent
  | [] => none
  | e :: es => match firstEvent es with
    | none => some e
    | some f => if f.before e then some f else some e

/-! ## One term and one chunk -/

/-- The product of a term (R140, R147) scaled by 2^s, with the kind of event that raises NV, if any. -/
def termProduct (a b : Opnd) (s : Int) : Num × Option Nat :=
  let kind := if a.sig || b.sig then some 2 else if zeroTimesInf a.num b.num then some 1 else none
  ((numMul a.num b.num).1.scale s, kind)

/-- A finite product cut to 27 bit positions below 2^E (R141 step 3): floor(p / 2^(E − 26)), and
whether a non-zero bit was dropped. -/
def truncTerm (neg : Bool) (m : Nat) (e g : Int) : Int × Bool :=
  if g ≤ e then (atExp (sgn neg m) e g, false)
  else
    let q := (2 ^ (g - e).toNat : Nat)
    (sgn neg m / (q : Int), m % q != 0)

/-- The finite products of a chunk added (R141): S as a value, and whether step 3 dropped a bit. -/
def chunkFinite (ps : List Num) : Num × Bool :=
  match blockLog ps with
  | none => (.fin (ps.all fun p => match p with | .fin n _ _ => n | _ => true) 0 0, false)
  | some top =>
    let g := top - 26
    let ts := ps.filterMap fun p => match p with
      | .fin n m e => some (truncTerm n m e g)
      | _ => none
    let v := (ts.map (·.1)).foldl (· + ·) 0
    (.fin (v < 0) v.natAbs g, ts.any (·.2))

/-- The signs of a chunk's infinite terms in order, each with its place. -/
def infTerms (ps : List Num) : List (Nat × Bool) :=
  ((List.range ps.length).zip ps).filterMap fun p => match p.2 with
    | .inf n => some (p.1, n)
    | _ => none

/-- What a chunk of one output element comes to (R141, R142, R147): its result, flags and events. -/
structure ChunkRes where
  c : Word
  flags : Flags
  events : List NvEvent
  products : List Num

/-- Chunk j of output (row, col), whose terms are given with k from 0 in the chunk. -/
def chunkSum (j row col : Nat) (s : Int) (terms : List (Opnd × Opnd)) : ChunkRes :=
  let rs := terms.map fun t => (termProduct t.1 t.2 s, t)
  let ps := rs.map (·.1.1)
  let ev1 := ((List.range rs.length).zip rs).filterMap fun p =>
    match p.2.1.2 with
    | some kind => some (⟨j, p.1, row, col, false, kind, p.2.2.1.raw, p.2.2.2.raw⟩ : NvEvent)
    | none => none
  let fin := chunkFinite ps
  let hat := round32 .rne fin.1
  let infs := infTerms ps
  let clash : Option (Nat × Bool) := match infs with
    | [] => none
    | f :: r => r.find? fun x => x.2 != f.2
  let ev2 : List NvEvent := match clash with
    | some x => match terms[x.1]? with
      | some t => [⟨j, x.1, row, col, false, 3, t.1.raw, t.2.raw⟩]
      | none => []
    | none => []
  let ev := ev1 ++ ev2
  { c := if ps.any Num.isNan || clash.isSome then canon32
         else match infs with
           | f :: _ => if f.2 then 0xFF800000 else 0x7F800000
           | [] => hat.1
    flags := Flags.or hat.2 { ix := fin.2, nv := !ev.isEmpty }
    events := ev
    products := ps }

/-! ## One output element -/

/-- An output element after its chunks or terms: the pair, the flags, the events, and the products. -/
structure ElemRes where
  pair : Pair
  flags : Flags := {}
  events : List NvEvent := []
  products : List Num := []

/-- Chunks of 32 consecutive terms (R141). -/
def chunksOf {α : Type} : Nat → List α → List (List α)
  | 0, _ => []
  | n + 1, l => l.take 32 :: chunksOf n (l.drop 32)

/-- An output element in fast mode (R141 to R148). -/
def fastElem (row col : Nat) (s : Int) (p0 : Pair) (terms : List (Opnd × Opnd)) : ElemRes :=
  let cs := chunksOf (ceilDiv terms.length 32) terms
  ((List.range cs.length).zip cs).foldl
    (fun r p =>
      let c := chunkSum p.1 row col s p.2
      let a := addPair r.pair c.c
      { pair := a.1
        flags := Flags.or r.flags (Flags.or c.flags a.2.1)
        events := r.events ++ c.events ++
          (if a.2.2 then [⟨p.1, 31, row, col, true, 4, r.pair.hi.toNat, c.c.toNat⟩] else [])
        products := r.products ++ c.products })
    { pair := p0 }

/-- A NaN element quieted, keeping sign and payload (R150). -/
def quieted (raw : Nat) : Word := BitVec.ofNat 32 (raw ||| 0x400000)

/-- One term of strict mode (R149 to R151): term k of an element whose accumulator is acc. -/
def strictTerm (k row col : Nat) (s : Int) (t : Opnd × Opnd) (acc : Word) :
    Word × Flags × List NvEvent :=
  let p := termProduct t.1 t.2 s
  let mk := fun kind => (⟨k / 32, k % 32, row, col, false, kind, t.1.raw, t.2.raw⟩ : NvEvent)
  let ev := match p.2 with | some kind => [mk kind] | none => []
  let nv : Flags := { nv := !ev.isEmpty }
  if isNan32 acc then
    (acc, (if p.1.isNan then nv else Flags.or nv (round32 .rne p.1).2), ev)
  else if t.1.num.isNan then (quieted t.1.raw, nv, ev)
  else if t.2.num.isNan then (quieted t.2.raw, nv, ev)
  else if p.1.isNan then (canon32, nv, ev)
  else
    let sum := numAdd (f32 acc) p.1
    if sum.2 then (canon32, { nv := true }, ev ++ [mk 4])
    else
      let r := round32 .rne sum.1
      (r.1, Flags.or nv r.2, ev)

/-- An output element in strict mode: from the tile's hi, or +0 if cleared; a lo that is discarded and
not zero raises IX (R149). -/
def strictElem (row col : Nat) (s : Int) (p0 : Pair) (terms : List (Opnd × Opnd)) : ElemRes :=
  let start : ElemRes :=
    { pair := ⟨p0.hi, 0⟩, flags := { ix := p0.lo.toNat % 2 ^ 31 != 0 } }
  ((List.range terms.length).zip terms).foldl
    (fun r p =>
      let x := strictTerm p.1 row col s p.2 r.pair.hi
      { pair := ⟨x.1, 0⟩, flags := Flags.or r.flags x.2.1, events := r.events ++ x.2.2 })
    start

/-! ## Tiles -/

/-- The pair of element i of a tile (row × 256 + column). -/
def Tile.get (t : Tile) (i : Nat) : Pair := look t.pairs i {}

/-- A pair put into a tile. -/
def Tile.set (t : Tile) (i : Nat) (p : Pair) : Tile := { t with pairs := place t.pairs i {} p }

/-- The elements m < M, n < N of a tile set to (+0, +0). -/
def Tile.clearPart (t : Tile) (m n : Nat) : Tile :=
  { t with pairs := t.pairs.filter fun e => !(e.1 / 256 < m && e.1 % 256 < n) }

/-- Bit t of MXE_LS_TILE (R146): the counter stands above 2^20. -/
def Tile.long (t : Tile) : Bool := longSumLimit < t.chunks

/-- A tile of an engine. -/
def Mxe.tile (e : Mxe) (t : Nat) : Tile := e.tiles.getD t {}

/-- A tile changed. -/
def Mxe.modTile (e : Mxe) (t : Nat) (f : Tile → Tile) : Mxe := { e with tiles := modAt e.tiles t f }

/-- The engine a record runs on: its unit code is its number (Table 03.4). -/
def RecState.engine (x : RecState) : Nat := x.record.unit

/-- Matrix engine e of die d. -/
def State.mxe (s : State) (d e : Nat) : Mxe := (s.cd d).eng.mxe.getD e {}

/-- The first-event record latched, unless one is valid (R156, R157). -/
def Mxe.latch (e : Mxe) (r : RecRef) (tile : Nat) (scale : NvEvent → Nat) (evs : List NvEvent) : Mxe :=
  if e.fe.valid then e
  else match firstEvent evs with
    | none => e
    | some v =>
      { e with fe :=
          { valid := true, kind := v.kind, step := r.step, cmd := r.cmd
            pos := BitVec.ofNat 32 (tile * 65536 + v.col * 256 + v.row), chunk := v.chunk, k := v.k
            a := BitVec.ofNat 32 v.a, b := BitVec.ofNat 32 v.b, scale := BitVec.ofNat 32 (scale v) } }

/-! ## MMA -/

/-- The tile of an MMA once its clear bit has been heeded (R135, R138): the addressed elements
(+0, +0) and the chunk counter 0. A whole tile cleared by a count of 0 is clear for R405. -/
def MmaOp.start (f : MmaOp) (count : Nat) (t : Tile) : Tile :=
  if f.clear then
    { t.clearPart f.m f.n with chunks := 0, clear := t.clear || (count == 0 && f.m == 128 && f.n == 256) }
  else t

/-- Every addressed output element of an MMA computed: its place in the tile and its result. -/
def mmaElems (f : MmaOp) (t : Tile) (a b : List (List Opnd)) : List (Nat × ElemRes) :=
  ((List.range f.m).zip a).flatMap fun ra =>
    ((List.range f.n).zip b).map fun cb =>
      let i := ra.1 * 256 + cb.1
      let terms := ra.2.zip cb.2
      (i, if f.strict then strictElem ra.1 cb.1 (f.sa + f.sb) (t.get i) terms
          else fastElem ra.1 cb.1 (f.sa + f.sb) (t.get i) terms)

/-- A tile after an MMA's elements: pairs written, and in fast mode the chunk counter raised,
saturating (R146). -/
def mmaTile (f : MmaOp) (k : Nat) (t : Tile) (es : List (Nat × ElemRes)) : Tile :=
  let t1 := es.foldl (fun t e => t.set e.1 e.2.pair) t
  { t1 with chunks := if f.strict then t1.chunks else satAdd t1.chunks (ceilDiv k 32), clear := false }

/-- The exact products of one column as Fennel takes them: none where one is a NaN or an infinity. -/
def exactProducts (ps : List Num) : Option (List Dyadic) :=
  ps.foldr (fun p acc => match p, acc with
    | .fin n m e, some l => some (⟨sgn n m, e⟩ :: l)
    | _, _ => none) (some [])

/-- What Fennel does when a fast-mode MMA with a non-zero count runs (R491, R492, R495): the engine's
count rises; a selected record is sampled, or counted as busy. `before` and `after` are the tile at
the start and at the end. -/
def fennelSelect (r : RecRef) (e : Nat) (f : MmaOp) (k : Nat) (before after : Tile)
    (es : List (Nat × ElemRes)) (s : State) : State :=
  let fn := (s.cd r.die).eng.fennel
  let m := s.mxe r.die e
  if fn.rate = 0 || f.strict || k = 0 then s
  else
    let s1 := s.modMxe r.die e fun q => { q with fnCount := wrap32 q.fnCount }
    if m.fnCount % 2 ^ (fn.rate - 1) != 0 then s1
    else
      let s2 := s1.modMxe r.die e fun q => { q with fnSelected := wrap32 q.fnSelected }
      match fn.sample with
      | some _ => s2.modFennel r.die fun q => { q with busy := sat q.busy }
      | none =>
        let row := 37 * m.fnSelected % f.m
        let cols := (List.range f.n).map fun c => row * 256 + c
        let ps := cols.map fun i => match es.find? fun (y : Nat × ElemRes) => y.1 == i with
          | some y => exactProducts y.2.products
          | none => none
        let smp : FennelSample :=
          { ref := r, engine := e, tile := f.tile, row := row, k := k,
            before := cols.map before.get, after := cols.map after.get, products := ps,
            chunksBefore := before.chunks, chunksAfter := after.chunks }
        s2.modFennel r.die fun q => { q with sample := some smp }

/-- MMA with its operands read (R138 to R151). -/
def mmaRun (r : RecRef) (x : RecState) (s : State) : State :=
  let f := MmaOp.of x.w
  let e := x.engine
  let k := x.count
  let t0 := f.start k ((s.mxe r.die e).tile f.tile)
  let s0 := s.modMxe r.die e fun q => q.modTile f.tile fun _ => t0
  if k = 0 then s0
  else
    let entry := fun fmt => if fmt == 0 && !f.strict then some (ctlOf f.entry) else none
    let a := readOperand r.die e f.aAddr f.aStride f.transA f.aFmt f.m k f.aScale (entry f.aFmt) s0
    let b := readOperand r.die e f.bAddr f.bStride f.transB f.bFmt f.n k f.bScale (entry f.bFmt) a.1
    let es := mmaElems f t0 a.2.1 b.2.1
    let t1 := mmaTile f k t0 es
    let fl := es.foldl (fun g (y : Nat × ElemRes) => Flags.or g y.2.flags) (Flags.or a.2.2.1 b.2.2.1)
    let scale := fun (v : NvEvent) =>
      let sc := fun (rows : List (List Opnd)) i =>
        match (rows.getD i [])[v.chunk * 32]? with | some o => o.sc | none => 0
      256 * sc b.2.1 v.col + sc a.2.1 v.row
    let fl1 : Flags := { fl with ls := !t0.long && t1.long }
    let s1 := b.1.modMxe r.die e fun q =>
      ({ q with tiles := (modAt q.tiles f.tile fun _ => t1), flags := Flags.or q.flags fl1 }).latch r
        f.tile scale (es.flatMap fun (y : Nat × ElemRes) => y.2.events)
    noteBadScratch r (firstBad a.2.2.2 b.2.2.2) (fennelSelect r e f k t0 t1 es s1)

/-- MMA (R135 to R151). -/
def execMma (r : RecRef) (s : State) : Host.Outcome State Fault Refusal := runOp r 0x0100 (mmaRun r) s

/-! ## ACLR, AST, ASV, ALD -/

/-- ACLR: the tiles named by bits [3:0] of w0 set to (+0, +0), with chunk counters 0 (Table 05.2). -/
def execAclr (r : RecRef) (s : State) : Host.Outcome State Fault Refusal :=
  runOp r 0x0101
    (fun x t => forRange 4 (fun i u =>
      if bit (x.w 0).toNat i then u.modMxe r.die x.engine fun q => q.modTile i fun _ => {} else u) t) s

/-- A pair converted for AST by a control word and scale exponent (R152, R153). -/
def astElem (f : AstOp) (p : Pair) : Nat × Flags :=
  match fmtOf f.ctl.dst with
  | some (e, false) => convert e f.ctl.sat (rndOf f.ctl.rnd) 0 true (p.value.scale f.s)
  | _ => (0, {})

/-- AST: M × N elements converted and stored row by row; the elements read may then be cleared
(R153). -/
def astRun (r : RecRef) (x : RecState) (s : State) : State :=
  let f := AstOp.of x.w
  let e := x.engine
  let t := (s.mxe r.die e).tile f.tile
  let el := match fmtOf f.ctl.dst with | some p => p.1 | none => .fp32
  let rows := (List.range f.m).map fun m => (List.range f.n).map fun n => (m, n, astElem f (t.get (m * 256 + n)))
  let fl := rows.foldl (fun g row => row.foldl (fun g y => Flags.or g y.2.2.2) g) ({} : Flags)
  let evs := rows.flatMap fun row => row.filterMap fun y =>
    let p := t.get (y.1 * 256 + y.2.1)
    if y.2.2.2.nv then some (⟨0, 0, y.1, y.2.1, false, 5, p.hi.toNat, p.lo.toNat⟩ : NvEvent) else none
  let w := ((List.range f.m).zip rows).foldl
    (fun (acc : SpanRes) (p : Nat × List (Nat × Nat × Nat × Flags)) =>
      let y := writeScratch r.die e (f.dst + p.1 * f.stride) (packElems el (p.2.map fun y => y.2.2.1)) acc.state
      { y with bad := firstBad acc.bad y.bad }) { state := s }
  let whole := f.m == 128 && f.n == 256
  let s1 := w.state.modMxe r.die e fun q =>
    let q1 := ({ q with flags := Flags.or q.flags fl }).latch r f.tile (fun _ => 0) evs
    if f.clear then q1.modTile f.tile fun t =>
      let t1 := t.clearPart f.m f.n
      if whole then { t1 with chunks := 0, clear := true } else t1
    else q1
  noteBadScratch r w.bad s1

/-- AST. -/
def execAst (r : RecRef) (s : State) : Host.Outcome State Fault Refusal := runOp r 0x0102 (astRun r) s

/-- ASV: the 32 768 pairs of tile w1 written from w0 on, row by row (R154). -/
def execAsv (r : RecRef) (s : State) : Host.Outcome State Fault Refusal :=
  runOp r 0x0103
    (fun x t =>
      let tile := (t.mxe r.die x.engine).tile (field (x.w 1) 1 0)
      let w := (List.range 128).foldl
        (fun (acc : SpanRes) m =>
          let bytes := (List.range 256).flatMap fun n => (tile.get (m * 256 + n)).bytes
          let y := writeScratch r.die x.engine ((x.w 0).toNat + 2048 * m) bytes acc.state
          { y with bad := firstBad acc.bad y.bad }) { state := t }
      noteBadScratch r w.bad w.state) s

/-- A pair loaded by ALD (R154). -/
def aldPair (hi lo : Word) : Pair :=
  if isNan32 hi || isNan32 lo then ⟨canon32, 0⟩
  else if isInf32 hi then ⟨hi, 0⟩
  else pairOf hi lo

/-- ALD: a tile loaded from raw pairs at w0, its chunk counter from w2 (R154). -/
def execAld (r : RecRef) (s : State) : Host.Outcome State Fault Refusal :=
  runOp r 0x0104
    (fun x t =>
      let y := readRows r.die x.engine (x.w 0).toNat 2048 128 2048 t
      let pairs := ((List.range 128).zip y.2.1).foldl
        (fun acc p => (List.range 256).foldl
          (fun acc n => place acc (p.1 * 256 + n) ({} : Pair)
            (aldPair (wordAt p.2 (8 * n)) (wordAt p.2 (8 * n + 4)))) acc) ([] : List (Nat × Pair))
      noteBadScratch r y.2.2 (y.1.modMxe r.die x.engine fun q =>
        q.modTile (field (x.w 1) 1 0) fun u => { u with pairs := pairs, chunks := (x.w 2).toNat })) s

end Sys2Proof.Machine
end

