-- ==== Sys2Proof/Machine/Cve.lean ====
section
/-! DEFINITION. The conversion engine with its per-tensor table (07 R188 to R195), the choice of scales
(09 R226, R227), and Pepper (07 R196 to R199). -/

namespace Sys2Proof.Machine

def unitCve : Nat := 0x0D
def unitPepper : Nat := 0x10

/-! ## Pepper -/

/-- The bytes of four seed words. -/
def seedBytes (ws : List Word) : List Nat := (ws.flatMap fun w => leBytes 4 w.toNat).map (·.toNat)

/-- The counter block of Table 07.8. -/
def pepperBlock (key pos domain : Nat) : List Nat :=
  (leBytes 6 (pos / 8) ++ leBytes 2 0 ++ leBytes 4 key ++ leBytes 4 domain).map (·.toNat)

/-- The 16 bits of a position under a stream key and seed (R196). -/
def pepperBits (seed : List Word) (key pos domain : Nat) : Nat :=
  let out := aes128 (seedBytes seed) (pepperBlock key pos domain)
  let j := pos % 8
  out.getD (2 * j) 0 + 256 * out.getD (2 * j + 1) 0

/-- The live seed of a die. -/
def State.liveSeed (s : State) (d : Nat) : List Word := (s.cd d).eng.pepper.live

/-- FILL: count words of r under the domain 1 block, from w0 on (R199). -/
def fillRun (r : RecRef) (x : RecState) (s : State) : State :=
  let pos := (x.w 2).toNat + 2 ^ 32 * field (x.w 3) 15 0
  let bytes := (List.range x.count).flatMap fun i =>
    leBytes 2 (pepperBits (s.liveSeed r.die) (x.w 1).toNat (pos + i) 1)
  let y := writeScratch r.die unitPepper (x.w 0).toNat bytes s
  noteBadScratch r y.bad y.state

/-- FILL. -/
def execFill (r : RecRef) (s : State) : Host.Outcome State Fault Refusal :=
  runOp r 0x0800 (counted (fillRun r)) s

/-! ## The per-tensor table -/

/-- A table entry. -/
def Cve.entry (c : Cve) (t : Nat) : CveEntry := look c.table t {}

/-- A table entry changed. -/
def Cve.setEntry (c : Cve) (t : Nat) (e : CveEntry) : Cve := { c with table := place c.table t {} e }

/-- The 128 bytes of an entry (Table 07.7). -/
def CveEntry.bytes (e : CveEntry) : List Byte :=
  leBytes 2 (twos 16 e.scaleExp) ++ leBytes 1 e.head ++ leBytes 1 e.filled ++ leBytes 4 e.stepAmax.toNat ++
    leBytes 4 e.nonfinite ++ leBytes 20 0 ++ e.history.flatMap fun w => leBytes 4 w.toNat

/-- An entry from its bytes, head taken modulo 24 and filled clamped to 24 (R195). -/
def CveEntry.ofBytes (bs : List Byte) : CveEntry :=
  { scaleExp := signed 16 (leAt bs 0 2), head := leAt bs 2 1 % 24, filled := min (leAt bs 3 1) 24
    stepAmax := wordAt bs 4, nonfinite := leAt bs 8 4
    history := (List.range 24).map fun i => wordAt bs (0x20 + 4 * i) }

/-! ## CVT -/

/-- A source element of a CVT: its bits, its value before scaling, and for a pair the FP32 magnitude
that amax folds. -/
structure CvElem where
  raw : Nat
  num : Num
  mag : Option Word := none

/-- The sources of a CVT (R190): the state after its reads, the elements and the first failing
address. -/
def cvtSource (d : Nat) (f : CvtOp) (n : Nat) (s : State) : State × List CvElem × Option Nat :=
  if f.acc then
    let t := (s.mxe d f.engine).tile f.tile
    (s, (List.range n).map fun i =>
      let p := t.get ((f.row + i / f.len) * 256 + f.col + i % f.len)
      ⟨p.hi.toNat, p.value, some (p.hi &&& 0x7FFFFFFF)⟩, none)
  else match fmtOf f.ctl.src with
    | none => (s, [], none)
    | some (e, mx) =>
      let y := readScratch d unitCve f.sAddr (elemBytes e n) s
      let raw := elems e (chunkBytes y.chunks) n
      if mx then
        let z := readScratch d unitCve f.mxScales (n / 32) y.state
        let sc := chunkBytes z.chunks
        (z.state, ((List.range n).zip raw).map fun p => ⟨p.2, Num.readMx e (leAt sc (p.1 / 32) 1) p.2, none⟩,
          firstBad y.bad z.bad)
      else (y.state, raw.map fun b => ⟨b, Num.read e b, none⟩, y.bad)

/-- The Pepper position of element i (R190). -/
def CvtOp.position (f : CvtOp) (i : Nat) : Nat :=
  if f.acc then f.pos + i / f.len * f.posStride + i % f.len else f.pos + i

/-- The magnitude that an element folds into amax (R193): rounded to FP32 by nearest even, at most
the largest finite value; none where it is a NaN or an infinity. -/
def CvElem.fold (x : CvElem) : Option Word :=
  match x.num with
  | .fin _ m e =>
    match x.mag with
    | some w => some w
    | none =>
      let w := (round32 .rne (.fin false m e)).1
      some (if isInf32 w then 0x7F7FFFFF else w)
  | _ => none

/-- The larger of two FP32 magnitudes. -/
def maxMag (a b : Word) : Word := if a.toNat < b.toNat then b else a

/-- The elements of a CVT folded into a tensor's amax and non-finite count (R193). -/
def CveEntry.foldAll (e : CveEntry) (xs : List CvElem) : CveEntry :=
  xs.foldl (fun e x => match x.fold with
    | some w => { e with stepAmax := maxMag e.stepAmax w }
    | none => { e with nonfinite := sat e.nonfinite }) e

/-- One element of a CVT into a target that is not MX (R116 to R123). -/
def cvtElem (f : CvtOp) (src : Elem) (mx : Bool) (dst : Elem) (s : Int) (r : Nat) (x : CvElem) :
    Nat × Flags :=
  if !f.acc && !mx && src == dst && s == 0 then copySame src x.raw
  else convert dst f.ctl.sat (rndOf f.ctl.rnd) r (f.acc || (src.wide && !mx)) (x.num.scale s)

/-- The random bits of element i, drawn only for stochastic rounding (R119, R196). -/
def CvtOp.random (f : CvtOp) (seed : List Word) (i : Nat) : Nat :=
  if f.ctl.rnd = 2 then pepperBits seed f.key.toNat (f.position i) 0 else 0

/-- The destination of a CVT: its element bytes, its scale bytes and the flags. -/
def cvtResult (f : CvtOp) (seed : List Word) (s : Int) (xs : List CvElem) :
    List Byte × List Byte × Flags :=
  match fmtOf f.ctl.src, fmtOf f.ctl.dst with
  | some _, some (dst, true) =>
    let n := xs.length
    let bs := (List.range (n / 32)).map fun b =>
      mxBlock dst (rndOf f.ctl.rnd) ((List.range 32).map fun i => f.random seed (32 * b + i))
        (((xs.drop (32 * b)).take 32).map fun x => x.num.scale s)
    (packElems dst (bs.flatMap fun b => b.2.1), bs.map fun b => BitVec.ofNat 8 b.1,
      (bs.map fun b => b.2.2).foldl Flags.or {})
  | some (src, smx), some (dst, false) =>
    let out := ((List.range xs.length).zip xs).map fun p => cvtElem f src smx dst s (f.random seed p.1) p.2
    (packElems dst (out.map (·.1)), [], (out.map (·.2)).foldl Flags.or {})
  | _, _ => ([], [], {})

/-- The tile elements that a CVT read set to (+0, +0), and the chunk counter to 0 if that is the whole
tile (Table 07.6). -/
def CvtOp.clearTile (f : CvtOp) (n : Nat) (t : Tile) : Tile :=
  let gone := (List.range n).map fun i => (f.row + i / f.len) * 256 + f.col + i % f.len
  let t1 := { t with pairs := t.pairs.filter fun e => !gone.contains e.1 }
  if n == 32768 then { t1 with chunks := 0 } else t1

/-- CVT (R189 to R193); a scale_exp is that of the record's start (R191). -/
def cvtRun (r : RecRef) (x : RecState) (s : State) : State :=
  let f := CvtOp.of x.w
  let n := x.count
  let entry := (s.cd r.die).eng.cve.entry f.tensor
  let sc := if f.scaleSrc = 1 then x.scaleExp else if f.scaleSrc = 2 then f.sImm else 0
  let src := cvtSource r.die f n s
  let out := cvtResult f (s.liveSeed r.die) sc src.2.1
  let y := writeScratch r.die unitCve f.dAddr out.1 src.1
  let z := writeScratch r.die unitCve f.mxScales out.2.1 y.state
  let s1 := z.state.modCve r.die fun c =>
    let c1 := { c with flags := Flags.or c.flags out.2.2 }
    if f.amax then c1.setEntry f.tensor (entry.foldAll src.2.1) else c1
  let s2 := if f.acc && f.clear then
      s1.modMxe r.die f.engine fun q => q.modTile f.tile (f.clearTile n)
    else s1
  noteBadScratch r (firstBad src.2.2 (firstBad y.bad z.bad)) s2

/-- CVT. -/
def execCvt (r : RecRef) (s : State) : Host.Outcome State Fault Refusal :=
  runOp r 0x0500 (counted (cvtRun r)) s

/-! ## Table operations (R194, R195, R227) -/

/-- AMXOUT: step_amax at w0 and nonfinite at w1 for count tensors from w2. -/
def amxoutRun (r : RecRef) (x : RecState) (s : State) : State :=
  let t0 := field (x.w 2) 11 0
  let es := (List.range x.count).map fun i => (s.cd r.die).eng.cve.entry (t0 + i)
  let y := writeScratch r.die unitCve (x.w 0).toNat (es.flatMap fun e => leBytes 4 e.stepAmax.toNat) s
  let z := writeScratch r.die unitCve (x.w 1).toNat (es.flatMap fun e => leBytes 4 e.nonfinite) y.state
  noteBadScratch r (firstBad y.bad z.bad) z.state

/-- AMXOUT. -/
def execAmxout (r : RecRef) (s : State) : Host.Outcome State Fault Refusal :=
  runOp r 0x0501 (counted (amxoutRun r)) s

/-- A reduced amax pushed into an entry's history (R194). -/
def CveEntry.push (e : CveEntry) (v : Word) : CveEntry :=
  { e with history := modAt e.history e.head fun _ => v, head := (e.head + 1) % 24
           filled := min (e.filled + 1) 24, stepAmax := 0, nonfinite := 0 }

/-- AMXPUSH: the FP32 array at w0 pushed into count tensors from w2. -/
def amxpushRun (r : RecRef) (x : RecState) (s : State) : State :=
  let t0 := field (x.w 2) 11 0
  let y := readScratch r.die unitCve (x.w 0).toNat (4 * x.count) s
  let bytes := chunkBytes y.chunks
  let s1 := forRange x.count (fun i u => u.modCve r.die fun c =>
    c.setEntry (t0 + i) ((c.entry (t0 + i)).push (wordAt bytes (4 * i)))) y.state
  noteBadScratch r y.bad s1

/-- AMXPUSH. -/
def execAmxpush (r : RecRef) (s : State) : Host.Outcome State Fault Refusal :=
  runOp r 0x0502 (counted (amxpushRun r)) s

/-- A target's largest finite magnitude F (R227), as man × 2^exp. -/
def scselMax (target : Nat) : Nat × Int :=
  match target with
  | 3 => (2047, 5)
  | 4 => (14, 5)
  | 5 => (7, 13)
  | _ => (127, 0)

/-- floor(log2(a × 2^e / (b × 2^f))) for a, b > 0, exactly. -/
def log2Ratio (a : Nat) (e : Int) (b : Nat) (f : Int) : Int :=
  let d := magLog a e - magLog b f
  -- the quotient lies in (2^(d−1), 2^(d+1))
  if magGt b (f + d) a e then d - 1 else d

/-- The largest finite value among the history slots that SCSEL considers (R227), −0 and negative
values counting by their value. -/
def CveEntry.windowMax (e : CveEntry) (w : Nat) : Num :=
  ((List.range (min w e.filled)).map fun i => f32 (nthWord e.history ((e.head + 23 - i) % 24))).foldl
    (fun h v => match v with
      | .fin _ _ _ => if numLt h v then v else h
      | _ => h) (.fin false 0 0)

/-- scale_exp chosen by SCSEL (R227); unchanged where no slot gives a positive value. -/
def CveEntry.choose (e : CveEntry) (w margin target : Nat) (lo hi : Int) : CveEntry :=
  match e.windowMax w with
  | .fin _ m x =>
    if m = 0 then e
    else
      let g := scselMax target
      { e with scaleExp := clampInt lo hi (log2Ratio g.1 g.2 m x - margin) }
  | _ => e

/-- SCSEL (R226, R227). -/
def scselRun (r : RecRef) (x : RecState) (s : State) : State :=
  let t0 := field (x.w 0) 11 0
  forRange x.count (fun i u => u.modCve r.die fun c =>
    c.setEntry (t0 + i) ((c.entry (t0 + i)).choose (field (x.w 1) 23 16) (field (x.w 1) 15 8)
      (field (x.w 1) 7 0) (signed 16 (field (x.w 2) 15 0)) (signed 16 (field (x.w 2) 31 16)))) s

/-- SCSEL. -/
def execScsel (r : RecRef) (s : State) : Host.Outcome State Fault Refusal :=
  runOp r 0x0503 (counted (scselRun r)) s

/-- TST: count entries from w2 written at w0. -/
def tstRun (r : RecRef) (x : RecState) (s : State) : State :=
  let t0 := field (x.w 2) 11 0
  let y := writeScratch r.die unitCve (x.w 0).toNat
    ((List.range x.count).flatMap fun i => ((s.cd r.die).eng.cve.entry (t0 + i)).bytes) s
  noteBadScratch r y.bad y.state

/-- TST. -/
def execTst (r : RecRef) (s : State) : Host.Outcome State Fault Refusal :=
  runOp r 0x0504 (counted (tstRun r)) s

/-- TLD: count entries from w2 loaded from w0. -/
def tldRun (r : RecRef) (x : RecState) (s : State) : State :=
  let t0 := field (x.w 2) 11 0
  let y := readScratch r.die unitCve (x.w 0).toNat (128 * x.count) s
  let bytes := chunkBytes y.chunks
  let s1 := forRange x.count (fun i u => u.modCve r.die fun c =>
    c.setEntry (t0 + i) (CveEntry.ofBytes (slice bytes (128 * i) 128))) y.state
  noteBadScratch r y.bad s1

/-- TLD. -/
def execTld (r : RecRef) (s : State) : Host.Outcome State Fault Refusal :=
  runOp r 0x0505 (counted (tldRun r)) s

end Sys2Proof.Machine
end

