-- ==== Sys2Proof/Machine/StepWord.lean ====
section
/-! DEFINITION. The step control word (09 R235 to R246): contributions, its combination, its pass along
the ring, the verdict and its delivery, and the loss-scale rule of R230. -/

namespace Sys2Proof.Machine

/-! ## The word -/

/-- A norm² field as a sum: all ones, with the norm-overflow bit, from 2^192 on (R238). -/
def normAdd (a b : Nat) : Nat × Bool := if a + b < 2 ^ 640 then (a + b, false) else (2 ^ 640 - 1, true)

/-- amax arrays combined by the maximum of bits [30:0], entry by entry (R239). -/
def amaxMax : List Word → List Word → List Word
  | [], b => b
  | a, [] => a
  | x :: a, y :: b =>
    (if x &&& 0x7FFFFFFF ≤ y &&& 0x7FFFFFFF then y &&& 0x7FFFFFFF else x &&& 0x7FFFFFFF) :: amaxMax a b

/-- Two words combined field by field (Table 09.2). -/
def StepWordVal.combine (a b : StepWordVal) : StepWordVal :=
  let n := normAdd a.normSq b.normSq
  { stepMin := min a.stepMin b.stepMin, stepMax := max a.stepMax b.stepMax
    lexpMin := min a.lexpMin b.lexpMin, lexpMax := max a.lexpMax b.lexpMax
    mismatch := a.mismatch || b.mismatch, normOvf := a.normOvf || b.normOvf || n.2
    inputLost := a.inputLost || b.inputLost, cfgMin := min a.cfgMin b.cfgMin
    cfgMax := max a.cfgMax b.cfgMax, nonfinite := min (a.nonfinite + b.nonfinite) (2 ^ 64 - 1)
    normSq := if a.normOvf || b.normOvf then 2 ^ 640 - 1 else n.1, amax := amaxMax a.amax b.amax }

/-- An update die's share added to a word (R238). -/
def StepWordVal.addShare (w : StepWordVal) (h : Share) : StepWordVal :=
  let n := normAdd w.normSq h.normSq
  { w with
    normOvf := w.normOvf || h.normOvf || n.2, inputLost := w.inputLost || h.inputLost
    nonfinite := min (w.nonfinite + h.nonfinite) (2 ^ 64 - 1)
    normSq := if w.normOvf || h.normOvf then 2 ^ 640 - 1 else n.1, amax := amaxMax w.amax h.amax }

/-- A value that is not negative in units of 2^-448, bits below dropped (R238). -/
def normUnits : Num → Nat
  | .fin _ m e => if 0 ≤ e + 448 then m <<< (e + 448).toNat else m >>> (-(e + 448)).toNat
  | _ => 0

/-- A software share's sumsq and count as a share (R238). -/
def softShare (sumsq : Word) (nonfinite : Nat) (lost : Bool) : Share :=
  match f32 sumsq with
  | .fin neg m e =>
    if neg && m != 0 then { nonfinite := nonfinite + 1, inputLost := lost }
    else { normSq := normUnits (.fin false m e), nonfinite, inputLost := lost }
  | _ => { nonfinite := nonfinite + 1, inputLost := lost }

/-- The bytes of a word (Table 09.2). -/
def StepWordVal.bytes (w : StepWordVal) : List Byte :=
  leBytes 4 w.stepMin ++ leBytes 4 w.stepMax ++ leBytes 1 (twos 8 w.lexpMin) ++
    leBytes 1 (twos 8 w.lexpMax) ++
    leBytes 1 (b2n w.mismatch + 2 * b2n w.normOvf + 4 * b2n w.inputLost) ++ leBytes 1 0 ++
    leBytes 4 w.cfgMin ++ leBytes 4 w.cfgMax ++ leBytes 4 0 ++ leBytes 8 w.nonfinite ++
    leBytes 80 w.normSq ++ leBytes 16 0 ++ w.amax.flatMap fun a => leBytes 4 a.toNat

/-- A word read from its bytes (Table 09.2). -/
def StepWordVal.ofBytes (b : List Byte) : StepWordVal :=
  { stepMin := leAt b 0 4, stepMax := leAt b 4 4, lexpMin := signed 8 (leAt b 8 1)
    lexpMax := signed 8 (leAt b 9 1), mismatch := bit (leAt b 10 1) 0, normOvf := bit (leAt b 10 1) 1
    inputLost := bit (leAt b 10 1) 2, cfgMin := leAt b 0x0C 4, cfgMax := leAt b 0x10 4
    nonfinite := leAt b 0x18 8, normSq := leAt b 0x20 80
    amax := (List.range ((b.length - 0x80) / 4)).map fun i => wordAt b (0x80 + 4 * i) }

/-! ## The verdict (R242) -/

/-- Binary64's layout (IEEE 754-2019). -/
def layout64 : Layout :=
  { ebits := 11, p := 52, bias := 1023, inf := true, nan := 0x7FF8000000000000, maxMan := 2 ^ 53 - 1
    maxExp := 971, maxBits := 0x7FEFFFFFFFFFFFFF }

/-- A finite magnitude rounded to binary64, nearest even. -/
def bits64 (neg : Bool) (m : Nat) (e : Int) : DWord :=
  BitVec.ofNat 64 (finToFloat layout64 false false false .rne 0 neg m e).1

/-- max_norm / √norm_sq to enough bits, for a finite max_norm above zero and a norm_sq that is not
zero. -/
def clipExact (m : Nat) (e : Int) (normSq : Nat) : Num :=
  let k : Nat := 400
  let v := (m * m) <<< (2 * e + 448 + 2 * k).toNat
  let r := isqrt (v / normSq)
  withSticky r (r * r * normSq == v) (-(k : Int)) false

/-- Whether norm_sq exceeds max_norm² (Table 09.5, row 5). -/
def normExceeds (normSq m : Nat) (e : Int) : Bool := magGt normSq (-448) (m * m) (2 * e)

/-- The verdict of a combined word by the first row of Table 09.5 that holds. -/
def StepWordVal.verdict (w : StepWordVal) : Verdict :=
  let norm := if w.normOvf then BitVec.ofNat 32 0x7F800000
    else (round32 .rne (numSqrt (.fin false w.normSq (-448))).1).1
  let base : Verdict :=
    { step := w.stepMin, skip := true, reason := 4, lexpUsed := w.lexpMin, clip := 0, norm
      nonfinite := w.nonfinite, maxNorm := BitVec.ofNat 32 w.cfgMin
      normSq64 := if w.normOvf then BitVec.ofNat 64 0x7FF0000000000000
        else bits64 false w.normSq (-448)
      clipped := false }
  let apply : Verdict := { base with skip := false, reason := 0, clip := 0x3F800000 }
  if w.inputLost then base
  else if w.mismatch || w.stepMin != w.stepMax || w.lexpMin != w.lexpMax || w.cfgMin != w.cfgMax then
    { base with reason := 2 }
  else match f32 (BitVec.ofNat 32 w.cfgMin) with
    | .nan _ _ _ => { base with reason := 3 }
    | .inf true => { base with reason := 3 }
    | .inf false => if w.nonfinite != 0 || w.normOvf then { base with reason := 1 } else apply
    | .fin neg m e =>
      if neg || m = 0 then { base with reason := 3 }
      else if w.nonfinite != 0 || w.normOvf then { base with reason := 1 }
      else if normExceeds w.normSq m e then
        { apply with clip := (round32 .rne (clipExact m e w.normSq)).1, clipped := true }
      else apply

/-! ## The loss scale (R230, R231) -/

/-- ℓ_min and ℓ_max of the live set (R231). -/
def Cve.bounds (c : Cve) : Int × Int :=
  let b := c.set.live.getD 1 0
  let lo := clampInt (-64) 64 (signed 8 b)
  let hi := clampInt (-64) 64 (signed 8 (b / 256))
  (lo, max lo hi)

/-- ℓ and the clean count after R230, for a verdict's reason. -/
def Cve.adjusted (c : Cve) (reason : Nat) : Int × Nat :=
  let policy := c.set.live.getD 2 0
  let interval := policy % 2 ^ 16
  let d : Int := (policy / 2 ^ 16 % 4 : Nat) + 1
  if !bit (c.set.live.getD 3 0) 0 then (c.cur, c.clean)
  else match reason with
    | 0 =>
      if interval != 0 && interval ≤ c.clean + 1 then (max c.cur (min (c.cur + 1) c.bounds.2), 0)
      else (c.cur, c.clean + 1)
    | 1 => (min c.cur (max (c.cur - d) c.bounds.1), 0)
    | _ => (c.cur, c.clean)

/-- The adjustment of R230 for a verdict of a reason. -/
def Cve.adjustFor (c : Cve) (reason : Nat) : Cve :=
  let v := c.adjusted reason
  { c with
    cur := v.1, clean := v.2
    lowers := if v.1 < c.cur then sat c.lowers else c.lowers
    raises := if c.cur < v.1 then sat c.raises else c.raises }

/-- The CVE after the adjustments that are owed already. -/
def Cve.owed (c : Cve) : Cve := c.adjusts.foldl (fun c a => c.adjustFor a.2) c

/-! ## Gathering -/

/-- The gathering of a step, formed when first touched. -/
def Part.gather (q : Part) (step : Nat) : Gather := (q.gathers.find? fun g => g.step == step).getD { step }

/-- The gathering of a step changed. -/
def Part.modGather (q : Part) (step : Nat) (f : Gather → Gather) : Part :=
  if q.gathers.any fun g => g.step == step then
    { q with gathers := q.gathers.map fun g => if g.step == step then f g else g }
  else { q with gathers := q.gathers ++ [f { step }] }

def State.modGather (s : State) (p step : Nat) (f : Gather → Gather) : State :=
  s.modPart p fun q => q.modGather step f

/-- The stall counts of the partition's becalmed STEPWORD records of a step start again (R241). -/
def restartWord (p step : Nat) (s : State) : State :=
  forAll (s.part p).frame.cds
    (fun d t => t.modSeq d fun q => q.modStep step fun u =>
      { u with recs := u.recs.map fun x => if x.record.opcode == 0x0604 then { x with idle := 0 } else x })
    s

/-- A die's contribution (R238): its amax array, step, ℓ_used, max_norm and software share. -/
def contribution (r : RecRef) (x : RecState) (s : State) : State × StepWordVal :=
  let n := x.count - 1
  let y := readScratch r.die unitCoe (x.w 1).toNat (4 * n) s
  let s := noteBadScratch r y.bad y.state
  let soft := (x.w 4).toNat != 0xFFFFFFFF
  let z := readScratch r.die unitCoe (x.w 4).toNat (if soft then 16 else 0) s
  let s := noteBadScratch r z.bad z.state
  let b := chunkBytes y.chunks
  let h := chunkBytes z.chunks
  let l := wordInt (x.w 6)
  let w : StepWordVal :=
    { stepMin := r.step, stepMax := r.step, lexpMin := clampInt (-128) 127 l
      lexpMax := clampInt (-128) 127 l, mismatch := l != (s.cd r.die).eng.cve.cur, normOvf := false
      inputLost := false, cfgMin := (x.w 7).toNat, cfgMax := (x.w 7).toNat, nonfinite := 0, normSq := 0
      amax := (List.range n).map fun i => wordAt b (4 * i) &&& 0x7FFFFFFF }
  (s, if soft then w.addShare (softShare (wordAt h 0) (leAt h 4 4) (bit (leAt h 8 4) 0)) else w)

/-- STEPWORD: the die contributes; the record then waits for the verdict. -/
def execStepword (r : RecRef) (s : State) : Host.Outcome State Fault Refusal :=
  onlyIf r.wf <|
    match s.rec? r with
    | some x =>
      if x.phase = .running && !x.begun && x.record.opcode == 0x0604 && !s.suspended r x then
        let p := coePart r s
        let y := contribution r x s
        let ring := field (x.w 5) 7 0
        let s := y.1.modGather p r.step fun g =>
          { g with
            dies := g.dies ++ [(r.die, r.cmd, y.2)], ring
            members := if g.dies.isEmpty then ((s.seenBy r x).part p).members ring else g.members }
        let s := s.modCoe r.die fun c => { c with swState := 1 }
        restartWord p r.step (s.modRec r fun y => { y with begun := true })
      else s
    | none => s

/-- Whether a partition holds a unit that has been cut out (R389). -/
def State.holdsCut (s : State) (p : Nat) : Bool :=
  let e := (s.part p).frame
  e.cds.any (fun d => s.isCut (.cd d)) || e.stacks.any (fun h => s.isCut (.stack h)) ||
    e.uds.any fun u => s.isCut (.ud u)

/-- Whether the lead die holds every contribution: one of each die of the step and one of each update
die, but for units that have been cut out or have failed (R238, R240, R28). -/
def gatherWhole (p : Nat) (g : Gather) (s : State) : Bool :=
  let e := (s.part p).frame
  g.mask != 0 &&
    (e.cds.all fun d => !bit g.mask d || s.isCut (.cd d) || g.dies.any fun x => x.1 == d) &&
    (e.uds.all fun u => !s.live (.ud u) || g.shares.any fun x => x.1 == u)

/-- The module's word: every contribution and share combined (R240). -/
def moduleWord (p : Nat) (g : Gather) (s : State) : Option StepWordVal :=
  match g.dies with
  | [] => none
  | x :: xs =>
    let w := xs.foldl (fun a y => a.combine y.2.2) x.2.2
    let w := g.shares.foldl (fun a h => a.addShare h.2) w
    some { w with inputLost := w.inputLost || s.holdsCut p }

/-! ## The end of a STEPWORD -/

/-- The 64 bytes of a verdict block (Table 09.6). -/
def Verdict.block (v : Verdict) (next : Int) (clean : Nat) : List Byte :=
  leBytes 4 v.step ++ leBytes 1 (b2n v.skip) ++ leBytes 1 v.reason ++ leBytes 1 (twos 8 v.lexpUsed) ++
    leBytes 1 (twos 8 next) ++ leBytes 4 v.clip.toNat ++ leBytes 4 v.norm.toNat ++
    leBytes 8 v.nonfinite ++ leBytes 4 v.maxNorm.toNat ++ leBytes 4 clean ++
    leBytes 8 v.normSq64.toNat ++ leBytes 24 0

/-- The step-word registers after a verdict (Table 09.8). -/
def Coe.takeVerdict (c : Coe) (v : Verdict) (next : Int) : Coe :=
  { c with
    swState := 3, swStep := BitVec.ofNat 32 v.step
    swVerdict := BitVec.ofNat 32 (b2n v.skip + 2 ^ 8 * v.reason + 2 ^ 16 * twos 8 next)
    swNorm := v.norm, swClip := v.clip
    swApplied := if v.skip then c.swApplied else sat c.swApplied
    swClipped := if !v.skip && v.clipped then sat c.swClipped else c.swClipped
    swSkipNf := if v.skip && v.reason == 1 then sat c.swSkipNf else c.swSkipNf
    swSkipOther := if v.skip && (v.reason == 2 || v.reason == 3) then sat c.swSkipOther
      else c.swSkipOther
    swLost := if v.skip && v.reason == 4 then sat c.swLost else c.swLost }

/-- The step-word registers in order of offset (Table 09.8). -/
def Coe.stepWordRegs (c : Coe) : List Nat :=
  [c.swState, c.swStep.toNat, c.swVerdict.toNat, c.swNorm.toNat, c.swClip.toNat, c.swApplied, c.swClipped, c.swSkipNf,
    c.swSkipOther, c.swLost]

/-- The update dies driven from a compute die's stream (R249). -/
def udsOfCd (d : Nat) : List Nat := [2 * d, 2 * d + 1]

/-- A verdict passed to the update dies of a list by their hubs (R240). -/
def passVerdict (us : List Nat) (step : Nat) (v : Verdict) (s : State) : State :=
  forAll us (fun u t => t.modUd u fun x => { x with verdicts := (step, v) :: x.verdicts.filter fun k => k.1 != step && step ≤ k.1 + 2 }) s

/-- The fields of a word that disagree, as a mask: bit 0 the mismatch bit, bit 1 the step numbers, bit 2 lexp_used,
bit 3 max_norm, bit 4 a max_norm that no verdict can use (R242, R246). -/
def StepWordVal.disagrees (w : StepWordVal) : Nat :=
  b2n w.mismatch + 2 * b2n (w.stepMin != w.stepMax) + 4 * b2n (w.lexpMin != w.lexpMax) +
    8 * b2n (w.cfgMin != w.cfgMax) + 16 * b2n (w.verdict.reason == 3)

/-- A running STEPWORD ends: its amax_out array and verdict block are written, its registers and its
CVE take the verdict, and its operation is done. `fields` are those of the word that disagree. -/
def endStepword (r : RecRef) (x : RecState) (v : Verdict) (block : List Byte) (amax : List Word)
    (next : Int) (fields : Nat) (s : State) : State :=
  let y := writeScratch r.die unitCoe (x.w 2).toNat (amax.flatMap fun a => leBytes 4 a.toNat) s
  let z := writeScratch r.die unitCoe (x.w 3).toNat block y.state
  let s := noteBadScratch r (firstBad y.bad z.bad) z.state
  let s := s.modCve r.die fun c => { c with adjusts := c.adjusts ++ [(r.step, v.reason)] }
  let s := s.modCoe r.die fun c => c.takeVerdict v next
  let s := if v.reason == 2 || v.reason == 3 then
      telemTo (s.partOfCd r.die) (.alertVerdict v.step v.reason fields) s else s
  s.modRec r fun y => { y with executed := true }

/-- A STEPWORD that ends without a word (R241): verdict SKIP with reason LOST, every amax_out entry +0,
its update dies told, and INPUT_LOST. -/
def lostStepword (r : RecRef) (x : RecState) (s : State) : State :=
  let v : Verdict :=
    { step := r.step, skip := true, reason := 4, lexpUsed := clampInt (-128) 127 (wordInt (x.w 6))
      clip := 0, norm := 0, nonfinite := 0, maxNorm := 0, normSq64 := 0, clipped := false }
  let cur := (s.cd r.die).eng.cve.cur
  let s := endStepword r x v (v.block cur 0) (List.replicate (x.count - 1) 0) cur 0 s
  passVerdict (udsOfCd r.die) r.step v (s.modRec r fun y => { y with lost := true })

/-- Every running STEPWORD of a step ends without a word, its ring broken (R392). -/
def lostWord (p step : Nat) (s : State) : State :=
  forAll ((s.part p).gather step).dies
    (fun e t =>
      let r : RecRef := ⟨e.1, step, e.2.1⟩
      match t.rec? r with
      | some x => if x.phase = .running && !x.executed then lostStepword r x (markLost p r t) else t
      | none => t) s

/-! ## The ring (R240, R392, R394) -/

/-- The member that begins the pass: the first of the plan that is not out. -/
def State.ringStart (s : State) (p : Nat) (ms : List (Nat × Nat)) : Option Nat :=
  (List.range ms.length).find? fun i => !s.memberOut p (ms.getD i (0, 0))

/-- A word sent to the ring successor, with the input-lost bit if this member closes the ring. -/
def sendWord (p : Nat) (g : Gather) (k : Nat) (skipped : List Nat) (w : StepWordVal) (s : State) :
    State :=
  let m := g.members.getD k (0, 0)
  let w := if skipped.isEmpty then w else { w with inputLost := true }
  let lead := g.lead.getD 0
  let cmd := ((g.dies.find? fun x => x.1 == lead).map (·.2.1)).getD 0
  let s := countOut lead w.bytes.length s
  let s := s.modGather p g.step fun g => { g with sent := g.sent + 1 }
  sendMessage p
    { ident := 0, kind := 4, ref := ⟨lead, g.step, cmd⟩, dstModule := m.1, dstDie := m.2, channel := 0
      format := 0, number := 0, ordinal := 0, ring := g.ring, region := 0xFFFF, offset := 0
      data := w.bytes } s

/-- The pass goes on as far as the words at hand allow (R240): the first member sends its word, every
other adds its own to the word that comes and passes it on; the word that comes back to the first
member is the combined word, which then goes round once more. A member that closes the ring sets the input-lost bit,
also where no other member is left; where it cannot reach its new successor the ring is broken there (R392, R394). -/
def ringAdvance (p step : Nat) (s : State) : State :=
  let g := (s.part p).gather step
  let ms := g.members
  match g.moduleWord, g.lead.bind fun d => ringPos ms ((s.part p).moduleNo, d), s.ringStart p ms with
  | some w, some i, some st =>
    let ready : Option StepWordVal :=
      if i = st then (if g.sent = 0 then some w else g.inbox[0]?)
      else if g.sent = 0 then g.inbox[0]?.map fun x => w.combine x else g.inbox[1]?
    let whole : Bool := g.sent != 0
    let take := fun (w : StepWordVal) (s : State) =>
      s.modGather p step fun g => { g with combined := some w }
    match s.successor p ms i, ready with
    | (none, skipped), _ => take { w with inputLost := w.inputLost || !skipped.isEmpty } s
    | (some k, skipped), some v =>
      if g.combined.isSome then s
      else if whole && i != st && k = st then take v s
      else if s.brokenAt p (ms.getD k (0, 0)) skipped then lostWord p step (noteBroken p g.ring s)
      else sendWord p g k skipped v (if whole then take v s else s)
    | _, none => s
  | _, _, _ => s

/-- The oldest step whose lead die holds every contribution and has not formed the module's word. -/
def gatherDue (p : Nat) (s : State) : Option Gather :=
  (s.part p).gathers.find? fun g =>
    g.moduleWord.isNone && gatherWhole p g s && g.lead.elim false fun d => !s.isCut (.cd d)

/-- STEPWORD_GATHER_DONE: the module's word is formed; it is the combined word where the ring is 0xFF,
and otherwise goes along the ring. -/
def execStepwordGatherDone (p : Nat) (s : State) : Host.Outcome State Fault Refusal :=
  onlyIf (Instr.wf (.stepwordGatherDone p)) <|
    match gatherDue p s with
    | none => s
    | some g =>
      match moduleWord p g s with
      | none => s
      | some w =>
        if g.ring = 0xFF then
          s.modGather p g.step fun g => { g with moduleWord := some w, combined := some w }
        else
          let s := s.modGather p g.step fun g => { g with moduleWord := some w }
          let s := forAll (g.dies.map (·.1)) (fun d t => t.modCoe d fun c => { c with swState := 2 }) s
          ringAdvance p g.step s

/-- A whole STEPWORD message reaches the lead die (R380). -/
def wordArrived (p step : Nat) (data : List Byte) (s : State) : State :=
  let s := s.modGather p step fun g => { g with inbox := g.inbox ++ [StepWordVal.ofBytes data] }
  ringAdvance p step (restartWord p step s)

/-! ## Delivery -/

/-- The combined word delivered to one die (R240, R242). -/
def deliverDie (step : Nat) (w : StepWordVal) (d cmd : Nat) (s : State) : State :=
  let r : RecRef := ⟨d, step, cmd⟩
  match s.rec? r with
  | some x =>
    if x.phase = .running && !x.executed then
      let v := w.verdict
      let a := (s.cd d).eng.cve.owed.adjusted v.reason
      endStepword r x v (v.block a.1 a.2) ((w.amax ++ List.replicate x.count 0).take (x.count - 1)) a.1 w.disagrees s
    else s
  | none => s

/-- VERDICT_DELIVERY: the oldest combined word is delivered to the dies that contributed and, as a
verdict, to every update die of the partition. -/
def execVerdictDelivery (p : Nat) (s : State) : Host.Outcome State Fault Refusal :=
  onlyIf (Instr.wf (.verdictDelivery p)) <|
    match (s.part p).gathers.find? fun g => g.combined.isSome with
    | none => s
    | some g =>
      match g.combined with
      | none => s
      | some w =>
        let s := forAll g.dies (fun e t => deliverDie g.step w e.1 e.2.1 t) s
        let s := passVerdict (s.part p).frame.uds g.step w.verdict s
        s.modPart p fun q => { q with gathers := q.gathers.filter fun x => x.step != g.step }

end Sys2Proof.Machine
end

