-- ==== Sys2Proof/Machine/Mesh.lean ====
section
/-! DEFINITION. The panel mesh between the dies of the module: what arrives over it (07 R201 to R203,
10 R254). -/

namespace Sys2Proof.Machine

/-- A share's arrival at the lead die (R240, R254). -/
def shareArrived (p ud step : Nat) (sh : Share) (s : State) : State :=
  restartWord p step (s.modGather p step fun g =>
    if g.shares.any fun x => x.1 == ud then g else { g with shares := g.shares ++ [(ud, sh)] })

/-- The stall counts of the records of a partition that satisfy f start again. -/
def restartIdle (p : Nat) (f : RecRef → RecState → Bool) (s : State) : State :=
  forAll (s.part p).frame.cds
    (fun d t =>
      let one := fun (u : StepRun) (x : Nat × RecState) =>
        if f ⟨d, u.step, x.1⟩ x.2 then { x.2 with idle := 0 } else x.2
      let all := fun (u : StepRun) =>
        { u with recs := ((List.range u.recs.length).zip u.recs).map (one u) }
      t.modSeq d fun q => { q with steps := q.steps.map all }) s

/-- The stall counts of the records of a step on die d that satisfy f start again, because input of theirs has
arrived (R383). -/
def inputCame (p d step : Nat) (f : RecState → Bool) (s : State) : State :=
  restartIdle p (fun r x => r.die == d && r.step == step && f x) s

/-- A message delivered inside the module (R201 to R203). A write that cannot be made ends the sending
record with LINE_BAD. -/
def meshArrive (p : Nat) (m : MeshMsg) (s : State) : State :=
  match m with
  | .put r d ch region offset data skip =>
    if inboundOk (s.part p) region offset data.length then
      let y := writeInbound p d region offset data skip s
      let bad := if region = 0xFFFF then y.bad.map fun _ => noAddr else y.bad
      inputCame p d r.step (fun x => x.record.opcode == 0x0601 && field (x.w 0) 5 0 == ch)
        (countPut d ch r.step data.length (noteBad r bad y.state))
    else rejectInbound d s
  | .shard r d ring region offset data skip empty =>
    match s.shardDie p ring ((s.part p).moduleNo, r.die) d with
    | none => s
    | some d =>
      let s := inputCame p d r.step (fun x => x.record.opcode == 0x0603 && (RingOp.of x.w).ring == ring) s
      if s.shardCame p d r.step ring region offset then s
      else if empty then shardArrived p d r.step ring region offset true s
      else if inboundOk (s.part p) region offset data.length then
        let y := writeInbound p d region offset data skip s
        shardArrived p d r.step ring region offset false (noteBad r y.bad y.state)
      else rejectInbound d s
  | .share ud step sh => shareArrived p ud step sh s

/-- Whether a mesh message's source and the destination it names lie in a partition. -/
def MeshMsg.inside (m : MeshMsg) (e : FrameEntry) : Bool :=
  match m with
  | .put r d _ _ _ _ _ => e.cds.contains r.die && e.cds.contains d
  | .shard r d _ _ _ _ _ _ => e.cds.contains r.die && e.cds.contains d
  | .share u _ _ => e.uds.contains u

/-- The module address at byte o of a region; none of the scratchpad's. -/
def Part.spanAddr (q : Part) (p g o : Nat) : Nat :=
  if g = 0xFFFF then noAddr else (q.region? g).elim noAddr fun x => memAddr p (x.base + o)

/-- The step, command number and address that the error log names of a mesh message. -/
def MeshMsg.names (m : MeshMsg) (q : Part) (p : Nat) : Nat × Nat × Nat :=
  match m with
  | .put r _ _ g o _ _ => (r.step, r.cmd, q.spanAddr p g o)
  | .shard r _ _ g o _ _ _ => (r.step, r.cmd, q.spanAddr p g o)
  | .share _ st _ => (st, 0, noAddr)

/-- A mesh message whose source or destination lies outside the partition's dies: dropped, counted, and recorded in the
error log (R434). -/
def dropMesh (p : Nat) (m : MeshMsg) (s : State) : State :=
  let x := m.names (s.part p) p
  logEvent 0x12 winCtrl p (leBytes 4 x.1 ++ leBytes 4 x.2.1 ++ leBytes 1 unitCoe ++ leBytes 8 x.2.2)
    (s.modPart p fun q => { q with meshReject := sat q.meshReject })

/-- A ring message to a die d here that has been cut out, whose following member is on another module, goes on there,
from die d and under its numbers; where that module cannot be reached the ring is broken (R392). `close` says that the
empty shards of the members passed over go before the first full shard, which is the sender's own (R393). -/
def forwardRing (p kind step ring region offset : Nat) (src : Nat × Nat) (d : Nat) (close : Bool) (data : List Byte)
    (s : State) : State :=
  let ms := (s.part p).members ring
  match s.past p ring src d with
  | (none, _) => s
  | (some k, skipped) =>
    let m := ms.getD k (0, 0)
    if m.1 == (s.part p).moduleNo then s
    else if (s.usableTo p m.1).isEmpty then noteBroken p ring s
    else
      let send := fun (o : Nat) (bytes : List Byte) (t : State) => sendMessage p
        { ident := 0, kind, ref := ⟨d, step, 0⟩, dstModule := m.1, dstDie := m.2, channel := 0, format := 0
          number := 0, ordinal := 0, ring, region, offset := o, data := bytes } t
      let lost := ({ StepWordVal.ofBytes data with inputLost := true } : StepWordVal).bytes
      let first := close && !data.isEmpty && !(s.part p).fab.forwarded.contains (step, ring, region)
      if kind = 4 then send offset lost s
      else match first, ringPos ms src, ringPos ms ((s.part p).moduleNo, d) with
        | true, some j, some i =>
          let base := offset - j * data.length
          let s := s.modFab p fun f => { f with forwarded := (step, ring, region) :: f.forwarded }
          send offset data
            (forAll (i :: skipped).reverse (fun h t => send (base + h * data.length) [] t) s)
        | _, _, _ => send offset data s

/-- Whether a ring message to a die here goes on to another module: its die has been cut out, and so has every member
that follows it here (R392). -/
def State.forwards (s : State) (p kind ring : Nat) (src : Nat × Nat) (d : Nat) : Bool :=
  (kind == 3 || kind == 4) && s.isCut (.cd d) && (s.shardDie p ring src d).isNone

/-- Whether an inbound write of a mesh message has to wait for an open granule (R210, R277). -/
def MeshMsg.waits (m : MeshMsg) (p : Nat) (s : State) : Bool :=
  match m with
  | .put _ _ _ g o data _ => g != 0xFFFF && spanOpen p g o data.length s
  | .shard _ _ _ g o data _ _ => spanOpen p g o data.length s
  | .share .. => false

/-- MESH_MESSAGE_ARRIVAL: the i-th message crossing partition p's panel mesh arrives. One that crosses the partition's
border is dropped (R434); one whose bytes would land in an open granule waits (R277); one to a die that has been cut
out stays undelivered (Table 15.6), but for a shard, which goes to the die's successor (R392). -/
def execMeshMessageArrival (p i : Nat) (s : State) : Host.Outcome State Fault Refusal :=
  onlyIf (Instr.wf (.meshMessageArrival p i)) <|
    match (s.part p).fab.mesh[i]? with
    | none => s
    | some m =>
      let gone := s.modFab p fun f => { f with mesh := f.mesh.eraseIdx i }
      if !m.inside (s.part p).frame then dropMesh p m gone
      else if m.waits p s then s
      else match m with
        | .put _ d _ _ _ _ _ => if s.isCut (.cd d) then s else meshArrive p m gone
        | .shard r d ring region offset data _ _ =>
          let src := ((s.part p).moduleNo, r.die)
          if s.forwards p 3 ring src d then forwardRing p 3 r.step ring region offset src d false data gone
          else meshArrive p m gone
        | .share .. => meshArrive p m gone

end Sys2Proof.Machine
end

