-- ==== Sys2Proof/Machine/Ud.lean ====
section
/-! DEFINITION. Update dies (10 R247 to R262): owned blocks, fold and share, and the update of
Table 10.3. -/

namespace Sys2Proof.Machine

/-- The update die a record is addressed to (R249): U(2n) for unit 0x13 and U(2n+1) for 0x14. -/
def RecState.ud (x : RecState) (d : Nat) : Nat := 2 * d + (x.record.unit - 0x13)

/-! ## Owned blocks -/

/-- An update region entry of the committed image. -/
def Part.updEntry (q : Part) (e : Nat) : Option UpdEntry :=
  match q.active with | some i => i.upd.entries[e]? | none => none

/-- The stack that holds block b of a region whose elements take w bytes. -/
def Part.blockStack (q : Part) (region b w : Nat) : Option Nat :=
  (q.place? region (4096 * w * b)).map (·.1)

/-- A run of an entry's elements within one block that an update die owns: the first element's index in
the regions, and the count. -/
structure OwnedRun where
  first : Nat
  count : Nat

/-- The elements of an entry that update die u owns, block by block (R247, R248). -/
def ownedRuns (q : Part) (u : Nat) (e : UpdEntry) : List OwnedRun :=
  if e.elements = 0 then []
  else
    let b0 := e.offset / 4096
    let b1 := (e.offset + e.elements - 1) / 4096
    ((List.range (b1 + 1 - b0)).filter fun i => q.blockStack e.master (b0 + i) 4 == some u).map fun i =>
      let lo := max e.offset (4096 * (b0 + i))
      let hi := min (e.offset + e.elements) (4096 * (b0 + i + 1))
      ⟨lo, hi - lo⟩

/-- The entries that a record names (R250). -/
def recEntries (x : RecState) : List Nat := (List.range x.count).map (· + field (x.w 0) 11 0)

/-- Whether an entry was frozen when the record started (R260, R261). -/
def RecState.isFrozen (x : RecState) (e : Nat) : Bool := bit (x.freeze.getD (e / 32) 0) (e % 32)

/-- Whether an entry counts as frozen on die u: its bit is set, and it is no no-op there (R248, R260). -/
def frozenHere (q : Part) (u : Nat) (x : RecState) (e : Nat) : Bool :=
  x.isFrozen e && (q.updEntry e).elim false fun g => !(ownedRuns q u g).isEmpty

/-- The runs that a record acts on: those of entries that are not frozen, with their entry. -/
def recRuns (q : Part) (u : Nat) (x : RecState) : List (Nat × UpdEntry × OwnedRun) :=
  (recEntries x).flatMap fun e =>
    if x.isFrozen e then []
    else match q.updEntry e with
      | some g => (ownedRuns q u g).map fun r => (e, g, r)
      | none => []

/-- The elements of the chunks of a span, none where their line failed. -/
def chunkElems (cs : List Chunk) (w : Nat) : List (Option Nat) :=
  cs.flatMap fun c => (List.range (c.count / w)).map fun i => c.data.map fun b => leAt b (i * w) w

/-! ## Gradient granules (R252) -/

/-- What a record finds of one gradient granule of its step. -/
inductive GranuleState
  | waiting | ready | discarded
deriving DecidableEq, Repr

/-- The state of a granule for a step: how it closed in that step, whatever has become of it since (R24, R210). -/
def granuleState (q : Reduce) (p g i step : Nat) : GranuleState :=
  match q.history.find? fun x => x.part == p && x.region == g && x.index == i && x.step == step with
  | some c => if c.completed then .ready else .discarded
  | none => .waiting

/-- The granules of the block of a run in its gradient region; none where its reduce_mode is 0. -/
def runGranules (q : Part) (e : UpdEntry) (r : OwnedRun) (w : Nat) : List Nat :=
  if ((q.region? e.gradient).elim 0 (·.mode)) = 0 then []
  else (List.range w).map fun k => r.first / 4096 * w + k

/-- What a run's granules say together: waiting while any waits, discarded when any was. -/
def runState (s : State) (p u step : Nat) (e : UpdEntry) (r : OwnedRun) (w : Nat) : GranuleState :=
  let st := (runGranules (s.part p) e r w).map fun i => granuleState (s.hub u).red p e.gradient i step
  if st.contains .waiting then .waiting else if st.contains .discarded then .discarded else .ready

/-- The width of the gradient elements that a format code names. -/
def gradWidth (code : Nat) : Nat := (elemOf code).bits / 8

/-- The distance between gradient elements: the width that the region has by its role (R247, R274), or that of the
format where that is wider. So an element lies in the block of its index, and with its master in one stack, also where
a region of reduce_mode 0 holds BF16 or E5M2 (DESIGN CHOICE, log entry 115). -/
def gradStride (q : Part) (region code : Nat) : Nat :=
  max (gradWidth code) (match q.active with | some i => elemWidth i q.stream region | none => 1)

/-! ## An update die's own stack (R18) -/

/-- Whether n bytes of a region from byte o lie in stack u. -/
def ownSpan (q : Part) (region o n u : Nat) : Bool :=
  (pieces o n).all fun k => match q.place? region (64 * k.line) with
    | some (h, _) => h == u
    | none => true

/-- A span read by update die u through its own hub. Of a span outside its stack, which it cannot reach, it takes free
values (R18; log entry 116). -/
def readOwn (p region o n src u : Nat) (s : State) : SpanRes :=
  if ownSpan (s.part p) region o n u then readRegion p region o n src .ud s
  else { state := s.drawn, chunks := (pieces o n).map fun k =>
    ⟨k.off, k.count, some ((List.range k.count).map fun i => Config.foreignByte (k.off + i) s.free)⟩ }

/-- A span written by update die u through its own hub; outside its stack nothing is written (R18; log entry 116). -/
def writeOwn (p region o src u : Nat) (bs : List Byte) (s : State) : SpanRes :=
  if ownSpan (s.part p) region o bs.length u then writeRegion p region o src .ud bs s else { state := s }

/-- The elements of a gradient span, of w bytes at every st bytes. -/
def strided (cs : List Chunk) (st w : Nat) : List (Option Nat) :=
  if st = w then chunkElems cs w else (chunkElems cs st).map fun e => e.map (· % 2 ^ (8 * w))

/-- Whether no run of a record waits for a granule. -/
def granulesReady (r : RecRef) (x : RecState) (code : Nat) (s : State) : Bool :=
  let p := coePart r s
  let u := x.ud r.die
  (recRuns (s.part p) u x).all fun t =>
    runState s p u r.step t.2.1 t.2.2 (gradWidth code) != .waiting

/-! ## UFOLD (R252, R253) -/

/-- A gradient folded into a share. -/
def Share.fold (h : Share) (g : Num) : Share :=
  match g with
  | .fin _ m e =>
    let n := normAdd h.normSq (normUnits (.fin false (m * m) (2 * e)))
    { h with normSq := if h.normOvf then 2 ^ 640 - 1 else n.1, normOvf := h.normOvf || n.2 }
  | _ => { h with nonfinite := h.nonfinite + 1 }

/-- One run folded; one with a granule that was discarded, or that never came, is not (R253). -/
def foldRun (r : RecRef) (x : RecState) (s : State) (t : Nat × UpdEntry × OwnedRun) : State :=
  let p := coePart r s
  let u := x.ud r.die
  let code := field (x.w 3) 7 0
  let w := gradWidth code
  if runState s p u r.step t.2.1 t.2.2 w = .ready then
    let st := gradStride (s.part p) t.2.1.gradient code
    let y := readOwn p t.2.1.gradient (t.2.2.first * st) (t.2.2.count * st) x.record.unit u s
    let sc := -(wordInt (x.w 2) + wordInt (x.w 1))
    let add := fun (h : Share) (b : Option Nat) => match b with
      | some b => h.fold ((Num.read (elemOf code) b).scale sc)
      | none => { h with inputLost := true }
    noteBad r y.bad
      (y.state.modUd u fun d => { d with share := (strided y.chunks st w).foldl add d.share })
  else
    (s.modUd u fun d => { d with share := { d.share with inputLost := true } }).modRec r
      fun y => { y with lost := true }

/-- Whether any entry of a record is skipped as frozen, noted for its status (R262). -/
def noteFrozen (r : RecRef) (x : RecState) (s : State) : State :=
  if (recEntries x).any fun e => frozenHere (s.part (coePart r s)) (x.ud r.die) x e
  then s.modRec r fun y => { y with frozen := true } else s

/-- Every run of a UFOLD. -/
def ufoldRun (r : RecRef) (x : RecState) (s : State) : State :=
  noteFrozen r x ((recRuns (s.part (coePart r s)) (x.ud r.die) x).foldl (foldRun r x) s)

/-- UFOLD: waits for its granules, then folds every run. -/
def execUfold (r : RecRef) (s : State) : Host.Outcome State Fault Refusal :=
  runOpWhen r 0x0A00 (fun x s => granulesReady r x (field (x.w 3) 7 0) s) (counted (ufoldRun r)) s

/-! ## USHARE (R254) -/

/-- The share that an update die hands on: its fold, the non-finite masters of the last update, and the
pending master amax of tensors t0 to t0 + count − 2. -/
def Ud.sharing (d : Ud) (t0 count : Nat) : Share :=
  { d.share with
    nonfinite := d.share.nonfinite + d.nextNf
    amax := (List.range (count - 1)).map fun i => look d.pendAmax (t0 + i) 0 }

/-- USHARE: the share goes to the lead die, and starts anew. The count that the previous applied UPDATE left
stays until another UPDATE is applied (R254, R257). -/
def execUshare (r : RecRef) (s : State) : Host.Outcome State Fault Refusal :=
  runOp r 0x0A01
    (counted fun x s =>
      let u := x.ud r.die
      let sh := (s.ud u).sharing (field (x.w 0) 11 0) x.count
      sendMesh (coePart r s) (.share u r.step sh)
        (s.modUd u fun d => { d with share := {}, pendFresh := [] })) s

/-! ## UPDATE (R255 to R259) -/

/-- The per-step immediates and the verdict of an UPDATE. -/
structure UpdCtx where
  rule : Nat
  beta1 : Word
  beta2 : Word
  epsilon : Word
  decay : Word
  bf16 : Bool
  gScale : Int
  lr : Word
  bc1 : Word
  bc2 : Word
  wcScale : Int
  code : Nat
  lexp : Int
  clip : Word

/-- The immediates of a record under a section and a verdict (Table 10.2). -/
def UpdCtx.of (w : Nat → Word) (h : UpdSection) (v : Verdict) : UpdCtx :=
  { rule := h.rule, beta1 := h.beta1, beta2 := h.beta2, epsilon := h.epsilon, decay := h.decay
    bf16 := h.bf16Copies, gScale := wordInt (w 1), lr := w 2, bc1 := w 3, bc2 := w 4
    wcScale := wordInt (w 5), code := field (w 6) 7 0, lexp := v.lexpUsed, clip := v.clip }

/-- a − b in binary32, nearest even. -/
def sub32 (a b : Word) : Word × Flags := round32nv .rne (numAdd (f32 a) (f32 b).neg)

/-- a ÷ b as an update die divides: a non-zero number by zero raises OF (R255). -/
def divUd (a b : Word) : Word × Flags :=
  let r := div32 a b
  let byZero : Bool := match f32 a, f32 b with
    | .fin _ m _, .fin _ n _ => m != 0 && n = 0
    | _, _ => false
  (r.1, { r.2 with ovf := r.2.ovf || byZero })

/-- The update of one element (Table 10.3): θ′, m′ and v′, with the flags. -/
def updElem (c : UpdCtx) (gs : Nat) (th m v : Word) : Word × Word × Word × Flags :=
  let x := (Num.read (elemOf c.code) gs).scale (-(c.lexp + c.gScale))
  let g := round32nv .rne (numMul x (f32 c.clip))
  let one : Word := 0x3F800000
  let mv : Word × Word × Word × Flags :=
    if c.rule = 1 then
      let m' := fma32 c.beta1 m g.1
      (m'.1, v, m'.1, g.2.or m'.2)
    else
      let a := mul32 (sub32 one c.beta1).1 g.1
      let m' := fma32 c.beta1 m a.1
      let b := mul32 g.1 g.1
      let b2 := mul32 (sub32 one c.beta2).1 b.1
      let v' := fma32 c.beta2 v b2.1
      let mh := mul32 m'.1 c.bc1
      let vh := mul32 v'.1 c.bc2
      let rt := sqrt32 vh.1
      let den := add32 rt.1 c.epsilon
      let d := divUd mh.1 den.1
      (m'.1, v'.1, d.1, [g.2, a.2, m'.2, b.2, b2.2, v'.2, mh.2, vh.2, rt.2, den.2, d.2].foldl Flags.or {})
  let l := mul32 c.decay th
  let e := add32 mv.2.2.1 l.1
  let y := mul32 c.lr e.1
  let t := sub32 th y.1
  (t.1, mv.1, mv.2.1, [mv.2.2.2, l.2, e.2, y.2, t.2].foldl Flags.or {})

/-- The E4M3 copy of a master (R256). -/
def copyE4m3 (wc : Int) (th : Word) : Nat × Flags := convert .e4m3 true .rne 0 true ((f32 th).scale wc)

/-- The BF16 copy of a master (R256). -/
def copyBf16 (th : Word) : Nat × Flags := convert .bf16 true .rne 0 true (f32 th)

/-- Whether a word is a NaN or an infinity. -/
def nonfinite32 (w : Word) : Bool := isNan32 w || isInf32 w

/-- The larger of two magnitudes, a NaN winning (R258). -/
def maxMagNan (a b : Word) : Word :=
  let x := a &&& 0x7FFFFFFF
  let y := b &&& 0x7FFFFFFF
  if isNan32 x then x else if isNan32 y then y else if x ≤ y then y else x

/-- The largest |θ′| of a run taken into the pending amax of its tensor (R258). -/
def Ud.takeAmax (d : Ud) (tensor : Nat) (a : Word) : Ud :=
  let old := if d.pendFresh.contains tensor then look d.pendAmax tensor 0 else 0
  { d with pendAmax := place d.pendAmax tensor 0 (maxMagNan old a)
           pendFresh := if d.pendFresh.contains tensor then d.pendFresh else insertBy id tensor d.pendFresh }

/-- The wc_scale recorded for an entry (R308); outside −32 767 to 32 767 none is recorded. -/
def Ud.recordScale (d : Ud) (e : Nat) (wc : Int) : Ud :=
  let v := if -32767 ≤ wc && wc ≤ 32767 then wc else -32768
  { d with wcScale := place d.wcScale e (-32768) v }

/-- 4-byte words of chunks, none where any line failed. -/
def chunkWords (cs : List Chunk) : Option (List Word) :=
  if cs.any fun c => c.data.isNone then none
  else
    let b := chunkBytes cs
    some ((List.range (b.length / 4)).map fun i => wordAt b (4 * i))

/-- One run updated (R255, R256): its inputs read, every element formed, and masters, moments and
working copies written. Where an input line fails nothing of the block is written (R259). -/
def updateRun (r : RecRef) (x : RecState) (c : UpdCtx) (s : State) (t : Nat × UpdEntry × OwnedRun) :
    State :=
  let p := coePart r s
  let u := x.ud r.die
  let e := t.2.1
  let w := gradWidth c.code
  let src := x.record.unit
  if runState s p u r.step e t.2.2 w != .ready then s.modRec r fun y => { y with lost := true }
  else
    let o := 4 * t.2.2.first
    let n := 4 * t.2.2.count
    let st := gradStride (s.part p) e.gradient c.code
    let ym := readOwn p e.master o n src u s
    let y1 := readOwn p e.moment1 o n src u ym.state
    let y2 := if c.rule = 1 then { state := y1.state } else readOwn p e.moment2 o n src u y1.state
    let yg := readOwn p e.gradient (t.2.2.first * st) (t.2.2.count * st) src u y2.state
    let bad := firstBad ym.bad (firstBad y1.bad (firstBad y2.bad yg.bad))
    let gs := strided yg.chunks st w
    match chunkWords ym.chunks, chunkWords y1.chunks, chunkWords y2.chunks, bad with
    | some th, some m1, some m2, none =>
      let out := (List.range t.2.2.count).map fun i =>
        updElem c ((gs.getD i none).getD 0) (nthWord th i) (nthWord m1 i) (nthWord m2 i)
      let ths := out.map (·.1)
      let f8 := ths.map (copyE4m3 c.wcScale)
      let bf := if c.bf16 then ths.map copyBf16 else []
      let words := fun (ws : List Word) => ws.flatMap fun a => leBytes 4 a.toNat
      let wr := fun (region off : Nat) (bs : List Byte) (acc : SpanRes) =>
        let z := writeOwn p region off src u bs acc.state
        ({ z with bad := firstBad acc.bad z.bad } : SpanRes)
      let z := wr e.master o (words ths) { state := yg.state }
      let z := wr e.moment1 o (words (out.map (·.2.1))) z
      let z := if c.rule = 1 then z else wr e.moment2 o (words (out.map (·.2.2.1))) z
      let z := wr e.fp8 t.2.2.first (f8.flatMap fun b => leBytes 1 b.1) z
      let z := if c.bf16 then wr e.bf16 (2 * t.2.2.first) (bf.flatMap fun b => leBytes 2 b.1) z else z
      let fl := (out.map (·.2.2.2) ++ f8.map (·.2) ++ bf.map (·.2)).foldl Flags.or {}
      let moments := out.flatMap fun a => if c.rule = 1 then [a.2.1] else [a.2.1, a.2.2.1]
      let nf := ((ths ++ moments).filter nonfinite32).length
      let big := ths.foldl maxMagNan 0
      let s := z.state.modUd u fun d =>
        { (d.takeAmax e.tensor big).recordScale t.1 c.wcScale with
          flags := d.flags.or fl, masterNf := satAdd d.masterNf nf, nextNf := d.nextNf + nf
          params := wrap64 d.params t.2.2.count }
      noteBad r z.bad s
    | _, _, _, bad => noteBad r (firstBad bad (some noAddr)) yg.state

/-- An UPDATE under APPLY: every run updated, frozen entries counted (R255, R260). -/
def applyUpdate (r : RecRef) (x : RecState) (v : Verdict) (s : State) : State :=
  let p := coePart r s
  let u := x.ud r.die
  match (s.part p).active with
  | none => s
  | some img =>
    let frozen := ((recEntries x).filter fun e => frozenHere (s.part p) u x e).length
    let s := s.modUd u fun d =>
      { d with
        frozenSkip := satAdd d.frozenSkip frozen
        nextNf := if d.nextNfStep = some r.step then d.nextNf else 0
        nextNfStep := some r.step }
    noteFrozen r x
      ((recRuns (s.part p) u x).foldl (updateRun r x (UpdCtx.of x.w img.upd v)) s)

/-- The verdict of a record's step, if the update die's hub holds it. -/
def heldVerdict (r : RecRef) (x : RecState) (s : State) : Option Verdict :=
  ((s.ud (x.ud r.die)).verdicts.find? fun k => k.1 == r.step).map (·.2)

/-- UPDATE: it begins, and waits for the verdict of its step; one of count 0 is done at once (R93). -/
def execUpdate (r : RecRef) (s : State) : Host.Outcome State Fault Refusal :=
  onlyIf r.wf <|
    match s.rec? r with
    | some x =>
      if x.phase = .running && !x.begun && x.record.opcode == 0x0A02 && !s.suspended r x then
        s.modRec r fun y => { y with begun := true, executed := x.count = 0 }
      else s
    | none => s

/-- An UPDATE whose verdict has come (R255): skipped, or applied once its granules have closed. -/
def finishUpdate (r : RecRef) (x : RecState) (v : Verdict) (s : State) : State :=
  let u := x.ud r.die
  let s := s.modUd u fun d => { d with lastStep := BitVec.ofNat 32 r.step }
  let s :=
    if !v.skip then applyUpdate r x v s
    else if v.reason = 4 then s.modRec r fun y => { y with lost := true }
    else (s.modUd u fun d => { d with stepSkip := sat d.stepSkip }).modRec r
      fun y => { y with skipped := true }
  s.modRec r fun y => { y with executed := true }

/-- UPDATE_APPLY: an UPDATE that has begun acts on its verdict. -/
def execUpdateApply (r : RecRef) (s : State) : Host.Outcome State Fault Refusal :=
  onlyIf r.wf <|
    match s.rec? r with
    | some x =>
      if x.phase = .running && x.begun && !x.executed && x.record.opcode == 0x0A02 && !s.suspended r x then
        match heldVerdict r x s with
        | some v =>
          if v.skip || granulesReady r x (field (x.w 6) 7 0) (s.seenBy r x) then
            underImage r x (finishUpdate r x v) s
          else s
        | none => s
      else s
    | none => s

end Sys2Proof.Machine
end

