-- ==== Sys2Proof/Machine/Scrub.lean ====
section
/-! DEFINITION. A hub's own work on its stack: scrub passes (12 R304), Breeze (12 R305 to R307), the
retire table (12 R298 to R302) and write-backs (11 R278, R280). -/

namespace Sys2Proof.Machine

/-! ## Checking a line -/

/-- What a check of one line came to, with the check stored and the one computed from the last read. -/
structure LineCheckRes where
  state : State
  failed : Bool
  stored : Half
  computed : Half

/-- The line events of a check as they are logged: a failure under `kind`, or not yet where it is 0. -/
def checkFaults (kind : Nat) (fs : List RawFault) : List RawFault :=
  fs.filterMap fun f =>
    if f.kind == 1 then some f
    else if kind == 0 then none
    else some { f with kind := kind }

/-- A clean cached copy replaced by what a second read of the stack gave (R291). -/
def Hub.refreshed (h : Hub) (line : Nat) (d : List Byte) : Hub :=
  h.setCache (h.mem.cache.map fun c =>
    if c.line == line then
      { c with data := d, check := lineCheck d (stackSeal (h.place (64 * line))), glitch := false } else c)

/-- A line checked in the stack itself. Where only the second read passes, it replaces a clean cached copy. -/
def checkStack (h line src kind : Nat) (s : State) : LineCheckRes :=
  let r := (s.hub h).readStack line src s.free
  let good := lineCheck (r.data.getD []) (stackSeal ((s.hub h).place (64 * line)))
  let hub := if r.faults.isEmpty then r.hub else r.data.elim r.hub (r.hub.refreshed line)
  { state := s.setHub h { r with hub, faults := checkFaults kind r.faults }, failed := r.data.isNone
    stored := (r.faults.head?.map (·.stored)).getD good
    computed := (r.faults.head?.map (·.computed)).getD good }

/-- A line checked under R291 by scrub or Breeze: a dirty cached line in the cache, any other in the
stack; the data is used for nothing. A failure is logged under `kind`, or not yet where it is 0. -/
def checkLine (h line src kind : Nat) (s : State) : LineCheckRes :=
  let hub := s.hub h
  match hub.cached line with
  | some c =>
    if c.dirty then
      let want := lineCheck c.data (stackSeal (hub.place (64 * line)))
      let calm := hub.setCache (hub.mem.cache.map fun x => if x.line == line then { x with glitch := false } else x)
      if c.check != want then
        { state := if kind = 0 then s else hubFault h ⟨kind, src, line, c.check, want⟩ s, failed := true
          stored := c.check, computed := want }
      else if c.glitch then
        { state := s.setHub h { hub := calm, faults := [⟨1, src, line, c.check, want⟩] }, failed := false
          stored := c.check, computed := want }
      else { state := s, failed := false, stored := c.check, computed := want }
    else
      checkStack h line src kind s
  | none =>
    checkStack h line src kind s

/-! ## Scrub passes (R304) -/

/-- The hub a record is addressed to (Table 03.4): H(2n) for unit 0x11 and H(2n+1) for 0x12. -/
def RecState.hub (x : RecState) (d : Nat) : Nat := 2 * d + (x.record.unit - 0x11)

/-- SCRUB: every line of the span that lies in the hub's own stack is checked. -/
def scrubRun (r : RecRef) (x : RecState) (s : State) : State :=
  let h := x.hub r.die
  let region := field (x.w 0) 9 0
  let off := (x.w 1).toNat + 2 ^ 32 * field (x.w 2) 9 0
  (List.range x.count).foldl
    (fun t i => match (t.part (coePart r t)).place? region (off + 64 * i) with
      | some (k, loc) => if k = h then (checkLine h (loc / 64) 0x21 6 t).state else t
      | none => t) s

/-- SCRUB. -/
def execScrub (r : RecRef) (s : State) : Host.Outcome State Fault Refusal :=
  runOp r 0x0900 (counted (scrubRun r)) s

/-- A register pass started by SCR_CTRL bit 0, unless one runs or SCR_LINES is 0. -/
def startPass (h : Nat) (s : State) : State :=
  s.modChk h fun c =>
    if c.scrRunning || c.scrLines = 0 then c
    else { c with scrRunning := true, scrSpan := (c.scrBase, c.scrLines), scrDone := 0, scrFound := 0 }

/-- A register pass stopped by SCR_CTRL bit 1. -/
def stopPass (h : Nat) (s : State) : State := s.modChk h fun c => { c with scrRunning := false }

/-- One line of a register pass. -/
def passLine (h line : Nat) (s : State) : State :=
  let r := checkLine h line 0x21 6 s
  r.state.modChk h fun c =>
    { c with scrDone := c.scrDone + 1, scrFound := if r.failed then c.scrFound + 1 else c.scrFound }

/-- SCRUB_PASS_END: the pass has read every line of its span. -/
def execScrubPassEnd (h : Nat) (s : State) : Host.Outcome State Fault Refusal :=
  onlyIf (Instr.wf (.scrubPassEnd h)) <|
    let c := (s.hub h).chk
    if c.scrRunning then
      stopPass h ((List.range c.scrSpan.2).foldl (fun t i => passLine h (c.scrSpan.1 / 64 + i) t) s)
    else s

/-! ## Write-backs (R278, R280) -/

/-- HUB_CACHE_CTRL bit 0: every line dirty now is written back and left clean; the write-back shows in
HUB_CACHE_STAT until it ends. -/
def startWriteback (h : Nat) (s : State) : State :=
  (s.setHub h (s.hub h).cleanAll).modMem h fun m => { m with writingBack := true }

/-- HUB_WRITEBACK_DONE. -/
def execHubWritebackDone (h : Nat) (s : State) : Host.Outcome State Fault Refusal :=
  onlyIf (Instr.wf (.hubWritebackDone h)) (s.modMem h fun m => { m with writingBack := false })

/-- CELL_AREA_READY: ways 16 to 31 are written back and invalid, and their space goes to cells. -/
def execCellAreaReady (h : Nat) (s : State) : Host.Outcome State Fault Refusal :=
  onlyIf (Instr.wf (.cellAreaReady h)) <|
    if (s.hub h).mem.clearing then
      let s := s.setHub h ((s.hub h).dropWays 16)
      (s.modMem h fun m => { m with clearing := false }).modRed h fun q =>
        { q with cellFree := q.cellFree + 0x02000000 }
    else s

/-! ## Breeze (R305 to R307) -/

/-- The entry that covers an element of a working-copy region, with whether the region is its E4M3
copy. -/
def copyEntry (i : JobImage) (region el : Nat) : Option (Nat × UpdEntry × Bool) :=
  (List.range i.upd.entries.length).findSome? fun k =>
    match i.upd.entries[k]? with
    | some e =>
      if e.elements != 0 && e.offset ≤ el && el < e.offset + e.elements then
        if e.fp8 == region then some (k, e, true)
        else if e.bf16 == region then some (k, e, false) else none
      else none
    | none => none

/-- One element of a working copy rebuilt from its master, where the conditions of R307 hold: the state
after the master's read, and the bytes. -/
def rebuildElem (p h region el : Nat) (s : State) : State × Option (List Byte) :=
  match (s.part p).active with
  | none => (s, none)
  | some i =>
    match copyEntry i region el with
    | none => (s, none)
    | some (k, e, fp8) =>
      let wc := look (s.ud h).wcScale k (-32768)
      if fp8 && wc == -32768 then (s, none)
      else
        let y := readRegion p e.master (4 * el) 4 0x20 .internal s
        match y.bad with
        | some _ => (y.state, none)
        | none =>
          let th := wordAt (chunkBytes y.chunks) 0
          (y.state, some (if fp8 then leBytes 1 (copyE4m3 wc th).1 else leBytes 2 (copyBf16 th).1))

/-- A working-copy line rebuilt from its masters, none where R307 forbids it. -/
def rebuildLine (p h region o : Nat) (s : State) : State × Option (List Byte) :=
  match (s.part p).active with
  | none => (s, none)
  | some i =>
    let w := elemWidth i (s.part p).stream region
    if ((s.part p).region? region).elim true (fun g => g.cls != 3) || (s.part p).frame.uds.isEmpty then (s, none)
    else (List.range (64 / w)).foldl
      (fun (acc : State × Option (List Byte)) k =>
        match acc.2 with
        | none => acc
        | some bs =>
          let r := rebuildElem p h region (o / w + k) acc.1
          (r.1, r.2.map fun b => bs ++ b)) (s, some [])

/-- A line fault of Breeze recorded, with the checks of its last read. -/
def breezeFault (h line kind : Nat) (r : LineCheckRes) (s : State) : State :=
  hubFault h ⟨kind, 0x20, line, r.stored, r.computed⟩ s

/-- A bad line, read as r says, repaired by rewriting it whole, or logged as not repairable (R307); one of a channel that
failed training cannot be rewritten (R267). -/
def breezeRepair (h line : Nat) (r : LineCheckRes) (s : State) : State :=
  let not' := fun (s : State) => (breezeFault h line 9 r s).modChk h fun c =>
    { c with brzUnrepaired := sat c.brzUnrepaired }
  match s.partOfHub h with
  | none => not' s
  | some p =>
    match (s.part p).regionAt h (64 * line) with
    | none => not' s
    | some (region, o) =>
      if (s.hub h).unreachable ((s.hub h).place (64 * line)) then not' s
      else match rebuildLine p h region o s with
      | (t, none) => not' t
      | (t, some bs) =>
        let t := breezeFault h line 8 r t
        let t := t.setHub h ((t.hub h).write (writesBack 3) line bs)
        t.modChk h fun c => { c with brzRepaired := sat c.brzRepaired }

/-- Whether an UPDATE runs on update die u. -/
def updateRuns (u : Nat) (s : State) : Bool :=
  (s.cd (u / 2)).seq.steps.any fun t => t.recs.any fun x =>
    x.record.opcode == 0x0A02 && x.phase = .running && x.ud (u / 2) == u

/-- The next offset of the walk, and whether the walk has been completed. -/
def LineCheck.advance (c : LineCheck) : LineCheck :=
  if c.brz.live.getD 1 0 ≤ c.brzPos then
    { c with brzPos := c.brz.live.getD 0 0, brzPasses := sat c.brzPasses }
  else { c with brzPos := c.brzPos + 64 }

/-- The reads begun in the present microsecond of module time. -/
def LineCheck.begun (c : LineCheck) (us : Nat) : Nat := if c.brzUs = us then c.brzInUs else 0

/-- Breeze's read of the line at its walk position. -/
def breezeLine (h : Nat) (s : State) : State :=
  let line := (s.hub h).chk.brzPos / 64
  let s := s.modChk h fun c => c.advance
  if ((s.hub h).cached line).elim false (·.dirty) then s
  else
    let us := s.now / 1000
    let s := s.modChk h fun c => { c with brzInUs := c.begun us + 1, brzUs := us }
    let hold := updateRuns h s
    let r := checkLine h line 0x20 (if hold then 7 else 0) s
    if !r.failed then r.state
    else if hold then r.state.modChk h fun c => { c with brzHeld := c.brzHeld ++ [line] }
    else breezeRepair h line r r.state

/-- BREEZE_READ: within the microsecond's rate, the next line of the walk is read and checked. -/
def execBreezeRead (h : Nat) (upsets : List Upset) (s : State) : Host.Outcome State Fault Refusal :=
  onlyIf (Instr.wf (.breezeRead h upsets)) <|
    let c := (s.hub h).chk
    let s := forAll upsets applyUpset s
    if hasBreeze s.ctrl.ident.part && s.live (.stack h) && bit (c.brz.live.getD 3 0) 0 &&
        c.begun (s.now / 1000) < (c.brz.live.getD 2 0) % 2 ^ 13
    then breezeLine h s else s

/-- BREEZE_HELD_RECHECK: the oldest held repair's line is read again once no UPDATE runs. -/
def execBreezeHeldRecheck (h : Nat) (s : State) : Host.Outcome State Fault Refusal :=
  onlyIf (Instr.wf (.breezeHeldRecheck h)) <|
    match (s.hub h).chk.brzHeld with
    | [] => s
    | line :: rest =>
      if updateRuns h s then s
      else
        let r := checkLine h line 0x20 0 (s.modChk h fun c => { c with brzHeld := rest })
        if r.failed then breezeRepair h line r r.state
        else if r.state.ctrl.log.seq == s.ctrl.log.seq then breezeFault h line 1 r r.state
        else r.state

/-! ## The retire table (R298 to R302) -/

/-- Retire granules of a pseudo-channel. -/
def pcGranules : Nat := 1179648

/-- Whether granule j of pseudo-channel q lies wholly in the spare area (R298). -/
def inSpare (use : Half) (q j : Nat) : Bool :=
  let p := 2 * chanCount use
  let k := (pcsInUse use).findIdx (· == q)
  usableBytes use ≤ (8 * j * p + k) * 256

/-- The lowest spare granule of pseudo-channel q. -/
def firstSpare (use : Half) (q : Nat) : Nat :=
  let p := 2 * chanCount use
  let k := (pcsInUse use).findIdx (· == q)
  ceilDiv (usableBytes use / 256 - k) (8 * p)

/-- The target word of an entry (Table 12.3). -/
def RetEntry.target (e : RetEntry) : Word :=
  BitVec.ofNat 32 (2 ^ 31 * b2n e.valid + 2 ^ 26 * e.q + e.granule)

/-- The lowest-numbered free spare granule of pseudo-channel q (R300). -/
def freeSpare (use : Half) (t : List (Nat × RetEntry)) (q : Nat) : Option Nat :=
  ((List.range 4097).map (· + firstSpare use q)).find? fun j =>
    j < pcGranules && !t.any fun e => e.2.valid && e.2.q == q && e.2.spare == j

/-- The granule's 32 lines written as zeros with good checks. -/
def zeroGranule (q j : Nat) (st : LineStore) : LineStore :=
  (List.range 32).foldl
    (fun st i =>
      let a := (q, 2048 * j + 64 * i)
      st.write (physLine a) (stackSeal a) (List.replicate 64 0)) st

/-- A new retire table. The module moves no data, and a granule reads from now on as its new place
does (R300, R301): cached lines whose place changes are dropped, dirty or not. DEDUCED (log entry 88). -/
def Hub.setRet (h : Hub) (t : List (Nat × RetEntry)) : Hub :=
  let n : Hub := { h with chk := { h.chk with ret := t } }
  n.setCache (h.mem.cache.filter fun c => n.place (64 * c.line) == h.place (64 * c.line))

/-- The entry being assigned comes into force (R300). -/
def retireNow (h : Nat) (s : State) : State :=
  match (s.hub h).chk.retPending with
  | none => s
  | some (i, e) =>
    let s := s.modMem h fun m => { m with stack := zeroGranule e.q e.spare m.stack }
    let s := s.modHub h fun b => b.setRet (place b.chk.ret i {} e)
    s.modChk h fun c => { c with retPending := none }

/-- RETIRE_ENTRY_IN_FORCE. -/
def execRetireEntryInForce (h : Nat) (s : State) : Host.Outcome State Fault Refusal :=
  onlyIf (Instr.wf (.retireEntryInForce h)) (retireNow h s)

/-- A rejected write to the retire table (R300). -/
def retireRefuse (h : Nat) (s : State) : State :=
  s.modChk h fun c => { c with retRefused := sat c.retRefused }

/-- A write of the target word of entry i (R300). -/
def writeRetire (h i : Nat) (v : Word) (s : State) : State :=
  let s := retireNow h s
  let q := field v 30 26
  let j := field v 20 0
  let hub := s.hub h
  let use := hub.mem.chanUse
  if !bit v.toNat 31 then
    s.modHub h fun b => b.setRet (place b.chk.ret i {} { q, granule := j })
  else
    let others := hub.chk.ret.filter fun e => e.1 != i
    let running := (s.partOfHub h).elim false fun p => (s.part p).stream.running
    if running || field v 25 21 != 0 || pcGranules ≤ j || !bit use.toNat (q / 2) || inSpare use q j ||
        others.any (fun e => e.2.valid && e.2.q == q && e.2.granule == j)
    then retireRefuse h s
    else match freeSpare use others q with
      | none => retireRefuse h s
      | some sp =>
        let s := s.modHub h fun b => b.setRet (place b.chk.ret i {} { q, granule := j })
        s.modChk h fun c => { c with retPending := some (i, { spare := sp, valid := true, q, granule := j }) }

end Sys2Proof.Machine
end

