-- ==== Sys2Proof/Machine/Fabric.lean ====
section
/-! DEFINITION. Fabric messages (15): the egress arbiter, what a module does with HEAD and data flits,
stall limits, modules that are out, and units that are cut out. -/

namespace Sys2Proof.Machine

/-! ## The egress arbiter (R371 to R376) -/

/-- A message of a partition by its identity. -/
def Part.outMsg (q : Part) (id : Nat) : Option OutMsg := q.fab.msgs.find? fun m => m.ident == id

/-- A message changed. -/
def State.modMsg (s : State) (p id : Nat) (f : OutMsg → OutMsg) : State :=
  s.modFab p fun b => { b with msgs := b.msgs.map fun m => if m.ident == id then f m else m }

/-- The holder and requests of a port (R365). -/
def Port.load (q : Port) : Nat := q.arb.requests.length + b2n q.arb.holder.isSome

/-- The port that a message binds to: fewest requests, then most lanes, then lowest (R365). -/
def State.bindPort (s : State) (p m : Nat) : Option Nat :=
  (s.usableTo p m).foldl
    (fun best n =>
      match best with
      | none => some n
      | some b =>
        let x := s.port n
        let y := s.port b
        if x.load < y.load || (x.load = y.load && y.txLanes < x.txLanes) then some n else some b) none

/-- MESSAGE_BIND: the i-th unbound message of a partition binds to a port of its peer (R365). On the
port it last used it goes on where it stopped; on another it resumes from what is acknowledged. -/
def execMessageBind (p i : Nat) (s : State) : Host.Outcome State Fault Refusal :=
  onlyIf (p < 4) <|
    match ((s.part p).fab.msgs.filter fun m => m.port.isNone)[i]? with
    | none => s
    | some m =>
      match s.bindPort p m.dstModule with
      | none => s
      | some n =>
        (s.modMsg p m.ident fun m =>
          { m with port := some n, sent := if m.last == some n then m.sent else m.acked }).modArb n
          fun a => { a with requests := a.requests ++ [{ msg := m.ident }] }

/-- The key by which a phase picks: STEPWORD first, then round robin from the die after the last
granted, then the oldest (R372). -/
def grantKey (lastDie : Nat) (m : OutMsg) : Nat :=
  (b2n (m.kind != 4) * 16 + (m.ref.die + 15 - lastDie) % 16) * 2 ^ 64 + m.ident

/-- The message that a phase grants. -/
def State.nextHolder (s : State) (p n : Nat) : Option OutMsg :=
  let a := (s.port n).arb
  (sortBy (grantKey a.lastDie)
    ((a.requests.filter (·.eligible)).filterMap fun r => (s.part p).outMsg r.msg)).head?

/-- The live ARB_GRANT_MAX, ARB_PARK_MAX and ARB_CTRL. -/
def Arbiter.grantMax (a : Arbiter) : Nat := a.set.live.getD 0 0x60
def Arbiter.parkMax (a : Arbiter) : Nat := a.set.live.getD 1 8
def Arbiter.ctrl (a : Arbiter) : Nat := a.set.live.getD 2 1

/-- ARBITRATION_PHASE: with no holder and an eligible request, the next holder is picked (R372). -/
def execArbitrationPhase (n : Nat) (s : State) : Host.Outcome State Fault Refusal :=
  onlyIf (n < 128) <|
    match s.partOfPort n, (s.port n).arb.holder with
    | some p, none =>
      match s.nextHolder p n with
      | none => s
      | some m => s.modArb n fun a =>
        { a with
          holder := some m.ident, grant := a.grantMax, needHead := true, sent := 0, lastDie := m.ref.die
          requests := a.requests.filter fun r => r.msg != m.ident
          grants := wrap32 a.grants }
    | _, _ => s

/-- The HEAD flit of a message at its next offset (Table 13.3). -/
def headFlit (q : Part) (m : OutMsg) : List Byte :=
  slice
    (leBytes 1 1 ++ leBytes 1 m.kind ++ leBytes 2 0 ++ leBytes 2 q.moduleNo ++ leBytes 1 m.ref.die ++
      leBytes 1 m.dstDie ++ leBytes 2 m.dstModule ++ leBytes 1 m.channel ++ leBytes 1 m.format ++
      leBytes 4 m.ref.step ++ leBytes 4 m.number ++ leBytes 4 m.data.length ++ leBytes 4 m.sent ++
      leBytes 2 m.ordinal ++ leBytes 1 m.ring ++ leBytes 1 0 ++ leBytes 2 m.region ++ leBytes 6 0 ++
      leBytes 8 m.offset) 0 256

/-- A flit of a frame: whether it is a control flit, and its bytes. -/
abbrev Flit := Bool × List Byte

/-- What a holder's flit left behind: the state, the flit, and the message with the offset after it. -/
structure Sent where
  state : State
  flit : Flit
  mark : Nat × Nat

/-- The end of a flit's slot: the grant ends with its message, or yields to another eligible request at
the ARB_GRANT_MAX of its grant, or starts its count again (R373, R376). -/
def afterFlit (p n id : Nat) (last : Bool) (s : State) : State :=
  let a := (s.port n).arb
  if last then s.modArb n fun a => { a with holder := none }
  else if a.sent < a.grant then s
  else if a.requests.any (·.eligible) then
    (s.modArb n fun a => { a with holder := none }).modMsg p id fun m => { m with port := none }
  else s.modArb n fun a => { a with sent := 0 }

/-- One flit of the holder (R321, R371): its HEAD first, then its data. -/
def holderFlit (p n : Nat) (s : State) : Option Sent :=
  let a := (s.port n).arb
  match a.holder.bind fun id => (s.part p).outMsg id with
  | none => none
  | some m =>
    let s := s.modArb n fun a => { a with sent := a.sent + 1, needHead := false }
    if a.needHead then
      let s := s.modMsg p m.ident fun m => { m with last := some n, idle := 0 }
      some ⟨afterFlit p n m.ident (m.data.length = 0) s, (true, headFlit (s.part p) m), (m.ident, m.sent)⟩
    else
      let upTo := min (m.sent + 256) m.data.length
      let s := s.modMsg p m.ident fun m => { m with sent := upTo, last := some n, idle := 0 }
      some ⟨afterFlit p n m.ident (upTo = m.data.length) s, (false, slice m.data m.sent 256), (m.ident, upTo)⟩

/-- Up to k flits of the holder, with the messages they belong to and how far each has come. -/
def holderFlits (p n : Nat) : Nat → State → State × List Flit × List (Nat × Nat)
  | 0, s => (s, [], [])
  | k + 1, s =>
    match holderFlit p n s with
    | none => (s, [], [])
    | some x =>
      let r := holderFlits p n k x.state
      (r.1, x.flit :: r.2.1, x.mark :: r.2.2)

/-- The remainder of a holder that port n has cut off, bound again by the port-choice rule and parked at that port: n
itself, or another port of the same peer, on which it resumes from what is acknowledged (R365, R374). -/
def parkRest (p n : Nat) (m : OutMsg) (s : State) : State :=
  let k := (s.bindPort p m.dstModule).getD n
  (s.modMsg p m.ident fun m =>
    { m with port := some k, sent := if m.last == some k then m.sent else m.acked }).modArb k
    fun a => { a with requests := a.requests ++ [{ msg := m.ident, parked := true, eligible := false }] }

/-- HOLDER_STALL: a holder that supplies no flit for 2 µs is flagged, and cut off and parked where that
is allowed (R374, R375). -/
def execHolderStall (n : Nat) (s : State) : Host.Outcome State Fault Refusal :=
  onlyIf (n < 128) <|
    let a := (s.port n).arb
    match s.partOfPort n, a.holder with
    | some p, some id =>
      match (s.part p).outMsg id with
      | none => s
      | some m =>
        if (s.port n).link.buffer.length < 256 && (s.port n).txLanes != 0 then
          let cut := bit a.ctrl 0 && (a.requests.filter (·.parked)).length < a.parkMax
          let flag : ArbFlag :=
            { valid := true, cut, step := m.ref.step, cmd := m.ref.cmd
              src := BitVec.ofNat 32 (2 ^ 16 * m.dstModule + m.ref.die), msg := m.number }
          let s := s.modArb n fun a =>
            { a with
              stalls := sat a.stalls, flag := if a.flag.valid then a.flag else flag
              cutoffs := if cut then sat a.cutoffs else a.cutoffs
              holder := if cut then none else a.holder }
          let s := if cut then parkRest p n m s else s
          if bit a.ctrl 1 then telem p (.alertStall n m.ref.step m.ref.die m.ref.cmd m.number) s else s
        else s
    | _, _ => s

/-- PARKED_ELIGIBLE: the source of the i-th parked request holds enough flits ready (R374). -/
def execParkedEligible (n i : Nat) (s : State) : Host.Outcome State Fault Refusal :=
  onlyIf (n < 128) <|
    match ((s.port n).arb.requests.filter (·.parked))[i]? with
    | none => s
    | some r => s.modArb n fun a =>
      { a with requests := a.requests.map fun x => if x.msg == r.msg then { x with eligible := true } else x }

/-! ## What waits on a message (R382, R383) -/

/-- Whether a running record still waits on input that must come over the fabric (R382): WAITIN on its
count, RINGAG on shards, STEPWORD on the word, UFOLD and UPDATE on granules or the verdict. -/
def State.waitsInput (s : State) (p : Nat) (r : RecRef) (x : RecState) : Bool :=
  x.phase == .running &&
    match x.record.opcode with
    | 0x0601 => !x.executed && waitCount r x s < (x.w 1).toNat
    | 0x0603 => x.executed && ((s.part p).fab.rings.find? fun g => g.ref == r).any fun g =>
        !g.broken && g.got.length < g.members.length
    | 0x0604 => !x.executed
    | 0x0A00 => !x.executed && !granulesReady r x (field (x.w 3) 7 0) (s.seenBy r x)
    | 0x0A02 => !x.executed &&
        match heldVerdict r x s with
        | some v => !v.skip && !granulesReady r x (field (x.w 6) 7 0) (s.seenBy r x)
        | none => true
    | _ => false

/-- Whether a record waits on a message: WAITIN on its channel, RINGAG on its ring, STEPWORD on its
step's word. -/
def waitsOn (p : Nat) (h : Head) (s : State) (r : RecRef) (x : RecState) : Bool :=
  s.waitsInput p r x && r.step == h.step &&
    match h.message with
    | 1 => x.record.opcode == 0x0601 && r.die == h.dstDie && field (x.w 0) 5 0 == h.channel
    | 3 => x.record.opcode == 0x0603 && s.shardDie p h.ring (h.srcModule, h.srcDie) h.dstDie == some r.die &&
        (RingOp.of x.w).ring == h.ring
    | 4 => x.record.opcode == 0x0604
    | _ => false

/-- Every record of a partition's dies in flight. -/
def State.liveRecs (s : State) (p : Nat) : List (RecRef × RecState) :=
  (s.part p).frame.cds.flatMap fun d => (s.cd d).seq.steps.flatMap fun u =>
    ((List.range u.recs.length).zip u.recs).map fun x => (⟨d, u.step, x.1⟩, x.2)

/-- A record ends with INPUT_LOST: a STEPWORD as R241 states, any other at once. -/
def loseRecord (p : Nat) (r : RecRef) (x : RecState) (s : State) : State :=
  let s := markLost p r (telem p (.alertInputLost r) s)
  if x.record.opcode = 0x0604 then lostStepword r x s
  else
    let s := s.modRec r fun y => { y with lost := true, executed := true }
    if x.record.opcode = 0x0603 then s.modRingag p r fun g => { g with broken := true } else s

/-! ## The receive table (R377 to R380, R384) -/

/-- A message's identity at a receiver (R377). -/
def Head.key (h : Head) : MsgKey := ⟨h.srcModule, h.srcDie, h.dstModule, h.number⟩

/-- Whether two messages come from one sender. -/
def MsgKey.sender (a b : MsgKey) : Bool := a.srcModule == b.srcModule && a.srcDie == b.srcDie

/-- The last 256 numbers of a sender are remembered, newest first (R378). The flag says that the
message was discarded. -/
def Fabric.remember (f : Fabric) (k : MsgKey) (discarded : Bool) : Fabric :=
  let mine := f.gone.filter fun g => g.1.sender k
  let others := f.gone.filter fun g => !g.1.sender k
  { f with gone := (k, discarded) :: (mine.take 255 ++ others) }

/-- Whether a message has completed or been discarded. -/
def Fabric.isGone (f : Fabric) (k : MsgKey) : Bool := f.gone.any fun g => g.1 == k

/-- A report made to a sender; the last 256 are kept. -/
def Fabric.report (f : Fabric) (k : MsgKey) (discarded : Bool) : Fabric :=
  { f with reports := (k, discarded) :: f.reports.take 255 }

/-- A late flit of a message: the first of one that was discarded makes the receiver report it so (R384). -/
def Fabric.lateFlit (f : Fabric) (k : MsgKey) : Fabric :=
  if f.gone.contains (k, true) then
    { (f.report k true) with gone := f.gone.map fun g => if g.1 == k then (k, false) else g }
  else f

/-- A partial message discarded (R384): its entry freed, its number remembered, and the records that wait
on it ended. The host is told of it where a record waits on it, or did until now (R383). -/
def discardMsg (p : Nat) (waited : Bool) (m : InMsg) (s : State) : State :=
  let mine := (s.liveRecs p).filter fun x => waitsOn p m.head s x.1 x.2
  let s := s.modFab p fun f =>
    { (f.remember m.head.key true) with
      table := f.table.filter fun x => x.head.key != m.head.key, discarded := sat f.discarded }
  let s := if waited || !mine.isEmpty then
      telem p (.alertMessage m.head.srcModule m.head.srcDie m.head.number m.hwm) s else s
  forAll mine (fun x t => loseRecord p x.1 x.2 t) s

/-- The current step of a partition for R378: 0 while a stream awaits its start; none while no stream
awaits or runs. -/
def Stream.current (st : Stream) : Option Nat :=
  if st.running then some (if st.step = 0xFFFFFFFF then 0 else st.step) else none

/-- The HEAD of a flit (Table 13.3). -/
def Head.of (b : List Byte) : Head :=
  { message := leAt b 1 1, srcModule := leAt b 4 2, srcDie := leAt b 6 1, dstDie := leAt b 7 1
    dstModule := leAt b 8 2, channel := leAt b 0x0A 1, format := leAt b 0x0B 1, step := leAt b 0x0C 4
    number := leAt b 0x10 4, length := leAt b 0x14 4, resume := leAt b 0x18 4, ordinal := leAt b 0x1C 2
    ring := leAt b 0x1E 1, region := leAt b 0x20 2, offset := leAt b 0x28 8 }

/-- A message whose last byte has been delivered (R380). One to a die outside the partition has no effect: it misses the
partition, and is discarded (R17, R203, R434). -/
def completeMsg (p : Nat) (m : InMsg) (s : State) : State :=
  let h := m.head
  let s := s.modFab p fun f =>
    { (f.remember h.key false) with table := f.table.filter fun x => x.head.key != h.key }
  let src := (h.srcModule, h.srcDie)
  if h.message != 2 && !(s.part p).frame.cds.contains h.dstDie then s
  else if s.forwards p h.message h.ring src h.dstDie then
    forwardRing p h.message h.step h.ring h.region h.offset src h.dstDie true m.data s
  else match h.message with
  | 1 =>
    if s.isCut (.cd h.dstDie) then s
    else if inboundOk (s.part p) h.region h.offset h.length then
      countPut h.dstDie h.channel h.step h.length (s.modFab p fun f => f.report h.key false)
    else rejectInbound h.dstDie s
  | 3 =>
    match s.shardDie p h.ring src h.dstDie with
    | none => s
    | some d =>
      if h.length != 0 && !inboundOk (s.part p) h.region h.offset h.length then rejectInbound d s
      else shardArrived p d h.step h.ring h.region h.offset (h.length = 0) s
  | 4 => wordArrived p h.step m.data s
  | _ => s

/-- The bytes of a data flit take effect (R380). Bytes of a shard whose
position has been counted are dropped (R393), and bytes to a die outside the partition discarded (R203). -/
def takeBytes (p : Nat) (h : Head) (off : Nat) (data : List Byte) (s : State) : State :=
  let src := (h.srcModule, h.srcDie)
  if h.message != 2 && !(s.part p).frame.cds.contains h.dstDie then s
  else if s.forwards p h.message h.ring src h.dstDie then s
  else match h.message with
  | 1 =>
    if s.isCut (.cd h.dstDie) || !inboundOk (s.part p) h.region h.offset h.length then s
    else (writeInbound p h.dstDie h.region (h.offset + off) data [] s).state
  | 2 =>
    let w := (elemOf h.format).bits / 8
    (sendElements
      { part := p, region := h.region, offset := h.offset, format := h.format, bits := 0
        srcModule := h.srcModule, srcDie := h.srcDie, step := h.step, ordinal := h.ordinal, pos := 0 }
      (off / w) data s).1
  | 3 =>
    match s.shardDie p h.ring src h.dstDie with
    | none => s
    | some d =>
      if inboundOk (s.part p) h.region h.offset h.length && !s.shardCame p d h.step h.ring h.region h.offset then
        (writeInbound p d h.region (h.offset + off) data [] s).state
      else s
  | _ => s

/-- A stale flit counted (R378). -/
def countStale (p : Nat) (s : State) : State := s.modFab p fun f => { f with stale := sat f.stale }

/-- No message is current on a port. -/
def noCurrent (n : Nat) (s : State) : State := s.modLink n fun k => { k with current := none }

/-- A HEAD delivered on a port (R378, R379). Its message is current on the port from then on. -/
def deliverHead (p n : Nat) (h : Head) (s : State) : State :=
  let s := s.modLink n fun k => { k with current := some h.key, currentOff := h.resume }
  let f := (s.part p).fab
  match (s.part p).stream.current with
  | none => countStale p s
  | some c =>
    if h.message = 0 || h.message > 4 then noCurrent n s
    else if h.step + 1 < c || f.isGone h.key then countStale p (s.modFab p fun f => f.lateFlit h.key)
    else
      let m : InMsg := (f.table.find? fun x => x.head.key == h.key).getD { head := h }
      let s := restartIdle p (waitsOn p h s) s
      if m.hwm < h.resume then countStale p (discardMsg p false m s)
      else
        let others := f.table.filter fun x => x.head.key != h.key
        let m := { m with idle := 0 }
        let s := s.modFab p fun f => { f with table := others ++ [m] }
        if h.length = 0 then completeMsg p m s else s

/-- A data flit delivered on a port (R378 to R380). -/
def deliverData (p n : Nat) (b : List Byte) (s : State) : State :=
  match (s.port n).link.current with
  | none => s
  | some k =>
    let off := (s.port n).link.currentOff
    let s := s.modLink n fun l => { l with currentOff := off + 256 }
    match (s.part p).fab.table.find? fun x => x.head.key == k with
    | none => countStale p (s.modFab p fun f => f.lateFlit k)
    | some m =>
      if (s.part p).stream.current.all fun c => m.head.step + 1 < c then countStale p s
      else if off < m.hwm then s.modFab p fun f => { f with dup := sat f.dup }
      else if off > m.hwm then countStale p s
      else
        let data := b.take (m.head.length - off)
        let h := m.head
        let keep := h.message == 4 || s.forwards p h.message h.ring (h.srcModule, h.srcDie) h.dstDie
        let m' : InMsg :=
          { m with hwm := off + data.length, idle := 0, data := if keep then m.data ++ data else m.data }
        let s := s.modFab p fun f =>
          { f with table := f.table.map fun x => if x.head.key == k then m' else x }
        let s := takeBytes p m.head off data (restartIdle p (waitsOn p m.head s) s)
        if m'.hwm = m.head.length then completeMsg p m' s else s

/-- A flit of a delivered frame: epoch first (R326), then peer status (R368), then the message. A port whose peer is
not known yet takes no messages; Table 15.1 names no counter for them (log entry 117). -/
def deliverFlit (p n : Nat) (epochOk : Bool) (ctl : Bool) (b : List Byte) (s : State) : State :=
  if ctl && leAt b 0 1 != 1 then s
  else if !epochOk then s.modLink n fun k => { k with epochDrop := sat k.epochDrop, current := none }
  else if (s.port n).arb.peer = 3 || (s.port n).arb.peer = 4 then
    (s.modArb n fun a => { a with peerDrop := sat a.peerDrop }).modLink n fun k => { k with current := none }
  else if (s.port n).arb.peer = 0 then noCurrent n s
  else if ctl then deliverHead p n (Head.of b) s
  else deliverData p n b s

/-- Bits [15:0] of a partition's job epoch; 0 before a job image commits (Table 13.1). -/
def Part.epoch16 (q : Part) : Nat := match q.active with | some i => i.epoch % 2 ^ 16 | none => 0

/-- The data flits of a frame, each with the HEAD of its message and its offset in it (R321), from the message that is
current before the frame. -/
def frameData (cur : Option (Head × Nat)) : List (Bool × List Byte) → List (Head × Nat)
  | [] => []
  | (true, b) :: fs => frameData (if leAt b 0 1 = 1 then some (Head.of b, (Head.of b).resume) else cur) fs
  | (false, _) :: fs =>
    match cur with
    | some (h, o) => (h, o) :: frameData (some (h, o + 256)) fs
    | none => frameData none fs

/-- Whether the bytes of a data flit would be written to a line of an open granule (R210). -/
def flitWaits (p : Nat) (s : State) (x : Head × Nat) : Bool :=
  (x.1.message == 1 || x.1.message == 3) && x.1.region != 0xFFFF &&
    inboundOk (s.part p) x.1.region x.1.offset x.1.length &&
    spanOpen p x.1.region (x.1.offset + x.2) (min 256 (x.1.length - x.2)) s

/-- Whether a frame cannot be delivered yet: it carries the HEAD of a step too far ahead, or of more new
messages than the receive table has room for (R377, R378), or bytes for a line of an open granule, for which a write
waits (R210, R277) and the receiver holds back its ack (R324). -/
def frameHeld (p n : Nat) (x : HeldFrame) (s : State) : Bool :=
  let q := s.part p
  let flits := ((List.range x.flits.length).zip x.flits).map fun f => (bit x.map f.1, f.2)
  let heads := flits.filterMap fun f => if f.1 && leAt f.2 0 1 == 1 then some (Head.of f.2) else none
  match q.stream.current with
  | none => false
  | some c =>
    let k := (s.port n).link
    let cur := k.current.bind fun i => (q.fab.table.find? fun m => m.head.key == i).map fun m => (m.head, k.currentOff)
    let taken := fun (h : Head) => !(h.step + 1 < c) && !q.fab.isGone h.key
    let new := (heads.filter fun h => taken h && !q.fab.table.any fun m => m.head.key == h.key).map (·.key)
    x.epoch == q.epoch16 && ((s.port n).arb.peer == 1 || (s.port n).arb.peer == 2) &&
      ((heads.any fun h => c + 1 < h.step) || (!new.isEmpty && 8192 < q.fab.table.length + new.eraseDups.length) ||
        (frameData cur flits).any fun y => taken y.1 && flitWaits p s y)

/-- One frame delivered (R322). -/
def deliverFrame (p n : Nat) (x : HeldFrame) (s : State) : State :=
  let ok := x.epoch == (s.part p).epoch16
  let s := s.modLink n fun k =>
    { k with
      rxSeq := (k.rxSeq + 1) % 2 ^ 20, rxFrames := wrap64 k.rxFrames 1
      held := k.held.filter fun y => y.seq != x.seq }
  forAll ((List.range x.flits.length).zip x.flits)
    (fun f t => deliverFlit p n ok (bit x.map f.1) f.2 t) s

/-- The frames held are delivered in sequence order as far as they go; one that cannot be is counted
once (R322, R378). -/
def deliverHeld (p n : Nat) : Nat → State → State
  | 0, s => s
  | k + 1, s =>
    let l := (s.port n).link
    match l.held.find? fun x => x.seq == l.rxSeq with
    | none => s
    | some x =>
      if frameHeld p n x s then
        if x.stuck then s
        else
          (s.modLink n fun l =>
            { l with held := l.held.map fun y => if y.seq == x.seq then { y with stuck := true } else y }).modFab p
            fun f => { f with heldCount := sat f.heldCount }
      else deliverHeld p n k (deliverFrame p n x s)

/-- RECEIVE_HELD_RELEASE: frames held back are delivered once they can be (R377, R378). -/
def execReceiveHeldRelease (n : Nat) (s : State) : Host.Outcome State Fault Refusal :=
  onlyIf (n < 128) <|
    match s.partOfPort n with
    | some p => deliverHeld p n 257 s
    | none => s

/-! ## Stall limits (R383 to R385) -/

/-- The stall limit of a partition's cadence (R45). -/
def Part.stallLimit (q : Part) : Nat := q.cadence.stallLimit

/-- The open granules that an update record waits on. -/
def waitedGranules (r : RecRef) (x : RecState) (s : State) : List (Nat × Granule) :=
  let s := s.seenBy r x
  let p := coePart r s
  let u := x.ud r.die
  let code := if x.record.opcode = 0x0A00 then field (x.w 3) 7 0 else field (x.w 6) 7 0
  if x.record.opcode = 0x0A00 || x.record.opcode = 0x0A02 then
    (recRuns (s.part p) u x).flatMap fun t =>
      (runGranules (s.part p) t.2.1 t.2.2 (gradWidth code)).filterMap fun i =>
        (((s.hub u).red.open? p t.2.1.gradient i).bind fun g => if g.step = r.step then some (u, g) else none)
  else []

/-- What an update record does when its wait ends at the stall limit: it goes on through the blocks whose
granules have come (R253, R255). An UPDATE without its verdict does nothing more. -/
def endUpdateWait (r : RecRef) (x : RecState) (s : State) : State :=
  if x.record.opcode = 0x0A00 then underImage r x (ufoldRun r x) s
  else if x.record.opcode = 0x0A02 then
    match heldVerdict r x s with
    | some v => underImage r x (finishUpdate r x v) s
    | none => s
  else s

/-- BECALM_STALL_LIMIT: a becalmed record that has met no input for stall_limit boundaries ends with
INPUT_LOST; the partial messages and granules it waits on are discarded (R383). -/
def execBecalmStallLimit (r : RecRef) (s : State) : Host.Outcome State Fault Refusal :=
  onlyIf r.wf <|
    match s.rec? r, s.partOfCd r.die with
    | some x, some p =>
      if s.waitsInput p r x && x.becalmed.isSome && (s.part p).stallLimit ≤ x.idle then
        let msgs := (s.part p).fab.table.filter fun m => waitsOn p m.head s r x
        let grans := waitedGranules r x s
        let s := loseRecord p r x s
        let s := forAll msgs (fun m t => discardMsg p true m t) s
        endUpdateWait r x (forAll grans (fun g t => discardGranule g.1 g.2 t) s)
      else s
    | _, _ => s

/-- MESSAGE_STALL_DISCARD: the i-th partial message that has met no arrival for stall_limit boundaries
is discarded (R384). -/
def execMessageStallDiscard (p i : Nat) (s : State) : Host.Outcome State Fault Refusal :=
  onlyIf (p < 4) <|
    match ((s.part p).fab.table.filter fun m => (s.part p).stallLimit ≤ m.idle)[i]? with
    | some m => discardMsg p false m s
    | none => s

/-- The messages of a record withdrawn: nothing more of them is sent. -/
def dropMessages (p : Nat) (f : OutMsg → Bool) (s : State) : State :=
  let s := forAll ((s.part p).fab.msgs.filter f) (fun m t => dropRequest m t) s
  s.modFab p fun b => { b with msgs := b.msgs.filter fun m => !f m }

/-- SENDER_STALL_LIMIT: a sending record whose message makes no progress for 2 × stall_limit boundaries
ends with INPUT_LOST (R385). -/
def execSenderStallLimit (r : RecRef) (s : State) : Host.Outcome State Fault Refusal :=
  onlyIf r.wf <|
    match s.rec? r, s.partOfCd r.die with
    | some x, some p =>
      let stalled := (s.part p).fab.msgs.any fun m =>
        m.ref == r && 2 * (s.part p).stallLimit ≤ m.idle
      if x.phase = .running && stalled then
        loseRecord p r x (dropMessages p (fun m => m.ref == r) s)
      else s
    | _, _ => s

/-! ## Modules out (R391) -/

/-- MODULE_OUT: the partition has had no usable port to module m for 2 ms since step 0 began (R391). -/
def execModuleOut (p m : Nat) (s : State) : Host.Outcome State Fault Refusal :=
  onlyIf (p < 4) <|
    let q := s.part p
    if q.stream.running && q.stream.step != 0xFFFFFFFF && (s.usableTo p m).isEmpty && m != q.moduleNo &&
        !q.fab.modulesOut.contains m then
      s.modFab p fun f => { f with modulesOut := f.modulesOut ++ [m] }
    else s

/-! ## Units that fail (R387 to R389) -/

/-- The window of a site. -/
def siteWindow : Site → Nat
  | .cd n => winCd n
  | .stack n => winHub n
  | .ud n => winUd n
  | .le n => winLe n
  | .baith _ => winCtrl

/-- The hub or update die that a record is addressed to. -/
def RecState.target (x : RecState) (d : Nat) : Option Site :=
  if x.record.unit = 0x11 || x.record.unit = 0x12 then some (.stack (x.hub d))
  else if x.record.unit = 0x13 || x.record.unit = 0x14 then some (.ud (x.ud d))
  else none

/-- The running records addressed to a unit that has been cut out end with INPUT_LOST (R388). -/
def loseTargets (site : Site) (s : State) : State :=
  forAll partNums
    (fun p t => forAll (t.liveRecs p)
      (fun x u =>
        if x.2.phase = .running && !x.2.executed && x.2.target x.1.die == some site then
          (markLost p x.1 u).modRec x.1 fun y => { y with executed := true }
        else u) t) s

/-- A compute die cut out (Table 15.6). Its records never start and post nothing. Its messages keep their numbers, under
which ring messages to it still go on (R389, R392). -/
def cutCd (d : Nat) (s : State) : State :=
  let s := s.modMod fun m => { m with cutCd := m.cutCd ||| 2 ^ d }
  let s := forAll partNums
    (fun p t => (dropMessages p (fun m => m.ref.die == d) t).modFab p
      fun f => { f with rings := f.rings.filter fun g => g.ref.die != d }) s
  let gone := fun (x : RecState) => if x.phase = .done then x else { x with phase := .never }
  s.modCd d fun c =>
    { seq := { steps := c.seq.steps.map fun u => { u with recs := u.recs.map gone } }, pwr := c.pwr
      eng := { coe := { numbers := c.eng.coe.numbers } } }

/-- An update die cut out. -/
def cutUd (u : Nat) (s : State) : State :=
  loseTargets (.ud u) (s.modMod fun m => { m with cutUd := m.cutUd ||| 2 ^ u })

/-- A stack with its hub and its update die, where it has one, cut out (Table 15.6, R7): open granules and the cache are
lost, and elements on their way there are discarded. -/
def cutStack (h : Nat) (s : State) : State :=
  let s := s.modMod fun m => { m with cutStack := m.cutStack ||| 2 ^ h }
  let s := forAll (s.hub h).red.granules (fun g t => discardGranule h g t) s
  let coming := (s.hub h).red.inFlight ++ (s.hub h).red.held
  let s := forAll (coming.filterMap (·.sender))
    (fun r t => (t.partOfCd r.die).elim t fun p => markLost p r t) s
  let s := s.modHub h fun b =>
    { b with red := { b.red with inFlight := [], held := [] }, mem := { b.mem with cache := [] } }
  if s.live (.ud h) then cutUd h (loseTargets (.stack h) s) else loseTargets (.stack h) s

/-- A light engine cut out: its lasers are turned off and its ports go dark (Table 15.6). -/
def cutLe (m : Nat) (s : State) : State :=
  let s := s.modMod fun x => { x with cutLe := x.cutLe ||| 2 ^ m }
  let s := s.modLe m fun e =>
    { e with lasers := e.lasers.map fun l => if l.state = 4 then l else { l with state := 0, drive := 0 } }
  forAll ((List.range 16).map (· + 16 * m)) (fun n t => darkPort n 3 t) s

/-- The partitions that hold a unit, or a port of a light engine. -/
def State.holders (s : State) : Site → List Nat
  | .cd n => (s.partOfCd n).toList
  | .stack n => (s.partOfHub n).toList
  | .ud n => (s.partOfUd n).toList
  | .le n => s.engineParts n
  | .baith n => (s.partOfBaith n).toList

/-- A unit cut out for a cause of Table 15.5: shown, recorded and alerted (R388). -/
def cutOut (site : Site) (cause : Nat) (s : State) : State :=
  let hosts := s.holders site
  let s := raiseAlert 5 s
  let s := logEvent 0x11 (siteWindow site) (partCode hosts.head?)
    [BitVec.ofNat 8 (siteWindow site), BitVec.ofNat 8 cause] s
  let s := forAll hosts (fun p t => telem p (.alertCut (siteWindow site) cause) t) s
  match site with
  | .cd d => cutCd d s
  | .stack h => cutStack h s
  | .ud u => cutUd u s
  | .le m => cutLe m s
  | .baith _ => s

/-- The polls in a row that a site has not answered. -/
def State.missed (s : State) (site : Site) : Nat :=
  ((s.ctrl.module.misses.find? fun x => x.1 == site).map (·.2)).getD 0

/-- The first cause of Table 15.5 that holds for a poll, or 0. -/
def pollCause (a : PollAnswer) (missed : Nat) (s : State) : Nat :=
  if missed ≥ 10 then 1
  else if a.answered && a.fault then 2
  else match a.site with
    | .stack _ => if a.answered && a.lostTraining > 8 then 3 else 0
    | .le m => if (s.le m).optState == 5 then 4 else 0
    | _ => 0

/-- One site's poll judged. -/
def takePoll (a : PollAnswer) (s : State) : State :=
  let canCut : Bool := match a.site with | .baith _ => false | _ => true
  if s.live a.site && canCut then
    let n := if a.answered then 0 else s.missed a.site + 1
    let s := s.modMod fun m =>
      { m with misses :=
          if n = 0 then m.misses.filter fun x => x.1 != a.site
          else (a.site, n) :: m.misses.filter fun x => x.1 != a.site }
    let c := pollCause a n s
    if c = 0 then s else cutOut a.site c s
  else s

/-- SITE_POLL: the control die polls every present site, and cuts out those it finds failed (R387,
R388). -/
def execSitePoll (answers : List PollAnswer) (s : State) : Host.Outcome State Fault Refusal :=
  onlyIf (Instr.wf (.sitePoll answers)) <|
    if s.ctrl.module.state = 5 then forAll answers (fun a t => takePoll a t) s else s

end Sys2Proof.Machine
end

