-- ==== Sys2Proof/Machine/Movers.lean ====
section
/-! DEFINITION. The transposer and the gather engine (07 R182 to R187), and the narrow queue of a hub
(11 R283). -/

namespace Sys2Proof.Machine

def unitTxe : Nat := 0x0B
def unitGxe : Nat := 0x0C

/-! ## TXP -/

/-- Element i of a row, as bits of a width. -/
def bitsElem (bits : Nat) (bs : List Byte) (i : Nat) : Nat :=
  if bits = 4 then (leAt bs (i / 2) 1 >>> (4 * (i % 2))) % 16 else leAt bs (i * (bits / 8)) (bits / 8)

/-- A row of elements packed. -/
def bitsPack (bits : Nat) (vs : List Nat) : List Byte :=
  if bits = 4 then packNibbles vs else vs.flatMap (leBytes (bits / 8))

/-- TXP: the source's R rows of C elements written as C rows of R (R182, R183). -/
def txpRun (r : RecRef) (x : RecState) (s : State) : State :=
  let f := TxpOp.of x.w
  let rows := x.count / f.cols
  let y := readRows r.die unitTxe f.sAddr f.sStride rows (f.cols * f.bits / 8) s
  let w := (List.range f.cols).foldl
    (fun (acc : SpanRes) c =>
      let z := writeScratch r.die unitTxe (f.dAddr + c * f.dStride)
        (bitsPack f.bits (y.2.1.map fun b => bitsElem f.bits b c)) acc.state
      { z with bad := firstBad acc.bad z.bad }) { state := y.1 }
  noteBadScratch r (firstBad y.2.2 w.bad) w.state

/-- TXP. -/
def execTxp (r : RecRef) (s : State) : Host.Outcome State Fault Refusal :=
  runOp r 0x0300 (counted (txpRun r)) s

/-! ## LOAD and STORE (R184) -/

/-- The partition of a record's die. -/
def partOf (r : RecRef) (s : State) : Nat := (s.partOfCd r.die).getD 0

/-- Whether no row of a LOAD or STORE touches an open granule. -/
def moveReady (r : RecRef) (x : RecState) (s : State) : Bool :=
  let f := MoveOp.of x.w
  (List.range (x.count / f.rowBytes)).all fun j =>
    !spanOpen (partOf r s) f.region (f.offset + j * f.mStride) f.rowBytes s

/-- The first LINE_BAD line latched in GXE_BAD_ADDR (R187). -/
def Gxe.latchBad (g : Gxe) (bad : Option Nat) : Gxe :=
  match bad with
  | some a => if g.badValid then g else { g with badValid := true, badAddr := a }
  | none => g

/-- A GXE record that met a failing line, counted (Table 07.12). -/
def Gxe.countBad (g : Gxe) (any : Bool) : Gxe :=
  if any then { g with badCount := sat16 g.badCount } else g

/-- Chunks written to scratchpad, those of failed lines left out (R187, R292). -/
def writeChunks (d src a : Nat) (cs : List Chunk) (s : State) : SpanRes :=
  cs.foldl
    (fun acc c => match c.data with
      | none => acc
      | some b =>
        let z := writeScratch d src (a + c.off) b acc.state
        { z with bad := firstBad acc.bad z.bad }) { state := s }

/-- LOAD: rows of a region into scratchpad over the wide path (R184). -/
def loadRun (r : RecRef) (x : RecState) (s : State) : State :=
  let f := MoveOp.of x.w
  let p := partOf r s
  let y := (List.range (x.count / f.rowBytes)).foldl
    (fun (acc : SpanRes × Option Nat) j =>
      let a := readRegion p f.region (f.offset + j * f.mStride) f.rowBytes unitGxe .wide acc.1.state
      let w := writeChunks r.die unitGxe (f.sAddr + j * f.sStride) a.chunks a.state
      ({ w with bad := firstBad acc.1.bad w.bad }, firstBad acc.2 a.bad)) ({ state := s }, none)
  let s1 := y.1.state.modGxe r.die fun g =>
    (g.latchBad y.2).countBad (y.2.isSome || y.1.bad.isSome)
  noteBadScratch r y.1.bad (noteBad r y.2 s1)

/-- LOAD. -/
def execLoad (r : RecRef) (s : State) : Host.Outcome State Fault Refusal :=
  runOpWhen r 0x0400 (moveReady r) (counted (loadRun r)) s

/-- STORE: rows of scratchpad into a region; a memory line whose scratchpad line fails is not written
(R184, R292). -/
def storeRun (r : RecRef) (x : RecState) (s : State) : State :=
  let f := MoveOp.of x.w
  let p := partOf r s
  let y := (List.range (x.count / f.rowBytes)).foldl
    (fun (acc : SpanRes × Option Nat) j =>
      let a := readScratch r.die unitGxe (f.sAddr + j * f.sStride) f.rowBytes acc.1.state
      let w := a.chunks.foldl
        (fun (t : SpanRes) c => match c.data with
          | none => t
          | some b =>
            let z := writeRegion p f.region (f.offset + j * f.mStride + c.off) unitGxe .wide b t.state
            { z with bad := firstBad t.bad z.bad }) ({ state := a.state } : SpanRes)
      ({ w with bad := firstBad acc.1.bad w.bad }, firstBad acc.2 a.bad)) ({ state := s }, none)
  let s1 := y.1.state.modGxe r.die fun g =>
    (g.latchBad y.1.bad).countBad (y.2.isSome || y.1.bad.isSome)
  noteBadScratch r y.2 (noteBad r y.1.bad s1)

/-- STORE. -/
def execStore (r : RecRef) (s : State) : Host.Outcome State Fault Refusal :=
  runOpWhen r 0x0401 (moveReady r) (counted (storeRun r)) s

/-! ## GATHER (R185, R186) and the narrow queue (11 R283) -/

/-- The entries of a narrow queue. -/
def narrowDepth : Nat := 512

/-- One line read of die d joins a hub's narrow queue, or waits where the queue is full. -/
def HubMem.ask (m : HubMem) (d : Nat) : HubMem :=
  if m.queue.length < narrowDepth then
    { m with queue := m.queue ++ [d], highWater := max m.highWater (m.queue.length + 1)
             narrowWasFull := m.narrowWasFull || narrowDepth ≤ m.queue.length + 1 }
  else { m with waiting := m.waiting ++ [d] }

/-- The waiting die served next: by increasing number after the die last served (R283). -/
def nextDie (last : Nat) (waiting : List Nat) : Option Nat :=
  ((List.range 16).map fun i => (last + 1 + i) % 16).find? fun d => waiting.contains d

/-- An entry of the narrow queue freed: it goes to a waiting die in turn (R283). -/
def HubMem.free (m : HubMem) : HubMem :=
  match m.queue with
  | [] => m
  | _ :: rest =>
    match nextDie m.lastDie m.waiting with
    | some d => { m with queue := rest ++ [d], waiting := m.waiting.erase d, lastDie := d }
    | none => { m with queue := rest }

/-- Line reads that a GXE keeps outstanding (R187). -/
def maxOutstanding : Nat := 2048

/-- A line read of die d at hub h issued, or kept back while 2048 are outstanding (R187). -/
def askLine (d h : Nat) (s : State) : State :=
  if (s.cd d).eng.gxe.outstanding < maxOutstanding then
    (s.modMem h fun m => m.ask d).modGxe d fun g => { g with outstanding := g.outstanding + 1 }
  else s.modGxe d fun g => { g with toIssue := g.toIssue ++ [h] }

/-- The next line read that die d's GXE keeps back, issued (R187). -/
def askNext (d : Nat) (s : State) : State :=
  match (s.cd d).eng.gxe.toIssue with
  | [] => s
  | h :: rest => askLine d h (s.modGxe d fun g => { g with toIssue := rest })

/-- NARROW_QUEUE_FREE: the oldest entry's line has been read; its GXE has one read fewer
outstanding, and issues the next that it keeps back. -/
def execNarrowQueueFree (h : Nat) (s : State) : Host.Outcome State Fault Refusal :=
  onlyIf (Instr.wf (.narrowQueueFree h)) <|
    match (s.hub h).mem.queue with
    | [] => s
    | d :: _ => askNext d ((s.modMem h HubMem.free).modGxe d fun g => { g with outstanding := g.outstanding - 1 })

/-- The indices of a GATHER; none where its line of the index array failed. -/
def gatherIndices (chunks : List Chunk) (n : Nat) : List (Option Nat) :=
  let bytes := chunkBytes chunks
  (List.range n).map fun i =>
    let lost := chunks.any fun c => c.data.isNone && c.off < 4 * i + 4 && 4 * i < c.off + c.count
    if lost then none else some (leAt bytes (4 * i) 4)

/-- The index array of a GATHER that starts, read whole (R185). -/
def readIndices (r : RecRef) (x : RecState) (s : State) : State :=
  let y := readScratch r.die unitGxe (GatherOp.of x.w).idxAddr (4 * x.count) s
  noteBadScratch r y.bad (y.state.modRec r fun z =>
    { z with index := gatherIndices y.chunks x.count, indexBad := y.bad.isSome })

/-- The rows of a GATHER that has started: each position with its index. -/
def RecState.rows (x : RecState) : List (Nat × Option Nat) := (List.range x.count).zip x.index

/-- Whether an index is out of range (R186). -/
def indexOut (f : GatherOp) (len idx : Nat) : Bool :=
  signed 32 idx < 0 || idx * f.rStride + f.rowBytes > len

/-- One row of a GATHER. -/
def gatherRow (r : RecRef) (f : GatherOp) (p len : Nat) (s : SpanRes × Option Nat)
    (i : Nat × Option Nat) : SpanRes × Option Nat :=
  let dst := f.dAddr + i.1 * f.rowBytes
  match i.2 with
  | none => s
  | some idx =>
    if indexOut f len idx then
      let w := writeScratch r.die unitGxe dst (List.replicate f.rowBytes 0) s.1.state
      ({ state := w.state.modGxe r.die fun g =>
          let g1 := { g with flags := { g.flags with nv := true } }
          if g.oorValid then g1
          else { g1 with oorValid := true, oorStep := r.step, oorCmd := r.cmd, oorElem := i.1,
                         oorIndex := BitVec.ofNat 32 idx }
         bad := firstBad s.1.bad w.bad }, s.2)
    else
      let a := readRegion p f.region (idx * f.rStride) f.rowBytes unitGxe .narrow s.1.state
      let w := writeChunks r.die unitGxe dst a.chunks a.state
      let t := (List.range (f.rowBytes / 64)).foldl
        (fun (u : State) k => match (u.part p).place? f.region (idx * f.rStride + 64 * k) with
          | some (h, _) => askLine r.die h u
          | none => u) w.state
      ({ state := t, bad := firstBad s.1.bad w.bad }, firstBad s.2 a.bad)

/-- Whether no row of a GATHER lies in an open granule. -/
def gatherReady (r : RecRef) (x : RecState) (s : State) : Bool :=
  let f := GatherOp.of x.w
  let p := partOf r s
  let len := ((s.part p).region? f.region).elim 0 (·.length)
  x.rows.all fun i => match i.2 with
    | some idx => indexOut f len idx || !spanOpen p f.region (idx * f.rStride) f.rowBytes s
    | none => true

/-- GATHER: each row over the narrow path, by the indices read when the record started (R185). -/
def gatherRun (r : RecRef) (x : RecState) (s : State) : State :=
  let f := GatherOp.of x.w
  let p := partOf r s
  let len := ((s.part p).region? f.region).elim 0 (·.length)
  let z := x.rows.foldl (gatherRow r f p len) ({ state := s }, none)
  let s1 := z.1.state.modGxe r.die fun g =>
    (g.latchBad z.2).countBad (z.2.isSome || z.1.bad.isSome || x.indexBad)
  noteBadScratch r z.1.bad (noteBad r z.2 s1)

/-- GATHER. -/
def execGather (r : RecRef) (s : State) : Host.Outcome State Fault Refusal :=
  runOpWhen r 0x0402 (gatherReady r) (counted (gatherRun r)) s

end Sys2Proof.Machine
end

