-- ==== Sys2Proof/Machine/Vxe.lean ====
section
/-! DEFINITION. The vector engine (chapter 06). -/

namespace Sys2Proof.Machine

/-- VXE's unit code. -/
def unitVxe : Nat := 0x0A

/-- A source element: its bits, and its value where the class is float. -/
structure VElem where
  raw : Nat
  num : Num

/-- The element format of a VXE format code. -/
def vxeElem (code : Nat) : Elem := match fmtOf code with | some p => p.1 | none => .fp32

/-- An element of the accumulator view (R174). VSEL moves the 32 bits of the view, hi for view 2
(R167). -/
def accElem (view : Nat) (p : Pair) : VElem :=
  if view = 1 then ⟨p.lo.toNat, f32 p.lo⟩
  else if view = 2 then ⟨p.hi.toNat, p.value⟩
  else ⟨p.hi.toNat, f32 p.hi⟩

/-- A source element with its sign control: a float's sign bit inverted, an integer negated modulo
2^32 (R161). -/
def VElem.withSign (fmt : Nat) (neg : Bool) (v : VElem) : VElem :=
  if !neg then v
  else if fmt = 8 then let r := twos 32 (-(signed 32 v.raw)); ⟨r, Num.ofInt (signed 32 r)⟩
  else ⟨v.raw, v.num.neg⟩

/-- The n elements of a source (R171 to R174): the state after its reads, the elements, and the first
failing address. -/
def readSource (d : Nat) (f : VxeOp) (o : VxeSrc) (n : Nat) (s : State) :
    State × List VElem × Option Nat :=
  let e := vxeElem o.fmt
  let sign := fun (l : List VElem) => l.map (VElem.withSign o.fmt o.neg)
  match o.kind with
  | 0 =>
    let y := readScratch d unitVxe o.word.toNat (elemBytes e n) s
    (y.state, sign ((elems e (chunkBytes y.chunks) n).map fun b => ⟨b, Num.read e b⟩), y.bad)
  | 1 =>
    let b := o.word.toNat % 2 ^ e.bits
    (s, sign (List.replicate n ⟨b, Num.read e b⟩), none)
  | 2 =>
    let t := (s.mxe d f.accEngine).tile f.accTile
    (s, sign ((List.range n).map fun i =>
      accElem f.accView (t.get ((f.accRow + i / f.accLen) * 256 + f.accCol + i % f.accLen))), none)
  | _ => (s, List.replicate n ⟨0, .fin false 0 0⟩, none)

/-- The rounding of a record's rnd bit. -/
def VxeOp.rnd (f : VxeOp) : Rnd := if f.rz then .rz else .rne

/-- A float result rounded once into the destination (R162, R164). -/
def vFloat (f : VxeOp) (x : Num × Bool) : Nat × Flags :=
  let r := convert (vxeElem f.dFmt) false f.rnd 0 false x.1
  (r.1, { r.2 with nv := r.2.nv || x.2 })

/-- An integer result wrapped modulo 2^32, OF when it did not fit (R163), and converted where the
destination is a float (R163). -/
def vInt (f : VxeOp) (v : Int) : Nat × Flags :=
  let w := twos 32 v
  let o : Flags := { ovf := v < -(2 ^ 31 : Int) || v ≥ 2 ^ 31 }
  if f.dFmt = 8 then (w, o)
  else
    let r := convert (vxeElem f.dFmt) false f.rnd 0 false (Num.ofInt (signed 32 w))
    (r.1, Flags.or o r.2)

/-- Whether a record's class is integer, by a deciding source's format (R161). -/
def isIntFmt (fmt : Nat) : Bool := fmt == 8

/-- The signed value of an INT32 element. -/
def VElem.int (v : VElem) : Int := signed 32 v.raw

/-- The predicates of VCMP (Table 06.4). -/
def vcmpHolds (sub : Nat) (lt eq gt : Bool) : Bool :=
  match sub with
  | 0 => eq
  | 1 => lt || gt
  | 2 => lt
  | 3 => lt || eq
  | 4 => gt
  | 5 => gt || eq
  | _ => false

/-- One element of an elementwise operation by its opcode: bits and flags. -/
def vElement (opcode : Nat) (f : VxeOp) (a b c : VElem) : Nat × Flags :=
  let int := isIntFmt f.a.fmt
  match opcode with
  | 0x0200 => if int then vInt f (a.int + b.int) else vFloat f (numAdd a.num b.num)
  | 0x0201 => if int then vInt f (a.int * b.int) else vFloat f (numMul a.num b.num)
  | 0x0202 => if int then vInt f (a.int * b.int + c.int) else vFloat f (numFma a.num b.num c.num)
  | 0x0203 => if int then vInt f (min a.int b.int) else vFloat f (numMinMax false a.num b.num)
  | 0x0204 => if int then vInt f (max a.int b.int) else vFloat f (numMinMax true a.num b.num)
  | 0x0205 =>
    if int then
      (if vcmpHolds f.sub (a.int < b.int) (a.int == b.int) (a.int > b.int) then 0xFFFFFFFF else 0, {})
    else
      (if vcmpHolds f.sub (numLt a.num b.num) (numEq a.num b.num) (numLt b.num a.num)
        then 0xFFFFFFFF else 0, { nv := a.num.signalling || b.num.signalling })
  | _ => (if a.raw != 0 then b.raw else c.raw, {})

/-! ## Bank conflicts within one record (R178) -/

/-- A scratchpad stream in one cycle: its first line and the lines it covers. -/
def streamLines (addr n : Nat) : Nat × Nat := if n = 0 then (0, 0) else (addr / 64, (addr + n - 1) / 64 + 1 - addr / 64)

/-- Whether two streams touch a common bank in a cycle. -/
def banksMeet (x y : Nat × Nat) : Bool :=
  x.2 != 0 && y.2 != 0 &&
    ((y.1 + 1024 - x.1 % 1024) % 1024 < x.2 || (x.1 + 1024 - y.1 % 1024) % 1024 < y.2)

/-- Whether any two of a cycle's streams touch a common bank. -/
def anyMeet : List (Nat × Nat) → Bool
  | [] => false
  | x :: xs => xs.any (banksMeet x) || anyMeet xs

/-- The bytes a source covers in cycle i. -/
def srcStream (lanes count i : Nat) (o : VxeSrc) : Nat × Nat :=
  if o.kind != 0 then (0, 0)
  else
    let e := vxeElem o.fmt
    let lo := min (i * lanes) count
    let hi := min ((i + 1) * lanes) count
    streamLines (o.word.toNat + elemBytes e lo) (elemBytes e (hi - lo))

/-- The bytes the destination covers in cycle i. A group's result is taken as written in the cycle
that covers its last element. -/
def dstStream (lanes count i : Nat) (red : Bool) (f : VxeOp) : Nat × Nat :=
  let e := vxeElem f.dFmt
  let g := if red then max f.group 1 else 1
  let lo := min (i * lanes) count / g
  let hi := min ((i + 1) * lanes) count / g
  streamLines (f.dAddr + elemBytes e lo) (elemBytes e (hi - lo))

/-- The cycles that a record's own streams lose to bank conflicts. -/
def conflicts (lanes count : Nat) (red : Bool) (f : VxeOp) : Nat :=
  ((List.range (ceilDiv count lanes)).filter fun i =>
    anyMeet [srcStream lanes count i f.a, srcStream lanes count i f.b, srcStream lanes count i f.c,
      dstStream lanes count i red f]).length

/-- The end of a record: results written, flags merged, and the cycles lost to bank conflicts counted: the record's
own, and those lost to the die's other engines, which the model does not time: a free value (R178, log entry 3). -/
def vxeFinish (r : RecRef) (f : VxeOp) (count : Nat) (red : Bool) (out : List (Nat × Flags))
    (bad : Option Nat) (s : State) : State :=
  let others := Config.waitCycles 4 s.free
  let y := writeScratch r.die unitVxe f.dAddr (packElems (vxeElem f.dFmt) (out.map (·.1))) s.drawn
  let fl := out.foldl (fun g o => Flags.or g o.2) ({} : Flags)
  let lost := conflicts (partLanes s.ctrl.ident.part) count red f
  noteBadScratch r (firstBad bad y.bad) (y.state.modVxe r.die fun v =>
    { v with flags := Flags.or v.flags fl, conflict := min (v.conflict + lost + others) (2 ^ 64 - 1) })

/-- A source as an operation uses it: VSEL ignores neg_b and neg_c (R167). -/
def VxeSrc.usedBy (o : VxeSrc) (opcode : Nat) : VxeSrc := if opcode = 0x0206 then { o with neg := false } else o

/-- An elementwise operation (R159 to R167, R175). -/
def vxeRun (r : RecRef) (x : RecState) (s : State) : State :=
  let f := VxeOp.of x.w
  let n := x.count
  let a := readSource r.die f f.a n s
  let b := readSource r.die f (f.b.usedBy x.record.opcode) n a.1
  let c := readSource r.die f (f.c.usedBy x.record.opcode) n b.1
  let out := (a.2.1.zip (b.2.1.zip c.2.1)).map fun p => vElement x.record.opcode f p.1 p.2.1 p.2.2
  vxeFinish r f n false out (firstBad a.2.2 (firstBad b.2.2 c.2.2)) c.1

/-- VADD. -/
def execVadd (r : RecRef) (s : State) : Host.Outcome State Fault Refusal :=
  runOp r 0x0200 (counted (vxeRun r)) s
/-- VMUL. -/
def execVmul (r : RecRef) (s : State) : Host.Outcome State Fault Refusal :=
  runOp r 0x0201 (counted (vxeRun r)) s
/-- VFMA. -/
def execVfma (r : RecRef) (s : State) : Host.Outcome State Fault Refusal :=
  runOp r 0x0202 (counted (vxeRun r)) s
/-- VMIN. -/
def execVmin (r : RecRef) (s : State) : Host.Outcome State Fault Refusal :=
  runOp r 0x0203 (counted (vxeRun r)) s
/-- VMAX. -/
def execVmax (r : RecRef) (s : State) : Host.Outcome State Fault Refusal :=
  runOp r 0x0204 (counted (vxeRun r)) s
/-- VCMP. -/
def execVcmp (r : RecRef) (s : State) : Host.Outcome State Fault Refusal :=
  runOp r 0x0205 (counted (vxeRun r)) s
/-- VSEL. -/
def execVsel (r : RecRef) (s : State) : Host.Outcome State Fault Refusal :=
  runOp r 0x0206 (counted (vxeRun r)) s

/-! ## VRED (R168, R169) -/

/-- The identity of a reduction in a destination format (Table 06.5). -/
def redIdentity (sub fmt : Nat) : Nat :=
  match sub, fmt with
  | 2, 2 => 0xFF80
  | 2, 8 => 0x80000000
  | 2, _ => 0xFF800000
  | 3, 2 => 0x7F80
  | 3, 8 => 0x7FFFFFFF
  | 3, _ => 0x7F800000
  | _, _ => 0

/-- One level of a reduction: elements 2i and 2i + 1 combined, an odd last one passed by `lone`. -/
def redLevel {α : Type} (comb : α → α → α × Flags) (lone : α → α × Flags) : List α → List α × Flags
  | x :: y :: r =>
    let c := comb x y
    let t := redLevel comb lone r
    (c.1 :: t.1, Flags.or c.2 t.2)
  | [x] => let c := lone x; ([c.1], c.2)
  | [] => ([], {})

/-- Levels until one element is left; `fuel` bounds their number. -/
def redLevels {α : Type} (comb : α → α → α × Flags) : Nat → List α → List α × Flags
  | 0, l => (l, {})
  | n + 1, l =>
    if l.length ≤ 1 then (l, {})
    else
      let a := redLevel comb (fun x => (x, {})) l
      let b := redLevels comb n a.1
      (b.1, Flags.or a.2 b.2)

/-- A value rounded to binary32 and kept as a value. -/
def roundNum (rnd : Rnd) (x : Num × Bool) : Num × Flags :=
  let r := round32nv rnd x
  (f32 r.1, r.2)

/-- The combination of two float elements at a later level (R169). -/
def redFloat (sub : Nat) (rnd : Rnd) (x y : Num) : Num × Flags :=
  if sub = 2 || sub = 3 then
    let m := numMinMax (sub = 2) x y
    (m.1, { nv := m.2 })
  else roundNum rnd (numAdd x y)

/-- The combination of two integer elements: sums wrap with OF, extremes compare as signed. -/
def redInt (sub : Nat) (x y : Int) : Int × Flags :=
  if sub = 2 then (max x y, {})
  else if sub = 3 then (min x y, {})
  else
    let v := x + y
    (signed 32 (twos 32 v), { ovf := v < -(2 ^ 31 : Int) || v ≥ 2 ^ 31 })

/-- The squares' first level: fl(x² + y²) rounded once; an unpaired element becomes fl(x²). -/
def squareLevel (rnd : Rnd) (l : List Num) : List Num × Flags :=
  redLevel
    (fun x y =>
      let q := numMul y y
      let p := numFma x x q.1
      roundNum rnd (p.1, p.2 || q.2))
    (fun x => roundNum rnd (numMul x x)) l

/-- One group reduced to its destination element. -/
def redGroup (f : VxeOp) (l : List VElem) : Nat × Flags :=
  if isIntFmt f.a.fmt then
    let r := redLevels (redInt f.sub) l.length (l.map VElem.int)
    let o := vInt f (r.1.headD 0)
    (o.1, Flags.or r.2 o.2)
  else
    let a := if f.sub = 1 then squareLevel f.rnd (l.map (·.num)) else (l.map (·.num), {})
    let r := redLevels (redFloat f.sub f.rnd) l.length a.1
    let o := vFloat f (r.1.headD (.fin false 0 0), false)
    (o.1, Flags.or a.2 (Flags.or r.2 o.2))

/-- A list cut into groups of g. -/
def groupsOf {α : Type} (g : Nat) : Nat → List α → List (List α)
  | 0, _ => []
  | n + 1, l => l.take g :: groupsOf g n (l.drop g)

/-- VRED: count / g groups reduced; with a count of 0 the identity is written to D_0 (R93, R168). -/
def vredRun (r : RecRef) (x : RecState) (s : State) : State :=
  let f := VxeOp.of x.w
  let n := x.count
  if n = 0 then
    let y := writeScratch r.die unitVxe f.dAddr (packElems (vxeElem f.dFmt) [redIdentity f.sub f.dFmt]) s
    noteBadScratch r y.bad y.state
  else
    let a := readSource r.die f f.a n s
    vxeFinish r f n true ((groupsOf f.group (n / f.group) a.2.1).map (redGroup f)) a.2.2 a.1

/-- VRED. -/
def execVred (r : RecRef) (s : State) : Host.Outcome State Fault Refusal :=
  runOp r 0x0207 (vredRun r) s

end Sys2Proof.Machine
end

