-- ==== Sys2Proof/Machine/Issue.lean ====
section
/-! DEFINITION. A record's start and end (03 R81 to R85, R91, R92, R99): what must hold before it starts,
what its completion posts, replays, stops, aborts and abandoned steps (12 R294 to R296). -/

namespace Sys2Proof.Machine

/-! ## Before a record starts -/

/-- A record that will never run again. -/
def RecState.ended (x : RecState) : Bool := x.phase == .done || x.phase == .never

/-- The records of a die in flight, with their references. -/
def State.dieRecs (s : State) (d : Nat) : List (RecRef × RecState) :=
  (s.cd d).seq.steps.flatMap fun u =>
    ((List.range u.recs.length).zip u.recs).map fun x => (⟨d, u.step, x.1⟩, x.2)

/-- Whether record a comes before record b on their die. -/
def refBefore (a b : RecRef) : Bool := a.step < b.step || (a.step == b.step && a.cmd < b.cmd)

/-- Whether a record's unit is free for it: a COE record needs every earlier COE record started and
fewer than 16 running; any other needs every earlier record of its unit completed and none running
(R81, R181). -/
def unitFree (r : RecRef) (x : RecState) (s : State) : Bool :=
  let mine := (s.dieRecs r.die).filter fun y => y.2.record.unit == x.record.unit
  if x.record.unit = 0x0E then
    (mine.all fun y => !refBefore y.1 r || y.2.phase != .waiting) &&
      (mine.filter fun y => y.2.phase == .running).length < 16
  else
    mine.all fun y => (!refBefore y.1 r || y.2.ended) && y.2.phase != .running

/-- Whether a unit can take a record run again (R92): none of it runs, or fewer than 16 of a COE's (R181). -/
def unitIdle (r : RecRef) (x : RecState) (s : State) : Bool :=
  ((s.dieRecs r.die).filter fun y => y.2.record.unit == x.record.unit && y.2.phase == .running).length <
    if x.record.unit = 0x0E then 16 else 1

/-- The CHOICE whose alternates hold record cmd, and its index. -/
def StepRun.choiceOf (u : StepRun) (cmd : Nat) : Option (Nat × RecState) :=
  (((List.range u.recs.length).zip u.recs).filter fun x =>
    x.2.record.opcode == 0x0705 &&
      (x.2.record.alternates x.1).any fun a => a.first ≤ cmd && cmd < a.first + a.records).head?

/-- Whether a member of an alternate has been chosen (R81); any other record need not be. -/
def chosen (u : StepRun) (r : RecRef) (x : RecState) : Bool :=
  if bit x.record.flags 0 then (u.choiceOf r.cmd).elim false fun c => c.2.decided else true

/-- The working-copy regions of an image: its class 3 regions (R25, Table 02.6). -/
def JobImage.copies (i : JobImage) : List Nat :=
  (List.range i.regions.length).filter fun g => (i.regions[g]?).any fun x => x.length != 0 && x.cls == 3

/-- The regions that a record reads. -/
def RecState.readsRegions (x : RecState) : List Nat :=
  let w := fun i => nthWord x.record.ops i
  match x.record.opcode with
  | 0x0400 => [(MoveOp.of w).region]
  | 0x0402 => [(GatherOp.of w).region]
  | 0x0600 => (PutOp.of w).src.region.toList
  | 0x0603 => [(RingOp.of w).region]
  | 0x0900 => [field (w 0) 9 0]
  | _ => []

/-- Whether a record is an update or all-gather command that writes region g (R25). -/
def RecState.writesCopy (x : RecState) (i : JobImage) (g : Nat) : Bool :=
  let w := fun k => nthWord x.record.ops k
  match x.record.opcode with
  | 0x0A02 => ((List.range x.record.count).map (· + field (w 0) 11 0)).any fun e =>
      match i.upd.entries[e]? with
      | some u => u.elements != 0 && (u.fp8 == g || (i.upd.bf16Copies && u.bf16 == g))
      | none => false
  | 0x0603 => (RingOp.of w).region == g
  | 0x0600 => (PutOp.of w).module == 0xFFFF && (PutOp.of w).dst.region == some g
  | _ => false

/-- Whether no writer of a working-copy region that the record reads is left from the step before
(R25). -/
def copiesReady (p : Nat) (r : RecRef) (x : RecState) (s : State) : Bool :=
  match (s.part p).active with
  | none => true
  | some i =>
    let regions := x.readsRegions.filter i.copies.contains
    regions.isEmpty || (s.liveRecs p).all fun y =>
      y.1.step + 1 != r.step || y.2.ended || !regions.any fun g => y.2.writesCopy i g

/-- The tiles, as engine and number, that a VXE or CVE record reads. -/
def RecState.tilesRead (x : RecState) : List (Nat × Nat) :=
  let w := fun i => nthWord x.record.ops i
  if x.record.unit = 0x0A then
    let f := VxeOp.of w
    if f.a.kind = 2 || f.b.kind = 2 || f.c.kind = 2 then [(f.accEngine, f.accTile)] else []
  else if x.record.opcode = 0x0500 then
    let f := CvtOp.of w
    if f.acc then [(f.engine, f.tile)] else []
  else []

/-- The tiles that an MXE record writes. -/
def RecState.tilesWritten (x : RecState) : List (Nat × Nat) :=
  let w := fun i => nthWord x.record.ops i
  let e := x.record.unit
  match x.record.opcode with
  | 0x0100 => [(e, (MmaOp.of w).tile)]
  | 0x0101 => ((List.range 4).filter fun t => bit (w 0).toNat t).map fun t => (e, t)
  | 0x0102 => if (AstOp.of w).clear then [(e, (AstOp.of w).tile)] else []
  | 0x0104 => [(e, field (w 1) 1 0)]
  | _ => []

/-- Whether no running record of the other kind holds a tile that the record needs (R139). -/
def tilesFree (r : RecRef) (x : RecState) (s : State) : Bool :=
  let running := ((s.dieRecs r.die).filter fun y => y.2.phase == .running).map (·.2)
  (x.tilesRead.all fun t => !running.any fun y => y.tilesWritten.contains t) &&
    x.tilesWritten.all fun t => !running.any fun y => y.tilesRead.contains t

/-- Whether a die's begun steps hold a record of a unit, its slot passed, that reads a tile which an MXE record of
theirs writes: cycles may have been spent waiting on it (R139). -/
def State.tileContended (s : State) (d unit : Nat) : Bool :=
  let recs := (s.cd d).seq.steps.flatMap fun u => u.recs.map fun x => (u, x)
  let due := fun (y : StepRun × RecState) =>
    (s.partOfCd d).elim false fun p => y.1.startTick + y.2.record.slot ≤ (s.part p).disc.tick
  recs.any fun y => y.2.record.unit == unit && due y &&
    y.2.tilesRead.any fun t => recs.any fun z => z.2.record.unit < 10 && due z && z.2.tilesWritten.contains t

/-- The blocks a record needs awake: its unit's, and for a compute die's own engines the scratchpad
slices (R406). -/
def recBlocks (r : RecRef) (x : RecState) : List BlockRef :=
  unitBlock r.die x.record.unit ::
    if x.record.unit < 0x11 && x.record.unit != 0x0F then
      (List.range 16).map fun j => .die r.die (0x20 + j)
    else []

/-- Whether a record may start but for the precedence of the matrix engines and the wake of its blocks (R81). -/
def mayStart (p : Nat) (u : StepRun) (r : RecRef) (x : RecState) (s : State) : Bool :=
  x.phase == .waiting && u.startTick + x.record.slot ≤ (s.part p).disc.tick &&
    (x.record.waitEv ≥ 64 || x.record.waitValue ≤ (s.cd r.die).seq.event r.step x.record.waitEv) &&
    unitFree r x s && chosen u r x && copiesReady p r x s && tilesFree r x s

/-- Whether an MXE record of the die that writes a tile of this list could start now: it starts first (R139). -/
def mxeFirst (p d : Nat) (tiles : List (Nat × Nat)) (s : State) : Bool :=
  !tiles.isEmpty && (s.cd d).seq.steps.any fun u =>
    ((List.range u.recs.length).zip u.recs).any fun y =>
      let q : RecRef := ⟨d, u.step, y.1⟩
      y.2.record.unit < 10 && y.2.tilesWritten.any tiles.contains && mayStart p u q y.2 s &&
        (recBlocks q y.2).all s.awake

/-- Whether everything but the wake of its blocks lets a record start: it is startable (R81). -/
def startable (p : Nat) (u : StepRun) (r : RecRef) (x : RecState) (s : State) : Bool :=
  mayStart p u r x s && !mxeFirst p r.die x.tilesRead s

/-- Substitution at issue (R79): word i takes the low half of the s-register it names. -/
def substituted (d : Nat) (c : Record) (s : State) : List Word :=
  ((List.range 11).zip c.ops).map fun x =>
    if bit c.subst x.1 then (s.sreg d (field x.2 5 0)).setWidth 32 else x.2

/-- Whether a record is addressed to a unit that has been cut out (R388). -/
def State.targetCut (s : State) (r : RecRef) (x : RecState) : Bool := (x.target r.die).elim false fun t => s.isCut t

/-- A record's state as it starts: its words substituted (R79), its frozen bits (R261), its image (R55) and the
scale of its CVT (R191) taken. What the record's step has decided of it stays. One addressed to a unit that has been
cut out ends at once with INPUT_LOST (R388). -/
def RecState.started (r : RecRef) (x : RecState) (s : State) : RecState :=
  let words := substituted r.die x.record s
  let dead := s.targetCut r x
  let cvt := CvtOp.of fun i => words.getD i 0
  { record := x.record, cycles := x.cycles, phase := .running, words
    freeze := if x.record.unit = 0x13 || x.record.unit = 0x14 then (s.ud (x.ud r.die)).set.live.take 128 else []
    image := (s.partOfCd r.die).bind fun p => (s.part p).active
    scaleExp := if x.record.opcode = 0x0500 && cvt.scaleSrc = 1 then ((s.cd r.die).eng.cve.entry cvt.tensor).scaleExp
      else 0
    slipped := x.slipped, becalmed := x.becalmed, lost := dead, executed := dead
    pick := x.pick, decided := x.decided, signalled := x.signalled }

/-- A record put into running, afresh. A GATHER reads its whole index array (R185). -/
def startRecord (r : RecRef) (x : RecState) (s : State) : State :=
  let y := x.started r s
  let s := s.modRec r fun _ => y
  if y.executed then (s.partOfCd r.die).elim s fun p => countLost p r.step s
  else if y.record.opcode = 0x0402 && y.count != 0 then readIndices r y s
  else s

/-- The blocks of a list in lull-1 wake (R406). -/
def wakeLull1 (bs : List BlockRef) (s : State) : State :=
  forAll bs (fun b t => t.modBlk b fun y => if y.mode == .lull1 then { y with mode := .running } else y) s

/-- A record that nothing else holds back starts if its blocks are awake; otherwise their wakes are requested in
class 1 (R406). The upsets are the line faults it will meet. A unit that has been cut out needs no wake (R388). -/
def startOrWake (r : RecRef) (x : RecState) (upsets : List Upset) (s : State) : State :=
  let bs := recBlocks r x
  if s.targetCut r x || bs.all s.awake then
    startRecord r x (wakeLull1 bs (forAll upsets applyUpset s))
  else forAll bs (fun b t => requestWake b 1 t) s

/-- RECORD_ISSUE: a startable record starts, or the wakes of its blocks are requested (R81, R406). -/
def execRecordIssue (r : RecRef) (upsets : List Upset) (s : State) : Host.Outcome State Fault Refusal :=
  onlyIf (Instr.wf (.recordIssue r upsets)) <|
    match s.partOfCd r.die, (s.cd r.die).seq.step? r.step, s.rec? r with
    | some p, some u, some x => if startable p u r x s then startOrWake r x upsets s else s
    | _, _, _ => s

/-! ## Abandoned steps, stops and the end of a stream -/

/-- No further record of a partition starts: those that wait never will. -/
def stopStarts (p : Nat) (s : State) : State :=
  let off := fun (x : RecState) => if x.phase = .waiting then { x with phase := .never } else x
  forAll (s.part p).frame.cds
    (fun d t => t.modSeq d fun q =>
      { q with
        steps := q.steps.map fun u => { u with recs := u.recs.map off }
        replays := [] }) s

/-- Queued segments discarded, their records' room given back (R77, R85). -/
def dropQueued (p : Nat) (s : State) : State :=
  let s := forAll (s.part p).stream.queued
    (fun g t => forAll g.dies
      (fun e v => v.modSeq e.die fun q => { q with free := q.free + e.records.length }) t) s
  s.modStream p fun st => { st with queued := [] }

/-- What a stream leaves when it ends or is abandoned: PT_STEP all ones (R517), no gathering, no
module out (R391), and no segment, one that came while it was stopping among them (log entry 121). -/
def closeStream (p state : Nat) (s : State) : State :=
  let s := (dropQueued p s).modPart p fun q =>
    { q with
      gathers := []
      stream := { q.stream with
        state, step := 0xFFFFFFFF, started := false, stopReq := false, width := [] }
      fab := { q.fab with modulesOut := [], ringsBroken := [] } }
  forAll (s.part p).frame.ports (fun n t => decidePeer n t) s

/-- A step abandoned (R296): the host is told the failing module address. A stream is abandoned once. -/
def abandonStep (p : Nat) (r : RecRef) (unit : Nat) (addr : Nat) (s : State) : State :=
  if (s.part p).stream.running then
    let at' := if addr = noAddr then noAddr else memAddr p addr
    let s := stopStarts p s
    let s := telem p (.alertAbandoned r unit at') s
    let s := logEvent 0x12 (winCd r.die) p
      (leBytes 4 r.step ++ leBytes 4 r.cmd ++ leBytes 1 unit ++ leBytes 8 at') s
    closeStream p 5 s
  else s

/-- Whether any record of the partition is left. -/
def State.stepsLeft (s : State) (p : Nat) : Bool := (s.part p).frame.cds.any fun d => !(s.cd d).seq.steps.isEmpty

/-- A stopping stream whose last record has completed has ended (R85). -/
def endIfDone (p : Nat) (s : State) : State :=
  if (s.part p).stream.state = 3 && !s.stepsLeft p then closeStream p 4 s else s

/-- Whether a replay has a record of a step still to run (R92). -/
def Seq.replaysStep (q : Seq) (step : Nat) : Bool := q.replays.any fun y => y.todo.any fun t => t.1 == step

/-- Steps of a die whose every record is over, with no replay under way, leave the stream memory (R77,
R91). -/
def retireSteps (p d : Nat) (s : State) : State :=
  let whole := fun (u : StepRun) => u.recs.all (·.ended) && !(s.cd d).seq.replaysStep u.step
  let n := (((s.cd d).seq.steps.filter whole).map fun u => u.recs.length).foldl (· + ·) 0
  endIfDone p (s.modSeq d fun q =>
    { q with steps := q.steps.filter fun u => !whole u, free := q.free + n })

/-- A stream aborted (R85): no further record starts. -/
def abortNow (p : Nat) (s : State) : State :=
  let s := dropQueued p (stopStarts p s)
  let s := s.modStream p fun st => { st with state := 3, abortReq := true }
  endIfDone p (forAll (s.part p).frame.cds (fun d t => retireSteps p d t) s)

/-- Whether the present tick is that of a step boundary: the step in progress began in it (R82). -/
def Part.atStepBoundary (q : Part) : Bool := q.stream.state == 2 && q.stream.stepStart == q.disc.tick

/-- Whether an abort is in effect (R85). -/
def Stream.aborted (st : Stream) : Bool := st.state == 3 && st.abortReq

/-- A write of ST_CTRL (R85): bit 0 asks for a stop at the next step boundary; bit 1 aborts, at once or, in the tick
of a step boundary, at the next. -/
def streamControl (p : Nat) (v : Word) (s : State) : State :=
  let s := if bit v.toNat 0 && (s.part p).stream.running then
      s.modStream p fun st => { st with stopReq := true }
    else s
  if bit v.toNat 1 && (s.part p).stream.running then
    if (s.part p).atStepBoundary then s.modStream p fun st => { st with abortReq := true }
    else abortNow p s
  else s

/-! ## Completion (R99, R262) -/

/-- A record's status by the order of R262 (Table 03.8). -/
def RecState.status (x : RecState) : Nat :=
  if x.lost then 2 else if x.skipped then 5 else if x.lineBad then 3
  else if x.frozen then 4 else if x.slipped then 1 else 0

/-- Tick boundaries passed from the due boundary itself, saturating (Table 03.8). -/
def lateTicks (u : StepRun) (x : RecState) (tick : Nat) : Nat :=
  let due := u.startTick + x.record.slot + x.record.span
  if due ≤ tick then min (tick - due + 1) 0xFFFF else 0

/-- A record completed on its unit's counter. -/
def countRecord (r : RecRef) (x : RecState) (s : State) : State :=
  let u := x.record.unit
  if u < 10 then s.modMxe r.die u fun m => { m with records := wrap32 m.records }
  else match u with
    | 0x0A => s.modVxe r.die fun v => { v with records := wrap32 v.records }
    | 0x0B => s.modEng r.die fun g => { g with txeRecords := wrap32 g.txeRecords }
    | 0x0C => s.modGxe r.die fun g => { g with records := wrap32 g.records }
    | 0x0D => s.modCve r.die fun c => { c with records := wrap32 c.records }
    | 0x0E => s.modCoe r.die fun c => { c with records := wrap32 c.records }
    | 0x10 => s.modEng r.die fun g => { g with pepper := { g.pepper with records := wrap32 g.pepper.records } }
    | 0x13 => s.modUd (x.ud r.die) fun d => { d with records := wrap32 d.records }
    | 0x14 => s.modUd (x.ud r.die) fun d => { d with records := wrap32 d.records }
    | _ => s

/-- A completion posted: s61, the log and telemetry (R90, R99). -/
def postStatus (p : Nat) (u : StepRun) (r : RecRef) (x : RecState) (s : State) : State :=
  let late := lateTicks u x (s.part p).disc.tick
  let e : LogEntry := { step := r.step, cmd := r.cmd, unit := x.record.unit, status := x.status, late }
  let first := x.slipped && (s.cd r.die).seq.slipFirst == r.cmd && (s.cd r.die).seq.slipStep == r.step
  let s := s.modSeq r.die fun q =>
    { q with
      lastStatus := x.status
      slipInfo := if first && late != 0 then BitVec.ofNat 32 (late * 2 ^ 16 + x.record.unit) else q.slipInfo
      log := if x.status = 0 then q.log else q.log.push 256 e }
  telem p (.completion r x.record.unit x.status late) s

/-- Whether an operation that has been carried out has nothing left to wait for (R185, R201). An ACCUM that has lost
an element waits for its others all the same (R209). -/
def settled (p : Nat) (r : RecRef) (x : RecState) (s : State) : Bool :=
  if x.lost && x.record.opcode != 0x0602 && x.record.opcode != 0x0603 then true
  else match x.record.opcode with
    | 0x0402 => (s.cd r.die).eng.gxe.outstanding == 0 && (s.cd r.die).eng.gxe.toIssue.isEmpty
    | 0x0600 => !((s.part p).fab.msgs.any fun m => m.ref == r) &&
        !(s.part p).fab.mesh.any fun m =>
          match m with
          | .put q _ _ _ _ _ _ => q == r
          | _ => false
    | 0x0602 => !((s.part p).fab.msgs.any fun m => m.ref == r) &&
        (s.part p).frame.stacks.all fun h =>
          !((s.hub h).red.inFlight ++ (s.hub h).red.held).any fun a => a.sender == some r
    | 0x0603 =>
      match (s.part p).fab.rings.find? fun g => g.ref == r with
      | none => true
      | some g => g.broken || g.got.length == g.members.length
    | _ => true

/-- What a record of a ring or step word leaves behind when it completes: a RINGAG with an empty
position has lost input (R393); the step-word state is idle again, and the host is sent the step-word registers
(R246). -/
def tidy (p : Nat) (r : RecRef) (x : RecState) (s : State) : State :=
  if x.record.opcode = 0x0603 then
    let empty := ((s.part p).fab.rings.find? fun g => g.ref == r).elim false fun g => !g.empty.isEmpty
    let s := s.modFab p fun f => { f with rings := f.rings.filter fun g => g.ref != r }
    if empty then markLost p r s else s
  else if x.record.opcode = 0x0604 then
    let s := s.modCoe r.die fun c => { c with swState := 0 }
    telem p (.stepWord r.die (s.cd r.die).eng.coe.stepWordRegs) s
  else s

/-- Whether a range of a step is open: its REPLAY record has completed (R91). -/
def StepRun.isOpen (u : StepRun) (g : ReplayRange) : Bool := (u.recs[g.first - 1]?).elim false (·.signalled)

/-- The open range of a step that holds an address (R91). -/
def StepRun.rangeOf (u : StepRun) (a : Nat) : Option ReplayRange :=
  u.ranges.find? fun g => u.isOpen g && g.base ≤ a && a < g.base + g.length

/-- The open range of a die that holds an address, with its step: one of the failing record's own step first (R92). -/
def Seq.rangeAt (q : Seq) (step a : Nat) : Option (StepRun × ReplayRange) :=
  ((q.steps.filter fun u => u.step == step) ++ q.steps.filter fun u => u.step != step).findSome? fun u =>
    (u.rangeOf a).map fun g => (u, g)

/-- The records of the alternate that a CHOICE took. -/
def StepRun.taken (u : StepRun) (cmd : Nat) (c : RecState) : List RecState :=
  ((c.record.alternates cmd)[c.pick.getD 0]?).elim [] fun a => (u.recs.drop a.first).take a.records

/-- A CHOICE every record of whose chosen alternate has completed signals its event, once (R88). One whose signal
is held back for a replay has yet to complete (R92). -/
def choiceSignal (d : Nat) (u : StepRun) (cmd : Nat) (s : State) : State :=
  match u.recs[cmd]? with
  | none => s
  | some c =>
    if c.record.opcode = 0x0705 && c.phase = .done && !c.signalled &&
        (u.taken cmd c).all fun y => y.phase == .done && y.signalled then
      signal d u.step c.record.signalEv (s.modRec ⟨d, u.step, cmd⟩ fun y => { y with signalled := true })
    else s

/-- The signals of a completed record: its own event, once (R92), and that of the CHOICE whose alternate it ends. -/
def postSignals (r : RecRef) (x : RecState) (s : State) : State :=
  let s := if x.record.opcode = 0x0705 || x.signalled then s
    else signal r.die r.step x.record.signalEv (s.modRec r fun y => { y with signalled := true })
  match (s.cd r.die).seq.step? r.step with
  | none => s
  | some u =>
    if x.record.opcode = 0x0705 then choiceSignal r.die u r.cmd s
    else match u.choiceOf r.cmd with
      | some c => choiceSignal r.die u c.1 s
      | none => s

/-- A failure inside an open range of a step: the record's signal is held back and the range is to run again, the
failed record last, after the replays under way on the die (R92). -/
def openReplay (r : RecRef) (a : Nat) (u : StepRun) (g : ReplayRange) (s : State) : State :=
  let started := ((List.range g.records).map (· + g.first)).filter fun c =>
    !(u.step == r.step && c == r.cmd) && (u.recs[c]?).elim false fun x => x.phase == .running || x.phase == .done
  s.modSeq r.die fun q =>
    { q with replays := q.replays ++
      [{ step := r.step, cmd := r.cmd, addr := a
         todo := started.map (fun c => (u.step, c)) ++ [(r.step, r.cmd)], draining := true }] }

/-- The replay in progress that is running a record again, if any. -/
def rerunning? (r : RecRef) (s : State) : Option ReplayRun :=
  (s.cd r.die).seq.replays.head?.filter fun y => !y.draining && y.todo.head? == some (r.step, r.cmd)

/-- The next step of a replay when one of its records has completed well: the last one's held-back
signal is posted and the replay counted (R92). -/
def advanceReplay (p : Nat) (y : ReplayRun) (r : RecRef) (x : RecState) (s : State) : State :=
  match y.todo with
  | _ :: c :: rest => s.modSeq r.die fun q => { q with replays := { y with todo := c :: rest } :: q.replays.drop 1 }
  | _ =>
    let s := s.modSeq r.die fun q => { q with replays := q.replays.drop 1 }
    postSignals r x (s.modStream p fun st => { st with replays := sat st.replays })

/-- Whether an update record's ending abandons its step (R295): LINE_BAD in UPDATE, or lost input in an
UPDATE under APPLY. -/
def updateAbandons (r : RecRef) (x : RecState) (s : State) : Bool :=
  x.record.opcode == 0x0A02 &&
    (x.status == 3 || (x.status == 2 && (heldVerdict r x s).elim false fun v => !v.skip))

/-- What a record's LINE_BAD leads to (R92, R294): a replay of the open range that holds its address, or an
abandoned step. Once records no longer start, none runs again (R85, R296). -/
def lineBadEnds (p : Nat) (r : RecRef) (x : RecState) (s : State) : State :=
  let addr := x.badAddr.getD noAddr
  match (s.cd r.die).seq.rangeAt r.step addr with
  | some (u, g) =>
    if (s.part p).stream.running && !(s.part p).stream.aborted then openReplay r addr u g s else postSignals r x s
  | none => abandonStep p r x.record.unit addr (postSignals r x s)

/-- What a completed record's status leads to: its signal, a replay, or an abandoned step (R92, R294,
R295). -/
def afterCompletion (p : Nat) (r : RecRef) (x : RecState) (s : State) : State :=
  let bad := x.status = 3 && x.record.unit < 0x11
  if updateAbandons r x s then abandonStep p r x.record.unit (x.badAddr.getD noAddr) (postSignals r x s)
  else match rerunning? r s with
    | some y =>
      if bad then abandonStep p ⟨r.die, y.step, y.cmd⟩ x.record.unit y.addr (postSignals r x s)
      else advanceReplay p y r x s
    | none => if bad then lineBadEnds p r x s else postSignals r x s

/-- RECORD_COMPLETE: a running record whose operation is done completes, unless a stop suspends it (R414): its status
is posted, its event raised unless held back, and what its status calls for happens. -/
def execRecordComplete (r : RecRef) (s : State) : Host.Outcome State Fault Refusal :=
  onlyIf r.wf <|
    match s.partOfCd r.die, (s.cd r.die).seq.step? r.step, s.rec? r with
    | some p, some u, some x =>
      if x.phase = .running && x.executed && settled p r x s && !s.suspended r x then
        let s := tidy p r x s
        let x := (s.rec? r).getD x
        let s := s.modRec r fun y => { y with phase := .done, becalmed := none }
        let s := countRecord r x (postStatus p u r x s)
        retireSteps p r.die (afterCompletion p r x s)
      else s
    | _, _, _ => s

/-- The record that the die's replay in progress runs next, if the records of its range have drained. -/
def State.nextRerun (s : State) (d : Nat) : Option (ReplayRun × RecRef × RecState) :=
  match (s.cd d).seq.replays with
  | [] => none
  | y :: _ =>
    let rec? := fun (t : Nat × Nat) => s.rec? ⟨d, t.1, t.2⟩
    if y.todo.any fun t => (rec? t).elim false fun x => x.phase == .running then none
    else y.todo.head?.bind fun t => (rec? t).map fun x => (y, ⟨d, t.1, t.2⟩, x)

/-- REPLAY_RANGE_RERUN: once the running records of the range have drained, its next record runs again as soon as
its unit and its tiles are free, ignoring its slot and its wait (R92, R139); or its blocks are woken (R406). -/
def execReplayRangeRerun (d : Nat) (s : State) : Host.Outcome State Fault Refusal :=
  onlyIf (d < 16) <|
    match s.nextRerun d, s.partOfCd d with
    | some (y, r, x), some p =>
      if unitIdle r x s && tilesFree r x s && !mxeFirst p d x.tilesRead s then
        startOrWake r x [] (s.modSeq d fun q => { q with replays := { y with draining := false } :: q.replays.drop 1 })
      else s
    | _, _ => s

end Sys2Proof.Machine
end

