-- ==== Sys2Proof/Machine/OpCheck.lean ====
section
/-! DEFINITION. What the loader judges of one command record at checks 9 to 12 (03 R78, R79, R90, R91,
R100, R516, and the operand tables of chapters 4 to 10 and 12). A finding is the byte offset in the
record of a field that offends. -/

namespace Sys2Proof.Machine

/-! ## What a record is judged against -/

/-- The image, partition, die and declared tiles against which a record is judged (R95), and how many of
the die's records follow it. -/
structure Judge where
  part : Part
  image : JobImage
  die : Nat
  accMask : Nat
  after : Nat

/-- The findings of one record at checks 10, 11 and 12. -/
structure Findings where
  operand : List Nat := []
  target : List Nat := []
  range : List Nat := []

/-- The offset of operand word i in a record (Table 03.3). -/
def wordOff (i : Nat) : Nat := 0x10 + 4 * i

/-- The offset of the count field. -/
def countOff : Nat := 0x0C

/-- A finding at an offset where a condition is broken. -/
def need (ok : Bool) (off : Nat) : List Nat := if ok then [] else [off]

/-- Operand word i as the record gives it. -/
def Record.w (r : Record) (i : Nat) : Word := nthWord r.ops i

/-- Whether operand word i is taken from an s-register at issue (R79). -/
def Record.substs (r : Record) (i : Nat) : Bool := bit r.subst i

/-! ## Opcodes and their words -/

/-- The class of a unit code (Table 03.4), 0 for a code that names no unit. -/
def unitClass (u : Nat) : Nat :=
  if u < 0x0A then 1
  else if u < 0x11 then u - 8
  else if u < 0x13 then 9
  else if u < 0x15 then 0x0A
  else 0

/-- How many operations a class defines. -/
def classOps (c : Nat) : Nat :=
  match c with
  | 1 => 5 | 2 => 8 | 3 => 1 | 4 => 3 | 5 => 6 | 6 => 5 | 7 => 8 | 8 => 1 | 9 => 1 | 0x0A => 3 | _ => 0

/-- Whether an opcode matches its unit and names an operation (check 9). -/
def opcodeOk (r : Record) : Bool :=
  r.opcode / 256 == unitClass r.unit && r.opcode % 256 < classOps (unitClass r.unit)

/-- All 32 bits of an operand word. -/
def wAll : Nat := 0xFFFFFFFF

/-- The bits of a scratchpad address whose bits [31:27] must be zero (Tables 05.3 and 06.2). -/
def wScratch : Nat := 0x07FFFFFF

/-- The bits that each operand word of an opcode may set (R516); words past the list are reserved. -/
def wordMasks (opcode : Nat) : List Nat :=
  match opcode with
  | 0x0100 => [wScratch, wAll, wScratch, wAll, 0x00F3FF7F, wAll, 0xFFFF, wAll, wAll, wAll]
  | 0x0101 => [0xF]
  | 0x0102 => [wAll, wAll, wAll, 0x3FF7F, wAll, 1]
  | 0x0103 => [wAll, 3]
  | 0x0104 => [wAll, 3, wAll]
  | 0x0200 | 0x0201 | 0x0202 | 0x0203 | 0x0204 | 0x0205 | 0x0206 | 0x0207 =>
    [wScratch, wAll, wAll, wAll, wAll, 0xFF03F, 0xFFFFFF7F, wAll]
  | 0x0300 => [wAll, wAll, wAll, wAll, 0x7FFFF]
  | 0x0400 | 0x0401 => [wAll, 0x3FF, wAll, 0x3FF, wAll, wAll, wAll]
  | 0x0402 => [wAll, wAll, 0x3FF, wAll, wAll]
  | 0x0500 => [wAll, wAll, wAll, 0xF0000FFF, wAll, wAll, wAll, 0xFFFF, wAll, wAll, 0xFEFFFF7F]
  | 0x0501 => [wAll, wAll, 0xFFF]
  | 0x0502 | 0x0504 | 0x0505 => [wAll, 0, 0xFFF]
  | 0x0503 => [0xFFF, 0xFFFFFF, wAll]
  | 0x0600 => [wAll, 0xFFFF03FF, wAll, 0xFFFF03FF, 0xFFFFF03F]
  | 0x0601 => [0x3F, wAll]
  | 0x0602 => [wAll, 0x3FF, wAll, 0x3FF, 0xFFFF00FF]
  | 0x0603 => [0xFF, 0x3FF, wAll, 0x3FF]
  | 0x0604 => [0xFFF, wAll, wAll, wAll, wAll, 0xFF, wAll, wAll]
  | 0x0701 => [0x3F, wAll, wAll]
  | 0x0702 => [0x3F, 0x3F, 0x3F, wAll]
  | 0x0703 | 0x0704 => [0x3F, wAll]
  | 0x0705 => List.replicate 9 wAll
  | 0x0706 => [0x3FF, wAll, wAll, wAll, wAll, wAll]
  | 0x0707 => [0x3F, wAll]
  | 0x0800 => [wAll, wAll, wAll, 0xFFFF]
  | 0x0900 => [0x3FF, wAll, 0x3FF]
  | 0x0A00 => [0xFFF, wAll, wAll, 0xFF]
  | 0x0A01 => [0xFFF]
  | 0x0A02 => [0xFFF, wAll, wAll, wAll, wAll, wAll, 0xFF]
  | _ => []

/-- The scalar words of a record (R79): for a vector record, its broadcast words (R160). -/
def Record.scalars (r : Record) : List Nat :=
  match r.opcode with
  | 0x0100 => [9]
  | 0x0102 => [4]
  | 0x0104 => [2]
  | 0x0500 => [4, 5]
  | 0x0604 => [6, 7]
  | 0x0707 => [1]
  | 0x0800 => [1]
  | 0x0A00 => [1, 2]
  | 0x0A02 => [1, 2, 3, 4, 5]
  | _ =>
    if r.opcode / 256 = 2 then
      let f := VxeOp.of r.w
      (if f.a.kind = 1 then [1] else []) ++ (if f.b.kind = 1 then [2] else []) ++
        (if f.c.kind = 1 then [3] else [])
    else []

/-- Whether the opcode's count is unused and must be 0. -/
def countUnused (opcode : Nat) : Bool :=
  opcode / 256 == 7 || opcode == 0x0601 || (opcode / 256 == 1 && opcode != 0x0100)

/-- The findings that every opcode shares at check 10: the substituted words, the reserved bits and
words, the unused count, the events, the slot and the span (R78, R79, R94, R516). -/
def commonOperand (ticks : Nat) (r : Record) : List Nat :=
  need (r.slot < ticks) 0x04 ++ need (r.span != 0) 0x06 ++
  need (r.waitEv < 64 || r.waitEv == 0xFF) 0x08 ++ need (r.signalEv < 64 || r.signalEv == 0xFF) 0x09 ++
  need (!countUnused r.opcode || r.count == 0) countOff ++
  need ((List.range 16).all fun i => !r.substs i || r.scalars.contains i) 0x3C ++
  (List.range 11).flatMap fun i =>
    if r.substs i then need ((r.w i).toNat < 64) (wordOff i)
    else need ((r.w i).toNat &&& (wAll - (wordMasks r.opcode).getD i 0) == 0) (wordOff i)

/-! ## Extents -/

/-- Whether an address and the n bytes there lie in scratchpad. -/
def inScratch (a n : Nat) : Bool := a < scratchBytes && a + n ≤ scratchBytes

/-- The end of rows of n bytes at a stride, after the first byte. -/
def rowsEnd (rows stride n : Nat) : Nat := if rows = 0 then 0 else (rows - 1) * stride + n

/-- Whether bytes o to o + n of region g lie inside it; a region that is not in use holds none. -/
def inRegion (j : Judge) (g o n : Nat) : Bool :=
  match j.part.region? g with
  | some x => o + n ≤ x.length
  | none => false

/-- Whether two spans share a byte. -/
def overlaps (a n b m : Nat) : Bool := n != 0 && m != 0 && a < b + m && b < a + n

/-- Whether a tile is among the declared ones (Table 03.2, acc_mask). -/
def tileOk (j : Judge) (e t : Nat) : Bool := bit j.accMask (4 * e + t)

/-! ## Matrix engines (R137, R153, R154) -/

/-- Whether an engine accepts a pair of formats outside strict mode (Table 04.7). -/
def pairOk (engine a b : Nat) : Bool :=
  let any2 := fun (l : List Nat) => l.contains a && l.contains b
  any2 [0, 1] || any2 [2, 3] || any2 [6, 7] || any2 [9, 11, 12] || (a == 4 && b == 4) ||
    (engine ≥ 8 && (any2 [4, 5] || any2 [9, 10, 11, 12]))

/-- An MX format code (Table 04.1). -/
def isMx (code : Nat) : Bool := 9 ≤ code && code ≤ 12

/-- The bits of an element of a format code; 0 for a reserved one. -/
def codeBits (code : Nat) : Nat := match fmtOf code with | some (e, _) => e.bits | none => 0

/-- Bytes of n elements of a format code, rounded up. -/
def codeBytes (code n : Nat) : Nat := (n * codeBits code + 7) / 8

/-- Whether a control word sets no reserved bit and names no reserved rounding mode (R116). -/
def ctlOk (w : Word) : Bool := w.toNat < 2 ^ 19 && (ctlOf w).rnd != 3

/-- Whether an operand of 4-bit elements packed along an extent has a whole number of bytes (R111). -/
def packs (code n : Nat) : Bool := codeBits code != 4 || n % 2 == 0

/-- MMA (R137). -/
def judgeMma (j : Judge) (r : Record) : Findings :=
  let f := MmaOp.of r.w
  let fp := f.aFmt == 0 || f.bFmt == 0
  let c := ctlOf f.entry
  let k := r.count
  let span := fun (tr : Bool) (addr stride fmt outer : Nat) =>
    inScratch addr (if k = 0 then 0 else if tr then rowsEnd k stride (codeBytes fmt outer)
      else rowsEnd outer stride (codeBytes fmt k))
  let scale := fun (mx : Bool) (addr outer : Nat) => !mx || inScratch addr (outer * (k / 32))
  { operand :=
      need (f.aAddr % 64 == 0) (wordOff 0) ++ need (f.aStride % 16 == 0) (wordOff 1) ++
      need (f.bAddr % 64 == 0) (wordOff 2) ++ need (f.bStride % 16 == 0) (wordOff 3) ++
      need (r.unit ≥ 8 || (!f.transA && !f.transB)) (wordOff 4) ++
      need (if f.entry = 0 then !fp || f.strict
        else fp && !f.strict && ctlOk f.entry && c.src == 0 && c.dst == 1 && c.rnd ≤ 1) (wordOff 5) ++
      need (if f.strict then f.aFmt == 0 && f.bFmt == 0 else pairOk r.unit f.aFmt f.bFmt) (wordOff 6) ++
      need (isMx f.aFmt || f.aScale == wAll) (wordOff 7) ++
      need (isMx f.bFmt || f.bScale == wAll) (wordOff 8) ++
      need ((!(isMx f.aFmt || isMx f.bFmt) || k % 32 == 0) &&
        (f.transA || packs f.aFmt k) && (f.transB || packs f.bFmt k)) countOff ++
      need ((!f.transA || packs f.aFmt f.m) && (!f.transB || packs f.bFmt f.n)) (wordOff 4)
    range :=
      need (span f.transA f.aAddr f.aStride f.aFmt f.m) (wordOff 0) ++
      need (span f.transB f.bAddr f.bStride f.bFmt f.n) (wordOff 2) ++
      need (tileOk j r.unit f.tile) (wordOff 4) ++
      need (scale (isMx f.aFmt) f.aScale f.m) (wordOff 7) ++
      need (scale (isMx f.bFmt) f.bScale f.n) (wordOff 8) }

/-- ACLR. -/
def judgeAclr (j : Judge) (r : Record) : Findings :=
  { range := need ((List.range 4).all fun t => !bit (r.w 0).toNat t || tileOk j r.unit t) (wordOff 0) }

/-- AST (R153). -/
def judgeAst (j : Judge) (r : Record) : Findings :=
  let f := AstOp.of r.w
  { operand :=
      need (f.dst % 64 == 0) (wordOff 0) ++ need (f.stride % 16 == 0) (wordOff 1) ++
      need (ctlOk (r.w 2) && f.ctl.src == 0 && [0, 1, 2, 3, 4, 5, 6, 8].contains f.ctl.dst && f.ctl.rnd ≤ 1)
        (wordOff 2)
    range :=
      need (inScratch f.dst (rowsEnd f.m f.stride (codeBytes f.ctl.dst f.n))) (wordOff 0) ++
      need (tileOk j r.unit f.tile) (wordOff 3) }

/-- ASV and ALD (R154). -/
def judgeTile (j : Judge) (r : Record) : Findings :=
  { operand := need ((r.w 0).toNat % 64 == 0) (wordOff 0)
    range := need (inScratch (r.w 0).toNat 262144) (wordOff 0) ++
      need (tileOk j r.unit (field (r.w 1) 1 0)) (wordOff 1) }

/-! ## Vector engine (R160 to R173) -/

/-- The range of an accumulator operand (R173). -/
def accRange (j : Judge) (engine tile len col row count off : Nat) : List Nat :=
  need (col + len ≤ 256 && row + ceilDiv count len ≤ 128 && tileOk j engine tile) off

/-- One vector source at check 10: used or not by the operation. -/
def judgeSrc (x : VxeSrc) (used : Bool) (i : Nat) : List Nat :=
  if used then
    need (x.kind != 3) (wordOff 5) ++ need ([0, 2, 8].contains x.fmt) (wordOff 4) ++
      need (x.kind != 2 || (x.word == 0 && x.fmt == 0)) (wordOff i)
  else
    need (x.kind == 3 && !x.neg) (wordOff 5) ++ need (x.fmt == 0) (wordOff 4) ++
      need (x.word == 0) (wordOff i)

/-- A vector record (R160 to R173). -/
def judgeVxe (j : Judge) (r : Record) : Findings :=
  let f := VxeOp.of r.w
  let op := r.opcode % 256
  let usesB := op != 7
  let usesC := op == 2 || op == 6
  let srcs := [(f.a, 1)] ++ (if usesB then [(f.b, 2)] else []) ++ (if usesC then [(f.c, 3)] else [])
  let deciding := if op = 6 then [f.b, f.c] else srcs.map (·.1)
  let isInt := fun (x : VxeSrc) => x.fmt == 8
  let accs := (srcs.filter fun x => x.1.kind == 2).length
  let red := op == 7
  let outN := if red then (if r.count = 0 then 1 else if f.group = 0 then 0 else r.count / f.group)
    else r.count
  let dBytes := codeBytes f.dFmt outN
  let sBytes := fun (x : VxeSrc) => codeBytes x.fmt r.count
  { operand :=
      need (f.dAddr % 64 == 0) (wordOff 0) ++
      judgeSrc f.a true 1 ++ judgeSrc f.b usesB 2 ++ judgeSrc f.c usesC 3 ++
      need ([0, 2, 8].contains f.dFmt && (op != 5 || f.dFmt == 8) &&
        (op != 6 || (f.a.fmt == 8 && f.b.fmt == f.c.fmt && f.dFmt == f.b.fmt)) &&
        (deciding.all isInt || !deciding.any isInt) &&
        !(red && f.sub == 1 && f.a.fmt == 8)) (wordOff 4) ++
      need ((if op = 5 then f.sub ≤ 5 else if red then f.sub ≤ 3 else f.sub == 0) && accs ≤ 1 &&
        !(op == 6 && f.a.neg)) (wordOff 5) ++
      need (if accs = 0 then r.w 6 == 0 else f.accEngine ≤ 9 && f.accView != 3) (wordOff 6) ++
      need (if red then f.group ≤ 2 ^ 24 && (r.count == 0 || f.group != 0) else f.group == 0) (wordOff 7) ++
      need (!red || r.count == 0 || f.group == 0 || r.count % f.group == 0) countOff
    range :=
      need (inScratch f.dAddr dBytes) (wordOff 0) ++
      (srcs.flatMap fun x =>
        if x.1.kind = 0 then
          need (inScratch x.1.word.toNat (sBytes x.1)) (wordOff x.2) ++
          need (!overlaps f.dAddr dBytes x.1.word.toNat (sBytes x.1) ||
            (!red && x.1.word.toNat == f.dAddr && codeBits x.1.fmt == codeBits f.dFmt)) (wordOff 0)
        else []) ++
      (if accs = 0 then []
        else accRange j f.accEngine f.accTile f.accLen f.accCol f.accRow r.count (wordOff 6)) }

/-! ## Transposer and gather engine (R182, R184, R185) -/

/-- TXP (R182). -/
def judgeTxp (r : Record) : Findings :=
  let f := TxpOp.of r.w
  let w := max 1 (f.bits / 8)
  let rows := r.count / f.cols
  let len := fun n => (n * f.bits + 7) / 8
  let shares := (List.range rows).any fun i => (List.range f.cols).any fun c =>
    overlaps (f.sAddr + i * f.sStride) (len f.cols) (f.dAddr + c * f.dStride) (len rows)
  { operand :=
      need (r.count % f.cols == 0) countOff ++
      need (f.dAddr % w == 0) (wordOff 0) ++ need (f.sAddr % w == 0) (wordOff 1) ++
      need (f.sStride % w == 0) (wordOff 2) ++ need (f.dStride % w == 0) (wordOff 3) ++
      need (field (r.w 4) 18 16 ≤ 4 && (f.bits != 4 || (rows % 2 == 0 && f.cols % 2 == 0))) (wordOff 4)
    range :=
      if rows = 0 then need (inScratch f.dAddr 0) (wordOff 0) ++ need (inScratch f.sAddr 0) (wordOff 1)
      else need (inScratch f.dAddr (rowsEnd f.cols f.dStride (len rows)) && !shares) (wordOff 0) ++
        need (inScratch f.sAddr (rowsEnd rows f.sStride (len f.cols))) (wordOff 1) }

/-- LOAD and STORE (R184). -/
def judgeMove (j : Judge) (r : Record) : Findings :=
  let f := MoveOp.of r.w
  let rows := r.count / f.rowBytes
  { operand :=
      need (f.sAddr % 64 == 0) (wordOff 0) ++
      need (64 ≤ f.rowBytes && f.rowBytes ≤ 2 ^ 24 && f.rowBytes % 64 == 0) (wordOff 4) ++
      need (f.mStride % 64 == 0) (wordOff 5) ++ need (f.sStride % 64 == 0) (wordOff 6) ++
      need (r.count % f.rowBytes == 0) countOff
    range :=
      need (inScratch f.sAddr (rowsEnd rows f.sStride f.rowBytes)) (wordOff 0) ++
      need (j.part.region? f.region).isSome (wordOff 1) ++
      need (inRegion j f.region f.offset (rowsEnd rows f.mStride f.rowBytes)) (wordOff 2) ++
      (if r.opcode = 0x0400 then need (rows ≤ 1 || f.rowBytes ≤ f.sStride) (wordOff 6)
        else need (rows ≤ 1 || f.rowBytes ≤ f.mStride) (wordOff 5)) }

/-- GATHER (R185). -/
def judgeGather (j : Judge) (r : Record) : Findings :=
  let f := GatherOp.of r.w
  { operand :=
      need (r.count ≤ 65536) countOff ++ need (f.dAddr % 64 == 0) (wordOff 0) ++
      need (f.idxAddr % 4 == 0) (wordOff 1) ++
      need (64 ≤ f.rowBytes && f.rowBytes ≤ 4096 && f.rowBytes % 64 == 0) (wordOff 3) ++
      need (f.rStride % 64 == 0) (wordOff 4)
    range :=
      need (inScratch f.dAddr (r.count * f.rowBytes)) (wordOff 0) ++
      need (inScratch f.idxAddr (4 * r.count)) (wordOff 1) ++
      need (j.part.region? f.region).isSome (wordOff 2) }

/-! ## Conversion engine (R189, R194, R195, R226) -/

/-- CVT (R189). -/
def judgeCvt (j : Judge) (r : Record) : Findings :=
  let f := CvtOp.of r.w
  let free := fun i => r.substs i
  let sto := f.ctl.rnd == 2
  let sMx := !f.acc && isMx f.ctl.src
  let dMx := isMx f.ctl.dst
  let n := r.count
  let dB := codeBytes f.ctl.dst n
  let sB := if f.acc then 0 else codeBytes f.ctl.src n
  let mB := if sMx || dMx then n / 32 else 0
  { operand :=
      need (!f.acc || f.sAddr == 0) (wordOff 1) ++
      need (ctlOk (r.w 2) && (fmtOf f.ctl.src).isSome && (fmtOf f.ctl.dst).isSome && !(sMx && dMx) &&
        (!f.acc || f.ctl.src == 0)) (wordOff 2) ++
      need (f.scaleSrc != 3 && (f.scaleSrc == 1 || f.amax || f.tensor == 0)) (wordOff 3) ++
      need (free 4 || f.scaleSrc == 2 || f.sImm == 0) (wordOff 4) ++
      need (if sto then free 5 || f.key != 0 else free 5 || f.key == 0) (wordOff 5) ++
      need (sto || r.w 6 == 0) (wordOff 6) ++ need (sto || r.w 7 == 0) (wordOff 7) ++
      need (sMx || dMx || f.mxScales == wAll) (wordOff 8) ++
      need (f.acc || r.w 9 == 0) (wordOff 9) ++
      need (if f.acc then f.engine ≤ 9 else r.w 10 == 0) (wordOff 10) ++
      need ((!(sMx || dMx) || n % 32 == 0) && (f.acc || packs f.ctl.src n) && packs f.ctl.dst n) countOff
    range :=
      need (inScratch f.dAddr dB) (wordOff 0) ++ need (f.acc || inScratch f.sAddr sB) (wordOff 1) ++
      need (!(sMx || dMx) || inScratch f.mxScales mB) (wordOff 8) ++
      need (!overlaps f.dAddr dB f.sAddr sB ||
        (f.sAddr == f.dAddr && codeBits f.ctl.src == codeBits f.ctl.dst)) (wordOff 0) ++
      need (!overlaps f.dAddr dB f.mxScales mB && !overlaps f.sAddr sB f.mxScales mB) (wordOff 8) ++
      (if f.acc then accRange j f.engine f.tile f.len f.col f.row n (wordOff 10) else []) }

/-- AMXOUT, AMXPUSH, TST and TLD (R194, R195). -/
def judgeTable (r : Record) : Findings :=
  let n := r.count
  let entries := r.opcode == 0x0504 || r.opcode == 0x0505
  { operand :=
      need (!entries || (r.w 0).toNat % 64 == 0) (wordOff 0) ++
      need (field (r.w 2) 11 0 + n ≤ 4096) (wordOff 2)
    range :=
      need (inScratch (r.w 0).toNat ((if entries then 128 else 4) * n)) (wordOff 0) ++
      need (r.opcode != 0x0501 || inScratch (r.w 1).toNat (4 * n)) (wordOff 1) }

/-- SCSEL (R226). -/
def judgeScsel (r : Record) : Findings :=
  { operand :=
      need (field (r.w 0) 11 0 + r.count ≤ 4096) (wordOff 0) ++
      need (1 ≤ field (r.w 1) 23 16 && field (r.w 1) 23 16 ≤ 24 && field (r.w 1) 15 8 ≤ 15 &&
        [3, 4, 5, 6].contains (field (r.w 1) 7 0)) (wordOff 1) ++
      need (signed 16 (field (r.w 2) 15 0) ≤ signed 16 (field (r.w 2) 31 16)) (wordOff 2) }

/-! ## Collective engine (R200, R201, R206, R236, R237) -/

/-- Whether a module may be named as a destination: the module's own mesh, or a peer with ports. -/
def moduleOk (j : Judge) (m : Nat) : Bool :=
  m == 0xFFFF || j.image.alloc.any fun a => a.peer == m && a.count != 0

/-- Whether a place that a PUT names holds n bytes. -/
def placeOk (j : Judge) (x : CoePlace) (b : Word) (n : Nat) : Bool :=
  match x.region with
  | none => inScratch (x.offset + 2 ^ 32 * field b 9 0) n
  | some g => inRegion j g x.offset n

/-- PUT (R200, R201). A region of another module is its own loader's to judge (R203). -/
def judgePut (j : Judge) (r : Record) : Findings :=
  let f := PutOp.of r.w
  { operand :=
      need (r.count % 64 == 0) countOff ++ need ((r.w 0).toNat % 64 == 0) (wordOff 0) ++
      need ((r.w 2).toNat % 64 == 0) (wordOff 2) ++ need (moduleOk j f.module) (wordOff 4)
    range :=
      need (placeOk j f.src (r.w 1) r.count) (wordOff 0) ++
      need ((f.module != 0xFFFF && f.dst.region.isSome) || placeOk j f.dst (r.w 3) r.count) (wordOff 2) }

/-- The landing formats a reduce mode takes (R206). -/
def landingOk (mode fmt : Nat) : Bool := if mode = 4 then fmt == 8 else [0, 2, 5].contains fmt

/-- ACCUM (R200, R206). A region of another module is its own loader's to judge. -/
def judgeAccum (j : Judge) (r : Record) : Findings :=
  let f := AccumOp.of r.w
  let own := f.module == 0xFFFF
  let g := if own then j.part.region? f.region else none
  let wd := codeBits f.fmt / 8
  { operand :=
      need (f.src % 64 == 0) (wordOff 0) ++ need ((r.w 2).toNat % 64 == 0) (wordOff 2) ++
      need (moduleOk j f.module && [0, 2, 5, 8].contains f.fmt &&
        g.all fun x => x.mode == 0 || landingOk x.mode f.fmt) (wordOff 4)
    target := need (g.all fun x => x.cls == 4 && x.mode != 0) (wordOff 1)
    range :=
      need (inScratch f.src (r.count * wd)) (wordOff 0) ++ need (!own || g.isSome) (wordOff 1) ++
      need (!own || inRegion j f.region f.offset (r.count * wd)) (wordOff 2) ++
      need (!own || j.image.upd.entries.all fun e =>
        e.gradient != f.region ||
          g.all fun x => (e.offset + e.elements) * wd ≤ x.length) (wordOff 4) }

/-- The committed plan of a ring identity. -/
def Judge.plan (j : Judge) (ring : Nat) : Option RingPlan := j.image.rings.find? fun g => g.ident == ring

/-- RINGAG (R201). -/
def judgeRing (j : Judge) (r : Record) : Findings :=
  let f := RingOp.of r.w
  let me := (j.part.frame.moduleNumber, j.die)
  { operand :=
      need (r.count % 64 == 0) countOff ++
      need ((j.plan f.ring).any fun g => g.members.contains me) (wordOff 0) ++
      need ((r.w 2).toNat % 64 == 0 && ((j.part.region? f.region).isNone ||
        (j.plan f.ring).all fun g => inRegion j f.region f.offset (g.members.length * r.count))) (wordOff 2)
    range := need (j.part.region? f.region).isSome (wordOff 1) }

/-- STEPWORD (R236, R237). -/
def judgeStepword (j : Judge) (r : Record) : Findings :=
  let ring := field (r.w 5) 7 0
  let mine := j.part.frame.cds
  let n := 4 * (r.count - 1)
  { operand :=
      need (1 ≤ r.count && r.count ≤ 4097) countOff ++
      need (field (r.w 0) 11 0 + r.count - 1 ≤ 4096) (wordOff 0) ++
      need ((r.w 1).toNat % 64 == 0) (wordOff 1) ++ need ((r.w 3).toNat % 64 == 0) (wordOff 3) ++
      need (ring == 0xFF || (j.plan ring).any fun g =>
        (g.members.filter fun m => m.1 == j.part.frame.moduleNumber && mine.contains m.2).length == 1)
        (wordOff 5)
    range :=
      need (inScratch (r.w 1).toNat n) (wordOff 1) ++ need (inScratch (r.w 2).toNat n) (wordOff 2) ++
      need (inScratch (r.w 3).toNat 64) (wordOff 3) ++
      need ((r.w 4).toNat == wAll || inScratch (r.w 4).toNat 16) (wordOff 4) }

/-! ## Sequencer, Pepper, hubs and update dies -/

/-- The sequencer's operations (R86, R90, R91); a CHOICE uses no word of an alternate that it does not list. -/
def judgeSeq (j : Judge) (r : Record) : Findings :=
  let w := fun i => (r.w i).toNat
  match r.opcode with
  | 0x0701 => { operand := need (w 0 < 56) (wordOff 0) }
  | 0x0702 => { operand := need (w 0 < 56) (wordOff 0) ++ need (w 3 ≤ 8) (wordOff 3) }
  | 0x0703 => { operand := need (w 0 < 56) (wordOff 0) ++ need (w 1 % 8 == 0) (wordOff 1)
                range := need (inScratch (w 1) 8) (wordOff 1) }
  | 0x0704 => { operand := need (w 1 % 8 == 0) (wordOff 1)
                range := need (inScratch (w 1) 8) (wordOff 1) }
  | 0x0705 => { operand :=
      (List.range 8).flatMap fun i => need (i < 2 * w 0 || w (1 + i) == 0) (wordOff (1 + i)) }
  | 0x0706 =>
    let base := w 1 + 2 ^ 32 * w 2
    { operand := need (w 5 ≤ j.after) (wordOff 5)
      range := need (j.part.region? (w 0)).isSome (wordOff 0) ++
        need (inRegion j (w 0) base (w 3 + 2 ^ 32 * w 4)) (wordOff 1) }
  | _ => {}

/-- FILL (R199). -/
def judgeFill (r : Record) : Findings :=
  { operand := need ((r.w 0).toNat % 64 == 0) (wordOff 0)
    range := need (inScratch (r.w 0).toNat (2 * r.count)) (wordOff 0) }

/-- SCRUB (R304). -/
def judgeScrub (j : Judge) (r : Record) : Findings :=
  let g := field (r.w 0) 9 0
  let o := (r.w 1).toNat + 2 ^ 32 * field (r.w 2) 9 0
  { operand := need (o % 64 == 0) (wordOff 1)
    range := need (j.part.region? g).isSome (wordOff 0) ++ need (inRegion j g o (64 * r.count)) (wordOff 1) }

/-- UFOLD, USHARE and UPDATE (R250, R251). -/
def judgeUd (j : Judge) (r : Record) : Findings :=
  let e0 := field (r.w 0) 11 0
  let fmt := fun i => need ([0, 2, 5].contains (field (r.w i) 7 0)) (wordOff i)
  let rule1 := j.image.upd.rule == 1
  match r.opcode with
  | 0x0A00 => { operand := need (e0 + r.count ≤ 4096) (wordOff 0) ++ fmt 3 }
  | 0x0A02 =>
    { operand := need (e0 + r.count ≤ 4096) (wordOff 0) ++
        need (!rule1 || r.substs 3 || r.w 3 == 0) (wordOff 3) ++
        need (!rule1 || r.substs 4 || r.w 4 == 0) (wordOff 4) ++ fmt 6 }
  | _ => {}

/-- Everything that checks 10 to 12 find in one record, apart from the fields that every opcode
shares. -/
def judgeOp (j : Judge) (r : Record) : Findings :=
  match r.opcode with
  | 0x0100 => judgeMma j r
  | 0x0101 => judgeAclr j r
  | 0x0102 => judgeAst j r
  | 0x0103 | 0x0104 => judgeTile j r
  | 0x0300 => judgeTxp r
  | 0x0400 | 0x0401 => judgeMove j r
  | 0x0402 => judgeGather j r
  | 0x0500 => judgeCvt j r
  | 0x0501 | 0x0502 | 0x0504 | 0x0505 => judgeTable r
  | 0x0503 => judgeScsel r
  | 0x0600 => judgePut j r
  | 0x0602 => judgeAccum j r
  | 0x0603 => judgeRing j r
  | 0x0604 => judgeStepword j r
  | 0x0800 => judgeFill r
  | 0x0900 => judgeScrub j r
  | 0x0A00 | 0x0A01 | 0x0A02 => judgeUd j r
  | _ => if r.opcode / 256 = 2 then judgeVxe j r else judgeSeq j r

end Sys2Proof.Machine
end

