-- ==== Sys2Proof/Machine/Segment.lean ====
section
/-! DEFINITION. Stream segments: their form, the sixteen checks of Table 03.9 in their order, and
acceptance (03 R75 to R78, R95 to R100). -/

namespace Sys2Proof.Machine

/-! ## Form (Tables 03.1 to 03.3) -/

/-- Why a segment is refused (R95): the code of Table 03.9, the die, the command number (all ones for
the header or directory) and the byte offset of the first offending field. -/
structure SegRefusal where
  code : Nat
  die : Nat := 0
  record : Nat := 0xFFFFFFFF
  offset : Nat := 0
deriving DecidableEq, Repr

/-- A directory entry (Table 03.2). -/
structure SegDir where
  die : Nat
  recordOffset : Nat
  count : Nat
  costOffset : Nat
  scratchPeak : Nat
  unitMask : Nat
  accMask : Nat
deriving DecidableEq, Repr

/-- The offset of die d's directory entry. -/
def dirOff (d : Nat) : Nat := 0x50 + 32 * d

/-- A directory entry's fields. -/
def SegDir.of (b : List Byte) (d : Nat) : SegDir :=
  let o := dirOff d
  { die := d, recordOffset := leAt b o 4, count := leAt b (o + 4) 4, costOffset := leAt b (o + 8) 4
    scratchPeak := leAt b (o + 0xC) 4, unitMask := leAt b (o + 0x10) 4, accMask := leAt b (o + 0x14) 8 }

/-- The directory entries that are used. -/
def segDirs (b : List Byte) : List SegDir :=
  ((List.range 16).filter (bit (leAt b 0x1A 2) ·)).map (SegDir.of b)

/-- A command record's fields (Table 03.3). -/
def Record.of (b : List Byte) (o : Nat) : Record :=
  { opcode := leAt b o 2, unit := leAt b (o + 2) 1, flags := leAt b (o + 3) 1, slot := leAt b (o + 4) 2
    span := leAt b (o + 6) 1, res07 := leAt b (o + 7) 1, waitEv := leAt b (o + 8) 1
    signalEv := leAt b (o + 9) 1, waitValue := leAt b (o + 0xA) 2, count := leAt b (o + 0xC) 4
    ops := (List.range 11).map fun i => wordAt b (o + 0x10 + 4 * i)
    subst := leAt b (o + 0x3C) 2, res3e := leAt b (o + 0x3E) 2 }

/-- A die's part of a segment, with the offsets of its records and costs. `bytes` are the hbm_bytes and fabric_bytes
of its cost table (R76). -/
structure SegPart where
  dir : SegDir
  records : List Record
  cycles : List Nat
  bytes : List (Nat × Nat) := []
deriving DecidableEq, Repr

/-- A die's records and cost table (R76). -/
def SegPart.of (b : List Byte) (e : SegDir) : SegPart :=
  { dir := e
    records := (List.range e.count).map fun i => Record.of b (e.recordOffset + 64 * i)
    cycles := (List.range e.count).map fun i => leAt b (e.costOffset + 16 * i) 4
    bytes := (List.range e.count).map fun i =>
      (leAt b (e.costOffset + 16 * i + 4) 4, leAt b (e.costOffset + 16 * i + 8) 4) }

/-- The numbered records of a part. -/
def SegPart.numbered (x : SegPart) : List (Nat × Record) := (List.range x.records.length).zip x.records

/-- The offset in the segment of field f of record i. -/
def SegPart.off (x : SegPart) (i f : Nat) : Nat := x.dir.recordOffset + 64 * i + f

/-- The first finding of a list. -/
def firstFinding {α : Type} (l : List (Option α)) : Option α := l.findSome? id

/-- A refusal where a condition is broken. -/
def refuseUnless (ok : Bool) (r : SegRefusal) : Option SegRefusal := if ok then none else some r

/-- The smallest offset of a list of findings. -/
def lowest (l : List Nat) : Option Nat := l.foldl (fun m x => some (m.elim x (min x))) none

/-- The first record of the parts, in order of die and number, that a check finds wrong. -/
def firstRecord (code : Nat) (ps : List SegPart) (f : SegPart → Nat → Record → List Nat) :
    Option SegRefusal :=
  ps.findSome? fun x => x.numbered.findSome? fun y =>
    (lowest (f x y.1 y.2)).map fun o =>
      { code, die := x.dir.die, record := y.1, offset := x.off y.1 o }

/-! ## Checks 1 to 3 -/

/-- The record sections and cost tables as spans, with the directory field that places each. -/
def segSpans (ds : List SegDir) : List (Nat × Nat × Nat × Nat) :=
  ds.flatMap fun e =>
    if e.count = 0 then []
    else [(e.recordOffset, 64 * e.count, e.die, dirOff e.die), (e.costOffset, 16 * e.count, e.die, dirOff e.die + 8)]

/-- Whether each span lies past the directory, on a 64-byte boundary, inside the segment, and shares no
byte with an earlier one. -/
def spanCheck (n : Nat) : List (Nat × Nat × Nat × Nat) → List (Nat × Nat × Nat × Nat) → Option SegRefusal
  | _, [] => none
  | before, x :: rest =>
    if x.1 % 64 = 0 && 0x250 ≤ x.1 && x.1 + x.2.1 ≤ n &&
        before.all fun y => !overlaps x.1 x.2.1 y.1 y.2.1
    then spanCheck n (before ++ [x]) rest
    else some { code := 1, die := x.2.2.1, offset := x.2.2.2 }

/-- Check 1: magic, version, kind, partition, length, start tick, step ticks and directory (R75, R94). A partition past
3 is a format fault (log entry 119). -/
def segFormat (b : List Byte) : Option SegRefusal :=
  let at' := fun (ok : Bool) (o : Nat) => refuseUnless ok { code := 1, offset := o }
  firstFinding [
    at' (slice b 0 4 == [0x43, 0x4D, 0x44, 0x53]) 0, at' (leAt b 4 2 == 1) 4, at' (leAt b 6 1 < 4) 6,
    at' (leAt b 7 1 < 4) 7,
    at' (leAt b 8 4 == b.length && b.length ≤ 2 ^ 22 && 0x250 ≤ b.length) 8,
    at' (bit (leAt b 6 1) 0 || leAt b 0x10 8 == 0) 0x10, at' (leAt b 0x18 2 != 0) 0x18,
    spanCheck b.length [] (segSpans (segDirs b))]

/-- The bytes of an image or segment with its digest field zero. -/
def digestZero (b : List Byte) : List Byte := patch b 0x20 (List.replicate 48 0)

/-- Check 2: the digest. -/
def segDigest (b : List Byte) : Option SegRefusal :=
  refuseUnless (sha384 (digestZero b) == slice b 0x20 48) { code := 2, offset := 0x20 }

/-- Check 3: reserved fields of the header, all 16 directory entries, the cost tables and the records outside
their operand words (R516). -/
def segReserved (b : List Byte) (ps : List SegPart) : Option SegRefusal :=
  firstFinding [
    refuseUnless (leAt b 0x1C 4 == 0) { code := 3, offset := 0x1C },
    (List.range 16).findSome? fun d =>
      firstFinding [
        refuseUnless ((SegDir.of b d).accMask < 2 ^ 40) { code := 3, die := d, offset := dirOff d + 0x14 },
        refuseUnless (leAt b (dirOff d + 0x1C) 4 == 0) { code := 3, die := d, offset := dirOff d + 0x1C }],
    firstRecord 3 ps fun _ _ r => need (r.flags < 2) 3 ++ need (r.res07 == 0) 7 ++ need (r.res3e == 0) 0x3E,
    ps.findSome? fun x => (List.range x.dir.count).findSome? fun i =>
      let o := x.dir.costOffset + 16 * i + 0xC
      refuseUnless (leAt b o 4 == 0) { code := 3, die := x.dir.die, record := i, offset := o }]

/-! ## Checks 8 to 14, which R98 applies again -/

/-- What the records are judged against: the partition with the image in force, and its number. -/
structure SegCtx where
  p : Nat
  part : Part
  image : JobImage
  ticks : Nat

/-- The context of a partition with a given image. -/
def SegCtx.of (s : State) (p : Nat) (i : JobImage) (ticks : Nat) : SegCtx :=
  { p, part := { s.part p with active := some i }, image := i, ticks }

/-- How one record of a part is judged. -/
def SegCtx.judge (c : SegCtx) (x : SegPart) (n : Nat) : Judge :=
  { part := c.part, image := c.image, die := x.dir.die, accMask := x.dir.accMask
    after := x.records.length - (n + 1) }

/-- Whether the unit of a code is present on die d and not cut out (Table 03.4, R263). -/
def unitLive (s : State) (part : Part) (d u : Nat) : Bool :=
  if u < 0x11 then true
  else if u < 0x13 then part.frame.stacks.contains (2 * d + (u - 0x11)) && s.live (.stack (2 * d + (u - 0x11)))
  else if u < 0x15 then part.frame.uds.contains (2 * d + (u - 0x13)) && s.live (.ud (2 * d + (u - 0x13)))
  else false

/-- Check 8: dies and units present and in the partition; records within the unit mask; a PUT on the
module's own mesh goes to a compute die of the partition (R434). -/
def segUnits (s : State) (c : SegCtx) (ps : List SegPart) : Option SegRefusal :=
  let mine := fun d => c.part.frame.cds.contains d && s.live (.cd d)
  firstFinding [
    ps.findSome? fun x =>
      let d := x.dir.die
      firstFinding [
        refuseUnless (mine d) { code := 4, die := d, offset := dirOff d },
        refuseUnless ((List.range 32).all fun u => !bit x.dir.unitMask u || unitLive s c.part d u)
          { code := 4, die := d, offset := dirOff d + 0x10 }],
    firstRecord 4 ps fun x _ r =>
      need (bit x.dir.unitMask r.unit) 2 ++
      need (r.opcode != 0x0600 || (PutOp.of r.w).module != 0xFFFF || mine (PutOp.of r.w).die) (wordOff 4)]

/-- Check 9: the opcode matches its unit and names an operation. -/
def segOpcodes (ps : List SegPart) : Option SegRefusal :=
  firstRecord 0x0E ps fun _ _ r => need (opcodeOk r) 0

/-- All records of the parts with their die and number. -/
def allRecords (ps : List SegPart) : List (SegPart × Nat × Record) :=
  ps.flatMap fun x => x.numbered.map fun y => (x, y.1, y.2)

/-- The landing formats that a segment's ACCUMs name for the regions of a module, by region, in order (R206). -/
def accumFormatsAt (m : Nat) (ps : List SegPart) : List (Nat × Nat) :=
  (allRecords ps).filterMap fun y =>
    let f := AccumOp.of y.2.2.w
    if y.2.2.opcode = 0x0602 && f.module = m then some (f.region, f.fmt) else none

/-- The landing formats named for this module's own regions, by region, in order (R274). -/
def accumFormats (ps : List SegPart) : List (Nat × Nat) := accumFormatsAt 0xFFFF ps

/-- The bytes of an element of a landing format. -/
def fmtWidth (fmt : Nat) : Nat := codeBits fmt / 8

/-- The update die a record addresses. -/
def recUd (x : SegPart) (r : Record) : Nat := 2 * x.dir.die + (r.unit - 0x13)

/-- The entries a UFOLD or an UPDATE names. -/
def udEntries (r : Record) : List Nat := (List.range r.count).map (· + field (r.w 0) 11 0)

/-- A refusal that names a record. -/
def SegPart.refuse (x : SegPart) (code i f : Nat) : SegRefusal :=
  { code, die := x.dir.die, record := i, offset := x.off i f }

/-- One update-die record against those before it and the segment's STEPWORD (R251). -/
def segUdRecord (c : SegCtx) (ps : List SegPart) (word : Option Record) (x : SegPart) (i : Nat) (r : Record) :
    List Nat :=
  let op := r.opcode
  let before := (x.numbered.filter fun y => y.1 < i && y.2.unit == r.unit).map (·.2)
  let fmtWord := if op = 0x0A00 then 3 else 6
  let fmts := accumFormats ps
  if op / 256 != 0x0A then []
  else
    need (op == 0x0A00 || word.isSome) 0 ++
    (if op = 0x0A01 then
      match word with
      | none => []
      | some g => need (field (r.w 0) 11 0 == field (g.w 0) 11 0) (wordOff 0) ++ need (r.count == g.count) countOff ++
          need (!before.any fun y => y.opcode == 0x0A01) 0
    else
      need (!before.any fun y => y.opcode == op && (udEntries y).any (udEntries r).contains) (wordOff 0) ++
      need ((udEntries r).all fun e =>
        match c.image.upd.entries[e]? with
        | none => true
        | some u => fmts.all fun f => f.1 != u.gradient || f.2 == field (r.w fmtWord) 7 0) (wordOff fmtWord) ++
      need (if op = 0x0A00 then !before.any fun y => y.opcode == 0x0A01
        else before.any (fun y => y.opcode == 0x0A01) || word.isNone) 0)

/-- The rules of check 10 that concern a whole segment: one landing format to a region and one width to
a stream (R206, R274), at most 16 replay ranges on a die (R91), the STEPWORDs (R237) and the update
dies' records (R251). -/
def segWide (s : State) (c : SegCtx) (ps : List SegPart) : Option SegRefusal :=
  let words := (allRecords ps).filter fun y => y.2.2.opcode == 0x0604
  let word := words.head?.map fun y => y.2.2
  let stream := c.part.stream
  firstFinding [
    firstRecord 0x0F ps fun x i r =>
      (let f := AccumOp.of r.w
       need (r.opcode != 0x0602 ||
        (look (accumFormatsAt f.module ps) f.region 0 == f.fmt &&
          (f.module != 0xFFFF || look stream.width f.region (fmtWidth f.fmt) == fmtWidth f.fmt))) (wordOff 4)) ++
      need (r.opcode != 0x0706 ||
        ((x.records.take i).filter fun y => y.opcode == 0x0706).length < 16) 0 ++
      need (r.opcode != 0x0604 || !(x.records.take i).any fun y => y.opcode == 0x0604) 0 ++
      segUdRecord c ps word x i r,
    if word.isNone then none
    else firstFinding [
      ps.findSome? fun x =>
        refuseUnless (x.records.any fun r => r.opcode == 0x0604)
          { code := 0x0F, die := x.dir.die, offset := dirOff x.dir.die },
      c.part.frame.uds.findSome? fun u =>
        refuseUnless (!s.live (.ud u) ||
          ps.any fun x => x.records.any fun r => r.opcode == 0x0A01 && recUd x r == u)
          { code := 0x0F, die := u / 2, offset := dirOff (u / 2) }]]

/-- Check 10. -/
def segOperands (s : State) (c : SegCtx) (ps : List SegPart) : Option SegRefusal :=
  firstFinding [
    firstRecord 0x0F ps fun x i r => commonOperand c.ticks r ++ (judgeOp (c.judge x i) r).operand,
    segWide s c ps]

/-- Check 11. -/
def segTargets (c : SegCtx) (ps : List SegPart) : Option SegRefusal :=
  firstRecord 0x10 ps fun x i r => (judgeOp (c.judge x i) r).target

/-- Check 12. -/
def segRanges (c : SegCtx) (ps : List SegPart) : Option SegRefusal :=
  firstFinding [
    ps.findSome? fun x => refuseUnless (x.dir.scratchPeak ≤ scratchBytes)
      { code := 0x11, die := x.dir.die, offset := dirOff x.dir.die + 0xC },
    firstRecord 0x11 ps fun x i r => (judgeOp (c.judge x i) r).range]

/-- The CHOICEs of a part with their alternates. -/
def SegPart.choices (x : SegPart) : List (Nat × Record × List Alternate) :=
  (x.numbered.filter fun y => y.2.opcode == 0x0705 && (y.2.w 0).toNat ≤ 4).map fun y =>
    (y.1, y.2, y.2.alternates y.1)

/-- Whether record i lies in one of the alternates. -/
def inAlternates (l : List Alternate) (i : Nat) : Bool := l.any fun a => a.first ≤ i && i < a.first + a.records

/-- The CHOICE of a part whose alternates hold record i. -/
def SegPart.choiceOf (x : SegPart) (i : Nat) : Option (Nat × Record × List Alternate) :=
  x.choices.find? fun c => inAlternates c.2.2 i

/-- Whether a record waits on, signals or adds to event e (R80, Table 03.6). -/
def Record.usesEvent (r : Record) (e : Nat) : Bool :=
  e < 64 && (r.waitEv == e || r.signalEv == e || (r.opcode == 0x0707 && field (r.w 0) 5 0 == e))

/-- Check 13: alternate counts, layout and private events (R86, R94, R100). A CHOICE inside another's alternate is
refused (log entry 120). -/
def segChoices (ps : List SegPart) : Option SegRefusal :=
  firstRecord 0x12 ps fun x i r =>
    (if r.opcode = 0x0705 then
      let n := (r.w 0).toNat
      need (2 ≤ n && n ≤ 4) (wordOff 0) ++
      (if n ≤ 4 then
        (((List.range n).zip (r.alternates i)).flatMap fun a =>
          need (a.2.first + a.2.records ≤ x.records.length) (wordOff (1 + 2 * a.1)))
      else [])
    else []) ++
    (match x.choiceOf i with
    | none => need (!bit r.flags 0) 3
    | some c =>
      let outside := fun e => x.numbered.any fun y => y.1 != c.1 && !inAlternates c.2.2 y.1 && y.2.usesEvent e
      need (bit r.flags 0 && r.opcode != 0x0705) 3 ++
      need (c.2.1.slot ≤ r.slot && r.slot < c.2.1.slot + c.2.1.span) 4 ++
      need (!outside r.waitEv) 8 ++ need (!outside r.signalEv) 9 ++
      need (r.opcode != 0x0707 || !outside (field (r.w 0) 5 0)) (wordOff 0))

/-- The cycles that the records of a unit which lie in a window need: those outside every CHOICE, and
of each CHOICE its dearest alternate (R97). -/
def windowCycles (x : SegPart) (unit a b : Nat) : Nat :=
  let inside := (x.numbered.zip x.cycles).filter fun y =>
    y.1.2.unit == unit && a ≤ y.1.2.slot && y.1.2.slot + y.1.2.span ≤ b
  let sum := fun (f : Nat → Bool) => ((inside.filter fun y => f y.1.1).map (·.2)).foldl (· + ·) 0
  sum (fun i => (x.choiceOf i).isNone) +
    (x.choices.map fun c => (c.2.2.map fun l => sum (inAlternates [l])).foldl max 0).foldl (· + ·) 0

/-- Check 14 (R97): the first record that completes a window of the step whose cycles exceed what the clock floor
gives it. A record due past the step's last tick lies in no window (log entry 39). -/
def segCost (c : SegCtx) (ps : List SegPart) : Option SegRefusal :=
  let cap := c.image.cadence.period / 1000 * c.image.policy.floor
  ps.findSome? fun x => x.numbered.findSome? fun y =>
    let b := y.2.slot + y.2.span
    let starts := (x.records.filter fun r => r.unit == y.2.unit && r.slot ≤ y.2.slot).map (·.slot)
    refuseUnless (c.ticks < b || starts.all fun a => windowCycles x y.2.unit a b ≤ (b - a) * cap)
      { code := 0x13, die := x.dir.die, record := y.1, offset := x.dir.costOffset + 16 * y.1 }

/-- Checks 8 to 14 in their order. -/
def segContent (s : State) (c : SegCtx) (ps : List SegPart) : Option SegRefusal :=
  firstFinding [segUnits s c ps, segOpcodes ps, segOperands s c ps, segTargets c ps, segRanges c ps,
    segChoices ps, segCost c ps]

/-! ## The whole check, acceptance and refusal -/

/-- The sixteen checks of Table 03.9 in their order, for a segment that arrived on port b. -/
def checkSegment (b : Nat) (bytes : List Byte) (s : State) : Option SegRefusal :=
  match firstFinding [segFormat bytes, segDigest bytes] with
  | some r => some r
  | none =>
    let ps := (segDirs bytes).map (SegPart.of bytes)
    let p := leAt bytes 7 1
    let q := s.part p
    let opening := bit (leAt bytes 6 1) 0
    let number := leAt bytes 0xC 4
    match firstFinding [
      segReserved bytes ps,
      refuseUnless (q.present && q.frame.hostPort == b) { code := 0x0B, offset := 7 },
      refuseUnless q.active.isSome { code := 0x0C },
      refuseUnless (!opening || !q.stream.running) { code := 0x09, offset := 6 },
      refuseUnless (if opening then number == 0
        else q.stream.running && !q.stream.closing && number == (q.stream.lastStep + 1) % 2 ^ 32)
        { code := 0x0D, offset := 0xC }] with
    | some r => some r
    | none =>
      let width := if opening then [] else q.stream.width
      let ctx := q.active.map fun i =>
        ({ p, part := { q with stream := { q.stream with width } }, image := i
           ticks := leAt bytes 0x18 2 } : SegCtx)
      firstFinding [
        ctx.bind fun c => segContent s c ps,
        ps.findSome? fun x => refuseUnless (x.records.length ≤ (s.cd x.dir.die).seq.free)
          { code := 0x14, die := x.dir.die, offset := dirOff x.dir.die + 4 },
        refuseUnless (!opening || leAt bytes 0x10 8 == 0 || q.disc.tick < leAt bytes 0x10 8)
          { code := 0x0A, offset := 0x10 }]

/-- The lead die of a segment's step (R237): the compute die of the partition that the word's ring
holds, or the lowest-numbered die of the mask. -/
def segLead (q : Part) (ps : List SegPart) : Option Nat :=
  ((allRecords ps).find? fun y => y.2.2.opcode == 0x0604).bind fun y =>
    let ring := field (y.2.2.w 5) 7 0
    if ring = 0xFF then (ps.map fun x => x.dir.die).head?
    else ((q.active.bind fun i => i.rings.find? fun g => g.ident == ring).bind fun g =>
      g.members.find? fun m => m.1 == q.frame.moduleNumber && q.frame.cds.contains m.2).map (·.2)

/-- A segment accepted (R75 to R77, R82, R96, R274): queued, its records' room taken, the bytes of its cost tables
carried into telemetry; an opening one begins the stream (R517). -/
def acceptSegment (bytes : List Byte) (s : State) : State :=
  let p := leAt bytes 7 1
  let kind := leAt bytes 6 1
  let ps := (segDirs bytes).map (SegPart.of bytes)
  let q := s.part p
  let g : SegmentImg :=
    { opening := bit kind 0, closing := bit kind 1, step := leAt bytes 0xC 4, startTick := leAt bytes 0x10 8
      ticks := leAt bytes 0x18 2, dieMask := leAt bytes 0x1A 2, lead := segLead q ps
      dies := ps.map fun x =>
        { die := x.dir.die, records := x.records, cycles := x.cycles, scratchPeak := x.dir.scratchPeak
          unitMask := x.dir.unitMask, accMask := x.dir.accMask } }
  let opened : Stream := if g.opening then
      { q.stream with state := 1, step := 0xFFFFFFFF, queued := [], started := false, closing := false
                      stopReq := false, abortReq := false, begun := [], width := [] }
    else q.stream
  let width := (accumFormats ps).foldl
    (fun w f => if w.any fun y => y.1 == f.1 then w else w ++ [(f.1, fmtWidth f.2)]) opened.width
  let s := s.modStream p fun _ =>
    { opened with queued := opened.queued ++ [g], lastStep := g.step, width, accepted := sat16 opened.accepted
                  closing := g.closing }
  let s := if g.opening then s.modFab p fun f => { f with gone := [], table := [] } else s
  let s := forAll ps (fun x t => telem p (.segmentBytes g.step x.dir.die x.bytes) t) s
  forAll ps (fun x t => t.modSeq x.dir.die fun y => { y with free := y.free - x.records.length }) s

/-- A refusal posted (R95, R96). -/
def refuseSegment (p : Nat) (r : SegRefusal) (s : State) : State :=
  s.modStream p fun st =>
    { st with reason := r.code, faultDie := r.die, faultRecord := r.record, faultOffset := r.offset
              refusals := sat16 st.refusals }

/-! ## The check again under a pending image (R98) -/

/-- A queued segment's parts as the checks take them. -/
def SegmentImg.parts (g : SegmentImg) : List SegPart :=
  g.dies.map fun e =>
    { dir := { die := e.die, recordOffset := 0, count := e.records.length, costOffset := 0
               scratchPeak := e.scratchPeak, unitMask := e.unitMask, accMask := e.accMask }
      records := e.records, cycles := e.cycles }

/-- Whether a step has begun and not ended on every die. -/
def State.stepLive (s : State) (p step : Nat) : Bool :=
  (s.part p).frame.cds.any fun d => ((s.cd d).seq.step? step).isSome

/-- Whether every queued segment and every begun step is still valid under an image (R98). -/
def stillValid (s : State) (p : Nat) (i : JobImage) : Bool :=
  let st := (s.part p).stream
  (st.begun.filter (fun g => s.stepLive p g.step) ++ st.queued).all fun g =>
    let c := SegCtx.of s p i g.ticks
    (firstFinding [segOperands s c g.parts, segTargets c g.parts, segRanges c g.parts,
      segChoices g.parts, segCost c g.parts]).isNone

end Sys2Proof.Machine
end

