-- ==== Sys2Proof/Machine/Image.lean ====
section
/-! DEFINITION. Windrose images: their form, the eleven checks of Table 02.8 in their order, and the
images that pass taken as pending (02 R27 to R53, 15 R390). -/

namespace Sys2Proof.Machine

/-! ## Form (Tables 02.1 to 02.7, 02.12) -/

/-- Why an image is refused (R49): the code of Table 02.8, the section index and the byte offset of the
first offending field. -/
structure ImgRefusal where
  code : Nat
  sect : Nat := 0xFFFF
  offset : Nat := 0
deriving DecidableEq, Repr

/-- A section as its directory entry places it (Table 02.2). -/
structure Sect where
  idx : Nat
  type : Nat
  entries : Nat
  off : Nat
  len : Nat
deriving DecidableEq, Repr

/-- A finding of a check: the byte offset of an offending field and its section. -/
abbrev ImgFinding := Nat × Nat

/-- A finding at an offset of a section where a condition is broken. -/
def needAt (ok : Bool) (off sect : Nat) : List ImgFinding := if ok then [] else [(off, sect)]

/-- The refusal that a check's findings call for: the first offending field. -/
def firstImg (code : Nat) (l : List ImgFinding) : Option ImgRefusal :=
  (l.foldl (fun m x => some (m.elim x fun y => if x.1 < y.1 then x else y)) none).map fun x =>
    { code, sect := x.2, offset := x.1 }

/-- The header's and the directory's section index. -/
def noSect : Nat := 0xFFFF

/-- The sections an image's directory lists. -/
def imgSects (b : List Byte) : List Sect :=
  (List.range (leAt b 0xC 2)).map fun i =>
    let o := 0x50 + 16 * i
    { idx := i, type := leAt b o 2, entries := leAt b (o + 2) 2, off := leAt b (o + 4) 4, len := leAt b (o + 8) 4 }

/-- The section of a type. -/
def sectOf (l : List Sect) (t : Nat) : Sect := (l.find? fun x => x.type == t).getD ⟨0, t, 0, 0, 0⟩

/-- The offset of entry i of a section of entries of n bytes after a head. -/
def Sect.entry (x : Sect) (head n i : Nat) : Nat := x.off + head + n * i

/-- The offsets of a section's entries, with their numbers. -/
def Sect.rows (x : Sect) (head n : Nat) : List (Nat × Nat) :=
  (List.range x.entries).map fun i => (i, x.entry head n i)

/-- A ring plan with the offset of its header. -/
structure PlanAt where
  off : Nat
  plan : RingPlan

/-- n ring plans from an offset on: the plans, and the offset after them (R44). -/
def ringPlans (b : List Byte) : Nat → Nat → List PlanAt × Nat
  | 0, o => ([], o)
  | n + 1, o =>
    let c := leAt b (o + 2) 2 + 1
    let members := (List.range c).map fun j => (leAt b (o + 8 + 4 * j) 2, leAt b (o + 10 + 4 * j) 1)
    let rest := ringPlans b n (o + 8 + 4 * c)
    (⟨o, { ident := leAt b o 1, direction := leAt b (o + 1) 1, members }⟩ :: rest.1, rest.2)

/-- A section's ring plans. -/
def Sect.plans (x : Sect) (b : List Byte) : List PlanAt := (ringPlans b x.entries x.off).1

/-- Whether a section's entries field is one that Table 02.12 allows. -/
def entriesOk (x : Sect) : Bool :=
  match x.type with
  | 1 => x.entries == 4
  | 2 => x.entries ≤ 1024
  | 3 => x.entries == 32
  | 4 => x.entries ≤ 4096
  | 5 => x.entries ≤ 128
  | 6 => x.entries == 128
  | 7 => x.entries ≤ 16
  | 8 | 9 | 10 => x.entries == 1
  | _ => false

/-- The length that Table 02.12 gives a section. -/
def sectLength (b : List Byte) (x : Sect) : Nat :=
  match x.type with
  | 1 => 128
  | 2 => 32 * x.entries
  | 3 => 64
  | 4 => 32 + 32 * x.entries
  | 5 => 8 * x.entries
  | 6 => 512
  | 7 => (ringPlans b x.entries x.off).2 - x.off
  | 8 => 16
  | _ => 8

/-- A frame entry's fields (Table 02.4). -/
def FrameEntry.of (b : List Byte) (o : Nat) : FrameEntry :=
  { cdFirst := leAt b o 1, cdCount := leAt b (o + 1) 1, stackFirst := leAt b (o + 2) 1
    stackCount := leAt b (o + 3) 1, udFirst := leAt b (o + 4) 1, udCount := leAt b (o + 5) 1
    hostPort := leAt b (o + 6) 1, portMask := leAt b (o + 8) 16, moduleNumber := leAt b (o + 0x18) 2
    power := leAt b (o + 0x1A) 2 }

/-- A region entry's fields (Table 02.5). -/
def Region.of (b : List Byte) (o : Nat) : Region :=
  { base := leAt b o 8, length := leAt b (o + 8) 8, cls := leAt b (o + 0x10) 1, placement := leAt b (o + 0x11) 1
    stack := leAt b (o + 0x12) 1, mode := leAt b (o + 0x13) 1, contributions := leAt b (o + 0x14) 2
    source := leAt b (o + 0x16) 2 }

/-- An update region entry's fields (Table 02.7). -/
def UpdEntry.of (b : List Byte) (o : Nat) : UpdEntry :=
  { elements := leAt b o 8, offset := leAt b (o + 8) 8, master := leAt b (o + 0x10) 2
    moment1 := leAt b (o + 0x12) 2, moment2 := leAt b (o + 0x14) 2, gradient := leAt b (o + 0x16) 2
    fp8 := leAt b (o + 0x18) 2, bf16 := leAt b (o + 0x1A) 2, tensor := leAt b (o + 0x1C) 2
    frozen := bit (leAt b (o + 0x1E) 2) 0 }

/-- The update regions section (Table 02.6). -/
def UpdSection.of (b : List Byte) (x : Sect) : UpdSection :=
  { rule := leAt b x.off 1, beta1 := wordAt b (x.off + 4), beta2 := wordAt b (x.off + 8)
    epsilon := wordAt b (x.off + 0xC), decay := wordAt b (x.off + 0x10), bf16Copies := leAt b (x.off + 0x14) 1 == 1
    entries := (x.rows 32 32).map fun r => UpdEntry.of b r.2 }

/-- A whole job image. -/
def JobImage.of (b : List Byte) (l : List Sect) : JobImage :=
  let g := sectOf l
  let c := (g 8).off
  let w := (g 9).off
  let v := (g 10).off
  { epoch := leAt b 0x18 4, digest := slice b 0x20 48, commitTick := leAt b 0x10 8
    regions := ((g 2).rows 0 32).map fun r => Region.of b r.2
    mapout := ((g 3).rows 0 2).map fun r => BitVec.ofNat 16 (leAt b r.2 2)
    upd := UpdSection.of b (g 4)
    alloc := ((g 5).rows 0 8).map fun r => { peer := leAt b r.2 2, count := leAt b (r.2 + 2) 2, kind := leAt b (r.2 + 4) 1 }
    peers := ((g 6).rows 0 4).map fun r =>
      { module := leAt b r.2 2, port := leAt b (r.2 + 2) 1, inUse := bit (leAt b (r.2 + 3) 1) 0 }
    rings := ((g 7).plans b).map (·.plan)
    cadence := { period := 1000 * leAt b c 1, timeSource := leAt b (c + 1) 1, phase := leAt b (c + 4) 4
                 stallLimit := leAt b (c + 8) 4 }
    policy := { floor := leAt b w 2, ceiling := leAt b (w + 2) 2, deepest := leAt b (w + 4) 1
                forecast := leAt b (w + 5) 1 == 1 }
    service := { breeze := leAt b v 1 == 1, fennel := leAt b (v + 1) 1, breezeRate := leAt b (v + 2) 2 }
    sections := l.map fun x => (x.type, slice b x.off x.len) }

/-! ## Check 1: format and value faults (R30, R32, R50) -/

/-- The header. -/
def imgHeader (b : List Byte) : List ImgFinding :=
  let job := leAt b 6 1 == 2
  let at' := fun ok o => needAt ok o noSect
  at' (slice b 0 4 == [0x57, 0x52, 0x4F, 0x53]) 0 ++ at' (leAt b 4 2 == 1) 4 ++
    at' (leAt b 6 1 == 1 || job) 6 ++
    at' (if job then leAt b 7 1 < 4 else leAt b 7 1 == 0xFF) 7 ++
    at' (leAt b 8 4 == b.length && b.length % 64 == 0 && b.length ≤ 2 ^ 22 && 0x50 ≤ b.length) 8 ++
    at' (0x50 + 16 * leAt b 0xC 2 ≤ b.length) 0xC

/-- The section types that a kind of image holds (R32). -/
def kindTypes (kind : Nat) : List Nat := if kind = 1 then [1] else [2, 3, 4, 5, 6, 7, 8, 9, 10]

/-- The directory (R32, Table 02.12). -/
def imgDirectory (b : List Byte) : List ImgFinding :=
  let l := imgSects b
  let types := kindTypes (leAt b 6 1)
  needAt (types.all fun t => l.any fun x => x.type == t) 0xC noSect ++
  l.flatMap fun x =>
    let o := 0x50 + 16 * x.idx
    let before := l.filter fun y => y.idx < x.idx
    needAt (types.contains x.type && !before.any fun y => y.type == x.type) o noSect ++
    needAt (entriesOk x) (o + 2) noSect ++
    needAt (x.off % 64 == 0 && 0x50 + 16 * l.length ≤ x.off &&
      !before.any fun y => overlaps x.off x.len y.off y.len) (o + 4) noSect ++
    needAt (x.off + x.len ≤ b.length && x.len == sectLength b x) (o + 8) noSect

/-- The value faults (R46, R50). -/
def imgValues (b : List Byte) : List ImgFinding :=
  let l := imgSects b
  let g := sectOf l
  let v := fun o => leAt b o 1
  let at' := fun (x : Sect) (ok : Bool) (o : Nat) => needAt ok o x.idx
  if leAt b 6 1 = 1 then
    ((g 1).rows 0 32).flatMap fun r => at' (g 1) (v (r.2 + 6) < 4) (r.2 + 6)
  else
    (((g 2).rows 0 32).flatMap fun r =>
      at' (g 2) (v (r.2 + 0x10) ≤ 5) (r.2 + 0x10) ++ at' (g 2) (v (r.2 + 0x11) ≤ 1) (r.2 + 0x11) ++
      at' (g 2) (if v (r.2 + 0x11) = 0 then v (r.2 + 0x12) == 0 else v (r.2 + 0x12) < 32) (r.2 + 0x12) ++
      at' (g 2) (v (r.2 + 0x13) ≤ 4) (r.2 + 0x13)) ++
    at' (g 4) (v (g 4).off == 1 || v (g 4).off == 2) (g 4).off ++
    at' (g 4) (v ((g 4).off + 0x14) ≤ 1) ((g 4).off + 0x14) ++
    (((g 5).rows 0 8).flatMap fun r => at' (g 5) (v (r.2 + 4) ≤ 1) (r.2 + 4)) ++
    (((g 7).plans b).flatMap fun x =>
      at' (g 7) (x.plan.direction ≤ 1) (x.off + 1) ++
      ((List.range x.plan.members.length).zip x.plan.members).flatMap fun m =>
        at' (g 7) (m.2.2 < 16) (x.off + 10 + 4 * m.1)) ++
    (let o := (g 9).off
     let floor := leAt b o 2
     at' (g 9) (400 ≤ floor && floor ≤ 1600) o ++
     at' (g 9) (floor ≤ leAt b (o + 2) 2 && leAt b (o + 2) 2 ≤ 1600) (o + 2) ++
     at' (g 9) (1 ≤ v (o + 4) && v (o + 4) ≤ 3) (o + 4) ++ at' (g 9) (v (o + 5) ≤ 1) (o + 5)) ++
    (let o := (g 10).off
     let rate := leAt b (o + 2) 2
     at' (g 10) (v o ≤ 1) o ++ at' (g 10) (v (o + 1) ≤ 21) (o + 1) ++
     at' (g 10) (if v o = 1 then 1 ≤ rate && rate ≤ 4096 else v o != 0 || rate == 0) (o + 2))

/-- Check 1. -/
def imgFormat (b : List Byte) : Option ImgRefusal :=
  firstFinding [firstImg 1 (imgHeader b), firstImg 1 (imgDirectory b), firstImg 1 (imgValues b)]

/-! ## Checks 2 and 3 -/

/-- Check 2: the digest (R31). -/
def imgDigest (b : List Byte) : Option ImgRefusal :=
  if sha384 (digestZero b) == slice b 0x20 48 then none else some { code := 2, offset := 0x20 }

/-- Check 3: reserved fields (R12, R43). -/
def imgReserved (b : List Byte) : Option ImgRefusal :=
  let l := imgSects b
  let g := sectOf l
  let zero := fun (x : Sect) (o n : Nat) => needAt (zeroAt b o n) o x.idx
  firstImg 3 <|
    needAt (zeroAt b 0xE 2) 0xE noSect ++ needAt (zeroAt b 0x1C 4) 0x1C noSect ++
    (l.flatMap fun x => needAt (zeroAt b (0x50 + 16 * x.idx + 0xC) 4) (0x50 + 16 * x.idx + 0xC) noSect) ++
    (if leAt b 6 1 = 1 then
      ((g 1).rows 0 32).flatMap fun r => zero (g 1) (r.2 + 7) 1 ++ zero (g 1) (r.2 + 0x1C) 4
    else
      (((g 2).rows 0 32).flatMap fun r => zero (g 2) (r.2 + 0x18) 8) ++
      zero (g 4) ((g 4).off + 1) 3 ++ zero (g 4) ((g 4).off + 0x15) 11 ++
      (((g 4).rows 32 32).flatMap fun r => needAt (leAt b (r.2 + 0x1E) 2 < 2) (r.2 + 0x1E) (g 4).idx) ++
      (((g 5).rows 0 8).flatMap fun r => zero (g 5) (r.2 + 5) 3) ++
      (((g 6).rows 0 4).flatMap fun r => needAt (leAt b (r.2 + 3) 1 < 2) (r.2 + 3) (g 6).idx) ++
      (((g 7).plans b).flatMap fun x =>
        zero (g 7) (x.off + 4) 4 ++
        (List.range x.plan.members.length).flatMap fun j => zero (g 7) (x.off + 11 + 4 * j) 1) ++
      zero (g 8) ((g 8).off + 2) 2 ++ zero (g 8) ((g 8).off + 0xC) 4 ++
      zero (g 9) ((g 9).off + 6) 2 ++ zero (g 10) ((g 10).off + 4) 4)

/-! ## Checks of a frame image (R33 to R35) -/

/-- Whether a fabric port is there: present in the descriptor, its light engine not cut out. -/
def State.portLive (s : State) (n : Nat) : Bool := s.portPresent n && s.live (.le (n / 16))

/-- Check 5 of a frame: every named site and port present (R35). -/
def frameUnits (s : State) (b : List Byte) : List ImgFinding :=
  let x := sectOf (imgSects b) 1
  (x.rows 0 32).flatMap fun r =>
    let e := FrameEntry.of b r.2
    if e.cdCount = 0 then []
    else
      needAt (e.cds.all fun d => s.live (.cd d)) r.2 x.idx ++
      needAt (e.stacks.all fun h => s.live (.stack h)) (r.2 + 2) x.idx ++
      needAt (e.uds.all fun u => s.live (.ud u)) (r.2 + 4) x.idx ++
      needAt (s.live (.baith e.hostPort)) (r.2 + 6) x.idx ++
      needAt (e.ports.all fun n => s.portLive n) (r.2 + 8) x.idx

/-- The offsets of a frame entry's fields, with their sizes, the reserved ones apart (Table 02.4). -/
def frameFields : List (Nat × Nat) :=
  [(0, 1), (1, 1), (2, 1), (3, 1), (4, 1), (5, 1), (6, 1), (8, 16), (0x18, 2), (0x1A, 2)]

/-- The fields of an entry at o that are not zero. -/
def nonzeroFields (b : List Byte) (o sect : Nat) (fields : List (Nat × Nat)) : List ImgFinding :=
  fields.flatMap fun f => needAt (zeroAt b (o + f.1) f.2) (o + f.1) sect

/-- Whether two spans of units share one. -/
def unitsMeet (a n b m : Nat) : Bool := overlaps a n b m

/-- Check 6 of a frame (R34). -/
def framePartitions (b : List Byte) : List ImgFinding :=
  let x := sectOf (imgSects b) 1
  let rows := (x.rows 0 32).map fun r => (r.1, r.2, FrameEntry.of b r.2)
  let present := rows.filter fun r => r.2.2.cdCount != 0
  needAt (!present.isEmpty) x.off x.idx ++
  rows.flatMap fun r =>
    let e := r.2.2
    let o := r.2.1
    let before := (present.filter fun y => y.1 < r.1).map (·.2.2)
    let clash := fun (f : FrameEntry → Bool) off => needAt (!before.any f) (o + off) x.idx
    if e.cdCount = 0 then nonzeroFields b o x.idx frameFields
    else
      clash (fun y => unitsMeet e.cdFirst e.cdCount y.cdFirst y.cdCount) 0 ++
      needAt (e.stackFirst == 2 * e.cdFirst) (o + 2) x.idx ++
      clash (fun y => unitsMeet e.stackFirst e.stackCount y.stackFirst y.stackCount) 2 ++
      needAt (e.stackCount == 2 * e.cdCount) (o + 3) x.idx ++
      needAt (e.udCount == 0 || e.udFirst == e.stackFirst) (o + 4) x.idx ++
      clash (fun y => unitsMeet e.udFirst e.udCount y.udFirst y.udCount) 4 ++
      needAt (e.udCount == 0 || e.udCount == e.stackCount) (o + 5) x.idx ++
      clash (fun y => y.hostPort == e.hostPort) 6 ++ clash (fun y => y.portMask &&& e.portMask != 0) 8 ++
      clash (fun y => y.moduleNumber == e.moduleNumber) 0x18 ++
      needAt ((before.map (·.power)).foldl (· + ·) e.power ≤ 10400) (o + 0x1A) x.idx

/-- The number of the latest module tick (R54). -/
def State.moduleTick (s : State) : Nat := s.now / 4000

/-- Checks 4 to 11 of a frame image. Check 10 lets no other image be pending (Table 02.8): a job image that is
pending, of any partition, bars a frame image as one in force does (R29; log entry 35). -/
def checkFrame (port : Nat) (s : State) (b : List Byte) : Option ImgRefusal :=
  let busy := partNums.any (fun p => (s.part p).active.isSome || (s.part p).pendingImg.isSome) ||
    s.ctrl.pendingFrame.isSome
  let tick := leAt b 0x10 8
  firstFinding [
    firstImg 0x0B (needAt (port == 0) 6 noSect), firstImg 4 (frameUnits s b), firstImg 5 (framePartitions b),
    firstImg 9 (needAt (!busy) 6 noSect),
    firstImg 0x0A (needAt (tick == 0 || s.moduleTick < tick) 0x10 noSect)]

/-! ## Checks of a job image -/

/-- Check 5: every named stack, port and compute die of the module present and not cut out, the time source's port and
the members of ring plans among them (R9, R388), and the part has the services asked for (R47). A time source
past P127 names no port: it is left to check 9. -/
def jobUnits (s : State) (e : FrameEntry) (b : List Byte) (i : JobImage) : List ImgFinding :=
  let g := sectOf (imgSects b)
  (((g 2).rows 0 32).zip i.regions).flatMap (fun r =>
    needAt (r.2.length == 0 || r.2.placement != 1 || s.live (.stack r.2.stack)) (r.1.2 + 0x12) (g 2).idx) ++
  ((((g 3).rows 0 2).zip i.mapout).flatMap fun r =>
    needAt (r.2 == 0 || s.live (.stack r.1.1)) r.1.2 (g 3).idx) ++
  ((((g 6).rows 0 4).zip i.peers).flatMap fun r =>
    needAt (!r.2.inUse || s.portLive r.1.1) r.1.2 (g 6).idx) ++
  (((g 7).plans b).flatMap fun x =>
    ((List.range x.plan.members.length).zip x.plan.members).flatMap fun m =>
      needAt (m.2.1 != e.moduleNumber || s.live (.cd m.2.2)) (x.off + 10 + 4 * m.1) (g 7).idx) ++
  needAt (128 ≤ i.cadence.timeSource || s.portLive i.cadence.timeSource) ((g 8).off + 1) (g 8).idx ++
  needAt (!i.service.breeze || hasBreeze s.ctrl.ident.part) (g 10).off (g 10).idx ++
  needAt (i.service.fennel == 0 || hasFennel s.ctrl.ident.part) ((g 10).off + 1) (g 10).idx

/-- Check 6: stacks, channel entries and peer entries of the partition (R38, R43, R50). -/
def jobMembers (e : FrameEntry) (b : List Byte) (i : JobImage) : List ImgFinding :=
  let g := sectOf (imgSects b)
  (((g 2).rows 0 32).zip i.regions).flatMap (fun r =>
    needAt (r.2.length == 0 || r.2.placement != 1 || e.stacks.contains r.2.stack) (r.1.2 + 0x12) (g 2).idx) ++
  ((((g 3).rows 0 2).zip i.mapout).flatMap fun r =>
    needAt (r.2 == 0 || e.stacks.contains r.1.1) r.1.2 (g 3).idx) ++
  ((g 6).rows 0 4).flatMap fun r =>
    if bit e.portMask r.1 then [] else nonzeroFields b r.2 (g 6).idx [(0, 2), (2, 1), (3, 1)]

/-- The element width that the update entries give a working copy's region: 2 where it is a BF16 copy
(R247). -/
def copyWidth (u : UpdSection) (r : Nat) : Nat := if u.entries.any fun e => e.bf16 == r then 2 else 1

/-- The narrowest width of a gradient region's elements (R40). -/
def gradNarrow (mode : Nat) : Nat := if 1 ≤ mode && mode ≤ 3 then 1 else 4

/-- The findings of one region (R36, R37, R212, R247). -/
def regionFindings (e : FrameEntry) (i : JobImage) (sect o r : Nat) (g : Region) : List ImgFinding :=
  let unit := if g.placement = 1 then 4096
    else (if 1 ≤ g.cls && g.cls ≤ 4 then 16384 else 4096) * e.stacks.length
  let src := i.regions[g.source]?
  if g.length = 0 then []
  else
    needAt (g.base % 4096 == 0 && g.base + g.length ≤ 2 ^ 42 &&
      !((List.range r).zip i.regions).any fun x => overlaps g.base g.length x.2.base x.2.length) o sect ++
    needAt (g.length % unit == 0) (o + 8) sect ++ needAt (g.mode == 0 || g.cls == 4) (o + 0x13) sect ++
    needAt ((g.mode == 0) == (g.contributions == 0) && (g.mode != 2 || g.contributions ≤ 4096)) (o + 0x14) sect ++
    needAt (if g.cls = 3 then
        src.any fun m => m.cls == 1 && g.length / copyWidth i.upd r ≤ m.length / 4
      else g.source == 0xFFFF) (o + 0x16) sect

/-- The findings of one update entry's region references (R40, R247). -/
def entryFindings (i : JobImage) (sect o : Nat) (u : UpdEntry) : List ImgFinding :=
  let n := u.offset + u.elements
  let names := fun (r cls w off : Nat) =>
    needAt (match i.regions[r]? with
      | some g => g.length != 0 && g.cls == cls &&
          n * (if cls = 4 then gradNarrow g.mode else w) ≤ g.length
      | none => false) (o + off) sect
  let none' := fun (r off : Nat) => needAt (r == 0xFFFF) (o + off) sect
  names u.master 1 4 0x10 ++ names u.moment1 2 4 0x12 ++
  (if i.upd.rule = 2 then names u.moment2 2 4 0x14 else none' u.moment2 0x14) ++
  names u.gradient 4 4 0x16 ++ names u.fp8 3 1 0x18 ++
  (if i.upd.bf16Copies then names u.bf16 3 2 0x1A else none' u.bf16 0x1A) ++
  needAt (!i.upd.entries.any fun v => v.bf16 == u.fp8) (o + 0x18) sect

/-- Channels in use of a stack under an image (R38). -/
def JobImage.chanUse (i : JobImage) (h : Nat) : Half := ~~~(i.mapout.getD h 0)

/-- Channels out of use. -/
def chansOut (m : Half) : Nat := ((List.range 16).filter (bit m.toNat ·)).length

/-- Check 7 (R36 to R40). -/
def jobMap (e : FrameEntry) (b : List Byte) (i : JobImage) : List ImgFinding :=
  let g := sectOf (imgSects b)
  let used := i.regions.filter fun r => r.length != 0
  let share := ((used.filter fun r => r.placement == 0).map fun r => r.length / e.stacks.length).foldl (· + ·) 0
  let single := fun h => ((used.filter fun r => r.placement == 1 && r.stack == h).map (·.length)).foldl (· + ·) 0
  let cap := fun h => usableBytes (i.chanUse h)
  (((g 2).rows 0 32).zip i.regions).flatMap (fun r => regionFindings e i (g 2).idx r.1.2 r.1.1 r.2) ++
  ((((g 3).rows 0 2).zip i.mapout).flatMap fun r => needAt (chansOut r.2 ≤ 4) r.1.2 (g 3).idx) ++
  needAt (e.stacks.all fun h => share ≤ cap h && share + single h ≤ cap h) (g 2).off (g 2).idx ++
  (((g 4).rows 32 32).zip i.upd.entries).flatMap fun r => entryFindings i (g 4).idx r.1.2 r.2

/-- One ring plan (R44, R390). -/
def planFindings (e : FrameEntry) (i : JobImage) (sect : Nat) (before : List PlanAt) (x : PlanAt) :
    List ImgFinding :=
  let m := x.plan.members
  let n := m.length
  let mine := fun (y : Nat × Nat) => y.1 == e.moduleNumber
  let reach := fun (y : Nat × Nat) => mine y || i.alloc.any fun a => a.peer == y.1 && a.count != 0
  needAt (x.plan.ident != 0xFF && !before.any fun y => y.plan.ident == x.plan.ident) x.off sect ++
  ((List.range n).zip m).flatMap fun y =>
    let o := x.off + 8 + 4 * y.1
    let nb := fun k => m.getD (k % n) (0, 0)
    if mine y.2 then
      needAt (e.cds.contains y.2.2 && !(m.take y.1).contains y.2) (o + 2) sect ++
      needAt (reach (nb (y.1 + n - 1)) && reach (nb (y.1 + 1))) o sect
    else []

/-- Check 8 (R42 to R44, R390). -/
def jobPorts (e : FrameEntry) (b : List Byte) (i : JobImage) : List ImgFinding :=
  let g := sectOf (imgSects b)
  let named := fun m => (i.peers.filter fun y => y.inUse && y.module == m).length
  let rows := ((g 5).rows 0 8).zip i.alloc
  let plans := (g 7).plans b
  (rows.flatMap fun r =>
    let before := i.alloc.take r.1.1
    needAt (!before.any fun a => a.peer == r.2.peer) r.1.2 (g 5).idx ++
    needAt (r.2.count == named r.2.peer &&
      (before.map (·.count)).foldl (· + ·) r.2.count ≤ e.ports.length) (r.1.2 + 2) (g 5).idx) ++
  ((((g 6).rows 0 4).zip i.peers).flatMap fun r => needAt (r.2.port < 128) (r.1.2 + 2) (g 6).idx) ++
  ((List.range plans.length).zip plans).flatMap fun x => planFindings e i (g 7).idx (plans.take x.1) x.2

/-- Check 9 (R45). -/
def jobCadence (e : FrameEntry) (b : List Byte) (i : JobImage) : List ImgFinding :=
  let x := sectOf (imgSects b) 8
  let c := i.cadence
  needAt ([1, 2, 4, 8, 16, 32, 64].contains (leAt b x.off 1)) x.off x.idx ++
  needAt (c.timeSource == 0xFF || bit e.portMask c.timeSource) (x.off + 1) x.idx ++
  needAt (c.phase < c.period) (x.off + 4) x.idx ++
  needAt (1 ≤ c.stallLimit && c.stallLimit ≤ 2 ^ 24) (x.off + 8) x.idx

/-- The bytes of an image's section of a type. -/
def JobImage.sectBytes (i : JobImage) (t : Nat) : List Byte := look i.sections t []

/-- The structural section types (Table 02.3). -/
def structural : List Nat := [2, 3, 5, 6, 8]

/-- Whether an update entry may take the place of another while the stream runs (R41). -/
def entryMay (old new : UpdEntry) : Bool :=
  old.elements == 0 || new.elements == 0 ||
    { new with elements := 0, frozen := false } == { old with elements := 0, frozen := false }

/-- An entry that only one of two sections holds counts as one with no elements (R41). -/
def noEntry : UpdEntry :=
  { elements := 0, offset := 0, master := 0, moment1 := 0, moment2 := 0, gradient := 0, fp8 := 0, bf16 := 0
    tensor := 0, frozen := false }

/-- The size of an entry of a section, and where its fields begin (Tables 02.5 to 02.7, R42 to R45). -/
def sectFields (t : Nat) : Nat × List Nat :=
  match t with
  | 2 => (32, [0, 8, 0x10, 0x11, 0x12, 0x13, 0x14, 0x16])
  | 3 => (2, [0])
  | 4 => (32, [0, 8, 0x10, 0x12, 0x14, 0x16, 0x18, 0x1A, 0x1C, 0x1E])
  | 5 => (8, [0, 2, 4])
  | 6 => (4, [0, 2, 3])
  | _ => (16, [0, 1, 4, 8])

/-- Where the fields of the update regions header begin (Table 02.6). -/
def updHeadFields : List Nat := [0, 4, 8, 0xC, 0x10, 0x14]

/-- The beginning of the field that holds byte o of a list of entries of n bytes. -/
def fieldStart (n : Nat) (fields : List Nat) (o : Nat) : Nat :=
  o / n * n + (fields.filter (· ≤ o % n)).foldl max 0

/-- The first byte of `new` from `at0` on that `old` does not hold there. -/
def firstDiff : List Byte → List Byte → Nat → Option Nat
  | _, [], _ => none
  | [], _ :: _, at0 => some at0
  | a :: as, b :: bs, at0 => if a = b then firstDiff as bs (at0 + 1) else some at0

/-- A section that must be as it was: the first field that differs; where the new section ends sooner, the
directory's entries field. -/
def sameSect (x : Sect) (old new : List Byte) (n : Nat) (fields : List Nat) : List ImgFinding :=
  if old = new then []
  else match firstDiff old new 0 with
    | some o => [(x.off + fieldStart n fields o, x.idx)]
    | none => [(0x50 + 16 * x.idx + 2, noSect)]

/-- The fields of entry k of the update regions section, at o, that may not differ (R41): all but the count
and the frozen bit. -/
def entryDiff (sect o : Nat) (old new : List Byte) : List ImgFinding :=
  match firstDiff (slice old 8 22) (slice new 8 22) 8 with
  | some d => [(o + fieldStart 32 (sectFields 4).2 d, sect)]
  | none => [(o, sect)]

/-- Check 10: changes allowed while the stream runs (R41, R53, R98), and no other image pending (R52): a
pending frame image bars a job image too (log entry 35). -/
def jobBusy (p : Nat) (s : State) (b : List Byte) (i : JobImage) : List ImgFinding :=
  let q := s.part p
  let g := sectOf (imgSects b)
  needAt (q.pendingImg.isNone && s.ctrl.pendingFrame.isNone) 7 noSect ++
  match q.active with
  | none => []
  | some old =>
    if !q.stream.running then []
    else
      needAt (i.epoch == old.epoch) 0x18 noSect ++
      (structural.flatMap fun t =>
        sameSect (g t) (old.sectBytes t) (i.sectBytes t) (sectFields t).1 (sectFields t).2) ++
      sameSect (g 4) ((old.sectBytes 4).take 32) ((i.sectBytes 4).take 32) 32 updHeadFields ++
      ((List.range i.upd.entries.length).flatMap fun k =>
        if entryMay (old.upd.entries.getD k noEntry) (i.upd.entries.getD k noEntry) then []
        else entryDiff (g 4).idx ((g 4).entry 32 32 k) (slice (old.sectBytes 4) (32 + 32 * k) 32)
          (slice (i.sectBytes 4) (32 + 32 * k) 32)) ++
      needAt (stillValid s p i) (g 4).off (g 4).idx

/-- Checks 4 to 11 of a job image. -/
def checkJob (port : Nat) (s : State) (b : List Byte) : Option ImgRefusal :=
  let p := leAt b 7 1
  let q := s.part p
  let i := JobImage.of b (imgSects b)
  firstFinding [
    firstImg 0x0B (needAt (q.present && q.frame.hostPort == port) 7 noSect),
    firstImg 4 (jobUnits s q.frame b i), firstImg 5 (jobMembers q.frame b i), firstImg 6 (jobMap q.frame b i),
    firstImg 7 (jobPorts q.frame b i), firstImg 8 (jobCadence q.frame b i), firstImg 9 (jobBusy p s b i),
    firstImg 0x0A (needAt (i.commitTick == 0 || q.disc.tick < i.commitTick) 0x10 noSect)]

/-- The eleven checks in their order, for an image that arrived on a port (R49). -/
def checkImage (port : Nat) (b : List Byte) (s : State) : Option ImgRefusal :=
  match firstFinding [imgFormat b, imgDigest b, imgReserved b] with
  | some r => some r
  | none => if leAt b 6 1 = 1 then checkFrame port s b else checkJob port s b

/-! ## Pending and refused images (R51, R52, R59) -/

/-- The loader block that an image's header addresses; the block of the arrival port's partition, or the
frame's, where the header names none. -/
def imageTarget (port : Nat) (b : List Byte) (s : State) : WrTarget :=
  if leAt b 6 1 = 2 && leAt b 7 1 < 4 then .part (leAt b 7 1)
  else if leAt b 6 1 = 1 then .frame
  else match s.partOfBaith port with
    | some p => .part p
    | none => .frame

/-- Whether an image is pending in a loader block. -/
def State.imagePending (s : State) : WrTarget → Bool
  | .frame => s.ctrl.pendingFrame.isSome
  | .part p => (s.part p).pendingImg.isSome

/-- What WR_STATE reads when nothing is being received: pending, in force or none (R52, R59). -/
def State.restState (s : State) (t : WrTarget) : Nat :=
  if s.imagePending t then 3
  else match t with
    | .frame => if s.ctrl.frameLoader.commits != 0 then 4 else 0
    | .part p => if (s.part p).active.isSome then 4 else 0

/-- A refusal posted (R49, R59). -/
def refuseImage (t : WrTarget) (r : ImgRefusal) (s : State) : State :=
  s.modLoader t fun l =>
    { l with state := 5, reason := r.code, faultSection := r.sect, faultOffset := r.offset
             refusals := sat16 l.refusals }

/-- An image that has passed every check becomes pending, to commit at the boundary its commit_tick
names, or at the first one after checking (R52, R54). -/
def acceptImage (b : List Byte) (s : State) : State :=
  let tick := leAt b 0x10 8
  if leAt b 6 1 = 1 then
    let x := sectOf (imgSects b) 1
    let f : FrameImage :=
      { digest := slice b 0x20 48, commitTick := tick
        entries := (x.rows 0 32).map fun r => FrameEntry.of b r.2 }
    let at' := if tick = 0 then s.moduleTick + 1 else tick
    (s.modCtrl fun c => { c with pendingFrame := some f }).modLoader .frame fun l =>
      { l with state := 3, pendingTick := at' }
  else
    let p := leAt b 7 1
    let at' := if tick = 0 then (s.part p).disc.tick + 1 else tick
    (s.modPart p fun q => { q with pendingImg := some (JobImage.of b (imgSects b)) }).modLoader (.part p) fun l =>
      { l with state := 3, pendingTick := at' }

/-- A pending image withdrawn (R52). -/
def withdrawImage (t : WrTarget) (s : State) : State :=
  if s.imagePending t then
    let s := match t with
      | .frame => s.modCtrl fun c => { c with pendingFrame := none }
      | .part p => s.modPart p fun q => { q with pendingImg := none }
    let rest := s.restState t
    s.modLoader t fun l => { l with state := rest, pendingTick := 0 }
  else s

end Sys2Proof.Machine
end

