-- ==== Sys2Proof/Machine/Publish.lean ====
section
/-! DEFINITION. Published sets (02 R60 to R67): staging, closing, publication and the commit of members,
and what each set's publication does (09 R230, R232; 12 R306; 15 R376). -/

namespace Sys2Proof.Machine

/-! ## One set -/

/-- A member staged: the live value is unchanged. A member written after the closing write keeps its
value at the publication (R63). -/
def PubSet.stage (u : PubSet) (i v : Nat) : PubSet :=
  { u with
    staged := modAt u.staged i fun _ => v
    after := if u.captured.isSome then modAt u.after i fun _ => true else u.after }

/-- The closing field written: the staged value of every member is captured, in place of any earlier
capture (R61, R64). -/
def PubSet.close (u : PubSet) (v : Nat) : PubSet :=
  let staged := modAt u.staged (u.staged.length - 1) fun _ => v
  { u with staged, captured := some staged, after := u.after.map fun _ => false }

/-- The staged values after a publication (R63). -/
def reloaded : List Nat → List Nat → List Bool → List Nat
  | l :: ls, t :: ts, a :: as => (if a then t else l) :: reloaded ls ts as
  | l :: ls, _ :: ts, [] => l :: reloaded ls ts []
  | _, _, _ => []

/-- The capture published, its members adjusted by f (R61, R63). -/
def PubSet.publish (u : PubSet) (f : List Nat → List Nat) : PubSet :=
  match u.captured with
  | none => u
  | some c =>
    { live := f c, staged := reloaded (f c) u.staged u.after, captured := none
      after := u.after.map fun _ => false }

/-- A commit sets members. Where no closing write is outstanding the staged values are reloaded
(R65). -/
def PubSet.commit (u : PubSet) (f : List Nat → List Nat) : PubSet :=
  { u with live := f u.live, staged := if u.captured.isSome then u.staged else f u.live }

/-! ## The sets -/

/-- The members of the egress arbiter set as they are taken at publication (R376). -/
def arbTaken : List Nat → List Nat
  | [a, b, c] => [max 1 (min 4096 a), min 32 b, c]
  | l => l

def publishArb (n : Nat) (s : State) : State :=
  s.modArb n fun a => { a with set := a.set.publish arbTaken }

def publishPwr (b : BlockRef) (s : State) : State :=
  s.modBlk b fun x => { x with set := x.set.publish id }

/-- The Breeze walk set: bit 1 restarts the walk at BRZ_FIRST (R306). -/
def publishBrz (h : Nat) (s : State) : State :=
  s.modChk h fun c =>
    let set := c.brz.publish id
    { c with
      brz := set
      brzPos := if c.brz.captured.isSome && bit (set.live.getD 3 0) 1 then set.live.getD 0 0 else c.brzPos }

def publishUd (u : Nat) (s : State) : State :=
  s.modUd u fun d => { d with set := d.set.publish id }

/-- ℓ and the clean count set; a change of ℓ is recorded with the step that begins (Table 09.7). -/
def Cve.setScale (c : Cve) (step : Nat) (v : Int × Nat) : Cve :=
  { c with cur := v.1, clean := v.2, lastStep := if v.1 = c.cur then c.lastStep else BitVec.ofNat 32 step }

/-- The adjustments of R230 that a step boundary owes: those of steps whose STEPWORD has completed, in order. -/
def Cve.adjustNow (c : Cve) (step : Nat) (done : Nat → Bool) : Cve :=
  let v := ({ c with adjusts := c.adjusts.filter fun a => done a.1 } : Cve).owed
  { v with
    adjusts := c.adjusts.filter fun a => !done a.1
    lastStep := if v.cur = c.cur then c.lastStep else BitVec.ofNat 32 step }

/-- The publication of the loss-scale set (R232). -/
def Cve.publishScale (c : Cve) (step : Nat) : Cve :=
  if c.set.captured.isNone then c
  else
    let c : Cve := { c with set := c.set.publish id }
    let b := c.bounds
    if bit (c.set.live.getD 3 0) 1 then
      c.setScale step (clampInt b.1 b.2 (signed 8 (c.set.live.getD 0 0)), 0)
    else c.setScale step (clampInt b.1 b.2 c.cur, c.clean)

/-! ## At a boundary -/

/-- The light engines whose blocks publish at a partition's boundaries: those that serve its ports. -/
def FrameEntry.les (e : FrameEntry) : List Nat :=
  (List.range 8).filter fun m => (List.range 16).any fun k => bit e.portMask (16 * m + k)

/-- The sets that publish at every tick boundary of a partition (Table 02.10). -/
def publishTick (p : Nat) (s : State) : State :=
  let e := (s.part p).frame
  let s := forAll e.ports publishArb s
  let s := forAll e.cds (fun d t => forAll dieBlocks (fun i u => publishPwr (.die d i) u) t) s
  let s := forAll e.stacks (fun h t => publishBrz h (publishPwr (.hub h) t)) s
  let s := forAll e.uds (fun u t => publishPwr (.ud u) t) s
  forAll e.les (fun m t => publishPwr (.le m) t) s

/-- Whether a die's STEPWORD of a step has not yet completed. -/
def Seq.wordEnding (q : Seq) (step : Nat) : Bool :=
  q.steps.any fun u => u.step == step &&
    u.recs.any fun x => x.record.opcode == 0x0604 && x.phase == .running && x.executed

/-- The sets that publish at a step boundary, after the adjustments of R230, each of which waits for its
STEPWORD's completion. `step` is the step that begins, all ones where none does. -/
def publishStep (p step : Nat) (s : State) : State :=
  let e := (s.part p).frame
  let s := forAll e.uds publishUd s
  forAll e.cds
    (fun d t =>
      let done := fun (n : Nat) => !(t.cd d).seq.wordEnding n
      t.modCve d fun c => (c.adjustNow step done).publishScale step) s

end Sys2Proof.Machine
end

