-- ==== Sys2Proof/Machine/Commit.lean ====
section
/-! DEFINITION. The commit of a pending image (02 R52 to R59): what a job image sets in the dies, hubs and
ports of its partition, and what a frame image sets. -/

namespace Sys2Proof.Machine

/-! ## A job image -/

/-- Whether a region of an image is reduced into: its stacks then reserve the cell area (R211). -/
def JobImage.reduces (i : JobImage) : Bool := i.regions.any fun g => g.length != 0 && g.mode != 0

/-- The cell area reserved or released (R211, R278): while ways 16 to 31 are being cleared no space is
free. -/
def cellArea (h : Nat) (on : Bool) (s : State) : State :=
  let hub := s.hub h
  if on then
    if hub.red.reserved then s
    else
      let s := s.setHub h (hub.dropWays 16)
      (s.modMem h fun m => { m with ways := 16, clearing := true }).modRed h fun q =>
        { q with reserved := true, cellFree := 0 }
  else if hub.red.reserved then
    (s.modMem h fun m => { m with ways := 32, clearing := false }).modRed h fun q =>
      { q with reserved := false, cellFree := 0x02000000, granules := [] }
  else s

/-- The Breeze members that a commit sets (R306): the service section's, on parts with Breeze, and
BRZ_LAST held below a capacity that has shrunk. -/
def brzCommit (breeze : Bool) (v : Service) (shrunk : Option Nat) : List Nat → List Nat
  | [first, last, rate, ctrl] =>
    let last := match shrunk with
      | some cap => min last (cap - 64)
      | none => last
    if breeze then [first, last, v.breezeRate, ctrl / 2 * 2 + b2n v.breeze] else [first, last, rate, ctrl]
  | l => l

/-- What a commit sets in a hub (R39, R272, R278, R303, R306). A new map-out changes the place of
many bytes, and every line is at its old place before (R276): the whole cache is written back and
invalid. DEDUCED (log entry 89). -/
def commitHub (i : JobImage) (n : Nat) (newMap : Bool) (h : Nat) (s : State) : State :=
  let use := i.chanUse h
  let cap := usableBytes use
  let m := (s.hub h).mem
  let s := if m.chanUse = use then s else s.setHub h ((s.hub h).dropWays 0)
  let s := cellArea h i.reduces s
  let s := if newMap then s.modRed h fun q => { q with closed := [], history := [] } else s
  let s := s.modMem h fun m =>
    { m with chanUse := use, usable := cap, interleaved := interleavedEnd i.regions n }
  let breeze := hasBreeze s.ctrl.ident.part
  s.modChk h fun c =>
    { c with
      ret := if m.chanUse = use then c.ret else []
      retPending := if m.chanUse = use then c.retPending else none
      brz := c.brz.commit (brzCommit breeze i.service (if cap < m.usable then some cap else none)) }

/-- The clock limits of a power policy (R402); `lull` is false for a block whose lull field discards
writes. -/
def pwrCommit (y : Policy) (lull : Bool) : List Nat → List Nat
  | [_, _, ctrl] => [y.floor, y.ceiling, if lull then ctrl / 4 * 4 + y.deepest else ctrl]
  | l => l

/-- A policy's limits set in a block. -/
def commitPwr (y : Policy) (lull : Bool) (b : BlockRef) (s : State) : State :=
  s.modBlk b fun x => { x with set := x.set.commit (pwrCommit y lull) }

/-- The frozen bits of an update section, as UD_FREEZE0 to UD_FREEZE127 (R261). -/
def frozenWords (u : UpdSection) : List Nat :=
  (List.range 128).map fun j =>
    (((List.range 32).zip ((u.entries.drop (32 * j)).take 32)).filter fun x => x.2.frozen).foldl
      (fun n x => n + 2 ^ x.1) 0

/-- The frozen bits of the image in force; none frozen where there is none. -/
def Part.frozenNow (q : Part) : List Nat :=
  match q.active with
  | some i => frozenWords i.upd
  | none => List.replicate 128 0

/-- Fennel's counts start again at a commit that changes its field (R491). -/
def commitFennel (k : Nat) (d : Nat) (s : State) : State :=
  if (s.cd d).eng.fennel.rate = k then s
  else s.modEng d fun g =>
    { g with
      fennel := { g.fennel with rate := k }
      mxe := g.mxe.map fun m => { m with fnCount := 0, fnSelected := 0 } }

/-- The discipline after a commit (R70, R73): free where the partition is the reference, else acquiring;
ticks renumbered where the cadence has changed or the offset has jumped. -/
def Discipline.commit (d : Discipline) (now : Nat) (old new : Cadence) : Discipline :=
  let e : Discipline :=
    if new.timeSource = 0xFF then
      { d with sync := 0, offset := 0, since := now, rate := 0, err := 0, run := 0, reacquiring := false
               returned := false }
    else { d.rebase now 1 with rate := 0, run := 0, reacquiring := false, returned := false }
  if old.period = new.period && old.phase = new.phase && e.offset = d.offsetAt now then e
  else { e with tick := latestTick new (twos 64 ((now : Int) + e.offset / 16)) }

/-- A pending job image committed at boundary n of its partition (R54, R59). -/
def commitJob (p n : Nat) (s : State) : State :=
  let q := s.part p
  match q.pendingImg with
  | none => s
  | some i =>
    let e := q.frame
    let newMap := (q.active.map fun o => o.sectBytes 2) != some (i.sectBytes 2)
    let frozen := frozenWords i.upd
    let s := s.modPart p fun q =>
      { q with
        active := some i
        pendingImg := none
        loader := { q.loader with
          state := 4, commitTick := n, pendingTick := 0, digest := i.digest
          commits := sat16 q.loader.commits }
        fab := { q.fab with modulesOut := [], ringsBroken := [] } }
    let s := forAll e.stacks
      (fun h t => commitPwr i.policy false (.hub h) (commitHub i e.stacks.length newMap h t)) s
    let s := forAll e.uds
      (fun u t =>
        let t := commitPwr i.policy true (.ud u) t
        if frozen = q.frozenNow then t
        else t.modUd u fun d => { d with set := d.set.commit fun l => frozen ++ l.drop 128 }) s
    let s := forAll e.cds
      (fun d t =>
        commitFennel i.service.fennel d
          (forAll dieBlocks (fun b v => commitPwr i.policy true (.die d b) v) t)) s
    let s := s.modDisc p fun d => d.commit s.now q.cadence i.cadence
    forAll e.ports (fun n t => decidePeer n t) s

/-- Whether an image changes a structural section of the image in force (R56). -/
def Part.changesShape (q : Part) (i : JobImage) : Bool :=
  match q.active with
  | some o => structural.any fun t => i.sectBytes t != o.sectBytes t
  | none => true

/-- Whether an image changes the update regions section (R54). -/
def Part.changesUpdate (q : Part) (i : JobImage) : Bool :=
  match q.active with
  | some o => i.sectBytes 4 != o.sectBytes 4
  | none => true

/-! ## A frame image -/

/-- A pending frame image committed at module tick n (R29, R54, R399). A port that is allotted no longer goes dark
(R329). Every partition then runs the default cadence, its ticks numbered as module ticks. -/
def commitFrame (n : Nat) (s : State) : State :=
  match s.ctrl.pendingFrame with
  | none => s
  | some f =>
    let out := fun n => (s.partOfPort n).isSome && !f.entries.any fun e => e.cdCount != 0 && bit e.portMask n
    let s := forAll ((List.range 128).filter out) (fun n t => darkPort n 3 t) s
    let s := s.modCtrl fun c =>
      { c with
        pendingFrame := none
        frameLoader := { c.frameLoader with
          state := 4, commitTick := n, pendingTick := 0, digest := f.digest
          commits := sat16 c.frameLoader.commits } }
    let s := forAll partNums
      (fun p t =>
        let e := f.entries.getD p {}
        t.modPart p fun q =>
          { q with
            present := e.cdCount != 0
            frame := if e.cdCount = 0 then {} else e
            disc := { ({} : Discipline) with tick := n - 1 } }) s
    let s := forAll partNums (fun p t => if (t.part p).present then setShares p t else t) (clearShares s)
    forRange 128 decidePeer s

/-- Whether the frame waits for a partition reset (R438). -/
def State.anyResetting (s : State) : Bool := partNums.any fun p => (s.part p).resetting

end Sys2Proof.Machine
end

