-- ==== Sys2Proof/Machine/Lull.lean ====
section
/-! DEFINITION. When a block sleeps and when its SEQ asks for its wake (16 R403 to R406, R409). -/

namespace Sys2Proof.Machine

/-! ## A block's work -/

/-- The compute die whose SEQ feeds a block, if any. -/
def blockSeq : BlockRef → Option Nat
  | .die d _ => some d
  | .ud u => some (u / 2)
  | _ => none

/-- Whether a record of the feeding die is work of a block: its own unit's; for a scratchpad slice any
engine's; for Fennel a matrix engine's. -/
def blockUses (b : BlockRef) (unit : Nat) : Bool :=
  match b with
  | .die _ i =>
    if 0x20 ≤ i then unit < 0x11 && unit != 0x0F
    else if i = 0x18 then unit < 10
    else unit == i
  | .ud u => unit == 0x13 + u % 2
  | _ => false

/-- The steps of a die in stream memory: their first tick, their records not yet started, and whether
they are waiting to start (R77). -/
def State.memorySteps (s : State) (p d : Nat) : List (Nat × List Record) :=
  let st := (s.part p).stream
  let begun := (s.cd d).seq.steps.map fun u =>
    (u.startTick, (u.recs.filter fun x => x.phase == .waiting).map (·.record))
  let first := if st.started then st.stepStart + st.stepTicks
    else max ((s.part p).disc.tick + 1) ((st.queued.head?).elim 0 (·.startTick))
  let queued := st.queued.foldl
    (fun (acc : Nat × List (Nat × List Record)) g =>
      (acc.1 + g.ticks, acc.2 ++ [(acc.1, ((g.dies.find? fun e => e.die == d).elim [] (·.records)))]))
    (first, [])
  begun ++ queued.2

/-- The tick of the slot boundary of a block's next record; none where it is not known (R404). -/
def State.nextSlot (s : State) (p : Nat) (b : BlockRef) : Option Nat :=
  match blockSeq b with
  | none => none
  | some d =>
    let slots := (s.memorySteps p d).flatMap fun x =>
      (x.2.filter fun r => blockUses b r.unit).map fun r => x.1 + r.slot
    slots.foldl (fun m x => some (m.elim x (min x))) none

/-- The wake time of a lull in ns (R403). -/
def wakeNs (lull : Nat) : Nat := if lull = 3 then 40000 else if lull = 2 then 2000 else 20

/-- L of R404 in ticks. -/
def wakeLead (period lull : Nat) : Nat := ceilDiv (wakeNs lull + 8000) period

/-- Whether a block has a running or a startable record. -/
def State.blockBusy (s : State) (p : Nat) (b : BlockRef) : Bool :=
  match blockSeq b with
  | none => true
  | some d => (s.cd d).seq.steps.any fun u =>
      ((List.range u.recs.length).zip u.recs).any fun x =>
        blockUses b x.2.record.unit &&
          (x.2.phase == .running || startable p u ⟨d, u.step, x.1⟩ x.2 s)

/-- How far ahead in ns of partition time a block's wake point lies for a lull, if its next record is
known. -/
def State.wakeAhead (s : State) (p : Nat) (b : BlockRef) (lull : Nat) : Option Int :=
  (s.nextSlot p b).map fun n =>
    let c := (s.part p).cadence
    ((n : Int) - wakeLead c.period lull) * c.period + c.phase - (s.partTime p : Int)

/-! ## LULL_ENTER -/

/-- Whether R405 lets a block enter lull-3. -/
def State.mayPowerOff (s : State) (p : Nat) (b : BlockRef) : Bool :=
  let quiet := !(s.part p).stream.running
  match b with
  | .die d i =>
    if i < 10 then (((s.cd d).eng.mxe.getD i {}).tiles).all (·.clear)
    else if 0x20 ≤ i then quiet
    else if i = 0x0F then
      quiet && (s.part p).stream.queued.all fun g => !g.dies.any fun e => e.die == d && e.records != []
    else true
  | _ => true

/-- The lull a block enters now; 0 for none (R403 to R405). -/
def State.lullFor (s : State) (p : Nat) (b : BlockRef) : Nat :=
  let deepest := min ((s.blk b).set.live.getD 2 0 % 4) (blockDeepest b)
  let far := fun lull ns => (s.wakeAhead p b lull).all fun t => (ns : Int) ≤ t
  if 3 ≤ deepest && far 3 200000 && s.mayPowerOff p b then 3
  else if 2 ≤ deepest && far 2 10000 then 2
  else if 1 ≤ deepest then 1 else 0

/-- Whether any request waits on the segment whose tokens a block uses (R409). -/
def State.segWaits (s : State) (b : BlockRef) : Bool :=
  match blockTokenSeg b with
  | some (d, g) => (segBlocks d g).any fun x => (s.blk x).request.isSome
  | none => false

/-- LULL_ENTER: a block with no running and no startable record enters the deepest lull that its wake
point and R405 allow. Lull-1 is entered at once; a deeper one takes its entry time. -/
def execLullEnter (blk : BlockRef) (s : State) : Host.Outcome State Fault Refusal :=
  onlyIf blk.wf <|
    match s.blockPart blk with
    | none => s
    | some p =>
      let x := s.blk blk
      let free := x.mode == .running || x.mode == .lull1
      if free && s.live (blockSite blk) && !s.blockBusy p blk && !s.segWaits blk then
        match s.lullFor p blk with
        | 0 => s
        | 1 => s.modBlk blk fun x => { x with mode := .lull1, lull := 1 }
        | n => s.modBlk blk fun x => { x with mode := .entering, lull := n }
      else s

/-! ## Wake points (R404, R406) -/

/-- The lull a block is in or is entering. -/
def PwrBlock.lullOf (x : PwrBlock) : Nat :=
  match x.mode with
  | .lull2 => 2
  | .lull3 => 3
  | .entering => x.lull
  | _ => 0

/-- At a tick boundary, a class 2 request for each sleeping block of a partition whose wake point has
come. -/
def wakePoints (p : Nat) (s : State) : State :=
  let e := (s.part p).frame
  let bs := e.cds.flatMap (fun d => dieBlocks.map fun i => BlockRef.die d i) ++ e.uds.map fun u => BlockRef.ud u
  forAll bs
    (fun b t =>
      let x := t.blk b
      if x.asleep && x.request.isNone then
        match t.nextSlot p b with
        | some n =>
          if n ≤ (t.part p).disc.tick + wakeLead (t.part p).cadence.period x.lullOf then requestWake b 2 t else t
        | none => t
      else t) s

end Sys2Proof.Machine
end

