-- ==== Sys2Proof/Machine/Optics.lean ====
section
/-! DEFINITION. Ring tuning and laser care (14): the search, lock, tone windows, relocks, feed-forward,
laser thresholds and swaps. Ring r of port n has index 16n + r, laser j of engine m index 10m + j. -/

namespace Sys2Proof.Machine

/-! ## Lasers and rings -/

/-- The ports of a light engine (R311). -/
def lePorts (m : Nat) : List Nat := (List.range 16).map (· + 16 * m)

/-- Whether a port's search left it a transmit and a receive lane (R445). -/
def State.portSearched (s : State) (n : Nat) : Bool :=
  let ok := fun (k : Nat) => ((s.port n).rings.getD k {}).state != 6
  ((List.range 8).any ok) && ((List.range 8).any fun k => ok (8 + k))

/-! ## The search (R343, R344) -/

/-- Whether the search fails a ring: it did not identify every line in use, or named one line at
settings that are not one free spectral range apart (R343). -/
def RingRes.fails (r : RingRes) (removed : Byte) : Bool :=
  (List.range 8).any (fun l => !bit removed.toNat l && (r.settings l).isEmpty) ||
    (List.range 8).any fun l =>
      let v := r.settings l
      (v.zip (v.drop 1)).any fun x => !Config.oneRange x.1 x.2

/-- The cost of a shift for a port's transmit rings that have not failed, or none where it is excluded
(R344). A removed line sets no condition. -/
def shiftCost (rings : List RingRes) (removed : Byte) (σ : Nat) : Option Nat :=
  (List.range 8).foldl
    (fun acc k =>
      let r := rings.getD k {}
      let line := (k + σ) % 8
      if r.state = 6 || bit removed.toNat line then acc
      else match acc, r.settingFor line with
        | some c, some v => some (max c v)
        | _, _ => none) (some 0)

/-- The shift of least cost, the lower on a tie (R344); none where every shift is excluded. -/
def bestShift (rings : List RingRes) (removed : Byte) : Option Nat :=
  ((List.range 8).foldl
    (fun (best : Option (Nat × Nat)) σ =>
      match best, shiftCost rings removed σ with
      | none, some c => some (c, σ)
      | some (b, τ), some c => if c < b then some (c, σ) else some (b, τ)
      | best, none => best) none).map (·.2)

/-- A port's rings assigned (R344, R345): transmit rings await their tone, receive rings begin on the
transmit shift. A lane is out for cause 5 from then on where its new line is removed (R360, R361). -/
def assignPort (n : Nat) (s : State) : State :=
  let e := s.le (n / 16)
  s.modPort n fun q =>
    match bestShift (q.rings.take 8) e.removed with
    | none => { q with rings := q.rings.map fun r => if r.state = 6 then r else { r with state := 2 } }
    | some σ =>
      let put := fun (k : Nat) (r : RingRes) => r.assign e ((k % 8 + σ) % 8) (if k < 8 then 5 else 4)
      { q with
        txShift := σ, rxShift := σ, adopted := false
        tx := ((List.range 8).zip q.tx).map fun x =>
          { x.2 with
            causes := if e.isRemoved ((x.1 + σ) % 8) then addCause x.2.causes 5 else dropCause x.2.causes 5 }
        rings := ((List.range 16).zip q.rings).map fun x => put x.1 x.2 }

/-- What the search found on a port's rings: failed rings are marked, counted and logged (R343). -/
def identifyPort (n : Nat) (obs : SearchObs) (s : State) : State :=
  let removed := (s.le (n / 16)).removed
  let s := s.modPort n fun q => { q with ringsFailed := 0 }
  forRange 16
    (fun k t =>
      let dips := ((obs.rings.find? fun f => f.port == n && f.ring == k).map (·.dips)).getD []
      let r : RingRes := { (t.port n).rings.getD k {} with dips, state := 1 }
      if r.fails removed then
        logEvent 0x32 (winLe (n / 16)) (partCode (t.partOfPort n))
          [BitVec.ofNat 8 n, BitVec.ofNat 8 k, 0]
          ((t.modRing n k fun _ => { r with state := 6 }).modPort n
            fun q => { q with ringsFailed := min (q.ringsFailed + 1) 255 })
      else t.modRing n k fun _ => r) s

/-- A heater's setting within its 0 to 60 mW. -/
def heatClamp (v : Int) : Int := clampInt 0 15360 v

/-- The settings midway between two neighbouring lines that the search met. -/
def RingRes.midways (r : RingRes) : List Nat :=
  let v := sortBy (fun d => d.2) r.dips
  ((v.zip (v.drop 1)).filter fun x => x.1.1 != x.2.1).map fun x => (x.1.2 + x.2.2) / 2

/-- The setting at which a ring is parked (R351): midway between two lines, which two being the search's choice. -/
def RingRes.parkAt (r : RingRes) (choice : Nat) : Int :=
  ((r.midways[choice % r.midways.length]?).map fun v => heatClamp (v : Nat)).getD r.heater

/-- A mislocked ring parked between two lines; a transmit ring withdraws its lane with cause 4 (R351). -/
def parkRing (n k : Nat) (s : State) : State :=
  let s := s.modRing n k fun r =>
    { r with state := 2, heater := r.parkAt (Config.parkPair (16 * n + k)), nameless := 0 }
  if k < 8 then txWithdraw n k 4 s else s

/-- A transmit ring whose tone window names its laser is confirmed; one whose window names another is
mislocked and parked, and one whose window names none waits for the next (R351, R353). -/
def confirmRing (n k : Nat) (named : Nat) (s : State) : State :=
  let r := (s.port n).rings.getD k {}
  if r.state != 5 then s
  else
    let s := s.modRing n k fun r => { r with tone := named, windows := 1, nameless := b2n (named == 0xF) }
    if named == r.expect then txClear n k 4 (s.modRing n k fun r => { r with state := 4 })
    else if named == 0xF then txWithdraw n k 4 s
    else parkRing n k s

/-- The last phase on a port: one tone window on every transmit ring (R353). -/
def confirmPort (n : Nat) (obs : SearchObs) (s : State) : State :=
  let s := forRange 8
    (fun k t =>
      let named := ((obs.tones.find? fun f => f.1 == n && f.2.1 == k).map (·.2.2)).getD 0xF
      confirmRing n k named t) s
  s.modPort n fun q => { q with searchMs := min obs.ms 0xFFFF }

/-- The serving lasers lit, and every ring of the engine searching, with κ_r from its calibration
(R343, R348, R362). -/
def lightLasers (m : Nat) (s : State) : State :=
  let cal := s.ctrl.ident.kappa
  let s := s.modLe m fun e =>
    { e with
      phase := 2, optState := 2
      lasers := e.lasers.map fun l => if l.line < 8 && l.state != 4 then { l with state := 3 } else l }
  forAll (lePorts m)
    (fun n t => t.modPort n fun q =>
      { q with
        rings := ((List.range 16).zip q.rings).map fun x =>
          { x.2 with state := 1, ffCoef := look cal (16 * n + x.1) 0 } }) s

/-- LE_OPT_STATE after a search: 5 where no port of the engine has a lane each way (R445, Table 14.11). -/
def endSearch (m : Nat) (s : State) : State :=
  s.modLe m fun e => { e with optState := if (lePorts m).any s.portSearched then 4 else 5 }

/-- The next phase of an engine's search (Table 14.2). -/
def searchPhase (m : Nat) (obs : SearchObs) (s : State) : State :=
  match (s.le m).phase with
  | 1 => lightLasers m s
  | 2 => s.modLe m fun e => { e with phase := 3 }
  | 3 => (forAll (lePorts m) (fun n t => identifyPort n obs t) s).modLe m
      fun e => { e with phase := 4, optState := 3 }
  | 4 => (forAll (lePorts m) (fun n t => assignPort n t) s).modLe m fun e => { e with phase := 5 }
  | 5 => endSearch m (((forAll (lePorts m) (fun n t => confirmPort n obs t) s).modLe m
      fun e => { e with phase := 0, searchMs := obs.ms % 2 ^ 32 }).modMod
      fun c => if c.state = 4 then { c with stageAt := s.now } else c)
  | _ => s

/-- RING_SEARCH_PHASE_END: a phase of the start-up search ends, or the search of one port's rings in a
retrain does (R343). -/
def execRingSearchPhaseEnd (le : Nat) (port : Option Nat) (obs : SearchObs) (s : State) :
    Host.Outcome State Fault Refusal :=
  onlyIf (Instr.wf (.ringSearchPhaseEnd le port obs)) <|
    match port with
    | none => searchPhase le obs s
    | some n =>
      if (s.port n).link.searching && n / 16 == le then
        endSearch le ((confirmPort n obs (assignPort n (identifyPort n obs s))).modLink n
          fun k => { k with searching := false })
      else s

/-! ## Holding lock (R346, R350) -/

/-- Whether a ring is fed and under feedback: acquiring, locked or awaiting its tone. -/
def RingRes.held (r : RingRes) : Bool := r.state == 3 || r.state == 4 || r.state == 5

/-- A ring that hops one order, down when it needs more than 58 mW, up when less than 2 mW (R350). -/
def hopRing (n k : Nat) (up : Bool) (s : State) : State :=
  let s := if k < 8 then txWithdraw n k 4 s else s
  let heat : Int := (Config.rangeHeat (16 * n + k) : Nat)
  let s := s.modRing n k fun r =>
    let v := heatClamp (if up then r.heater + heat else r.heater - heat)
    { r with state := 3, order := up, heater := v, setting := v, hops := sat r.hops, windows := 0 }
  let s := s.modLog fun l =>
    let e := look l.live.rings (16 * n + k) (0, 0)
    { l with live := { l.live with rings := place l.live.rings (16 * n + k) (0, 0) (e.1, sat16 e.2) } }
  logEvent 0x32 (winLe (n / 16)) (partCode (s.partOfPort n))
    [BitVec.ofNat 8 n, BitVec.ofNat 8 k, BitVec.ofNat 8 (b2n up)] s

/-- A sample of a ring's detuning, every 1 µs; RG_DETUNE shows the mean of the last 10 (Table 14.8). Which way a
fraction of the mean goes is not said. -/
def RingRes.sample (r : RingRes) (salt : Nat) (detune : Int) : RingRes :=
  let v := (detune :: r.detunes).take 10
  let total := v.foldl (· + ·) 0
  let up := if total % (v.length : Int) == 0 then 0 else (b2n (Config.halfUp salt) : Int)
  { r with detunes := v, detune := clampInt (-32768) 32767 (total / (v.length : Int) + up) }

/-- Whether a transmit ring is on the line of a swap that has switched lasers (R358). -/
def Le.swapping (e : Le) (k line : Nat) : Bool :=
  match e.swap with
  | some w => k < 8 && w.stage == 2 && w.line == line
  | none => false

/-- Whether a ring that locks awaits its tone: a transmit ring does (R353), unless it stayed in place in a
swap (R358). -/
def State.awaitsTone (s : State) (n k line : Nat) : Bool :=
  k < 8 && (bit ((s.port n).tx.getD k {}).causes 4 || !(s.le (n / 16)).swapping k line)

/-- RING_LOCK_LOOP: a ring's feedback moves its heater. An acquiring ring locks within ±3 GHz; a locked
one hops when its set point leaves 2 mW to 58 mW (R346, R350). -/
def execRingLockLoop (n ring : Nat) (detune heaterStep : Int) (s : State) :
    Host.Outcome State Fault Refusal :=
  onlyIf (ringWf n ring) <|
    let r := (s.port n).rings.getD ring {}
    if !r.held then s
    else
      let v := heatClamp (r.heater + heaterStep)
      let near := -30 ≤ detune && detune ≤ 30
      let on := if s.awaitsTone n ring r.line then 5 else 4
      let s := s.modRing n ring fun r =>
        { r.sample (16 * n + ring) detune with
          heater := v
          state := if r.state = 3 && near then on else r.state
          windows := if r.state = 3 && near then 0 else r.windows
          nameless := if r.state = 3 && near then 0 else r.nameless }
      if r.state = 3 then s
      else if v > 14848 then hopRing n ring false s
      else if v < 512 then hopRing n ring true s else s

/-- RING_UNLOCK: a ring off its point for 20 µs reacquires where it is; a transmit ring withdraws its
lane with cause 4 (R346). -/
def execRingUnlock (n ring : Nat) (s : State) : Host.Outcome State Fault Refusal :=
  onlyIf (ringWf n ring) <|
    let r := (s.port n).rings.getD ring {}
    if r.state = 4 || r.state = 5 then
      let s := s.modRing n ring fun r => { r with state := 3, unlocks := sat r.unlocks }
      if ring < 8 then txWithdraw n ring 4 s else s
    else s

/-! ## Tone windows (R342, R351 to R353) -/

/-- The laser that a window names: the strongest tone, at least 6 dB above the next (R342); 0xF for
none. Levels are in 0.01 dB. -/
def namedLaser (levels : List Int) : Nat :=
  match (List.range 10).find? fun j =>
      (List.range 10).all fun i => i == j || levels.getD i (-100000) + 600 ≤ levels.getD j (-100000) with
  | some j => j
  | none => 0xF

/-- TONE_WINDOW_END: a window of a locked ring. A transmit ring's window names its laser and confirms
it, names another and is a mislock, or names none, which is one the second time in a row (R351,
R353). -/
def execToneWindowEnd (n ring : Nat) (levels : List Int) (s : State) : Host.Outcome State Fault Refusal :=
  onlyIf (ringWf n ring) <|
    let r := (s.port n).rings.getD ring {}
    if r.state = 4 || r.state = 5 then
      let named := namedLaser levels
      let nameless := if named = 0xF then r.nameless + 1 else 0
      let s := s.modRing n ring fun r =>
        { r with tone := named, windows := min (r.windows + 1) 0xFFFF, nameless }
      if ring ≥ 8 then s
      else if named = r.expect then
        if r.state = 5 then txClear n ring 4 (s.modRing n ring fun r => { r with state := 4 }) else s
      else if named != 0xF || nameless ≥ 2 then parkRing n ring s
      else s
    else s

/-- RING_RELOCK: a parked ring relocks at its assigned setting; the relock is counted and logged
(R351). A ring whose line has been removed stays parked. -/
def execRingRelock (n ring : Nat) (s : State) : Host.Outcome State Fault Refusal :=
  onlyIf (ringWf n ring) <|
    let r := (s.port n).rings.getD ring {}
    let m := n / 16
    if r.state = 2 && r.line < 8 && !(s.le m).isRemoved r.line && (r.settingFor r.line).isSome then
      let s := s.modRing n ring fun r =>
        { r with
          state := if ring < 8 then 5 else 4
          heater := r.setting, windows := 0, nameless := 0, relocks := sat r.relocks }
      let s := s.modLe m fun e => { e with relocks := sat e.relocks }
      let s := s.modLog fun l =>
        let e := look l.live.rings (16 * n + ring) (0, 0)
        { l with live := { l.live with
            relocks := sat l.live.relocks
            rings := place l.live.rings (16 * n + ring) (0, 0) (sat16 e.1, e.2) } }
      logEvent 0x31 (winLe m) (partCode (s.partOfPort n))
        [BitVec.ofNat 8 n, BitVec.ofNat 8 ring, BitVec.ofNat 8 r.expect, BitVec.ofNat 8 r.tone] s
    else s

/-! ## The far end's shift (R345) -/

/-- The receive rings adopt the far shift. -/
def adoptShift (n σ : Nat) (s : State) : State :=
  let e := s.le (n / 16)
  s.modPort n fun q =>
    { q with
      rxShift := σ, adopted := true
      rings := ((List.range 16).zip q.rings).map fun x =>
        if x.1 < 8 then x.2 else x.2.moveTo e ((x.1 - 8 + σ) % 8) }

/-! ## Feed-forward (R347, R348) -/

/-- Half of an integer, a half going the way the configuration says. -/
def halfOf (salt : Nat) (v : Int) : Int := if Config.halfUp salt then (v + 1) / 2 else v / 2

/-- κ_r kept between 0.25 and 4 times its calibrated value (R348). -/
def kappaClamp (cal v : Int) : Int :=
  if cal ≥ 0 then clampInt ((cal + 3) / 4) (4 * cal) v else clampInt (4 * cal) (-((-cal + 3) / 4)) v

/-- KAPPA_FIT: every κ_r moves halfway toward its fit (R348). -/
def execKappaFit (le : Nat) (fits : List (Nat × Nat × Int)) (s : State) :
    Host.Outcome State Fault Refusal :=
  onlyIf (Instr.wf (.kappaFit le fits)) <|
    forAll fits
      (fun f t =>
        let cal := look t.ctrl.ident.kappa (16 * f.1 + f.2.1) 0
        t.modRing f.1 f.2.1 fun r =>
          { r with ffCoef := kappaClamp cal (r.ffCoef + halfOf (16 * f.1 + f.2.1) (f.2.2 - r.ffCoef)) }) s

/-- The forecast that an engine last had from a die, and the one for the tick in progress before this boundary. -/
def Le.forecasts (e : Le) (d : Nat) : Nat × Nat :=
  if d % 2 = 0 then (e.ffLast0, e.ffNow0) else (e.ffLast1, e.ffNow1)

/-- A die's forecast for the next tick reaches its engine; one that has been cut out discards it (R347, R388). -/
def takeForecast (d f : Nat) (s : State) : State :=
  if s.isCut (.le (d / 2)) then s
  else s.modLe (d / 2) fun e => if d % 2 = 0 then { e with ffLast0 := f } else { e with ffLast1 := f }

/-- The boundary at which a die's forecast takes effect: its engine's rings' set points move by κ_r times its change
(R348), in units of 1/256 mW. -/
def feedForward (d : Nat) (s : State) : State :=
  let m := d / 2
  let e := s.le m
  let f := (e.forecasts d).1
  let old := (e.forecasts d).2
  let s := s.modLe m fun e => if d % 2 = 0 then { e with ffNow0 := f } else { e with ffNow1 := f }
  if bit e.ffCtrl.toNat 0 then
    forAll (lePorts m)
      (fun n t => t.modPort n fun q =>
        { q with
          rings := q.rings.map fun r =>
            if r.held then { r with heater := heatClamp (r.heater + r.ffCoef * ((f : Int) - (old : Int)) / 4) }
            else r }) s
  else s

/-! ## Laser care (R355 to R362) -/

/-- The start-of-life bias of a laser, in µA. -/
def State.solBias (s : State) (m j : Nat) : Nat := look s.ctrl.ident.sol (10 * m + j) 0

/-- LASER_BIAS_LOOP: a serving laser's drive is adjusted while its output is not within ±0.1 dB of
target, up to 150 % of its start-of-life bias (R355). -/
def execLaserBiasLoop (le j : Nat) (output : Int) (biasStep : Int) (s : State) :
    Host.Outcome State Fault Refusal :=
  onlyIf (le < 8 && j < 10) <|
    let top := s.solBias le j * 3 / 2
    s.modLaser le j fun l =>
      if l.state = 3 && (output < l.target - 10 || l.target + 10 < output) then
        { l with drive := (clampInt 0 (top : Nat) ((l.drive : Nat) + biasStep)).toNat }
      else l

/-- The transmit lanes of an engine whose rings are assigned a line. -/
def State.lineLanes (s : State) (m line : Nat) : List (Nat × Nat) :=
  (lePorts m).flatMap fun n =>
    ((List.range 8).filter fun k =>
      ((s.port n).rings.getD k {}).line == line && ((s.port n).rings.getD k {}).state != 6).map
      fun k => (n, k)

/-- The lit lanes of a line withdrawn with cause 5 (R357, R359, R361). -/
def withdrawLine (m line : Nat) (s : State) : State :=
  forAll (s.lineLanes m line)
    (fun x t => if 2 ≤ (t.port x.1).link.light then txWithdraw x.1 x.2 5 t else t) s

/-- An engine's entry of the laser map in force (R472): a new module's W0 to W7 serve their own lines. -/
def State.mapEntry (s : State) (m : Nat) : List Nat × Nat × Byte :=
  (s.ctrl.log.maps.head?.map fun r => r.engines.getD m (List.range 8, 0, 0)).getD (List.range 8, 0, 0)

/-- The laser map in force with a change of engine m: line `line` served by laser `new` (0xF for none, and the line
removed) and laser `old` spent. Written to the logbook; the other engines' entries stay as they are (R360, R362,
R472). -/
def writeMap (m line old new : Nat) (s : State) : State :=
  let one := fun (k : Nat) =>
    let e := s.mapEntry k
    if k = m then
      (modAt e.1 line fun _ => new, if bit e.2.1 old then e.2.1 else e.2.1 + 2 ^ old,
        if new = 0xF then e.2.2 ||| BitVec.ofNat 8 (2 ^ line) else e.2.2)
    else e
  s.modLog fun l =>
    let seq := (l.maps.head?.map fun r => r.seq + 1).getD 0
    let r : MapRec := { seq, boot := l.boot, time := s.now, engines := (List.range 8).map one }
    let fresh := seq % 31 == 0
    let l := if fresh && 248 ≤ seq then l.erased (2 + seq / 31 % 8) else l
    { l with maps := r :: if fresh then l.maps.take 217 else l.maps }

/-- A laser's line queued for a swap, in order of time and then line (R359). -/
def queueSwap (m line : Nat) (s : State) : State :=
  match (s.le m).serving line with
  | none => s
  | some j =>
    if (s.le m).queue.any fun q => q.2 == line then s
    else
      (s.modLaser m j fun l => { l with queued := true }).modLe m
        fun e => { e with queue := sortBy (fun q => q.1 * 8 + q.2) (e.queue ++ [(s.now, line)]) }

/-- A line removed (R361): its laser turned off and spent, its lanes withdrawn for good. -/
def removeLine (m line j : Nat) (s : State) : State :=
  let s := s.modLe m fun e => { e with removed := e.removed ||| BitVec.ofNat 8 (2 ^ line) }
  let s := s.modLaser m j fun l => { l with state := 4, line := 0xF, drive := 0, queued := false }
  let s := withdrawLine m line s
  let s := forAll (s.lineLanes m line)
    (fun x t => (t.modTx x.1 x.2 fun y => { y with causes := addCause y.causes 5 }).modRing x.1 x.2
      fun r => { r with state := 2 }) s
  let s := s.modLe m fun e => { e with queue := e.queue.filter fun q => q.2 != line }
  engineAlert m (.alertLaser m j 0x36)
    (logEvent 0x36 (winLe m) 0xFF [BitVec.ofNat 8 m, BitVec.ofNat 8 line] (writeMap m line j 0xF s))

/-- A swap that is needed with no spare free: LS_STATE bit 17, a record and an alert, once (Table
14.6). -/
def wantSpare (m line j : Nat) (s : State) : State :=
  if ((s.le m).lasers.getD j {}).noSpare then s
  else
    engineAlert m (.alertLaser m j 0x35)
      (logEvent 0x35 (winLe m) 0xFF [BitVec.ofNat 8 m, BitVec.ofNat 8 line]
        (s.modLaser m j fun l => { l with noSpare := true }))

/-- The warning of a laser, once in its life (Table 14.6). -/
def warnLaser (m j bias : Nat) (s : State) : State :=
  let s := s.modLaser m j fun l => { l with warned := true }
  let s := s.modLog fun l =>
    let e := look l.live.lasers (10 * m + j) (0, 0, 0, 0)
    { l with live := { l.live with
        lasers := place l.live.lasers (10 * m + j) (0, 0, 0, 0) (e.1, e.2.1, l.boot, s.now) } }
  engineAlert m (.alertLaser m j 0x33)
    (logEvent 0x33 (winLe m) 0xFF ([BitVec.ofNat 8 m, BitVec.ofNat 8 j] ++ leBytes 4 bias) s)

/-- LASER_THRESHOLD_JUDGE: a 10 ms mean of a serving laser's bias and output judged by Table 14.6. -/
def execLaserThresholdJudge (le j bias : Nat) (output : Int) (s : State) :
    Host.Outcome State Fault Refusal :=
  onlyIf (le < 8 && j < 10) <|
    let l := (s.le le).lasers.getD j {}
    if l.state != 3 then s
    else
      let sol := s.solBias le j
      let s := s.modLaser le j fun l => { l with bias, power := clampInt (-32768) 32767 output }
      let s := s.modLog fun g =>
        let e := look g.live.lasers (10 * le + j) (0, 0, 0, 0)
        { g with live := { g.live with
            lasers := place g.live.lasers (10 * le + j) (0, 0, 0, 0) (e.1, max e.2.1 bias, e.2.2) } }
      let s := if 120 * sol ≤ 100 * bias && !l.warned then warnLaser le j bias s else s
      let weak := output ≤ l.target - 100 && sol * 3 / 2 ≤ bias
      if (s.le le).swap.any (·.line == l.line) then s
      else if l.queued && (s.le le).spares != 0 then if weak then withdrawLine le l.line s else s
      else if (s.le le).spares != 0 then
        if 140 * sol ≤ 100 * bias || weak then queueSwap le l.line s else s
      else if weak then removeLine le l.line j s
      else if 140 * sol ≤ 100 * bias then wantSpare le l.line j s
      else s

/-- LASER_SWAP_START: the first queued swap starts with the lowest free spare: its line's lanes are
withdrawn and the spare warms (R357 step 1, R359). Without a free spare it is discarded. -/
def execLaserSwapStart (le : Nat) (s : State) : Host.Outcome State Fault Refusal :=
  onlyIf (le < 8) <|
    let e := s.le le
    match e.swap, e.queue with
    | none, (_, line) :: rest =>
      match e.serving line with
      | none => s.modLe le fun e => { e with queue := rest }
      | some old =>
        let s := s.modLe le fun e => { e with queue := rest }
        let s := s.modLaser le old fun l => { l with queued := false }
        if e.spares = 0 then
          if 140 * s.solBias le old ≤ 100 * (e.lasers.getD old {}).bias then wantSpare le line old s else s
        else
          let new := if bit e.spares 0 then 8 else 9
          let s := s.modLe le fun e =>
            { e with
              spares := if new = 8 then e.spares - 1 else e.spares % 2
              swap := some { line, old, new, stage := 1 } }
          withdrawLine le line (s.modLaser le new fun l => { l with state := 2 })
    | _, _ => s

/-- SWAP_SPARE_TUNED: the combiner switch puts the spare in the old laser's place; the rings of the
line reacquire and expect the spare (R357 steps 2 and 3). -/
def execSwapSpareTuned (le : Nat) (s : State) : Host.Outcome State Fault Refusal :=
  onlyIf (le < 8) <|
    match (s.le le).swap with
    | some w =>
      if w.stage = 1 then
        let s := s.modLe le fun e => { e with swap := some { w with stage := 2 } }
        let s := s.modLaser le w.old fun l => { l with state := 1, line := 0xF }
        let s := s.modLaser le w.new fun l => { l with state := 3, line := w.line }
        forAll (s.lineLanes le w.line)
          (fun x t => t.modRing x.1 x.2 fun r =>
            { r with expect := w.new, state := if r.state = 4 || r.state = 5 then 3 else r.state }) s
      else s
    | none => s

/-- SWAP_RESUME: the rings of the line have relocked; its lanes resume, the old laser is spent and the
map is written (R357 steps 4 and 5, R358). -/
def execSwapResume (le : Nat) (s : State) : Host.Outcome State Fault Refusal :=
  onlyIf (le < 8) <|
    match (s.le le).swap with
    | some w =>
      if w.stage = 2 then
        let s := s.modLe le fun e => { e with swap := none }
        let s := s.modLaser le w.old fun l => { l with state := 4, line := 0xF, drive := 0 }
        let s := s.modLaser le w.new fun l => { l with swapsIn := wrap32 l.swapsIn }
        let s := forAll (s.lineLanes le w.line)
          (fun x t =>
            let r := (t.port x.1).rings.getD x.2 {}
            let t := if r.state = 3 && !bit ((t.port x.1).tx.getD x.2 {}).causes 4 then
                t.modRing x.1 x.2 fun r => { r with state := 4, windows := 0, nameless := 0 } else t
            txClear x.1 x.2 5 t) s
        let s := (writeMap le w.line w.old w.new s).modLog fun l => { l with live := { l.live with swaps := sat l.live.swaps } }
        engineAlert le (.alertLaser le w.new 0x34)
          (logEvent 0x34 (winLe le) 0xFF
            [BitVec.ofNat 8 le, BitVec.ofNat 8 w.line, BitVec.ofNat 8 w.old, BitVec.ofNat 8 w.new] s)
      else s
    | none => s

end Sys2Proof.Machine
end

