-- ==== Sys2Proof/Machine/Regs.lean ====
section
/-! DEFINITION. What every register reads (Table 11.3 and the register tables of the chapters): for each
block a list of its words by offset. A word that no table lists reads 0 (R270). -/

namespace Sys2Proof.Machine

/-! ## Lists of words -/

/-- Words by offset within a block. -/
abbrev Regs := List (Nat × Nat)

/-- A register of 32 bits. -/
def r32 (off v : Nat) : Regs := [(off, v % 2 ^ 32)]

/-- A register of 64 bits: two words, low word first (R11). -/
def r64 (off v : Nat) : Regs := [(off, v % 2 ^ 32), (off + 4, v / 2 ^ 32 % 2 ^ 32)]

/-- Consecutive registers of 32 bits. -/
def r32s (off : Nat) (vs : List Nat) : Regs :=
  ((List.range vs.length).zip vs).map fun x => (off + 4 * x.1, x.2 % 2 ^ 32)

/-- Bytes as consecutive words. -/
def rBytes (off : Nat) (bs : List Byte) : Regs :=
  r32s off ((List.range (bs.length / 4)).map fun i => leAt bs (4 * i) 4)

/-- The word of a block at an offset; 0 where none is listed. -/
def Regs.word (l : Regs) (off : Nat) : Nat := look l off 0

/-- The word at an offset of a log of n slots of `size` bytes. -/
def logWord {α : Type} (r : Ring α) (n size : Nat) (bytes : α → List Byte) (off : Nat) : Nat :=
  match r.slot n (off / size) with
  | some a => leAt (bytes a) (off % size) 4
  | none => 0

/-! ## Blocks of a compute die -/

/-- Whether a block is in a lull. -/
def PwrBlock.inLull (x : PwrBlock) : Bool := x.mode == .lull1 || x.mode == .lull2 || x.mode == .lull3

/-- The running record of a unit of a die. -/
def State.runningOf (s : State) (d unit : Nat) : Option RecState :=
  ((s.dieRecs d).find? fun x => x.2.record.unit == unit && x.2.phase == .running).map (·.2)

/-- Whether a record of a unit waits only for a tile (R139). -/
def State.waitsTile (s : State) (d unit : Nat) : Bool :=
  match s.partOfCd d with
  | none => false
  | some p => (s.cd d).seq.steps.any fun u =>
      ((List.range u.recs.length).zip u.recs).any fun x =>
        let r : RecRef := ⟨d, u.step, x.1⟩
        x.2.record.unit == unit && x.2.phase == .waiting &&
          u.startTick + x.2.record.slot ≤ (s.part p).disc.tick && unitFree r x.2 s && chosen u r x.2 &&
          (x.2.record.waitEv ≥ 64 || x.2.record.waitValue ≤ (s.cd d).seq.event u.step x.2.record.waitEv) &&
          copiesReady p r x.2 s && (!tilesFree r x.2 s || mxeFirst p d x.2.tilesRead s)

/-- STATE bits [1:0] of an engine (R204, Tables 05.6 and 06.6). -/
def State.engState (s : State) (d unit : Nat) : Nat :=
  if (s.runningOf d unit).isSome then 1
  else if (unit == 0x0A || unit == 0x0D) && s.waitsTile d unit then 3
  else if (s.blk (.die d unit)).inLull then 2 else 0

/-- The tile of an MXE record (Table 05.6): that of an AST lies in w3, of an ASV or ALD in w1 (R153, R154). -/
def RecState.tileOf (x : RecState) : Nat :=
  let w := fun i => nthWord x.record.ops i
  match x.record.opcode with
  | 0x0102 => (AstOp.of w).tile
  | 0x0103 => field (w 1) 1 0
  | _ => ((x.tilesWritten.head?).map (·.2)).getD 0

/-- Table 05.6. -/
def mxeRegs (s : State) (d e : Nat) : Regs :=
  let m := (s.cd d).eng.mxe.getD e {}
  let f := m.fe
  r32 0x00 (s.engState d e + 256 * ((s.runningOf d e).elim 0 (·.tileOf))) ++ r32 0x04 m.flags.toNat ++
  r32 0x08 (16 * f.kind + b2n f.valid) ++ r32 0x0C f.step ++ r32 0x10 f.cmd ++ r32 0x14 f.pos.toNat ++
  r32 0x18 f.chunk ++ r32 0x1C f.k ++ r32 0x20 f.a.toNat ++ r32 0x24 f.b.toNat ++ r32 0x28 f.scale.toNat ++
  r32s 0x30 (m.tiles.map (·.chunks)) ++
  r32 0x40 (((List.range 4).filter fun t => 2 ^ 20 < (m.tiles.getD t {}).chunks).foldl (fun n t => n + 2 ^ t) 0) ++
  r32 0x44 m.records

/-- Table 03.8. -/
def LogEntry.bytes (e : LogEntry) : List Byte :=
  leBytes 4 e.step ++ leBytes 4 e.cmd ++ leBytes 1 e.unit ++ leBytes 1 e.status ++ leBytes 2 e.late ++ leBytes 4 0

/-- SEQ_STATE (Table 03.13): stopped from where the abort of a stream takes effect, or from the abandoning of a step,
until the next stream opens (log entry 24, DEDUCED). -/
def State.seqState (s : State) (d : Nat) : Nat :=
  let q := (s.cd d).seq
  let st := (s.partOfCd d).elim {} fun p => (s.part p).stream
  if !q.replays.isEmpty then 2
  else if (st.abortReq && st.state != 2) || st.state = 5 then 3 else if q.steps.isEmpty then 0 else 1

/-- Table 03.13. -/
def seqWord (s : State) (d off : Nat) : Nat :=
  let q := (s.cd d).seq
  if off < 0x200 then
    (r32 0x00 (s.seqState d) ++ r32 0x04 q.free ++ r32 0x08 q.slip ++ r32 0x0C q.slipFirst ++
      r32 0x10 q.slipStep ++ r32 0x14 q.slipInfo.toNat ++ r32 0x18 q.log.head ++ r32 0x1C q.log.count : Regs).word off
  else if off < 0x300 then
    let i := (off - 0x200) / 2
    q.ev.getD i 0 + 2 ^ 16 * q.ev.getD (i + 1) 0
  else if 0x400 ≤ off && off < 0x600 then
    (s.sreg d ((off - 0x400) / 8)).toNat / 2 ^ (8 * (off % 8)) % 2 ^ 32
  else if 0x1000 ≤ off && off < 0x2000 then logWord q.log 256 16 LogEntry.bytes (off - 0x1000)
  else 0

/-- Table 06.6. -/
def vxeRegs (s : State) (d : Nat) : Regs :=
  let v := (s.cd d).eng.vxe
  r32 0x00 (s.engState d 0x0A) ++ r32 0x04 v.flags.toNat ++ r32 0x08 (partLanes s.ctrl.ident.part) ++
  r32 0x0C v.records ++ r64 0x10 v.conflict ++ r32 0x18 v.tileWait

/-- Table 07.11. -/
def txeRegs (s : State) (d : Nat) : Regs :=
  r32 0x00 (s.engState d 0x0B) ++ r32 0x08 (s.cd d).eng.txeRecords

/-- Table 07.12. -/
def gxeRegs (s : State) (d : Nat) : Regs :=
  let g := (s.cd d).eng.gxe
  r32 0x00 (s.engState d 0x0C) ++ r32 0x04 g.flags.toNat ++ r32 0x08 g.records ++ r32 0x0C g.outstanding ++
  r32 0x10 (b2n g.oorValid) ++ r32 0x14 g.oorStep ++ r32 0x18 g.oorCmd ++ r32 0x1C g.oorElem ++
  r32 0x20 g.oorIndex.toNat ++ r64 0x28 g.badAddr ++ r32 0x30 (2 ^ 16 * g.badCount + b2n g.badValid)

/-- The words of a published set's members at their live offsets. -/
def lscRegs (v : List Nat) : Regs :=
  r32s 0x80 [v.getD 0 0 % 256, v.getD 1 0, v.getD 2 0, v.getD 3 0]

/-- Tables 07.13 and 09.7. -/
def cveRegs (s : State) (d : Nat) : Regs :=
  let c := (s.cd d).eng.cve
  r32 0x00 (s.engState d 0x0D) ++ r32 0x04 c.flags.toNat ++ r32 0x08 c.records ++ r32 0x0C c.tileWait ++
  lscRegs c.set.live ++ r32 0x90 (twos 8 c.cur) ++ r32 0x94 c.clean ++ r32 0x98 c.lowers ++ r32 0x9C c.raises ++
  r32 0xA0 c.lastStep.toNat

/-- Tables 07.14 and 09.8. -/
def coeWord (s : State) (d off : Nat) : Nat :=
  let c := (s.cd d).eng.coe
  if 0x100 ≤ off && off < 0x500 then
    let h := c.chans.getD ((off - 0x100) / 16) {}
    ([h.step0, h.count0, h.step1, h.count1].getD (off % 16 / 4) 0) % 2 ^ 32
  else
    let n := ((s.dieRecs d).filter fun x => x.2.record.unit == 0x0E && x.2.phase == .running).length
    (r32 0x00 (s.engState d 0x0E + 256 * n) ++ r32 0x08 c.records ++ r32 0x0C c.inReject ++ r64 0x10 c.outBytes ++
      r64 0x18 c.inBytes ++ r32s 0x40 c.stepWordRegs : Regs).word off

/-- Table 07.15. -/
def pepRegs (s : State) (d : Nat) : Regs :=
  let p := (s.cd d).eng.pepper
  r32 0x00 (s.engState d 0x10) ++ r32 0x08 p.records ++ r32s 0x10 (p.seed.map (·.toNat)) ++
  r32s 0x20 (p.live.map (·.toNat))

/-- Table 12.6. -/
def splWord (s : State) (d off : Nat) : Nat :=
  let c := (s.cd d).scratch
  if 0x1000 ≤ off && off < 0x1800 then logWord c.log 64 32 FaultRec.bytes (off - 0x1000)
  else (r32 0x00 c.recovered ++ r32 0x04 c.badCount ++ r32 0x08 c.partials ++ r32 0x0C c.log.head : Regs).word off

/-- A Fennel divergence record's bytes (Table 21.5). -/
def FennelRec.bytes (f : FennelRec) : List Byte :=
  leBytes 8 f.time ++ leBytes 4 f.step ++ leBytes 4 f.cmd ++ leBytes 1 f.engine ++ leBytes 1 f.tile ++
  leBytes 1 f.row ++ leBytes 1 f.column ++ leBytes 4 f.chunks ++ leBytes 4 f.after.hi.toNat ++
  leBytes 4 f.after.lo.toNat ++ leBytes 4 f.before.hi.toNat ++ leBytes 4 f.before.lo.toNat ++
  leBytes 8 f.reference.toNat ++ leBytes 8 f.tolerance.toNat ++ leBytes 8 f.difference.toNat

/-- Table 21.6. -/
def fennelWord (s : State) (d off : Nat) : Nat :=
  let f := (s.cd d).eng.fennel
  if 0x1000 ≤ off && off < 0x1800 then logWord f.log 32 64 FennelRec.bytes (off - 0x1000)
  else
    let state := if f.sample.isSome then 2 else if (s.blk (.die d 0x18)).inLull then 3 else b2n (f.rate != 0)
    (r32 0x00 (state + 256 * (f.sample.elim 0 (·.engine))) ++ r32 0x08 f.rate ++ r32 0x0C f.checked ++
      r32 0x10 f.busy ++ r32 0x14 f.exempt ++ r32 0x18 f.diverge ++ r32 0x1C f.divergeSamples ++
      r32 0x20 f.log.head ++ r32 0x24 f.log.count : Regs).word off

/-! ## Power (Tables 16.6 to 16.8) -/

/-- PWR_STATE bits [2:0]. -/
def PwrMode.code : PwrMode → Nat
  | .running => 0
  | .lull1 => 1
  | .lull2 => 2
  | .lull3 => 3
  | .waking => 4
  | .entering => 5
  | .throttled => 6
  | .stopped => 7

/-- Table 16.6. -/
def pwrRegs (s : State) (b : BlockRef) : Regs :=
  let x := s.blk b
  let tokens := match b with
    | .die _ i => blockTokens i
    | _ => 0
  r32 0x00 (x.mode.code + 2 ^ 16 * x.clock) ++ r32 0x04 x.head.toNat ++ r32s 0x08 x.set.live ++
  r32 0x14 tokens ++ r32 0x18 (twos 32 x.temp) ++ r32 0x1C x.wakes ++ r32 0x20 x.wakeWait ++ r32 0x24 x.share ++
  r32 0x28 x.limited ++ r32 0x2C x.squalls

/-- Table 16.7. -/
def segRegs (s : State) (d g : Nat) : Regs :=
  let y := s.seg d g
  let waiting := ((segBlocks d g).filter fun b => (s.blk b).request.isSome).length
  r32 0x00 (y.tokens + 256 * waiting) ++ r32 0x04 y.current ++ r32 0x08 y.limit ++ r32 0x0C y.wakes ++
  r32 0x10 y.waitUs ++ r32 0x14 y.waitMax ++ r32 0x18 y.squalls

/-- The power registers of a compute die from 0x000C_0000 on. -/
def diePwrWord (s : State) (d off : Nat) : Nat :=
  if off < 0xC00 then
    if blockIndexOk (off / 0x40) then (pwrRegs s (.die d (off / 0x40))).word (off % 0x40) else 0
  else if 0x1000 ≤ off && off < 0x1100 then (segRegs s d ((off - 0x1000) / 0x40)).word (off % 0x40)
  else
    let w := (s.cd d).pwr
    if 0x2000 ≤ off && off < 0x2400 then logWord w.log 32 32 SquallRec.bytes (off - 0x2000)
    else (r32 0x1200 w.head.toNat ++ r32 0x1204 w.forecast ++ r32 0x1208 w.log.head ++ r32 0x120C w.log.count : Regs).word off

/-- A word of a compute die's window. -/
def readCd (s : State) (d off : Nat) : Nat :=
  let o := off % 0x10000
  if 0x200000 ≤ off && off < 0x280000 then
    leAt ((s.cd d).eng.cve.entry ((off - 0x200000) / 0x80)).bytes (off % 0x80) 4
  else match off / 0x10000 with
    | 0x3 => seqWord s d o
    | 0x4 => if o < 0xA00 then (mxeRegs s d (o / 0x100)).word (o % 0x100) else 0
    | 0x5 => (vxeRegs s d).word o
    | 0x6 => (txeRegs s d).word o
    | 0x7 => (gxeRegs s d).word o
    | 0x8 => (cveRegs s d).word o
    | 0x9 => coeWord s d o
    | 0xA => (pepRegs s d).word o
    | 0xB => splWord s d o
    | 0xC => diePwrWord s d o
    | 0xD => if hasFennel s.ctrl.ident.part then fennelWord s d o else 0
    | _ => 0

/-! ## Hubs and update dies -/

/-- Table 08.6. -/
def redRegs (s : State) (h : Nat) : Regs :=
  let q := (s.hub h).red
  let n := q.nv
  r32 0x00 (q.granules.length % 2 ^ 16 + 2 ^ 16 * b2n q.reserved) ++ r32 0x04 q.flags.toNat ++
  r32 0x08 q.cellFree ++ r32 0x0C q.held.length ++ r64 0x10 q.complete ++ r32 0x18 q.excess ++ r32 0x1C q.stale ++
  r32 0x20 q.discard ++ r32 0x24 (16 * n.kind + b2n n.valid) ++ r64 0x28 n.addr ++ r32 0x30 n.sender.toNat ++
  r32 0x34 n.ordinal ++ r32 0x38 n.step ++ r32 0x3C n.value.toNat

/-- Table 11.7. -/
def memRegs (s : State) (h : Nat) : Regs :=
  let m := (s.hub h).mem
  r32 0x00 m.state ++ r32 0x04 m.chanUse.toNat ++ r64 0x08 m.usable ++ r64 0x10 m.interleaved ++
  r32 0x18 m.ways ++ r32 0x20 (b2n m.writingBack + 2 * b2n m.clearing) ++ r32 0x24 m.dirtyCount ++
  r64 0x28 m.hits ++ r64 0x30 m.misses ++ r64 0x38 m.wideBytes ++ r64 0x40 m.narrowReads ++
  r32 0x48 (m.highWater * 2 ^ 16 + m.queue.length) ++ r32 0x4C m.narrowFull ++ r32 0x50 m.linkRetry ++
  r32 0x54 m.temp.toNat ++ r32 0x58 (min m.trainMs 0xFFFF * 2 ^ 16 + m.trainFail.toNat)

/-- Whether a SCRUB record runs on a hub. -/
def State.scrubRuns (s : State) (h : Nat) : Bool :=
  (s.dieRecs (h / 2)).any fun x =>
    x.2.phase == .running && (x.2.record.unit == 0x11 || x.2.record.unit == 0x12) && x.2.hub (h / 2) == h

/-- The Breeze set's words (Table 12.5). -/
def brzRegs (v : List Nat) : Regs :=
  r64 0x40 (v.getD 0 0) ++ r64 0x48 (v.getD 1 0) ++ r32 0x50 (v.getD 2 0) ++ r32 0x54 (v.getD 3 0)

/-- Table 12.5. -/
def chkWord (s : State) (h off : Nat) : Nat :=
  let c := (s.hub h).chk
  if 0x1000 ≤ off && off < 0x1800 then logWord c.log 64 32 FaultRec.bytes (off - 0x1000)
  else if 0x8000 ≤ off then
    let e := look c.ret ((off - 0x8000) / 8) {}
    if off % 8 = 0 then e.target.toNat else e.spare
  else
    (r32 0x00 c.recovered ++ r32 0x04 c.badCount ++ r32 0x08 c.partials ++ r32 0x0C c.log.head ++
      r32 0x10 c.log.count ++ r64 0x18 c.scrBase ++ r32 0x20 c.scrLines ++
      r32 0x28 (b2n c.scrRunning + 2 * b2n (s.scrubRuns h)) ++ r32 0x2C c.scrDone ++ r32 0x30 c.scrFound ++
      (if hasBreeze s.ctrl.ident.part then
        brzRegs c.brz.live ++ r64 0x58 c.brzPos ++ r32 0x60 c.brzPasses ++ r32 0x64 c.brzRepaired ++
          r32 0x68 c.brzUnrepaired
      else []) ++
      r32 0x70 (2 ^ 31 * b2n c.retPending.isSome + (c.ret.filter (·.2.valid)).length) ++
      r32 0x74 c.retRefused : Regs).word off

/-- A word of a hub's window. -/
def readHub (s : State) (h off : Nat) : Nat :=
  let o := off % 0x10000
  match off / 0x10000 with
  | 0x1 => (redRegs s h).word o
  | 0x2 => (memRegs s h).word o
  | 0x3 => chkWord s h o
  | 0x5 => (pwrRegs s (.hub h)).word o
  | _ => 0

/-- UD_STATE (Table 10.4). -/
def State.udState (s : State) (u : Nat) : Nat :=
  match (s.dieRecs (u / 2)).find? fun x =>
      x.2.phase == .running && (x.2.record.unit == 0x13 || x.2.record.unit == 0x14) && x.2.ud (u / 2) == u with
  | some x =>
    match x.2.record.opcode with
    | 0x0A00 => 1
    | 0x0A01 => 2
    | _ => if !x.2.executed && (heldVerdict x.1 x.2 s).isNone then 3 else 4
  | none => if (s.ud u).pwr.inLull then 5 else 0

/-- Table 10.4. -/
def udWord (s : State) (u off : Nat) : Nat :=
  let d := s.ud u
  if 0x100 ≤ off && off < 0x300 then d.set.live.getD ((off - 0x100) / 4) 0
  else if 0x4000 ≤ off && off < 0x8000 then (look d.pendAmax ((off - 0x4000) / 4) 0).toNat
  else if 0x8000 ≤ off && off < 0xA000 then
    let i := (off - 0x8000) / 2
    twos 16 (look d.wcScale i (-32768)) + 2 ^ 16 * twos 16 (look d.wcScale (i + 1) (-32768))
  else
    (r32 0x00 (s.udState u) ++ r32 0x04 d.flags.toNat ++ r32 0x08 d.records ++ r32 0x0C d.frozenSkip ++
      r32 0x10 d.stepSkip ++ r32 0x14 d.masterNf ++ r64 0x18 d.params ++ r32 0x20 d.lastStep.toNat ++
      r32 0x40 (d.set.live.getD 128 0) ++ r32 0x44 (d.set.live.getD 128 0) : Regs).word off

/-- A word of an update die's window. -/
def readUd (s : State) (u off : Nat) : Nat :=
  match off / 0x10000 with
  | 0x1 => udWord s u (off % 0x10000)
  | 0x5 => (pwrRegs s (.ud u)).word (off % 0x10000)
  | _ => 0

/-! ## Light engines -/

/-- Table 13.10. The last withdrawal and the admissions are those of either direction of lane k. -/
def laneRegs (q : Port) (k : Nat) : Regs :=
  let x := q.rx.getD k {}
  let t := q.tx.getD k {}
  let lit := 2 ≤ q.link.light && ((q.rings.getD k {}).state == 4 || (q.rings.getD k {}).state == 5)
  let tx := if t.inService then 2 else if lit then 1 else 0
  r32 0x00 (x.state + 2 ^ 8 * tx + 2 ^ 16 * x.lastWave) ++ r32 0x04 x.cause ++ r64 0x08 x.corrected ++
  r32 0x10 x.uncorr ++ r32 0x14 x.idBad ++ r32 0x18 (satAdd x.admits t.admits)

/-- Table 14.8. -/
def ringRegs (r : RingRes) : Regs :=
  r32 0x00 (r.state + 2 ^ 8 * r.line + 2 ^ 12 * b2n r.order + 2 ^ 16 * r.expect) ++ r32 0x04 (twos 16 r.heater) ++
  r32 0x08 (twos 16 r.detune) ++ r32 0x0C (r.tone + 2 ^ 16 * min r.windows 0xFFFF) ++ r32 0x10 (twos 32 r.ffCoef) ++
  r32 0x14 r.relocks ++ r32 0x18 r.hops ++ r32 0x1C r.unlocks

/-- Whether the holder of an arbiter has a die to name, and which (Table 15.3). -/
def State.holderDie (s : State) (n : Nat) : Nat :=
  match (s.port n).arb.holder, s.partOfPort n with
  | some id, some p => ((s.part p).outMsg id).elim 0x10 fun m => m.ref.die
  | _, _ => 0x10

/-- The arbiter set's words. -/
def arbRegs (v : List Nat) : Regs := r32s 0x60 v

/-- Tables 13.9, 14.9 and 15.3. -/
def portRegs (s : State) (n : Nat) : Regs :=
  let q := s.port n
  let k := q.link
  let a := q.arb
  let far := k.far.elim 0 fun f => f.1 * 2 ^ 16 + 2 ^ 15 + f.2
  let eligible := (a.requests.filter (·.eligible)).length
  let parked := (a.requests.filter (·.parked)).length
  r32 0x00 (k.light + 2 ^ 8 * q.txService + 2 ^ 16 * q.rxService) ++ r32 0x04 k.ctrl.toNat ++
  r32 0x0C k.laneHold.toNat ++ r32 0x10 far ++ r32 0x14 k.epochFar ++ r32 0x18 k.txSeq ++ r32 0x1C k.rxSeq ++
  r64 0x20 k.txFrames ++ r64 0x28 k.rxFrames ++ r32 0x30 k.replays ++ r32 0x34 k.crcDrop ++ r32 0x38 k.dupDrop ++
  r32 0x3C k.epochDrop ++ r32 0x40 k.downs ++ r32 0x44 k.withdraws ++ r32 0x48 k.rtt ++ r32 0x4C k.timeAsym.toNat ++
  r32 0x50 (q.txShift + 2 ^ 8 * q.rxShift + 2 ^ 16 * b2n q.adopted) ++
  r32 0x54 (min q.searchMs 0xFFFF + 2 ^ 16 * q.ringsFailed) ++ arbRegs a.set.live ++
  r32 0x6C (s.holderDie n + 2 ^ 8 * min eligible 31 + 2 ^ 16 * parked) ++ r32 0x70 a.grants ++ r32 0x74 a.cutoffs ++
  r32 0x78 a.stalls ++ r32 0x7C (b2n a.flag.valid + 2 * b2n a.flag.cut) ++ r32 0x80 a.flag.step ++
  r32 0x84 a.flag.cmd ++ r32 0x88 a.flag.src.toNat ++ r32 0x8C a.flag.msg ++
  r32 0x90 (a.peer + 2 ^ 8 * b2n ((s.partOfPort n).elim false fun p => s.usable p n)) ++ r32 0x94 a.peerDrop ++
  r32 0x98 a.peerChanges

/-- A word of a port's block (R339, R363). -/
def portWord (s : State) (n off : Nat) : Nat :=
  if off < 0x100 then (portRegs s n).word off
  else if off < 0x200 then (laneRegs (s.port n) ((off - 0x100) / 0x20)).word (off % 0x20)
  else (ringRegs ((s.port n).rings.getD ((off - 0x200) / 0x20) {})).word (off % 0x20)

/-- Pilot tones in Hz (Table 14.1). -/
def toneHz : List Nat := [1250, 1875, 2500, 3125, 3750, 4375, 5000, 5625, 6875, 7500]

/-- Table 14.10. -/
def laserRegs (s : State) (m j : Nat) : Regs :=
  let l := (s.le m).lasers.getD j {}
  let err := if l.state = 3 then clampInt (-20) 20 (Config.freqErr (10 * m + j) s.now) else 0
  r32 0x00 (l.state + 2 ^ 8 * l.line + 2 ^ 16 * b2n l.warned + 2 ^ 17 * b2n l.noSpare + 2 ^ 18 * b2n l.queued) ++
  r32 0x04 l.bias ++ r32 0x08 (s.solBias m j) ++ r32 0x0C (twos 16 l.power) ++ r32 0x10 (twos 16 l.target) ++
  r32 0x14 (twos 16 err) ++ r32 0x18 (toneHz.getD j 0) ++ r32 0x1C l.swapsIn

/-- The heater power of an engine's rings in mW (Table 14.11). -/
def State.heaterMw (s : State) (m : Nat) : Nat :=
  (((lePorts m).flatMap fun n => (s.port n).rings.map RingRes.heater).foldl (· + ·) 0).toNat / 256

/-- Table 14.11. -/
def leRegs (s : State) (m : Nat) : Regs :=
  let e := s.le m
  let swap := e.swap.elim 0 fun w => 1 + 2 ^ 8 * w.line + 2 ^ 12 * w.new
  r32 0x00 e.optState ++ r32 0x04 e.searchMs ++ r32 0x08 (swap + 2 ^ 16 * e.queue.length) ++ r32 0x10 e.spares ++
  r32 0x14 e.removed.toNat ++ r32 0x18 e.ffCtrl.toNat ++ r32 0x1C (e.ffLast1 * 2 ^ 16 + e.ffLast0) ++
  r32 0x20 (s.heaterMw m) ++ r32 0x24 e.relocks ++ r32 0x28 e.denied

/-- A word of a light engine's window. -/
def readLe (s : State) (m off : Nat) : Nat :=
  let o := off % 0x10000
  match off / 0x10000 with
  | 0x1 => if o < 0x4000 then portWord s (16 * m + o / 0x400) (o % 0x400) else 0
  | 0x2 => if o < 0x280 then (laserRegs s m (o / 0x40)).word (o % 0x40)
      else if 0x400 ≤ o then (leRegs s m).word (o - 0x400) else 0
  | 0x5 => (pwrRegs s (.le m)).word o
  | _ => 0

/-! ## The control die -/

/-- Table 18.9. -/
def modRegs (s : State) : Regs :=
  let m := s.ctrl.module
  r32 0x00 m.state ++ r32 0x08 m.cause ++ r32 0x0C m.readyMs ++ r32 0x10 m.verifyMs ++ r32 0x14 m.trainMs ++
  r32 0x18 m.searchMs ++ r32 0x1C m.warm ++ r32 0x20 m.cold ++ r32 0x24 m.alert ++ r32 0x28 m.cutCd ++
  r32 0x2C m.cutStack ++ r32 0x30 m.cutUd ++ r32 0x34 m.cutLe

/-- WR_PENDING_TICK (Table 02.9): 0 where the step boundary is not yet known. -/
def State.pendingTick (s : State) (t : WrTarget) : Nat :=
  let k := (s.loader t).pendingTick
  match t with
  | .frame => k
  | .part p =>
    let q := s.part p
    let st := q.stream
    match q.pendingImg with
    | none => 0
    | some i =>
      if !q.changesUpdate i || !st.running then k
      else
        let next := st.stepStart + st.stepTicks
        if st.state = 2 && !st.queued.isEmpty && k ≤ next && q.disc.tick < next then next else 0

/-- Table 02.9. -/
def loaderRegs (s : State) (t : WrTarget) : Regs :=
  let l := s.loader t
  r32 0x00 l.state ++ r32 0x04 l.reason ++ r32 0x08 l.faultSection ++ r32 0x0C l.faultOffset ++ r64 0x10 l.commitTick ++
  r64 0x18 (s.pendingTick t) ++ rBytes 0x20 l.digest ++ r32 0x54 (l.refusals * 2 ^ 16 + l.commits)

/-- Table 03.12. -/
def streamRegs (s : State) (p : Nat) : Regs :=
  let q := s.part p
  let d := q.disc
  let st := q.stream
  r64 0x00 (s.partTime p) ++ r64 0x08 d.tick ++ r32 0x10 st.step ++ r32 0x14 d.sync ++
  r64 0x18 (twos 64 (d.offsetAt s.now / 16)) ++ r32 0x20 (twos 32 (d.err / 16)) ++ r32 0x24 st.state ++
  r32 0x2C st.reason ++ r32 0x30 st.faultDie ++ r32 0x34 st.faultRecord ++ r32 0x38 st.faultOffset ++
  r32 0x3C st.queued.length ++ r64 0x40 st.slip ++ r32 0x48 st.stepLate ++ r32 0x4C st.starve ++
  r32s 0x50 st.choices ++ r32 0x60 st.replays ++ r32 0x64 (st.refusals * 2 ^ 16 + st.accepted)

/-- Table 03.11. -/
def timeRegs (s : State) : Regs :=
  let c := s.ctrl.clock
  r64 0x00 c.time.toNat ++ r64 0x08 c.anchorMt.toNat ++ r64 0x10 c.anchorUtc.toNat ++ r64 0x20 c.baseMt.toNat ++
  r64 0x28 c.baseUtc.toNat ++ r32 0x30 (b2n c.anchored)

/-- Table 15.4. -/
def fabRegs (s : State) (p : Nat) : Regs :=
  let q := s.part p
  let f := q.fab
  let plans := q.active.elim [] (·.rings)
  let named := ((q.active.elim [] (·.peers)).filter (·.inUse)).map (·.module)
  let wrong := named.eraseDups.filter fun m => s.allMiswired p m && !f.modulesOut.contains m
  let out := (plans.filter fun g => g.members.any fun m => s.memberOut p m).length
  r32 0x00 f.table.length ++ r32 0x04 ((s.liveRecs p).filter fun x => x.2.becalmed.isSome).length ++
  r32 0x08 f.becalmTotal ++ r32 0x0C f.lost ++ r32 0x10 f.discarded ++ r32 0x14 f.stale ++ r32 0x18 f.dup ++
  r32 0x1C f.heldCount ++ r32 0x20 (f.modulesOut.length + wrong.length) ++ r32 0x24 (out + 2 ^ 16 * f.ringsBroken.length) ++
  r32 0x28 f.lostStep.toNat

/-- Table 17.8. -/
def resetRegs (s : State) (p : Nat) : Regs :=
  let q := s.part p
  r32 0x04 (b2n q.resetting + 16 * q.resetStep) ++ r32 0x08 q.resets ++ r32 0x0C q.resetMs ++ r32 0x10 q.meshReject

/-- Table 17.7. -/
def baithRegs (s : State) (b : Nat) : Regs :=
  let q := s.bp b
  let p := s.partOfBaith b
  r32 0x00 (q.light + 2 ^ 8 * b2n q.silent + 2 ^ 16 * p.getD 0 + 2 ^ 18 * b2n (p.isNone && s.parts.any (·.present))) ++ r32 0x04 q.rxNext ++
  r32 0x08 q.txNext ++ r32 0x0C q.txAcked ++ r32 0x10 q.creditOut ++ r32 0x14 q.creditIn ++ r32 0x18 q.truncated ++
  r32 0x1C q.hunt ++ r32 0x20 q.seqDrop ++ r32 0x24 q.crcDrop ++ r32 0x28 q.creditDrop ++ r32 0x2C q.resent ++
  r32 0x30 q.telemDrop ++ r32 0x34 q.denied ++ r64 0x38 q.inBytes ++ r64 0x40 q.outBytes

/-- The stored security version and key floor: the higher of the two copies (R471). -/
def SecurityPage.version (p : SecurityPage) : Nat := max p.versionA p.versionB
def SecurityPage.floor (p : SecurityPage) : Nat := max p.floorA p.floorB

/-- FW_STATE (Table 19.5): while an image that may be written is being received or has not yet been checked
it reads 3 or 4. -/
def State.fwState (s : State) : Nat :=
  let f := s.ctrl.fw
  let m := s.ctrl.module
  if f.writing.isSome || !(m.state == 3 || m.state == 5) then f.state
  else if (s.bp 0).inbound.any fun x => x.kind == 0x0E then 4
  else if (s.bp 0).transfers.any fun t => t.kind == 0x0E then 3
  else f.state

/-- Table 19.5. -/
def fwRegs (s : State) : Regs :=
  let f := s.ctrl.fw
  let none48 := List.replicate 48 (0 : Byte)
  r32 0x00 s.fwState ++ r32 0x04 (f.result + 2 ^ 8 * b2n f.fromTransfer) ++
  r32 0x08 (s.ctrl.sec.version * 2 ^ 16 + f.running.elim 0 (·.secVersion)) ++
  r32 0x0C (s.ctrl.sec.floor * 2 ^ 8 + f.running.elim 0xF (·.keyIndex)) ++
  rBytes 0x10 (f.running.elim none48 (·.measure)) ++ rBytes 0x40 (f.pending.elim none48 (·.measure)) ++
  r64 0x70 (f.running.elim 0 fun x => x.build.toNat) ++ r32 0x78 f.updates ++
  r32 0x7C (b2n f.rsaReady + 2 * b2n f.slhReady + 4 * b2n f.idFailed) ++ r32 0x80 f.reports ++
  r32 0x84 f.queue.length

/-- The highest erase count of the pages from a to b. -/
def Logbook.topErase (l : Logbook) (a b : Nat) : Nat :=
  (l.erases.filter fun e => a ≤ e.1 && e.1 ≤ b).foldl (fun n e => max n e.2) 0

/-- Table 20.6. -/
def logRegs (s : State) : Regs :=
  let l := s.ctrl.log
  r32 0x00 (b2n l.writing.isSome + 2 * b2n l.erasing + 4 * b2n l.flashFault) ++ r32 0x04 l.seq ++ r32 0x08 l.headSlot ++
  r32 0x0C l.boot ++ r32 0x10 l.bucket ++ r32 0x14 l.suppressed ++ r32 0x18 (l.snapshots.head?.elim 0 (·.number)) ++
  r32 0x20 (l.topErase 138 1023) ++ r32 0x24 (l.topErase 10 137) ++ r32 0x28 l.errors.head ++
  r32 0x2C l.errors.count ++ r64 0x30 l.live.powerS ++ r64 0x38 l.live.energyWh ++ r32 0x40 l.live.powerOns ++
  r32 0x44 l.live.hotS

/-- A word of the control die's window. -/
def readCtrl (s : State) (off : Nat) : Nat :=
  let o := off % 0x10000
  let k := o % 0x1000
  let row := fun (f : Nat → Regs) => if k < 0x400 then (f (k / 0x100)).word (k % 0x100) else 0
  match off / 0x1000 with
  | 0x00 => (modRegs s).word o
  | 0x01 => if k < 0x100 then leAt s.ctrl.module.descriptor k 4 else 0
  | 0x10 => if k < 0x400 then row (fun p => loaderRegs s (.part p))
      else if k < 0x500 then (loaderRegs s .frame).word (k - 0x400) else 0
  | 0x20 => if 0x400 ≤ k then (timeRegs s).word (k - 0x400) else row (streamRegs s)
  | 0x21 => row (fabRegs s)
  | 0x22 => row (resetRegs s)
  | 0x30 => row (baithRegs s)
  | 0x40 => (fwRegs s).word o
  | 0x50 => (logRegs s).word o
  | _ => 0

/-! ## Published sets by offset (R60) -/

/-- A published set. -/
inductive SetRef
  | ud (u : Nat)
  | lsc (d : Nat)
  | arb (n : Nat)
  | pwr (b : BlockRef)
  | brz (h : Nat)
deriving DecidableEq, Repr

/-- A word of a member: the set, the member's index, the bit its low end has in the member, the bits
that are not reserved, and whether it is the closing field. -/
structure Member where
  set : SetRef
  index : Nat
  low : Nat := 0
  mask : Nat
  closing : Bool := false
deriving DecidableEq, Repr

/-- The set's state. -/
def State.set? (s : State) : SetRef → PubSet
  | .ud u => (s.ud u).set
  | .lsc d => (s.cd d).eng.cve.set
  | .arb n => (s.port n).arb.set
  | .pwr b => (s.blk b).set
  | .brz h => (s.hub h).chk.brz

/-- The set's state changed. -/
def State.modSet (s : State) (r : SetRef) (f : PubSet → PubSet) : State :=
  match r with
  | .ud u => s.modUd u fun d => { d with set := f d.set }
  | .lsc d => s.modCve d fun c => { c with set := f c.set }
  | .arb n => s.modArb n fun a => { a with set := f a.set }
  | .pwr b => s.modBlk b fun x => { x with set := f x.set }
  | .brz h => s.modChk h fun c => { c with brz := f c.brz }

/-- The power block whose registers lie at an offset of a window. -/
def pwrAt (win off : Nat) : Option (BlockRef × Nat) :=
  if win < 0x10 then
    if 0xC0000 ≤ off && off < 0xC0C00 && blockIndexOk ((off - 0xC0000) / 0x40) then
      some (.die win ((off - 0xC0000) / 0x40), off % 0x40)
    else none
  else if 0x50000 ≤ off && off < 0x50040 then
    if 0x20 ≤ win && win < 0x40 then some (.hub (win - 0x20), off - 0x50000)
    else if 0x40 ≤ win && win < 0x60 then some (.ud (win - 0x40), off - 0x50000)
    else if 0x60 ≤ win && win < 0x68 then some (.le (win - 0x60), off - 0x50000)
    else none
  else none

/-- The members of a power block's set (Table 16.6); hubs and light engines have no lull field (R416). -/
def pwrMember (b : BlockRef) (off : Nat) : Option Member :=
  let lull := match b with
    | .die _ _ => 3
    | .ud _ => 3
    | _ => 0
  match off with
  | 0x08 => some { set := .pwr b, index := 0, mask := 0x7FF }
  | 0x0C => some { set := .pwr b, index := 1, mask := 0x7FF }
  | 0x10 => some { set := .pwr b, index := 2, mask := 0x10 + lull, closing := true }
  | _ => none

/-- The set member at a live offset of a window (Table 02.10). -/
def memberAt (part win off : Nat) : Option Member :=
  match pwrAt win off with
  | some x => pwrMember x.1 x.2
  | none =>
    if win < 0x10 then
      match off with
      | 0x80080 => some { set := .lsc win, index := 0, mask := 0xFF }
      | 0x80084 => some { set := .lsc win, index := 1, mask := 0xFFFF }
      | 0x80088 => some { set := .lsc win, index := 2, mask := 0x3FFFF }
      | 0x8008C => some { set := .lsc win, index := 3, mask := 3, closing := true }
      | _ => none
    else if 0x20 ≤ win && win < 0x40 then
      let b := SetRef.brz (win - 0x20)
      if !hasBreeze part then none
      else match off with
        | 0x30040 => some { set := b, index := 0, mask := 0xFFFFFFC0 }
        | 0x30044 => some { set := b, index := 0, low := 32, mask := 0xFFFFFFFF }
        | 0x30048 => some { set := b, index := 1, mask := 0xFFFFFFFF }
        | 0x3004C => some { set := b, index := 1, low := 32, mask := 0xFFFFFFFF }
        | 0x30050 => some { set := b, index := 2, mask := 0x1FFF }
        | 0x30054 => some { set := b, index := 3, mask := 3, closing := true }
        | _ => none
    else if 0x40 ≤ win && win < 0x60 then
      if off = 0x10040 then some { set := .ud (win - 0x40), index := 128, mask := 0xFFFF, closing := true }
      else if 0x10100 ≤ off && off < 0x10300 then
        some { set := .ud (win - 0x40), index := (off - 0x10100) / 4, mask := 0xFFFFFFFF }
      else none
    else if 0x60 ≤ win && win < 0x68 && 0x10000 ≤ off && off < 0x14000 then
      let n := 16 * (win - 0x60) + (off - 0x10000) / 0x400
      match off % 0x400 with
      | 0x60 => some { set := .arb n, index := 0, mask := 0x1FFF }
      | 0x64 => some { set := .arb n, index := 1, mask := 0x3F }
      | 0x68 => some { set := .arb n, index := 2, mask := 3, closing := true }
      | _ => none
    else none

/-- Where shadow offsets begin (R60, R270). -/
def shadowBase : Nat := 0x800000

/-! ## Reading -/

/-- The site whose window this is; none for the control die's and for windows not listed. -/
def windowSite (win : Nat) : Option Site :=
  if win < 0x10 then some (.cd win)
  else if 0x20 ≤ win && win < 0x40 then some (.stack (win - 0x20))
  else if 0x40 ≤ win && win < 0x60 then some (.ud (win - 0x40))
  else if 0x60 ≤ win && win < 0x68 then some (.le (win - 0x60))
  else none

/-- The word at a live offset. -/
def readLive (s : State) (win off : Nat) : Nat :=
  match windowSite win with
  | some (.cd d) => readCd s d off
  | some (.stack h) => readHub s h off
  | some (.ud u) => readUd s u off
  | some (.le m) => readLe s m off
  | _ => if win = winCtrl then readCtrl s off else 0

/-- The word that a register reads (R60, R270): a window whose die is absent or has been cut out reads 0,
and a shadow offset reads a set member's staged value. -/
def readReg (s : State) (win off : Nat) : Word :=
  let there := (windowSite win).elim (win == winCtrl) s.live
  BitVec.ofNat 32 <|
    if !there then 0
    else if off < shadowBase then readLive s win off
    else match memberAt s.ctrl.ident.part win (off - shadowBase) with
      | some m => (s.set? m.set).staged.getD m.index 0 / 2 ^ m.low % 2 ^ 32
      | none => 0

/-- What reading a word changes: HUB_NARROW_DEPTH's high-water field falls to the occupancy (Table 11.7). -/
def afterRead (win off : Nat) (s : State) : State :=
  if 0x20 ≤ win && win < 0x40 && off = 0x20048 then
    s.modMem (win - 0x20) fun m => { m with highWater := m.queue.length }
  else s

end Sys2Proof.Machine
end

