-- ==== Sys2Proof/Machine/Tick.lean ====
section
/-! DEFINITION. The passage of module time (03 R68) and what the control die counts by the second (20 R478,
Table 20.4). -/

namespace Sys2Proof.Machine

/-- Whether any block's junction is at 95 °C or above (Table 20.4). -/
def State.anyHot (s : State) : Bool :=
  s.cds.any (fun c => c.pwr.blocks.any fun b => b.2.temp ≥ 1520) || s.hubs.any (fun h => h.pwr.temp ≥ 1520) ||
    s.uds.any (fun u => u.pwr.temp ≥ 1520) || s.les.any fun e => e.pwr.temp ≥ 1520

/-- The lasers that serve a line, by the index of Table 20.4. -/
def State.servingLasers (s : State) : List Nat :=
  (List.range 80).filter fun i => ((s.le (i / 10)).lasers.getD (i % 10) {}).state == 3

/-- The lifetime counters after n more seconds with the standby rail good. -/
def countSeconds (n : Nat) (s : State) : State :=
  if n = 0 then s
  else
    let hot := s.anyHot
    let lasers := s.servingLasers
    let wh := Config.secondWh s.free
    s.drawn.modLog fun l =>
      { l with live := { l.live with
          powerS := min (l.live.powerS + n) (2 ^ 64 - 1)
          energyWh := min (l.live.energyWh + wh) (2 ^ 64 - 1)
          hotS := if hot then satAdd l.live.hotS n else l.live.hotS
          lasers := lasers.foldl
            (fun t i =>
              let e := look t i (0, 0, 0, 0)
              place t i (0, 0, 0, 0) (satAdd e.1 n, e.2))
            l.live.lasers } }

/-- Whether the standby rail is good, so that module time counts (R68, R441). -/
def State.powered (s : State) : Bool := s.ctrl.module.stage != 0

/-- Module time moved on to t, if t is later (R68). -/
def advanceTo (t : Nat) (s : State) : State :=
  if s.powered && s.now < t && t < 2 ^ 64 then
    let n := t / 1000000000 - s.now / 1000000000
    let s := s.modCtrl fun c => { c with clock := { c.clock with time := BitVec.ofNat 64 t } }
    countSeconds n s
  else s

/-- What the block does when no command waits: module time goes on by 1 ns while the standby rail is good
(log entry 2, DESIGN CHOICE). -/
def idle (s : State) : State := advanceTo (s.now + 1) s

end Sys2Proof.Machine
end

