-- ==== Sys2Proof/Machine/Logbook.lean ====
section
/-! DEFINITION. The logbook's snapshots, its rate limit, and its pages as a host reads them (20 R470 to
R478). -/

namespace Sys2Proof.Machine

/-! ## Snapshots (R477, R478) -/

/-- A snapshot whose crc has been written is the newest (R477). -/
def Logbook.snapDone (l : Logbook) : Logbook :=
  match l.writing with
  | none => l
  | some w => { l with snapshots := (w :: l.snapshots).take 32, writing := none }

/-- The first of the four pages of a snapshot (Table 20.1). -/
def snapPage (number : Nat) : Nat := 10 + 4 * (number % 32)

/-- The lifetime counters as a new snapshot, its pages erased where they have been used before. -/
def Logbook.snapBegin (l : Logbook) (time : Nat) (lasers : List (Nat × Nat × Nat)) : Logbook :=
  if l.flashFault then l
  else
    let l := l.snapDone
    let w : Snapshot := { number := l.snapNext, boot := l.boot, time, counters := l.live, lasers }
    let l := { l with writing := some w, snapNext := wrap32 l.snapNext, snapshots := l.snapshots.take 31 }
    if w.number < 32 then l
    else (List.range 4).foldl (fun l i => l.erased (snapPage w.number + i)) l

/-- Each laser's bias, state and line. -/
def State.laserStates (s : State) : List (Nat × Nat × Nat) :=
  (List.range 80).map fun i =>
    let l := (s.le (i / 10)).lasers.getD (i % 10) {}
    (l.bias, l.state, l.line)

/-- A snapshot begun now. One that is still being written is finished first. -/
def takeSnapshot (s : State) : State := s.modLog fun l => l.snapBegin s.now s.laserStates

/-- LIFETIME_SNAPSHOT: ten minutes of module time have passed (R477). -/
def execLifetimeSnapshot (s : State) : Host.Outcome State Fault Refusal :=
  .next (if s.powered then takeSnapshot s else s)

/-- SNAPSHOT_WRITE_DONE: LB_STATE bit 0 clears (R477). -/
def execSnapshotWriteDone (s : State) : Host.Outcome State Fault Refusal := .next (s.modLog Logbook.snapDone)

/-- LOGBOOK_PAGE_ERASED: LB_STATE bit 1 clears (R474). -/
def execLogbookPageErased (s : State) : Host.Outcome State Fault Refusal :=
  .next (s.modLog fun l => { l with erasing := false })

/-- LB_SNAP_CMD bit 0: a snapshot, at most once in 60 s (R477). -/
def snapCommand (v : Word) (s : State) : State :=
  let since := s.ctrl.log.lastSnapCmd.elim true fun t => t + 60000000000 ≤ s.now
  if bit v.toNat 0 && since then
    takeSnapshot (s.modLog fun l => { l with lastSnapCmd := some s.now })
  else s

/-! ## The rate limit (R475) -/

/-- LOGBOOK_BUCKET_REFILL: a sixteenth of a second has passed: the bucket gains one record, and once it
holds 64 the suppressed records are reported. -/
def execLogbookBucketRefill (s : State) : Host.Outcome State Fault Refusal :=
  .next <|
    if !s.powered then s
    else
      let s := s.modLog fun l => { l with bucket := min 1024 (l.bucket + 1) }
      match s.ctrl.log.span with
      | none => s
      | some (n, a, z) =>
        if s.ctrl.log.bucket < 64 then s
        else
          logEvent 0x07 0xFF 0xFF (leBytes 4 (min n 0xFFFFFFFF) ++ leBytes 8 a ++ leBytes 8 z)
            (s.modLog fun l => { l with span := none })

/-! ## The laser map (R472) -/

/-- The 128 bytes of a laser map record. -/
def MapRec.bytes (r : MapRec) : List Byte :=
  let entry := fun (e : List Nat × Nat × Byte) =>
    leBytes 4 (e.1.foldr (fun j n => j % 16 + 16 * n) 0) ++ leBytes 2 e.2.1 ++ [e.2.2, 0]
  let body := leBytes 4 r.seq ++ leBytes 4 r.boot ++ leBytes 8 r.time ++ r.engines.flatMap entry
  let body := slice body 0 0x7C
  body ++ leBytes 4 (crc32c body).toNat

/-! ## Pages and slots as they read (R470, R471, R476) -/

/-- Bytes of erased flash. -/
def blank (n : Nat) : List Byte := List.replicate n 0xFF

/-- A laser's 32 bytes of Table 20.4. -/
def Snapshot.laserBytes (w : Snapshot) (sol : Nat → Nat) (i : Nat) : List Byte :=
  let e := look w.counters.lasers i (0, 0, 0, 0)
  let l := w.lasers.getD i (0, 0, 0)
  leBytes 4 e.1 ++ leBytes 4 (sol i) ++ leBytes 4 l.1 ++ leBytes 4 e.2.1 ++ leBytes 1 l.2.1 ++ leBytes 1 l.2.2 ++
    leBytes 2 0 ++ leBytes 4 e.2.2.1 ++ leBytes 8 e.2.2.2

/-- A snapshot's bytes up to its crc (Table 20.4). `sol` gives the start-of-life bias of a laser and
`there` the light engines that are not absent. -/
def Snapshot.bytes (w : Snapshot) (sol : Nat → Nat) (there : Nat → Bool) : List Byte :=
  let c := w.counters
  let head := [0x4C, 0x54, 0x53, 0x4E] ++ leBytes 4 w.number ++ leBytes 4 w.boot ++ leBytes 4 0 ++ leBytes 8 w.time ++
    leBytes 8 c.powerS ++ leBytes 4 c.powerOns ++ leBytes 4 c.warm ++ leBytes 4 c.cold ++ leBytes 4 c.partResets ++
    leBytes 8 c.energyWh ++ leBytes 4 c.hotS ++ leBytes 4 c.squalls ++ leBytes 4 c.lineBad ++ leBytes 4 c.repaired ++
    leBytes 4 c.fwWrites ++ leBytes 4 c.swaps ++ leBytes 4 c.relocks
  let ports := (List.range 128).flatMap fun n =>
    let e := look c.ports n (0, 0, 0)
    leBytes 4 e.1 ++ leBytes 2 e.2.1 ++ leBytes 2 e.2.2
  let lasers := (List.range 80).flatMap fun i =>
    if there (i / 10) then w.laserBytes sol i else List.replicate 32 0
  let rings := (List.range 2048).flatMap fun i =>
    let e := look c.rings i (0, 0)
    leBytes 2 e.1 ++ leBytes 2 e.2
  let body := slice head 0 0x200 ++ ports ++ lasers ++ rings
  body ++ leBytes 4 (crc32c body).toNat

/-- The snapshots as their pages hold them; one being written holds all but its crc. -/
def State.snapshotIn (s : State) (slot : Nat) : Option (List Byte) :=
  let bytes := fun (w : Snapshot) =>
    w.bytes (fun i => s.solBias (i / 10) (i % 10)) fun m => inPopulation s.ctrl.ident.part (.le m)
  match (s.ctrl.log.writing.toList.filter fun w => w.number % 32 == slot).head? with
  | some w => some ((bytes w).take 0x3000 ++ blank 4)
  | none => ((s.ctrl.log.snapshots.filter fun w => w.number % 32 == slot).head?).map bytes

/-- The area of a page, in the order of Table 20.1. -/
def pageArea (p : Nat) : Nat := if p < 2 then 0 else if p < 10 then 1 else if p < 138 then 2 else 3

/-- A page's header (R470). -/
def Logbook.pageHead (l : Logbook) (p : Nat) : List Byte :=
  let rest := fun (a n : Nat) => (List.range n).map fun i => Config.headerByte (4096 * p + a + i)
  [0x4C, 0x42, 0x50, 0x47, Config.areaNumber (pageArea p)] ++ rest 5 3 ++ leBytes 4 (look l.erases p 0) ++ rest 12 52

/-- A security page (R471). -/
def securityBytes (version floor : Nat) : List Byte :=
  leBytes 128 (2 ^ 1024 - 2 ^ min version 1024) ++ leBytes 1 (0xF8 + (8 - 2 ^ min floor 3)) ++ blank 3967

/-- The record in a slot of the logbook ring. -/
def Logbook.ringSlot (l : Logbook) (i : Nat) : List Byte :=
  match l.ring[(l.headSlot + ringSlots - 1 - i) % ringSlots]? with
  | some r => r.bytes
  | none => blank 64

/-- The record of a laser map page. -/
def Logbook.mapSlot (l : Logbook) (k j : Nat) : List Byte :=
  match l.maps.find? fun r => r.seq / 31 % 8 == k && r.seq % 31 == j with
  | some r => r.bytes
  | none => blank 128

/-- The 4096 bytes of a page of the logbook. -/
def logPage (p : Nat) (s : State) : List Byte :=
  let l := s.ctrl.log
  match pageArea p with
  | 0 =>
    if p = 0 then securityBytes s.ctrl.sec.versionA s.ctrl.sec.floorA
    else securityBytes s.ctrl.sec.versionB s.ctrl.sec.floorB
  | 1 => l.pageHead p ++ ((List.range 31).flatMap fun j => l.mapSlot (p - 2) j) ++ blank 64
  | 2 =>
    let k := (p - 10) % 4
    let rest := fun (a n : Nat) => (List.range n).map fun i => Config.headerByte (4096 * p + a + i)
    l.pageHead p ++
      match s.snapshotIn ((p - 10) / 4) with
      | none => blank 4032
      | some b =>
        let part := (b.drop (4032 * k)).take 4032
        part ++ rest (64 + part.length) (4032 - part.length)
  | _ => l.pageHead p ++ (List.range 63).flatMap fun j => l.ringSlot (63 * (p - 138) + j)

/-- The 64 bytes of an error-log slot; an empty slot reads as erased flash does. -/
def errorSlot (i : Nat) (s : State) : List Byte :=
  match s.ctrl.log.errors.slot 4096 i with
  | some r => r.bytes
  | none => blank 64

/-- Where the two ranges of R476 lie in the control die's window. -/
def errorBase : Nat := 0x300000
def pageBase : Nat := 0x400000

/-- Whether a logbook read names one range whole (R476). -/
def logRangeOk (off n : Nat) : Bool :=
  n % 64 == 0 && n ≤ 2 ^ 20 &&
    ((errorBase ≤ off && off + n ≤ errorBase + 64 * 4096) || (pageBase ≤ off && off + n ≤ pageBase + 4096 * 1024))

/-- n bytes of the logbook or of the error log from an offset of the control die's window (R476). -/
def readLogbook (off n : Nat) (s : State) : List Byte :=
  if off < pageBase then
    let o := off - errorBase
    slice ((List.range (ceilDiv (o % 64 + n) 64)).flatMap fun i => errorSlot (o / 64 + i) s) (o % 64) n
  else
    let o := off - pageBase
    slice ((List.range (ceilDiv (o % 4096 + n) 4096)).flatMap fun i => logPage (o / 4096 + i) s) (o % 4096) n

end Sys2Proof.Machine
end

