-- ==== Sys2Proof/Machine/Firmware.lean ====
section
/-! DEFINITION. Firmware images and their checks, the security page, and attestation reports (19). -/

namespace Sys2Proof.Machine

/-! ## RSASSA-PSS (R456) -/

/-- The mask generation function MGF1 with SHA-384. -/
def mgf1 (seed : List Byte) (n : Nat) : List Byte :=
  ((List.range (ceilDiv n 48)).flatMap fun i => sha384 (seed ++ beBytes 4 i)).take n

/-- s to the power 65 537, modulo n. -/
def rsaPublic (n s : Nat) : Nat :=
  let x := (List.range 16).foldl (fun x _ => x * x % n) (s % n)
  x * s % n

/-- Bytes xored. -/
def xorBytes (a b : List Byte) : List Byte := (a.zip b).map fun x => x.1 ^^^ x.2

/-- Whether an RSASSA-PSS signature verifies: SHA-384, MGF1 with SHA-384, a salt of 48 bytes and the
trailer byte 0xBC. -/
def pssVerify (modulus sig m : List Byte) : Bool :=
  let n := beNat modulus
  let x := beNat sig
  let bits := log2 n
  let len := ceilDiv bits 8
  if n < 2 ^ 3064 || n ≤ x then false
  else
    let v := rsaPublic n x
    let em := beBytes len v
    let masked := em.take (len - 49)
    let h := (em.drop (len - 49)).take 48
    let top := 8 * len - bits
    let clear := fun (bs : List Byte) => match bs with
      | [] => []
      | b :: r => (b &&& BitVec.ofNat 8 (2 ^ (8 - top) - 1)) :: r
    let db := clear (xorBytes masked (mgf1 h (len - 49)))
    let salt := db.drop (db.length - 48)
    v < 2 ^ bits && em.drop (len - 1) == [0xBC] && (db.take (len - 98)).all (· == 0) &&
      (db.drop (len - 98)).take 1 == [1] && sha384 (List.replicate 8 0 ++ sha384 m ++ salt) == h

/-! ## Images (R454, R457) -/

/-- The most bytes an image may have. -/
def fwMax : Nat := 16777216

/-- The bytes of a signature block. -/
def sigBlock : Nat := 17040

/-- Where the signature block of an image begins. -/
def sigAt (b : List Byte) : Nat := 0x100 + leAt b 0x0C 4

/-- The signed message M of an image. -/
def fwMessage (b : List Byte) : List Byte := b.take (sigAt b)

/-- The facts of an image that the module keeps. -/
def FwFacts.of (b : List Byte) : FwFacts :=
  { secVersion := leAt b 8 2, keyIndex := leAt b 6 1, keyFloor := leAt b 7 1
    build := BitVec.ofNat 64 (leAt b 0x10 8), measure := sha384 (fwMessage b) }

/-- The offset of the first field that fails check 1, if one does. -/
def fwFormat (b : List Byte) : Option Nat :=
  let fields : List (Nat × Bool) :=
    [(0x00, slice b 0 4 == [0x4C, 0x46, 0x57, 0x49]), (0x04, leAt b 4 2 == 1), (0x07, leAt b 7 1 ≤ leAt b 6 1),
     (0x0A, zeroAt b 0x0A 2),
     (0x0C, leAt b 0x0C 4 % 64 == 0 && b.length == sigAt b + sigBlock && b.length ≤ fwMax),
     (0x18, zeroAt b 0x18 232)]
  (fields.find? fun f => !f.2).map (·.1)

/-- The first check of Table 19.2 that an image fails; 0 where it passes all seven. -/
def fwCheck (sec : SecurityPage) (b : List Byte) (readsOk : Bool) : Nat :=
  let o := sigAt b
  let modulus := slice b o 384
  let pk := slice b (o + 0x180) 48
  let key := leAt b 6 1
  if (fwFormat b).isSome then 1
  else if 4 ≤ key || sha384 (modulus ++ pk) != Config.maskRom key then 2
  else if key < sec.floor then 3
  else if leAt b 8 2 < sec.version then 4
  else if !pssVerify modulus (slice b (o + 0x1B0) 384) (fwMessage b) then 5
  else if !Config.slhVerify pk (fwMessage b) (slice b (o + 0x330) 16224) then 6
  else if !readsOk then 7
  else 0

/-- The byte offset that the refusal of an image names (R460). -/
def fwOffset (b : List Byte) (check : Nat) : Nat :=
  match check with
  | 1 => (fwFormat b).getD 0
  | 2 => 0x06
  | 3 => 0x06
  | 4 => 0x08
  | 5 => sigAt b + 0x1B0
  | 6 => sigAt b + 0x330
  | _ => 0

/-! ## The security page (R458, R471) -/

/-- Both copies raised to a version and a floor, copy A and then copy B. No value falls. -/
def SecurityPage.raise (p : SecurityPage) (version floor : Nat) : SecurityPage :=
  { versionA := max p.versionA version, floorA := max p.floorA floor
    versionB := max p.versionB version, floorB := max p.floorB floor }

/-- The module has become ready under an image (R458): its version and floor are stored where they are
higher, and a raise is recorded. -/
def raiseSecurity (s : State) : State :=
  match s.ctrl.fw.running with
  | none => s
  | some f =>
    let old := s.ctrl.sec
    let v := min 1023 f.secVersion
    let k := min 3 f.keyFloor
    if v ≤ old.version && k ≤ old.floor then s
    else
      let s := s.modCtrl fun c => { c with sec := c.sec.raise v k }
      logEvent 0x06 0xFF 0xFF (leBytes 2 s.ctrl.sec.version ++ leBytes 1 s.ctrl.sec.floor) s

/-! ## Writing an image (R460, R461) -/

/-- An image checked for writing: refused with its check, or taken into memory to be written. -/
def beginWrite (b : List Byte) (s : State) : State :=
  (takeSnapshot s).modFw fun f => { f with state := 5, result := 0, fromTransfer := true, writing := some b, pending := none }

/-! ## Identity (R463 to R465) -/

/-- IDENTITY_DERIVE_DONE: the keys are ready, or the module has no identity (R465). -/
def execIdentityDeriveDone (ok : Bool) (s : State) : Host.Outcome State Fault Refusal :=
  .next <|
    if !s.powered || s.ctrl.fw.derived then s
    else
      let s := s.modFw fun f => { f with derived := true, rsaReady := ok, slhReady := ok, idFailed := !ok }
      if ok then s else logEvent 0x12 winCtrl 0xFF (Config.plainPayload [0x12]) s

/-! ## Reports (R466, R468) -/

/-- The 256 bytes of a report for a port, captured now (Table 19.4). -/
def attestReport (b : Nat) (nonce : List Byte) (s : State) : List Byte :=
  let f := s.ctrl.fw
  let p := s.partOfBaith b
  let zero48 := List.replicate 48 (0 : Byte)
  let head := [0x41, 0x54, 0x54, 0x52] ++ leBytes 2 1 ++ leBytes 1 (p.getD 0xFF) ++ leBytes 1 s.ctrl.module.state ++
    leBytes 1 s.ctrl.ident.part ++ leBytes 1 s.ctrl.ident.revision ++ leBytes 2 (f.running.elim 0 (·.secVersion)) ++
    leBytes 1 (f.running.elim 0xFF (·.keyIndex)) ++ leBytes 1 (b2n f.running.isSome + 2 * b2n f.pending.isSome) ++
    leBytes 2 s.ctrl.sec.version ++ leBytes 8 s.ctrl.ident.serial.toNat ++ leBytes 8 s.now ++ slice nonce 0 32 ++
    slice (f.running.elim zero48 (·.measure)) 0 48 ++ slice (p.elim zero48 fun p => (s.part p).loader.digest) 0 48 ++
    slice s.ctrl.frameLoader.digest 0 48 ++ slice s.ctrl.module.descriptor 0xFC 4
  slice head 0 256

/-- A report with both signatures: 16 864 bytes (R466). -/
def signedReport (salt : Nat) (report : List Byte) : List Byte :=
  report ++ slice (Config.reportRsa salt report) 0 384 ++ slice (Config.reportSlh salt report) 0 16224

/-- Both certificates, each after its length (R466 kind 1). -/
def IdentStore.certificates (i : IdentStore) : List Byte :=
  leBytes 4 i.rsaCert.length ++ i.rsaCert ++ leBytes 4 i.slhCert.length ++ i.slhCert

end Sys2Proof.Machine
end

