-- ==== Sys2Proof/Machine/Line.lean ====
section
/-! DEFINITION. The line of a Nurok lane (13 R314, R315): PAM4 levels, the RS(272,257) code over GF(2^10), and the
scrambler. Where the spec names IEEE 802.3 and gives no value of its own (the field's and the generator's polynomial,
the order of a symbol's bits and of a codeword's symbols), the standard's RS-FEC is followed (PRESUMED, log entry 122). -/

namespace Sys2Proof.Machine

/-! ## Bits and bytes -/

/-- A byte's bits, least significant first (R315). -/
def byteBits (b : Byte) : List Bool := (List.range 8).map fun i => b.toNat.testBit i

/-- The number that bits spell, least significant first. -/
def bitsNat : List Bool → Nat
  | [] => 0
  | b :: bs => b2n b + 2 * bitsNat bs

/-- Groups of n items; what is left over at the end makes no group. -/
def groups {α : Type} (n : Nat) : Nat → List α → List (List α)
  | 0, _ => []
  | k + 1, l => l.take n :: groups n k (l.drop n)

/-- The first k bytes that bits spell. -/
def bitsBytes (k : Nat) (bs : List Bool) : List Byte := (groups 8 k bs).map fun g => BitVec.ofNat 8 (bitsNat g)

/-! ## PAM4 (R314) -/

/-- The level of a pair of bits: 00, 01, 11 and 10 give 0, 1, 2 and 3. -/
def pamLevel (a b : Bool) : Nat := 2 * b2n a + b2n (a != b)

/-- The pair of bits of a level. -/
def pamBits (l : Nat) : List Bool := [l / 2 % 2 == 1, (l / 2 % 2 == 1) != (l % 2 == 1)]

/-- Bits as levels, four to a byte, the first in its lowest bits: how the model writes a line down. -/
def bitsLevels : List Bool → List Byte
  | a :: b :: c :: d :: e :: f :: g :: h :: r =>
    BitVec.ofNat 8 (pamLevel a b + 4 * pamLevel c d + 16 * pamLevel e f + 64 * pamLevel g h) :: bitsLevels r
  | _ => []

/-- The bits of levels. -/
def levelsBits (l : List Byte) : List Bool :=
  l.flatMap fun x => (List.range 4).flatMap fun i => pamBits (x.toNat / 4 ^ i % 4)

/-! ## The scrambler 1 + x^39 + x^58 (R315) -/

/-- The last 58 scrambled bits, the latest in bit 0, after one more. -/
def scrambleNext (st : Nat) (b : Bool) : Nat := (2 * st + b2n b) % 2 ^ 58

/-- What the scrambler adds to the next bit. -/
def scrambleTap (st : Nat) : Bool := st.testBit 38 != st.testBit 57

/-- Bits scrambled, and the scrambler after them. -/
def scramble : Nat → List Bool → List Bool × Nat
  | st, [] => ([], st)
  | st, d :: ds =>
    let o := d != scrambleTap st
    let r := scramble (scrambleNext st o) ds
    (o :: r.1, r.2)

/-- Bits descrambled, and the descrambler after them. -/
def descramble : Nat → List Bool → List Bool × Nat
  | st, [] => ([], st)
  | st, o :: os =>
    let r := descramble (scrambleNext st o) os
    ((o != scrambleTap st) :: r.1, r.2)

/-! ## GF(2^10), by x^10 + x^3 + 1 -/

/-- A field element times x. -/
def gfShift (a : Nat) : Nat := if a < 512 then 2 * a else (2 * a) ^^^ 0x409

/-- The product of a by the low k bits of b. -/
def gfMulBits : Nat → Nat → Nat → Nat
  | 0, _, _ => 0
  | k + 1, a, b => (if b % 2 = 1 then a else 0) ^^^ gfMulBits k (gfShift a) (b / 2)

/-- A product. -/
def gfMul (a b : Nat) : Nat := gfMulBits 10 a b

/-- A power. -/
def gfPow (a : Nat) : Nat → Nat
  | 0 => 1
  | k + 1 => gfMul a (gfPow a k)

/-- The powers 1, a, a^2, … of a, n of them. -/
def gfPowers (a : Nat) : Nat → Nat → List Nat
  | 0, _ => []
  | n + 1, p => p :: gfPowers a n (gfMul a p)

/-- The inverse of a non-zero element: its power 2^10 − 2, by squaring. -/
def gfInv (a : Nat) : Nat :=
  ((List.range 9).foldl (fun (r : Nat × Nat) _ => let q := gfMul r.1 r.1; (q, gfMul r.2 q)) (a, 1)).2

/-- A polynomial, lowest coefficient first, at a point. -/
def gfEval (c : List Nat) (x : Nat) : Nat := c.foldr (fun a r => a ^^^ gfMul x r) 0

/-- Two polynomials added. -/
def gfAdd : List Nat → List Nat → List Nat
  | [], b => b
  | a, [] => a
  | x :: a, y :: b => (x ^^^ y) :: gfAdd a b

/-- A product of polynomials. -/
def gfPolyMul (a b : List Nat) : List Nat := a.foldr (fun x r => gfAdd (b.map (gfMul x)) (0 :: r)) []

/-! ## RS(272,257) -/

/-- The generator: the product of x − α^j, j from 0 to 14, α being x; highest coefficient first, without the leading
one. -/
def rsGenerator : List Nat :=
  (((List.range 15).foldl (fun g j => gfPolyMul [gfPow 2 j, 1] g) [1]).reverse).drop 1

/-- One message symbol taken into the remainder by the generator. -/
def rsShift (gen : List Nat) (r : List Nat) (m : Nat) : List Nat :=
  let f := m ^^^ r.headD 0
  (List.range 15).map fun i => r.getD (i + 1) 0 ^^^ gfMul f (gen.getD i 0)

/-- The 15 parity symbols of a message. -/
def rsParity (m : List Nat) : List Nat := m.foldl (rsShift rsGenerator) (List.replicate 15 0)

/-- The 15 syndromes of a word of 272 symbols, highest power first. -/
def rsSyndromes (w : List Nat) : List Nat := (gfPowers 2 15 1).map (gfEval w.reverse)

/-- A Berlekamp–Massey state: the locator, the locator before its last growth, its length, the steps since, and the
discrepancy then. -/
structure BmState where
  c : List Nat := [1]
  b : List Nat := [1]
  len : Nat := 0
  m : Nat := 1
  d : Nat := 1

/-- One step of Berlekamp–Massey at syndrome n. -/
def bmStep (syn : List Nat) (x : BmState) (n : Nat) : BmState :=
  let d := (List.range (x.len + 1)).foldl (fun a i => a ^^^ gfMul (x.c.getD i 0) (if i ≤ n then syn.getD (n - i) 0 else 0)) 0
  if d = 0 then { x with m := x.m + 1 }
  else
    let c := gfAdd x.c (List.replicate x.m 0 ++ x.b.map (gfMul (gfMul d (gfInv x.d))))
    if 2 * x.len ≤ n then { c, b := x.c, len := n + 1 - x.len, m := 1, d } else { x with c, m := x.m + 1 }

/-- The error value at a position's locator X (Forney, the first root being α^0). -/
def forney (syn c : List Nat) (x : Nat) : Nat :=
  let inv := gfInv x
  let omega := (gfPolyMul syn c).take 15
  let slope := gfEval (((List.range c.length).zip c).map fun k => if k.1 % 2 = 1 then k.2 else 0) inv
  gfMul (gfMul x (gfEval omega inv)) (gfInv (gfMul x slope))

/-- The symbols of a word corrected, as its locator says. -/
def rsCorrect (w : List Nat) : List Nat :=
  let syn := rsSyndromes w
  let l := (List.range 15).foldl (bmStep syn) {}
  let xs := (gfPowers 2 272 1).reverse
  (w.zip xs).map fun k => if gfEval l.c (gfInv k.2) = 0 then k.1 ^^^ forney syn l.c k.2 else k.1

/-- Whether a word of 272 symbols is a codeword. -/
def rsCode (w : List Nat) : Bool := rsParity (w.take 257) == w.drop 257

/-- The symbols in which two words differ. -/
def rsDistance (a b : List Nat) : Nat := ((a.zip b).filter fun x => x.1 != x.2).length

/-- A word received: its message symbols, the symbols corrected, and whether it is correctable: whether it lies within
7 symbols of a codeword (R314). One that is not is left as it came. -/
def rsDecode (w : List Nat) : List Nat × Nat × Bool :=
  if rsCode w then (w.take 257, 0, true)
  else
    let v := rsCorrect w
    if rsCode v && rsDistance w v ≤ 7 then (v.take 257, rsDistance w v, true) else (w.take 257, 0, false)

/-! ## A frame on the line (R315, R316) -/

/-- The bits of a frame that the scrambler passes over: those of an identity frame's alignment pattern. -/
def bypassed (identity : Bool) : Nat := if identity then 128 else 0

/-- The bits of a 10-bit symbol, the first least significant. -/
def symbolBits (v : Nat) : List Bool := (List.range 10).map fun i => v.testBit i

/-- A codeword's bits from its message bits. -/
def codewordBits (m : List Bool) : List Bool :=
  m ++ (rsParity ((groups 10 257 m).map bitsNat)).flatMap symbolBits

/-- A frame's 2570 bytes as the line carries them, and the scrambler after it. -/
def encodeFrame (identity : Bool) (st : Nat) (bytes : List Byte) : List Byte × Nat :=
  let bits := bytes.flatMap byteBits
  let k := bypassed identity
  let r := scramble st (bits.drop k)
  (((groups 2570 8 (bits.take k ++ r.1)).map fun m => bitsLevels (codewordBits m)).flatten, r.2)

/-- Levels changed on their way: each change names a byte of four levels, by its place, and what arrives in it. -/
def disturbed (noise : List (Nat × Byte)) (line : List Byte) : List Byte :=
  noise.foldl (fun l x => modAt l x.1 fun _ => x.2) line

/-- What arrives of a frame that the far end sends with its scrambler in a state. -/
def arriving (identity : Bool) (bytes : List Byte) (scr : Nat) (noise : List (Nat × Byte)) : List Byte :=
  disturbed noise (encodeFrame identity scr bytes).1

/-- What a frame on the line came to: its bytes, the symbols corrected, the uncorrectable codewords, and the descrambler
after it. -/
structure LineFrame where
  bytes : List Byte
  corrected : Nat
  uncorrectable : Nat
  state : Nat
deriving DecidableEq, Repr

/-- A frame as the line carries it, eight codewords of 340 bytes of levels, received (R314, R315). -/
def decodeFrame (identity : Bool) (st : Nat) (line : List Byte) : LineFrame :=
  let words := (groups 340 8 line).map fun g => rsDecode ((groups 10 272 (levelsBits g)).map bitsNat)
  let bits := words.flatMap fun w => w.1.flatMap symbolBits
  let k := bypassed identity
  let r := descramble st (bits.drop k)
  { bytes := bitsBytes 2570 (bits.take k ++ r.1)
    corrected := words.foldl (fun n w => n + w.2.1) 0
    uncorrectable := (words.filter fun w => !w.2.2).length
    state := r.2 }

end Sys2Proof.Machine
end

