-- ==== Sys2Proof/Machine/Links.lean ====
section
/-! DEFINITION. Nurok links (13): light, frames and flits, sequence and replay, lane identity and
training, withdrawal, and the time exchange. -/

namespace Sys2Proof.Machine

/-! ## Light (R329, R330, R419) -/

/-- Whether nothing keeps a fabric port dark (Table 13.5). -/
def State.mayLight (s : State) (n : Nat) : Bool :=
  let l := (s.port n).link
  s.ctrl.module.state == 5 && s.portServes n && !bit l.ctrl.toNat 0 && !l.searching &&
    (s.partOfPort n).elim false fun p => !(s.part p).resetting

/-- Whether a Baith port may emit in the module's state: B0 from stage 1 on, the others once ready
(R443, R450). -/
def State.baithMayLight (s : State) (b : Nat) : Bool :=
  let m := s.ctrl.module
  m.stage != 0 && m.state != 6 && m.state != 7 &&
    (b == 0 || (m.state == 5 && s.live (.baith b)))

/-- PORT_DARK_EXPIRY: 200 ms without a cause to be dark, and the port probes. -/
def execPortDarkExpiry (port : PortRef) (s : State) : Host.Outcome State Fault Refusal :=
  onlyIf port.wf <|
    match port with
    | .fabric n =>
      if (s.port n).link.light = 0 && s.mayLight n then s.modLink n fun k => { k with light := 1 } else s
    | .baith b =>
      if (s.bp b).light = 0 && s.baithMayLight b then s.modBp b fun q => { q with light := 1 } else s

/-- PROBE_PULSE: a probing port emits one pulse on lane L0. A fabric port that is not allotted, or whose engine or site
is absent or failed, emits nothing (R313). -/
def execProbePulse (port : PortRef) (s : State) : Host.Outcome State Fault Refusal :=
  onlyIf port.wf <|
    match port with
    | .fabric n =>
      if (s.port n).link.light = 1 && s.portServes n then s.modLink n fun k => { k with probes := k.probes + 1 } else s
    | .baith b =>
      if (s.bp b).light = 1 then s.modBp b fun q => { q with probes := q.probes + 1 } else s

/-- A receive lane that sees light begins to acquire, unless its ring failed (Table 13.6). -/
def rxLight (n l : Nat) (s : State) : State :=
  if ((s.port n).rings.getD (8 + l) {}).state = 6 then s
  else s.modRx n l fun x => if x.state = 0 then { x with state := 1, tries := 0, positions := 0, lostAt := none } else x

/-- LIGHT_SEEN: a probing port that sees light is lit, on every lane whose ring is locked. -/
def execLightSeen (port : PortRef) (lanes : Byte) (s : State) : Host.Outcome State Fault Refusal :=
  onlyIf port.wf <|
    match port with
    | .fabric n =>
      if (s.port n).link.light = 1 && lanes != 0 && s.portServes n then
        let s := s.modPort n fun q =>
          { q with
            link := { q.link with light := 2 }, adopted := false
            tx := q.tx.map fun x => { x with frame := 0 } }
        forRange 8 (fun l t => if bit lanes.toNat l then rxLight n l t else t) s
      else s
    | .baith b =>
      if (s.bp b).light = 1 && lanes != 0 then
        s.modBp b fun q => { q with light := 2, sentBlock := false, gotBlock := false }
      else s

/-- The peer dark event of a port that was lit and not up: logged, counted and alerted (R451). -/
def peerGone (n : Nat) (s : State) : State :=
  let p := s.partOfPort n
  let s := s.modLog fun l =>
    let e := look l.live.ports n (0, 0, 0)
    { l with live := { l.live with ports := place l.live.ports n (0, 0, 0) (e.1, e.2.1, min (e.2.2 + 1) 0xFFFF) } }
  telemTo p (.alertPeerDark n)
    (logEvent 0x30 (winLe (n / 16)) (partCode p) [BitVec.ofNat 8 n, 4] s)

/-- Withdrawals of lanes that lost their light with the whole port are taken back: they do not count as withdrawals
(R451). The loss of the first lane shows 50 µs after it, that of the port at most 200 µs after it. -/
def forgiveLosses (n : Nat) (s : State) : State :=
  let k := ((s.port n).rx.filter fun x => x.lostAt.any fun t => s.now ≤ t + 150000).length
  (s.modLink n fun q => { q with withdraws := q.withdraws - k }).modLog fun l =>
    { l with live := { l.live with
        ports := let e := look l.live.ports n (0, 0, 0)
                 place l.live.ports n (0, 0, 0) (e.1 - k, e.2.1, e.2.2) } }

/-- LOSS_OF_LIGHT: a lit or up port without light on every receive lane goes dark. Lanes that lost it
together make it a peer dark event (R451), and MOD_ALERT shows it. -/
def execLossOfLight (port : PortRef) (together : Bool) (s : State) : Host.Outcome State Fault Refusal :=
  onlyIf port.wf <|
    match port with
    | .fabric n =>
      if 2 ≤ (s.port n).link.light then
        let s := if together then forgiveLosses n s else s
        let s := if together && (s.port n).link.light = 2 then peerGone n s else s
        let s := darkPort n (if together then 4 else 3) s
        if together then raiseAlert 3 s else s
      else s
    | .baith b =>
      if 2 ≤ (s.bp b).light then s.modBp b fun q => { q with light := 0, silent := false } else s

/-! ## Bytes of flits and frames (R316 to R320, R327) -/

/-- The laser feeding a transmit lane's ring, and its line. -/
def State.idLine (s : State) (n l : Nat) : Nat × Nat :=
  let r := (s.port n).rings.getD l {}
  (r.line, ((s.le (n / 16)).serving r.line).getD r.expect)

/-- The identity block of a transmit lane (Table 13.4). -/
def identityBlock (n l : Nat) (s : State) : List Byte :=
  let q := s.port n
  let p := s.partOfPort n
  slice
    (leBytes 2 (p.elim 0xFFFF fun p => (s.part p).moduleNo) ++ leBytes 1 n ++ leBytes 1 l ++
      leBytes 1 (s.idLine n l).1 ++ leBytes 1 (s.idLine n l).2 ++
      leBytes 2 (p.elim 0 fun p => (s.part p).epoch16) ++ leBytes 1 q.rxService ++
      leBytes 1 q.withdrawReq ++ leBytes 1 q.txDone) 0 64

/-- An IDLE flit (Table 13.2). -/
def idleFlit (n l : Nat) (s : State) : List Byte :=
  slice (List.replicate 64 0 ++ identityBlock n l s) 0 256

/-- A frame's header and flits (Table 13.1). -/
def frameBytes (kind map seq epoch : Nat) (body : List Byte) : List Byte :=
  let head := leBytes 4 (kind * 2 ^ 30 + map * 2 ^ 20 + seq) ++ leBytes 2 epoch
  head ++ leBytes 4 (crc32c (head ++ body)).toNat ++ body

/-- The alignment pattern (R320). -/
def alignPattern : List Byte :=
  let a : List Byte := [0xA3, 0x1D, 0x6C, 0xF2, 0x58, 0xB7, 0x0E, 0x94]
  a ++ a.map fun b => ~~~b

/-- The 2570 bytes of an identity frame (R320). -/
def identityFrame (n l : Nat) (s : State) : List Byte :=
  alignPattern ++ frameBytes 1 0 0 ((s.partOfPort n).elim 0 fun p => (s.part p).epoch16)
    (identityBlock n l s ++ List.replicate 2480 0)

/-- The control flits that wait, as they leave now: a TIME flit takes its departure time (R337). -/
def departing (p : Option Nat) (b : List Byte) (s : State) : List Byte :=
  if leAt b 0 1 = 3 then patch b 8 (leBytes 8 (p.elim 0 fun p => s.partTime16 p)) else b

/-- A TIME request that leaves is remembered with its serial and departure, in place of an older one of its number. -/
def noteDeparture (n : Nat) (flits : List (List Byte)) (s : State) : State :=
  match flits.find? fun b => leAt b 0 1 = 3 && leAt b 1 1 = 0 with
  | some b => s.modLink n fun k =>
    { k with time := { k.time with
        departed := (leAt b 2 2, leAt b 8 8) :: k.time.departed.filter fun d => d.1 != leAt b 2 2 } }
  | none => s

/-- Up to k waiting control flits taken from a port. -/
def takeControl (n k : Nat) (s : State) : State × List (List Byte) :=
  let p := s.partOfPort n
  let out := ((s.port n).link.control.take k).map fun b => departing p b s
  (noteDeparture n out (s.modLink n fun l => { l with control := l.control.drop k }), out)

/-- Flits filled up to ten with IDLE flits. -/
def fillFlits (n l : Nat) (f : List Flit) (s : State) : List Flit :=
  f ++ List.replicate (10 - f.length) (true, idleFlit n l s)

/-- The map of a frame's flits: a bit for each control flit. -/
def flitMap (f : List Flit) : Nat :=
  ((List.range f.length).zip f).foldl (fun m x => if x.2.1 then m + 2 ^ x.1 else m) 0

/-! ## Sending (R316, R318, R322, R324) -/

/-- A frame leaves on a lane, scrambled and encoded (R314, R315): the last frame sent is kept, as bytes and as levels,
for whoever looks at the line. -/
def emit (n l : Nat) (identity : Bool) (bytes : List Byte) (s : State) : State :=
  let e := encodeFrame identity ((s.port n).tx.getD l {}).scr bytes
  (s.modTx n l fun x => { x with frame := (x.frame + 1) % 1024, scr := e.2 }).modLink n
    fun k => { k with lastSent := some (l, bytes), lastLine := e.1 }

/-- The epoch of a port's frames. -/
def State.epochOf (s : State) (n : Nat) : Nat := (s.partOfPort n).elim 0 fun p => (s.part p).epoch16

/-- A frame of the replay buffer sent again (R324): its LINK and TIME flits as IDLE flits. -/
def resend (n l : Nat) (f : SentFrame) (s : State) : State :=
  let put := fun (x : Nat × List Byte) =>
    if bit f.map x.1 && leAt x.2 0 1 != 1 then idleFlit n l s else x.2
  let flits := ((List.range f.flits.length).zip f.flits).map put
  let s := s.modLink n fun k =>
    { k with
      replays := sat k.replays, sends := k.sends + 1
      buffer := k.buffer.map fun x =>
        if x.seq == f.seq then { x with resends := x.resends + 1, again := false, sent := k.sends } else x }
  let s := s.modTx n l fun x => { x with lastSeq := f.seq }
  emit n l false (frameBytes 0 f.map f.seq (s.epochOf n) flits.flatten) s

/-- A new sequenced frame: waiting control flits, then flits of the holder (R318, R322). -/
def sendSequenced (p n l : Nat) (s : State) : State :=
  let c := takeControl n 4 s
  let h := holderFlits p n (10 - c.2.length) c.1
  let s := h.1
  let flits := fillFlits n l (c.2.map (fun b => (true, b)) ++ h.2.1) s
  let seq := (s.port n).link.txSeq
  let f : SentFrame :=
    { seq, map := flitMap flits, flits := flits.map (·.2), msgs := h.2.2, sent := (s.port n).link.sends }
  let s := s.modLink n fun k =>
    { k with txSeq := (seq + 1) % 2 ^ 20, txFrames := wrap64 k.txFrames 1, buffer := k.buffer ++ [f], sends := k.sends + 1 }
  let s := s.modTx n l fun x => { x with lastSeq := seq }
  emit n l false (frameBytes 0 f.map seq (s.epochOf n) f.flits.flatten) s

/-- A link-only frame (R318): waiting control flits and IDLE flits. -/
def sendLinkOnly (n l : Nat) (s : State) : State :=
  let c := takeControl n 10 s
  let flits := fillFlits n l (c.2.map fun b => (true, b)) c.1
  emit n l false (frameBytes 2 0x3FF 0 (c.1.epochOf n) (flits.map (·.2)).flatten) c.1

/-- FRAME_SEND: a lit lane sends its next frame: an identity frame each 1024, a resend first of the
others, then a new sequenced frame, then a link-only frame. -/
def execFrameSend (n lane : Nat) (s : State) : Host.Outcome State Fault Refusal :=
  onlyIf (laneWf n lane) <|
    let q := s.port n
    let x := q.tx.getD lane {}
    match s.partOfPort n with
    | none => s
    | some p =>
      if !s.txLit n lane then s
      else if x.frame = 0 then emit n lane true (identityFrame n lane s) s
      else if !x.inService || q.link.light != 3 then sendLinkOnly n lane s
      else match q.link.buffer.find? (·.again) with
        | some f => resend n lane f s
        | none =>
          if q.link.buffer.length < 256 && q.arb.holder.isSome then sendSequenced p n lane s
          else sendLinkOnly n lane s

/-- The LINK flit of a port (R323). -/
def linkFlit (n : Nat) (s : State) : List Byte :=
  let q := s.port n
  let naks := q.link.naks.take 8
  let last := (List.range 8).flatMap fun k =>
    leBytes 4 (if bit q.txDone k then (q.tx.getD k {}).lastSeq else 0)
  slice
    (leBytes 1 2 ++ leBytes 1 q.rxService ++ leBytes 1 q.withdrawReq ++ leBytes 1 q.txDone ++
      leBytes 4 ((q.link.rxSeq + 2 ^ 20 - 1) % 2 ^ 20) ++ leBytes 1 naks.length ++ leBytes 3 0 ++
      slice (naks.flatMap (leBytes 4 ·)) 0 32 ++ last) 0 256

/-- LINK_REPORT_SEND: a LINK flit goes out with what there is to report. -/
def execLinkReportSend (n : Nat) (s : State) : Host.Outcome State Fault Refusal :=
  onlyIf (n < 128) <|
    if 2 ≤ (s.port n).link.light then
      let b := linkFlit n s
      s.modLink n fun k => { k with control := k.control ++ [b], naks := [] }
    else s

/-- NAK_TIMER: missing sequences, up to eight, the lowest first, are named in the next LINK flit: those not named yet,
or, once all have been named, again from the lowest (R323). -/
def execNakTimer (n : Nat) (s : State) : Host.Outcome State Fault Refusal :=
  onlyIf (n < 128) <|
    let l := (s.port n).link
    let dist := fun (x : HeldFrame) => (x.seq + 2 ^ 20 - l.rxSeq) % 2 ^ 20
    let top := l.held.foldl (fun m x => max m (dist x)) 0
    if l.light = 3 && top != 0 then
      let missing := ((List.range top).filter fun d => !l.held.any fun x => dist x == d).map
        fun d => (l.rxSeq + d) % 2 ^ 20
      let fresh := missing.filter fun q => !l.named.contains q
      let out := (if fresh.isEmpty then missing else fresh).take 8
      let kept := if fresh.isEmpty then [] else l.named.filter fun q => missing.contains q
      s.modLink n fun k => { k with naks := out, named := kept ++ out }
    else s

/-- REPLAY_TIMEOUT: of the frames not yet called for again, the one last sent longest ago has gone 20 µs without an ack
(R324). -/
def execReplayTimeout (n : Nat) (s : State) : Host.Outcome State Fault Refusal :=
  onlyIf (n < 128) <|
    match (sortBy (·.sent) ((s.port n).link.buffer.filter fun f => !f.again)).head? with
    | some f => s.modLink n fun k =>
      { k with buffer := k.buffer.map fun x => if x.seq == f.seq then { x with again := true } else x }
    | none => s

/-- PORT_DOWN: an up port with no lane in service one way, or with a frame resent eight times, goes
down (R325). -/
def execPortDown (n : Nat) (s : State) : Host.Outcome State Fault Refusal :=
  onlyIf (n < 128) <|
    let q := s.port n
    if q.link.light != 3 then s
    else if q.txService = 0 || q.rxService = 0 then downPort n 1 s
    else if q.link.buffer.any fun f => 8 ≤ f.resends then downPort n 2 s
    else s

/-! ## Acknowledgement (R323, R324, R334) -/

/-- A message marked acknowledged up to an offset; one whose every byte is acknowledged is done (R201). -/
def ackMessage (p : Nat) (m : Nat × Nat) (s : State) : State :=
  let whole := fun (x : OutMsg) => x.ident == m.1 && m.2 == x.data.length
  let mark := fun (x : OutMsg) =>
    if x.ident == m.1 then { x with acked := max x.acked m.2, idle := 0 } else x
  s.modFab p fun f => { f with msgs := (f.msgs.filter fun x => !whole x).map mark }

/-- Frames that an ack covers leave the replay buffer (R324). -/
def takeAck (n a : Nat) (s : State) : State :=
  let buf := (s.port n).link.buffer
  match buf with
  | [] => s
  | f :: _ =>
    let covered := fun (x : SentFrame) =>
      (x.seq + 2 ^ 20 - f.seq) % 2 ^ 20 ≤ (a + 2 ^ 20 - f.seq) % 2 ^ 20 &&
        (a + 2 ^ 20 - f.seq) % 2 ^ 20 < buf.length
    let s := s.modLink n fun k => { k with buffer := k.buffer.filter fun x => !covered x }
    match s.partOfPort n with
    | none => s
    | some p => forAll ((buf.filter covered).flatMap (·.msgs)) (fun m t => ackMessage p m t) s

/-- Transmit lanes withdrawn at the far end's request, or released by it (R334, cause 1). -/
def takeRequest (n : Nat) (req : Byte) (s : State) : State :=
  forRange 8
    (fun l t =>
      let asked := bit req.toNat l
      let has := bit ((t.port n).tx.getD l {}).causes 1
      if asked && !has then txWithdraw n l 1 t
      else if !asked && has then txClear n l 1 t
      else t) s

/-- The lane masks of a LINK flit or identity block acted on (R333, R334, R354). -/
def takeMasks (n : Nat) (service request done : Byte) (s : State) : State :=
  let s := s.modLink n fun k => { k with farService := service, farDone := done }
  admitTx n (takeRequest n request s)

/-- A LINK flit acted on (R323). -/
def takeLink (n : Nat) (b : List Byte) (s : State) : State :=
  let s := takeMasks n (BitVec.ofNat 8 (leAt b 1 1)) (BitVec.ofNat 8 (leAt b 2 1))
    (BitVec.ofNat 8 (leAt b 3 1)) s
  let s := takeAck n (leAt b 4 4 % 2 ^ 20) s
  let naks := (List.range (min 8 (leAt b 8 1))).map fun i => leAt b (0x0C + 4 * i) 4 % 2 ^ 20
  s.modLink n fun k =>
    { k with buffer := k.buffer.map fun f => if naks.contains f.seq then { f with again := true } else f }

/-! ## Time (R337, R338, 03 R70, R71) -/

/-- Whether a measurement may step the offset: while it is acquired and no stream runs, but not after
holdover (R70, R71). -/
def Discipline.steps (d : Discipline) (running : Bool) : Bool := d.sync == 1 && !running && !d.reacquiring

/-- A measured error moves a partition's offset, all in 1/16 ns (R70, R71): at once where it may step, else at
a rate of at most 200 ppm, 2 ns in 10 µs. -/
def Discipline.measure (d : Discipline) (now salt : Nat) (running : Bool) (θ : Int) : Discipline :=
  let close := -128 ≤ θ && θ ≤ 128
  let run := if close then d.run + 1 else 0
  let step := d.steps running
  { d with
    offset := d.offsetAt now + (if step then θ else 0), since := now
    rate := if step then 0 else clampInt (-32) 32 (Config.slew salt θ), err := θ, run := min run 1000
    sync := if d.sync = 1 && run ≥ 1000 then 2 else d.sync
    reacquiring := d.reacquiring && run < 1000, returned := false }

/-- A measurement taken by a partition (R338). Where it steps the offset, PT_TICK is again the number of the latest
boundary (R73). -/
def takeMeasure (p : Nat) (θ : Int) (s : State) : State :=
  let q := s.part p
  if q.disc.sync = 1 || q.disc.sync = 2 then
    let late := q.disc.returned && (θ > 16000 || θ < -16000)
    let s := (s.modDisc p fun d => d.measure s.now s.free q.stream.running θ).drawn
    let s := if q.disc.steps q.stream.running then
        s.modDisc p fun d => { d with tick := latestTick q.cadence (s.partTime p) }
      else s
    if late then telem p .alertTime s else s
  else s

/-- The difference of two times modulo 2^64, signed. -/
def timeDiff (a b : Nat) : Int := signed 64 (a + 2 ^ 64 - b)

/-- A TIME flit acted on: a request waits to be answered, a response to a request of this port is a
measurement (R337, R338). -/
def takeTime (n : Nat) (b : List Byte) (s : State) : State :=
  match s.partOfPort n with
  | none => s
  | some p =>
    let now := s.partTime16 p
    if leAt b 1 1 = 0 then
      s.modLink n fun k =>
        { k with time := { k.time with toAnswer := k.time.toAnswer ++ [(leAt b 2 2, leAt b 8 8, now)] } }
    else if leAt b 1 1 = 1 then
      let l := (s.port n).link
      let mine := fun (d : Nat × Nat) => d.1 == leAt b 2 2
      if l.time.departed.any mine then
        if (s.part p).timePort == some n && (s.port n).arb.peer != 3 &&
            (s.port n).arb.peer != 4 then
          let t1 := leAt b 0x10 8
          let t2 := leAt b 0x18 8
          let t3 := leAt b 8 8
          let θ := (timeDiff t2 t1 - timeDiff now t3 - wordInt l.timeAsym) / 2
          let rtt := (timeDiff now t1 - timeDiff t3 t2) / 16
          takeMeasure p θ (s.modLink n fun k =>
            { k with
              rtt := twos 32 rtt, time := { k.time with departed := k.time.departed.filter fun d => !mine d } })
        else s
      else s
    else s

/-- TIME_REQUEST_SEND: a partition whose time source is an up port sends a request on it (R337). -/
def execTimeRequestSend (p : Nat) (s : State) : Host.Outcome State Fault Refusal :=
  onlyIf (p < 4) <|
    match (s.part p).timePort with
    | none => s
    | some n =>
      if (s.port n).link.light = 3 then
        s.modLink n fun k =>
          let serial := (k.time.serial + 1) % 2 ^ 16
          { k with
            time := { k.time with serial }
            control := k.control ++ [slice (leBytes 1 3 ++ leBytes 1 0 ++ leBytes 2 serial) 0 256] }
      else s

/-- TIME_RESPONSE_SEND: the oldest request not yet answered is answered (R337). -/
def execTimeResponseSend (n : Nat) (s : State) : Host.Outcome State Fault Refusal :=
  onlyIf (n < 128) <|
    match (s.port n).link.time.toAnswer with
    | (serial, t1, t2) :: rest =>
      if (s.port n).link.light = 3 then
        let b := slice (leBytes 1 3 ++ leBytes 1 1 ++ leBytes 2 serial ++ leBytes 12 0 ++ leBytes 8 t1 ++
          leBytes 8 t2) 0 256
        s.modLink n fun k =>
          { k with time := { k.time with toAnswer := rest }, control := k.control ++ [b] }
      else s
    | [] => s

/-! ## Identity and qualification (R328, R331, R332, R352) -/

/-- A wrong identity block counted. -/
def idBad (n l : Nat) (s : State) : State := s.modRx n l fun x => { x with idBad := sat x.idBad }

/-- A wrong block after adoption: the lane is withdrawn with cause 2; this end's ring is moved only if
the block names another line than the ring's (R328, R352). -/
def mislockedLane (n l wave : Nat) (s : State) : State :=
  let s := rxWithdraw n l 2 false (idBad n l s)
  let s := s.modRx n l fun x => { x with hist := [], runCorrected := 0 }
  if wave != ((s.port n).rings.getD (8 + l) {}).line then parkRing n (8 + l) s else s

/-- An identity block read on a receive lane; false where it is wrong. The first one a dark port reads
fixes the far shift (R345). -/
def readIdentity (n l : Nat) (b : List Byte) (s : State) : State × Bool :=
  let j := leAt b 3 1
  let wave := leAt b 4 1
  let s := s.modRx n l fun x => { x with lastWave := wave % 16 }
  let s := s.modLink n fun k => { k with far := some (leAt b 0 2, leAt b 2 1 % 128) }
  let wrong := j != l || wave != ((s.port n).rings.getD (8 + l) {}).line
  let y : State × Bool :=
    if !wrong then (if (s.port n).adopted then s else adoptShift n ((wave + 8 - j % 8) % 8) s, true)
    else if (s.port n).adopted then (mislockedLane n l wave s, false)
    else (adoptShift n ((wave + 8 - j % 8) % 8) (idBad n l s), false)
  let s := takeMasks n (BitVec.ofNat 8 (leAt b 8 1)) (BitVec.ofNat 8 (leAt b 9 1))
    (BitVec.ofNat 8 (leAt b 0x0A 1)) y.1
  (decidePeer n s, y.2)

/-- Codewords of a frame counted; more than 16 uncorrectable in one millisecond withdraw the lane with
cause 3, unless the far end has it withdrawn already (Table 13.7, R354). -/
def countErrors (n l corrected uncorr : Nat) (s : State) : State :=
  let ms := s.now / 1000000
  let s := s.modRx n l fun x =>
    let before := if x.msStart = ms then x.uncorrMs else 0
    { x with
      corrected := wrap64 x.corrected corrected, uncorr := satAdd x.uncorr uncorr, msStart := ms
      uncorrMs := before + uncorr
      runCorrected := if uncorr = 0 then x.runCorrected + corrected else 0
      hist := if uncorr = 0 then x.hist else [] }
  let x := (s.port n).rx.getD l {}
  if x.state = 3 && x.uncorrMs > 16 && !bit (s.port n).link.farDone.toNat l then rxWithdraw n l 3 false s
  else s

/-- An identity frame counts toward a lane's qualification; with 64 in a row, no more than 65 536 corrected symbols in
their span, and no cause held, the lane is admitted (R332, R335). -/
def qualify (n l : Nat) (s : State) : State :=
  let x := (s.port n).rx.getD l {}
  let hist := (x.runCorrected :: x.hist).take 64
  if x.state != 2 && x.state != 4 then s
  else if hist.length < 64 || x.causes != 0 || 65536 < hist.foldl (· + ·) 0 then
    s.modRx n l fun x => { x with hist, runCorrected := 0 }
  else
    let s := s.modRx n l fun x =>
      { x with state := 3, asked := false, hist := [], runCorrected := 0, admits := sat x.admits }
    tryPortUp n s

/-- A frame dropped for its codewords or CRC (R317). -/
def crcDrop (n : Nat) (s : State) : State := s.modLink n fun k => { k with crcDrop := sat k.crcDrop }

/-- Whether a frame's header passes its CRC: `h` is the header's place, before its body. -/
def frameOk (b : List Byte) (h : Nat) : Bool :=
  (crc32c (slice b h 6 ++ b.drop (h + 10))).toNat == leAt b (h + 6) 4

/-- Whether a lane reads identity, LINK and TIME: aligned, in service or withdrawn (R331). -/
def RxLane.reads (x : RxLane) : Bool := x.state == 2 || x.state == 3 || x.state == 4

/-- Bytes of levels of a frame on the line (R314). -/
def lineLength : Nat := 2720

/-- What a receive lane takes from a frame on the line. -/
def RxLane.frame (x : RxLane) (identity : Bool) (line : List Byte) : LineFrame := decodeFrame identity x.descr line

/-- Whether a frame reaches a port: the port is lit, and the frame is whole. -/
def State.hears (s : State) (n : Nat) (line : List Byte) : Bool := 2 ≤ (s.port n).link.light && line.length == lineLength

/-- A lane's descrambler after a frame. -/
def descrambled (n lane : Nat) (y : LineFrame) (s : State) : State := s.modRx n lane fun x => { x with descr := y.state }

/-- An identity frame's bytes: the alignment pattern at its place aligns an acquiring lane the second
time; on an aligned one the frame's identity is checked and counts toward qualification. A frame of another kind is
dropped (R316). -/
def takeIdentity (n lane : Nat) (y : LineFrame) (s : State) : State :=
  let x := (s.port n).rx.getD lane {}
  let bytes := y.bytes
  if x.state = 1 then
    if bytes.take 16 == alignPattern then
      s.modRx n lane fun x =>
        if x.positions = 0 then { x with positions := 1 }
        else { x with state := 2, positions := 0, tries := 0, hist := [], runCorrected := 0 }
    else s.modRx n lane fun x => { x with positions := 0 }
  else if x.reads then
    let s := countErrors n lane y.corrected y.uncorrectable s
    if y.uncorrectable != 0 || !frameOk bytes 16 || bytes.take 16 != alignPattern then
      (crcDrop n s).modRx n lane fun x => { x with hist := [], runCorrected := 0 }
    else if leAt bytes 16 4 / 2 ^ 30 != 1 then
      s.modRx n lane fun x => { x with hist := [], runCorrected := 0 }
    else
      let s := s.modLink n fun k => { k with epochFar := leAt bytes 20 2 }
      let r := readIdentity n lane (slice bytes 26 64) s
      if r.2 then qualify n lane r.1 else r.1
  else s

/-- IDENTITY_FRAME_RECEIVE: a frame arrives at an identity position of a lane. -/
def execIdentityFrameReceive (n lane : Nat) (bytes : List Byte) (scr : Nat) (noise : List (Nat × Byte)) (s : State) :
    Host.Outcome State Fault Refusal :=
  onlyIf (laneWf n lane) <|
    let line := arriving true bytes scr noise
    let y := ((s.port n).rx.getD lane {}).frame true line
    if s.hears n line then takeIdentity n lane y (descrambled n lane y s) else s

/-! ## Frames received (R317, R319, R322) -/

/-- One flit acted on when it arrives: LINK, TIME and IDLE flits; a reserved kind is dropped. -/
def arriveFlit (n l : Nat) (ctl : Bool) (b : List Byte) (s : State) : State :=
  if !ctl then s
  else match leAt b 0 1 with
    | 0 => (readIdentity n l (slice b 0x40 64) s).1
    | 1 => s
    | 2 => takeLink n b s
    | 3 => takeTime n b s
    | _ => crcDrop n s

/-- The ten flits of a frame. -/
def frameFlits (b : List Byte) : List (List Byte) := (List.range 10).map fun i => slice b (10 + 256 * i) 256

/-- A sequenced frame taken on a lane in service: held if it lies in the window and is not held, and
then what can be is delivered (R322). -/
def takeSequenced (p n : Nat) (x : HeldFrame) (s : State) : State :=
  let l := (s.port n).link
  let d := (x.seq + 2 ^ 20 - l.rxSeq) % 2 ^ 20
  if d < 256 && !l.held.any fun y => y.seq == x.seq then
    deliverHeld p n 257 (s.modLink n fun k => { k with held := k.held ++ [x] })
  else s.modLink n fun k => { k with dupDrop := sat k.dupDrop }

/-- A frame of ten flits received on a lane; `sequenced` says of which kind it must be. -/
def takeFrame (n lane : Nat) (y : LineFrame) (sequenced : Bool) (s : State) : State :=
  let x := (s.port n).rx.getD lane {}
  let bytes := y.bytes
  match s.partOfPort n with
  | none => s
  | some p =>
    if !x.reads then s
    else
      let s := countErrors n lane y.corrected y.uncorrectable s
      if y.uncorrectable != 0 || !frameOk bytes 0 then crcDrop n s
      else
        let w := leAt bytes 0 4
        let kind := w / 2 ^ 30
        let map := w / 2 ^ 20 % 1024
        let flits := frameFlits bytes
        if kind != (if sequenced then 0 else 2) then s
        else
          let s := forAll ((List.range 10).zip flits)
            (fun f t => arriveFlit n lane (bit map f.1) f.2 t) s
          if sequenced && ((s.port n).rx.getD lane {}).state = 3 && (s.port n).link.light = 3 then
            takeSequenced p n { seq := w % 2 ^ 20, epoch := leAt bytes 4 2, map, flits } s
          else s

/-- A frame at another than an identity position, decoded and taken. -/
def hearFrame (n lane : Nat) (line : List Byte) (sequenced : Bool) (s : State) : State :=
  let y := ((s.port n).rx.getD lane {}).frame false line
  if s.hears n line then takeFrame n lane y sequenced (descrambled n lane y s) else s

/-- FRAME_RECEIVE: a sequenced frame arrives whole on a lane. -/
def execFrameReceive (n lane : Nat) (bytes : List Byte) (scr : Nat) (noise : List (Nat × Byte)) (s : State) :
    Host.Outcome State Fault Refusal :=
  onlyIf (laneWf n lane) (hearFrame n lane (arriving false bytes scr noise) true s)

/-- LINK_ONLY_FRAME_RECEIVE: a link-only frame arrives, and its control flits are acted on. -/
def execLinkOnlyFrameReceive (n lane : Nat) (bytes : List Byte) (scr : Nat) (noise : List (Nat × Byte)) (s : State) :
    Host.Outcome State Fault Refusal :=
  onlyIf (laneWf n lane) (hearFrame n lane (arriving false bytes scr noise) false s)

/-! ## Lane states (Table 13.6, R354) -/

/-- LANE_ACQUIRE_TIMEOUT: 20 ms without the pattern; after five tries the lane has failed, and is
logged. -/
def execLaneAcquireTimeout (n lane : Nat) (s : State) : Host.Outcome State Fault Refusal :=
  onlyIf (laneWf n lane) <|
    let x := (s.port n).rx.getD lane {}
    if x.state != 1 then s
    else if x.tries + 1 < 5 then s.modRx n lane fun x => { x with tries := x.tries + 1, positions := 0 }
    else
      errorOnly (winLe (n / 16)) (partCode (s.partOfPort n)) [n, lane]
        (s.modRx n lane fun x => { x with state := 5, tries := 5, positions := 0 })

/-- LANE_LIGHT_LOSS: 50 µs without light on one lane of a lit port; a lane in service is withdrawn with
cause 7, and the lane is dark. -/
def execLaneLightLoss (n lane : Nat) (s : State) : Host.Outcome State Fault Refusal :=
  onlyIf (laneWf n lane) <|
    let x := (s.port n).rx.getD lane {}
    let lostAt := if x.state = 3 then some s.now else none
    if 2 ≤ (s.port n).link.light && 1 ≤ x.state && x.state ≤ 4 then
      (rxWithdraw n lane 7 false s).modRx n lane
        fun x => { x with state := 0, hist := [], positions := 0, tries := 0, lostAt }
    else s

/-- LANE_LIGHT_RETURN: after a gap shorter than 50 µs the lane stays in its state; otherwise a dark lane
begins to acquire. -/
def execLaneLightReturn (n lane : Nat) (shortGap : Bool) (s : State) :
    Host.Outcome State Fault Refusal :=
  onlyIf (laneWf n lane) <|
    if 2 ≤ (s.port n).link.light && !shortGap then rxLight n lane s else s

/-- LANE_ALIGNMENT_LOST: four identity positions in a row without the pattern; the lane acquires
again. -/
def execLaneAlignmentLost (n lane : Nat) (s : State) : Host.Outcome State Fault Refusal :=
  onlyIf (laneWf n lane) <|
    if ((s.port n).rx.getD lane {}).reads then
      (s.modRx n lane fun x =>
        { x with
          asked := x.asked || x.state == 3, state := 1, hist := [], runCorrected := 0, positions := 0
          tries := 0 })
    else s

/-! ## The port's command and control registers (Table 13.9) -/

/-- A retrain (LK_CMD bit 0): the port goes dark, its rings are searched again, and failed lanes start
afresh (R329, R343, Table 13.6). -/
def retrainPort (n : Nat) (s : State) : State :=
  (darkPort n 3 s).modPort n fun q =>
    { q with
      link := { q.link with searching := true }
      rx := q.rx.map fun x => { x with state := 0 }
      rings := q.rings.map fun r => { r with state := 1 } }

/-- LK_CTRL written: bit 0 holds the port dark. -/
def holdPort (n : Nat) (v : Word) (s : State) : State :=
  let s := s.modLink n fun k => { k with ctrl := v &&& 1 }
  if bit v.toNat 0 && (s.port n).link.light != 0 then darkPort n 3 s else s

/-- LK_LANE_HOLD written: newly named lanes are withdrawn with cause 6, lanes no longer named lose it
(R334). -/
def holdLanes (n : Nat) (v : Word) (s : State) : State :=
  let old := (s.port n).link.laneHold
  let s := s.modLink n fun k => { k with laneHold := v &&& 0xFFFF }
  forRange 8
    (fun l t =>
      let t :=
        if bit v.toNat l && !bit old.toNat l then txWithdraw n l 6 t
        else if !bit v.toNat l && bit old.toNat l then txClear n l 6 t else t
      if bit v.toNat (8 + l) && !bit old.toNat (8 + l) then rxWithdraw n l 6 true t
      else if !bit v.toNat (8 + l) && bit old.toNat (8 + l) then
        t.modRx n l fun x => { x with causes := dropCause x.causes 6 }
      else t) s

end Sys2Proof.Machine
end

