-- ==== Sys2Proof/Machine/Reset.lean ====
section
/-! DEFINITION. Start-up, the reset levels, power fail and trip, and partition resets (17 R436 to R438, 18,
22 R505). -/

namespace Sys2Proof.Machine

/-! ## What a reset leaves of a unit (R268, R302, R437, Table 18.5) -/

/-- A compute die at its reset values. A scratchpad place that fails for good still fails. -/
def Cd.fresh (c : Cd) : Cd := { scratch := { store := { hard := c.scratch.store.hard } } }

/-- A hub at its reset values; with its stack's bytes and its retire table where memory is kept, the stack in
self-refresh. -/
def Hub.fresh (keep : Bool) (h : Hub) : Hub :=
  { mem :=
      { stack := if keep then h.mem.stack else { hard := h.mem.stack.hard }
        state := if keep && h.mem.state != 0 then 3 else 0 }
    chk := if keep then { ret := h.chk.ret, retPending := h.chk.retPending } else {} }

/-- The line that a map entry gives laser j, 0xF for none. -/
def mapLine (e : List Nat × Nat × Byte) (j : Nat) : Nat := if e.1.contains j then e.1.findIdx (· == j) else 0xF

/-- Laser j as the map and the lifetime counters have it; `on` where it goes on serving. -/
def mapLaser (e : List Nat × Nat × Byte) (life : Nat × Nat × Nat × Nat) (on : Bool) (j : Nat) (l : Laser) : Laser :=
  let line := mapLine e j
  let lit := on && line < 8
  { state := if bit e.2.1 j then 4 else if lit then 3 else 0
    line, warned := life.2.2 != (0, 0), bias := if on then l.bias else 0, drive := if lit then l.drive else 0
    power := if on then l.power else 0 }

/-- Light engine m at its reset values, with its lasers from the map (R362). In a warm reset the search is
not made again. -/
def freshLe (warm : Bool) (m : Nat) (s : State) : Le :=
  let e := s.mapEntry m
  let old := s.le m
  let on := warm && old.optState == 4
  let base : Le := if warm then { optState := old.optState, phase := old.phase, searchMs := old.searchMs } else {}
  { base with
    lasers := ((List.range 10).zip old.lasers).map fun x =>
      mapLaser e (look s.ctrl.log.live.lasers (10 * m + x.1) (0, 0, 0, 0)) on x.1 x.2
    spares := (if bit e.2.1 8 || e.1.contains 8 then 0 else 1) + if bit e.2.1 9 || e.1.contains 9 then 0 else 2
    removed := e.2.2 }

/-- A ring held at its setting through a warm reset; it expects the laser that the map names. -/
def RingRes.keep (r : RingRes) (e : List Nat × Nat × Byte) : RingRes :=
  { state := r.state, line := r.line, order := r.order, expect := if r.line < 8 then e.1.getD r.line 0xF else r.expect
    heater := r.heater, ffCoef := r.ffCoef, dips := r.dips, setting := r.setting }

/-- Transmit lane k at its reset values, out for cause 4 while its ring awaits confirmation (R353). -/
def TxLane.keep (r : RingRes) : TxLane :=
  if r.state = 2 || r.state = 3 || r.state = 5 then { causes := addCause 0 4 } else {}

/-- Port n at its reset values, with its rings held in a warm reset. -/
def freshPort (warm : Bool) (n : Nat) (s : State) : Port :=
  let q := s.port n
  if warm then
    { rings := q.rings.map fun r => r.keep (s.mapEntry (n / 16)), tx := (q.rings.take 8).map TxLane.keep
      txShift := q.txShift, rxShift := q.rxShift, searchMs := q.searchMs, ringsFailed := q.ringsFailed }
  else {}

/-- Every unit and port, the partitions and the Baith ports at their reset values. -/
def resetUnits (keep : Bool) (s : State) : State :=
  { s with
    cds := s.cds.map Cd.fresh, hubs := s.hubs.map (Hub.fresh keep), uds := s.uds.map fun _ => {}
    les := (List.range 8).map fun m => freshLe keep m s, ports := (List.range 128).map fun n => freshPort keep n s
    parts := s.parts.map fun _ => {}, baith := s.baith.map fun _ => {} }

/-! ## Module resets (R447, R448, Table 18.6) -/

/-- A module reset begins, warm (level 1) or cold (2): a snapshot is taken, a warm reset's hubs write back
their caches, and what is not kept is lost. -/
def beginReset (level cause : Nat) (s : State) : State :=
  let keep := level == 1
  let s := takeSnapshot s
  let s := if keep then
      forRange 32 (fun h t => if (t.hub h).mem.state = 2 then t.setHub h (t.hub h).cleanAll else t) s
    else s
  let s := resetUnits keep s
  s.modCtrl fun c =>
    { c with
      frameLoader := {}, pendingFrame := none
      fw := { c.fw with state := 0, running := none, pending := none, writing := none, queue := [] }
      module := { c.module with
        state := 5 + level, stage := 3, level, cause, byPin := !c.module.resetL, counted := false, resetPending := none
        cutCd := 0, cutStack := 0, cutUd := 0, cutLe := 0, misses := [], descriptor := []
        searchMs := 0, trainMs := 0, groups := if keep then 24 else 0
        probes := if keep then c.module.probes else [] } }

/-- A module reset asked for: one that meets a flash write waits for its end (R462). -/
def requestReset (level cause : Nat) (s : State) : State :=
  if s.ctrl.fw.writing.isSome then
    s.modMod fun m => { m with resetPending := some (m.resetPending.getD (level, cause)) }
  else beginReset level cause s

/-- A reset released: it is counted and recorded once, and stage 3 begins (R448 step 4). -/
def releaseReset (s : State) : State :=
  let m := s.ctrl.module
  let s := if m.counted then s
    else
      let warm := m.level == 1
      let s := s.modMod fun m => { m with warm := if warm then sat m.warm else m.warm
                                          cold := if warm then m.cold else sat m.cold }
      let s := s.modLog fun l => { l with live := { l.live with
        warm := if warm then sat l.live.warm else l.live.warm
        cold := if warm then l.live.cold else sat l.live.cold } }
      logEvent 0x02 0xFF 0xFF (leBytes 1 m.cause) s
  (s.modFw fun f => { f with state := 0 }).modMod fun m =>
    { m with state := 2, stage := 3, counted := true, byPin := false, startAt := s.now }

/-- Whether a module reset is in progress and not yet released. -/
def Module.inReset (m : Module) : Bool := m.state == 6 || m.state == 7

/-- MOD_RESET written by B0 (R447): 1 warm, 2 cold; before the module is ready either is a cold reset. -/
def modReset (v : Nat) (s : State) : State :=
  let m := s.ctrl.module
  if v != 1 && v != 2 then s
  else if m.stage < 3 || m.inReset || m.state == 3 || !m.resetL then s
  else if v = 1 && m.state == 5 then requestReset 1 3 s
  else requestReset 2 4 s

/-- RESET_L_FALL: a low level of 1 µs. A ready module begins a warm reset; one that is not ready, a cold one;
a warm reset released before goes back to wait for the next release (Table 18.6). -/
def execResetLFall (heldFor1us : Bool) (s : State) : Host.Outcome State Fault Refusal :=
  .next <|
    if !heldFor1us || !s.powered then s
    else
      let s := s.modMod fun m => { m with resetL := false }
      let m := s.ctrl.module
      if m.stage < 3 then s
      else if m.inReset then s.modMod fun m => { m with byPin := true }
      else if m.state = 5 then requestReset 1 1 s
      else if m.level = 1 then
        forRange 32 (fun h t => t.modMem h fun k => { k with state := if k.state = 0 then 0 else 3 })
          (s.modMod fun m => { m with state := 6, byPin := true })
      else requestReset 2 2 s

/-- WARM_TO_COLD_TIMEOUT: RESET_L has been low for 100 ms: a warm reset becomes cold (R448), and one that
waits for a flash write cuts the write off (R462). -/
def execWarmToColdTimeout (s : State) : Host.Outcome State Fault Refusal :=
  .next <|
    let m := s.ctrl.module
    if m.resetL then s
    else if m.state = 6 then
      (resetUnits false s).modMod fun m =>
        { m with state := 7, level := 2, cause := 5, counted := false, groups := 0, probes := [] }
    else if m.resetPending.isSome && s.ctrl.fw.writing.isSome then
      beginReset 2 2 (s.modFw fun f => { f with slot := [], writing := none })
    else s

/-- RESET_L_RISE: a reset that waits for RESET_L is released. -/
def execResetLRise (s : State) : Host.Outcome State Fault Refusal :=
  .next <|
    let s := s.modMod fun m => { m with resetL := true }
    if s.powered && s.ctrl.module.inReset && s.ctrl.module.byPin then releaseReset s else s

/-- MOD_RESET_RELEASE: the hubs have drained, and a reset that MOD_RESET started is released. -/
def execModResetRelease (s : State) : Host.Outcome State Fault Refusal :=
  .next <| if s.ctrl.module.inReset && !s.ctrl.module.byPin then releaseReset s else s

/-! ## Power (R442, R444, R448, R505) -/

/-- What is left when power is lost: flash, fuses and the places that fail for good. A flash write in
progress leaves no valid image (R462). -/
def unpowered (tripped : Bool) (s : State) : State :=
  let c := s.ctrl
  let l := c.log
  { State.reset with
    pending := s.pending, free := s.free
    cds := s.cds.map Cd.fresh, hubs := s.hubs.map (Hub.fresh false)
    ctrl :=
      { ident := c.ident, sec := c.sec, fw := { slot := if c.fw.writing.isSome then [] else c.fw.slot }
        module := { tripped, pwrgd := false, resetL := c.module.resetL }
        log :=
          { ring := l.ring, seq := l.seq, headSlot := l.headSlot, boot := l.boot, erases := l.erases, maps := l.maps
            snapshots := l.snapshots } } }

/-- POWER_FAIL: below 60 V for 100 µs, or above 80 V. -/
def execPowerFail (s : State) : Host.Outcome State Fault Refusal :=
  .next (if s.powered then unpowered false s else s)

/-- The trip temperature of a site, in 1/16 °C (Table 22.5). -/
def tripAt : TripSite → Int
  | .hub _ => 125 * 16
  | .stack _ => 105 * 16
  | .lightEngine _ => 125 * 16
  | .laserArray _ => 65 * 16
  | .control => 115 * 16

/-- THERMAL_TRIP: two samples in a row at the trip temperature act as a power fail, until the input has been
cycled (R505). -/
def execThermalTrip (site : TripSite) (t1 t2 : Int) (s : State) : Host.Outcome State Fault Refusal :=
  onlyIf site.wf <|
    if s.powered && tripAt site ≤ t1 && tripAt site ≤ t2 then unpowered true s else s

/-- The lifetime counters with the laser warnings that the ring records and the snapshot does not yet have: a laser is
warned once in its life (R355). -/
def Logbook.warnedIn (l : Logbook) (live : Lifetime) : Lifetime :=
  { live with
    lasers := (l.ring.filter fun r => r.kind == 0x33).foldl
      (fun t r =>
        let i := 10 * leAt r.payload 0 1 + leAt r.payload 1 1
        let e := look t i (0, 0, 0, 0)
        place t i (0, 0, 0, 0) (e.1, e.2.1, r.boot, r.time)) live.lasers }

/-- POWER_UP: the input reaches 64 V and stays there for 10 ms; after a trip only once it has been below 60 V
for 1 s (R505). Stage 1 begins: the lifetime counters come from the newest snapshot, the security copies are
made equal, the lasers are as the map has them, and B0 probes (R442, R471, R472, R477). -/
def execPowerUp (held10ms below60For1s : Bool) (s : State) : Host.Outcome State Fault Refusal :=
  .next <|
    if s.powered || !held10ms || (s.ctrl.module.tripped && !below60For1s) then s
    else
      let s := s.modLog fun l =>
        let live := (l.snapshots.head?.map (·.counters)).getD {}
        let live := l.warnedIn live
        { l with
          boot := wrap32 l.boot, snapNext := (l.snapshots.head?.map fun w => wrap32 w.number).getD 0
          live := { live with powerOns := sat live.powerOns } }
      let s := s.modCtrl fun c => { c with sec := c.sec.raise (max c.sec.versionA c.sec.versionB) (max c.sec.floorA c.sec.floorB) }
      let s := { s with les := (List.range 8).map fun m => freshLe false m s }
      (s.modMod fun m =>
        { m with stage := 1, state := 1, tripped := false, stbyL := true, pwrgd := false, startAt := s.now }).modBp 0
        fun q => { q with light := 1 }

/-- Stage 3 begins (R442, R444). -/
def beginVerify (s : State) : State := s.modMod fun m => { m with stage := 3, state := 2 }

/-- STAGE_POWER_GOOD: stage 2 ends; PWRGD is released and RESET_L is sampled (R444). -/
def execStagePowerGood (resetHigh : Bool) (s : State) : Host.Outcome State Fault Refusal :=
  .next <|
    if s.ctrl.module.stage = 1 then
      let s := s.modMod fun m => { m with stage := 2, pwrgd := true, resetL := resetHigh }
      if resetHigh then beginVerify s else s
    else s

/-- RESET_L_RELEASE_STANDBY: RESET_L has been high for 1 µs in standby; times count from here (R444). -/
def execResetLReleaseStandby (s : State) : Host.Outcome State Fault Refusal :=
  .next <|
    if s.ctrl.module.stage = 2 then
      beginVerify (s.modMod fun m => { m with resetL := true, startAt := s.now })
    else s

/-! ## Stage 3 (R457, R459, R461) -/

/-- Recovery: no site is powered (R443, R459). -/
def enterRecovery (check : Nat) (s : State) : State :=
  let s := resetUnits false s
  let s := s.modMod fun m => { m with state := 3, level := if m.level = 1 then 2 else m.level, groups := 0, probes := [] }
  let s := s.modFw fun f => { f with state := 2 }
  raiseAlert 2 (logEvent 0x05 0xFF 0xFF (leBytes 1 check) s)

/-- Baith ports as they are: recovery and verification leave B0's session alone. -/
def keepBaith (old : State) (s : State) : State := { s with baith := old.baith }

/-- FIRMWARE_VERIFY_DONE: the checks of Table 19.2 on the flash slot. The image runs only if all pass. -/
def execFirmwareVerifyDone (ms : Nat) (flashReadsOk : Bool) (s : State) : Host.Outcome State Fault Refusal :=
  .next <|
    if s.ctrl.module.state != 2 then s
    else
      let image := s.ctrl.fw.slot
      let check := fwCheck s.ctrl.sec image flashReadsOk
      let s := s.modMod fun m => { m with verifyMs := ms % 2 ^ 32 }
      let s := s.modFw fun f => { f with result := check, fromTransfer := false, pending := none, running := none }
      if check = 0 then
        let s := s.modFw fun f => { f with state := 1, running := some (FwFacts.of image) }
        let s := s.modMod fun m => { m with state := 4, stage := 4, stageAt := s.now }
        if s.ctrl.module.level = 1 then
          forRange 32 (fun h t => t.modMem h fun k => { k with state := if k.state = 3 then 1 else k.state }) s
        else s
      else keepBaith s (enterRecovery check s)

/-- FIRMWARE_WRITE_DONE: the slot read back and compared with the image (R461). A reset that waited for the
write begins. -/
def execFirmwareWriteDone (readBack : List Byte) (s : State) : Host.Outcome State Fault Refusal :=
  .next <|
    match s.ctrl.fw.writing with
    | none => s
    | some image =>
      let s := s.modFw fun f => { f with slot := readBack, writing := none }
      let s := if readBack == image then
          let facts := FwFacts.of image
          let s := s.modFw fun f => { f with state := 7, updates := sat f.updates, pending := some facts }
          let s := s.modLog fun l => { l with live := { l.live with fwWrites := sat l.live.fwWrites } }
          let s := logEvent 0x04 0xFF 0xFF
            (leBytes 2 facts.secVersion ++ leBytes 1 facts.keyIndex ++ facts.measure.take 24) s
          if s.ctrl.module.state = 3 then
            beginVerify (s.modFw fun f => { f with state := 0, pending := none })
          else s
        else s.modFw fun f => { f with state := 6 }
      match s.ctrl.module.resetPending with
      | some x => beginReset x.1 x.2 s
      | none => s

/-! ## Stage 4 (R442, R445, R267) -/

/-- A block powered: in the deepest lull it has, if it has any. -/
def PwrBlock.powered (x : PwrBlock) (deepest : Nat) : PwrBlock :=
  if deepest = 3 then { x with mode := .lull3, lull := 3 } else if deepest = 2 then { x with mode := .lull2, lull := 2 } else x

/-- Home group g powered: its blocks in their deepest lull with full buckets, its hubs training. -/
def powerGroup (g : Nat) (s : State) : State :=
  let up := fun (b : BlockRef) (t : State) => t.modBlk b fun x => x.powered (blockDeepest b)
  if !inPopulation s.ctrl.ident.part (.cd g) then s
  else
    let s := forAll dieBlocks (fun i t => up (.die g i) t) s
    let s := forAll [2 * g, 2 * g + 1]
      (fun h t => up (.hub h) (t.modMem h fun m => { m with state := 1 })) s
    if inPopulation s.ctrl.ident.part (.ud (2 * g)) then forAll [2 * g, 2 * g + 1] (fun u t => up (.ud u) t) s else s

/-- Light engine m powered: its search begins (R343). -/
def powerEngine (m : Nat) (s : State) : State :=
  if inPopulation s.ctrl.ident.part (.le m) then s.modLe m fun e => { e with phase := 1, optState := 1 } else s

/-- HOME_GROUP_POWER: the next home group, and after the last the light engines. -/
def execHomeGroupPower (s : State) : Host.Outcome State Fault Refusal :=
  .next <|
    let m := s.ctrl.module
    if m.state = 4 && m.groups < 24 then
      let s := if m.groups < 16 then powerGroup m.groups s else powerEngine (m.groups - 16) s
      s.modMod fun m => { m with groups := m.groups + 1 }
    else s

/-- The group with which a site is powered. -/
def siteGroup : Site → Nat
  | .cd n => n
  | .stack n => n / 2
  | .ud n => n / 2
  | .le n => 16 + n
  | .baith _ => 0

/-- SITE_PROBE_RESULT: a powered site has answered or 100 ms have passed. -/
def execSiteProbeResult (site : Site) (answers : Bool) (lanes : Nat) (s : State) :
    Host.Outcome State Fault Refusal :=
  onlyIf site.wf <|
    if s.ctrl.module.state = 4 && siteGroup site < s.ctrl.module.groups then
      s.modMod fun m =>
        { m with probes := m.probes.filter (fun x => x.site != site) ++ [{ site, answers, lanes }], stageAt := s.now }
    else s

/-- HUB_TRAIN_DONE: channels that failed are recorded and logged; a hub that has not trained a majority of
its sixteen is failed (R267). -/
def execHubTrainDone (h : Nat) (failed : Half) (ms : Nat) (s : State) : Host.Outcome State Fault Refusal :=
  onlyIf (h < 32) <|
    if (s.hub h).mem.state = 1 then
      let good := chanCount (~~~failed)
      let s := s.modMem h fun m =>
        { m with trainFail := failed, trainMs := min ms 0xFFFF, state := if 9 ≤ good then 2 else 4 }
      let s := if s.ctrl.module.state = 4 then
          s.modMod fun m => { m with trainMs := max m.trainMs (ms % 2 ^ 32), stageAt := s.now }
        else s
      if failed = 0 then s
      else logEvent 0x11 (winHub h) (partCode (s.partOfHub h))
        (leBytes 1 (if 9 ≤ good then 1 else 2) ++ leBytes 2 failed.toNat) s
    else s

/-! ## Stage 5 (R442, R445, R446) -/

/-- What the probe found of a site. -/
def State.probe (s : State) (site : Site) : Option ProbeRec := s.ctrl.module.probes.find? fun x => x.site == site

/-- Whether a site answered the probe. -/
def State.answered (s : State) (site : Site) : Bool := (s.probe site).elim false (·.answers)

/-- A site's status as the probe judges it (R445): 0 absent, 1 present, 2 failed. -/
def State.judge (s : State) (site : Site) : Nat :=
  let ok := s.answered site && match site with
    | .cd _ => (s.probe site).elim 0 (·.lanes) == partLanes s.ctrl.ident.part
    | .stack h => (s.hub h).mem.state == 2
    | .le m => (s.le m).optState == 4 && (lePorts m).any s.portSearched
    | _ => true
  if !inPopulation s.ctrl.ident.part site then 0 else if ok then 1 else 2

/-- The sites in the order of the descriptor. -/
def allSites : List Site :=
  (List.range 16).map .cd ++ (List.range 32).map .stack ++ (List.range 32).map .ud ++ (List.range 8).map .le ++
    (List.range 4).map .baith

/-- Two status bits for each of n sites. -/
def statusField (n : Nat) (f : Nat → Nat) : Nat := (List.range n).foldl (fun v i => v + f i * 4 ^ i) 0

/-- The present fabric ports, as a mask (R445). -/
def State.portsFound (s : State) : Nat :=
  (List.range 128).foldl
    (fun v n => if s.judge (.le (n / 16)) = 1 && s.portSearched n then v + 2 ^ n else v) 0

/-- The capability descriptor (Table 18.4). -/
def descriptorBytes (readyMs : Nat) (s : State) : List Byte :=
  let part := s.ctrl.ident.part
  let options := b2n (part != 3) + 2 * b2n (hasBreeze part) + 4 * b2n (hasFennel part)
  let body := [0x43, 0x41, 0x50, 0x44] ++ leBytes 2 1 ++ leBytes 1 part ++ leBytes 1 s.ctrl.ident.revision ++
    leBytes 8 s.ctrl.ident.serial.toNat ++ leBytes 2 (partLanes part) ++ leBytes 1 options ++ leBytes 1 0 ++
    leBytes 4 readyMs ++ leBytes 8 s.ctrl.module.stageAt ++ leBytes 4 (statusField 16 fun n => s.judge (.cd n)) ++
    leBytes 8 (statusField 32 fun n => s.judge (.stack n)) ++ leBytes 8 (statusField 32 fun n => s.judge (.ud n)) ++
    leBytes 2 (statusField 8 fun n => s.judge (.le n)) ++ leBytes 1 (statusField 4 fun n => s.judge (.baith n)) ++
    leBytes 1 0 ++ leBytes 16 s.portsFound ++ ((List.range 32).flatMap fun h => leBytes 2 (s.hub h).mem.trainFail.toNat) ++
    leBytes 2 72 ++ leBytes 2 256 ++ leBytes 2 128 ++ leBytes 2 1600 ++ leBytes 2 10400 ++ leBytes 2 200
  let body := slice body 0 0xFC
  body ++ leBytes 4 (crc32c body).toNat

/-- The units of a population below n that are not judged present, as a mask. -/
def notPresent (n : Nat) (f : Nat → Nat) : Nat :=
  (List.range n).foldl (fun v i => if f i = 1 then v else v + 2 ^ i) 0

/-- The default frame's entry (R28): the units of the population without those that `noCds`, `noStacks` and
`noUds` give as not present. -/
def defaultFrame (part ports noCds noStacks noUds : Nat) : FrameEntry :=
  { noCds, noStacks, noUds, cdFirst := 0, cdCount := partCds part, stackFirst := 0, stackCount := 2 * partCds part
    udFirst := 0, udCount := if part = 3 then 0 else 2 * partCds part, hostPort := 0, portMask := ports
    moduleNumber := 0xFFFF, power := 10400 }

/-- The default frame in force (R28, R399). -/
def applyDefaultFrame (s : State) : State :=
  let n := partCds s.ctrl.ident.part
  let e := defaultFrame s.ctrl.ident.part s.portsFound (notPresent n fun i => s.judge (.cd i))
    (notPresent (2 * n) fun i => s.judge (.stack i)) (notPresent (2 * n) fun i => s.judge (.ud i))
  let tick := s.moduleTick
  setShares 0 ((forAll partNums (fun p t => t.modPart p fun _ => { disc := { tick } }) s).modPart 0 fun q =>
    { q with present := true, frame := e })

/-- Whether every site has been powered, and every hub and engine that answers has done its work. -/
def State.probeEnded (s : State) : Bool :=
  s.ctrl.module.groups == 24 &&
    ((List.range 32).all fun h => (s.hub h).mem.state != 1 || !s.answered (.stack h)) &&
    (List.range 8).all fun m => 4 ≤ (s.le m).optState || !s.answered (.le m)

/-- A failed site is logged (Table 20.3). -/
def logFailed (site : Site) (s : State) : State :=
  if s.judge site = 2 then
    let chan := match site with
      | .stack h => (s.hub h).mem.trainFail.toNat
      | _ => 0
    raiseAlert 4 (logEvent 0x11 (siteWindow site) 0xFF (leBytes 1 2 ++ leBytes 2 chan) s)
  else s

/-- Ports that start probing once the module is ready (Table 18.2). -/
def startProbing (s : State) : State :=
  let s := forRange 128
    (fun n t => if (t.port n).link.light = 0 && t.mayLight n then t.modLink n fun k => { k with light := 1 } else t) s
  forAll [1, 2, 3]
    (fun b t => if (t.bp b).light = 0 && t.baithMayLight b then t.modBp b fun q => { q with light := 1 } else t) s

/-- MODULE_READY: the descriptor is written, the default frame applies, the security page rises to the image
that runs, and ports start probing; after a warm reset they wait for their 200 ms (R442, R448, R458). -/
def execModuleReady (s : State) : Host.Outcome State Fault Refusal :=
  .next <|
    let m := s.ctrl.module
    if m.state = 4 && s.probeEnded then
      let ms := (s.now - m.startAt) / 1000000 % 2 ^ 32
      let s := forAll allSites logFailed s
      let bytes := descriptorBytes ms s
      let search := if m.level = 1 then 0 else s.les.foldl (fun n e => max n e.searchMs) 0
      let s := s.modMod fun m => { m with descriptor := bytes, readyMs := ms, searchMs := search, state := 5, stage := 5, level := 0 }
      let s := applyDefaultFrame s
      let s := raiseSecurity s
      let s := if m.cause = 0 then logEvent 0x01 0xFF 0xFF (leBytes 4 ms) s else s
      let s := forRange 128 decidePeer s
      if m.level = 1 then s else startProbing s
    else s

/-! ## Partition resets (R436 to R438) -/

/-- A fabric port held dark, its failed lanes free to start afresh (Table 13.6), its arbiter's requests and the staged values of its set dropped (R66, R436). -/
def resetPort (n : Nat) (s : State) : State :=
  (darkPort n 3 s).modPort n fun q =>
    { q with
      rx := q.rx.map fun x => { x with state := 0 }
      link := { q.link with light := 0, buffer := [], held := [], naks := [], control := [], current := none }
      arb := { q.arb with requests := [], holder := none, sent := 0, needHead := false, set := PubSet.ofValues q.arb.set.live } }

/-- A partition as its reset leaves it: its frame entry, and the histories of its loader and stream (R437). -/
def Part.fresh (q : Part) (tick : Nat) : Part :=
  { present := q.present, frame := q.frame
    loader := { q.loader with state := 0, commitTick := 0, pendingTick := 0, digest := List.replicate 48 0 }
    stream :=
      { reason := q.stream.reason, faultDie := q.stream.faultDie, faultRecord := q.stream.faultRecord
        faultOffset := q.stream.faultOffset, refusals := q.stream.refusals, accepted := q.stream.accepted }
    disc := { tick }
    resetting := true, resetStep := 6, resets := q.resets, resetMs := q.resetMs
    meshReject := q.meshReject }

/-- A die's power registers at their reset values, but for the shares of its blocks, which last as long as the
frame does (R399, R437). -/
def DiePower.sharesOnly (w : DiePower) : DiePower :=
  let d : DiePower := {}
  { d with blocks := d.blocks.map fun e => (e.1, { e.2 with share := (look w.blocks e.1 {}).share }) }

/-- PART_RESET written: steps 1 to 5 of R436, and the hubs begin to retrain. A second write while a reset
runs has no effect (R438). -/
def startPartReset (p : Nat) (s : State) : State :=
  let q := s.part p
  if !q.present || q.resetting then s
  else
    let e := q.frame
    let s := forAll e.ports resetPort s
    let s := forAll e.stacks (fun h t =>
      let t := if (t.hub h).mem.state = 2 then t.setHub h (t.hub h).cleanAll else t
      t.modHub h fun b =>
        let share := b.pwr.share
        let b := b.fresh true
        { b with
          pwr := { b.pwr with share }
          mem := { b.mem with state := if b.mem.state = 3 then 1 else b.mem.state } }) s
    let s := forAll e.cds (fun d t => t.modCd d fun c => { c.fresh with pwr := c.pwr.sharesOnly }) s
    let s := forAll e.uds (fun u t => t.modUd u fun x => { pwr := { share := x.pwr.share } }) s
    let tick := s.moduleTick
    s.modPart p fun q => q.fresh tick

/-- PART_RESET_DONE: the hubs have retrained; the end is counted and reported, and the ports are free to
probe again after their 200 ms. -/
def execPartResetDone (p ms : Nat) (s : State) : Host.Outcome State Fault Refusal :=
  onlyIf (p < 4) <|
    let q := s.part p
    if q.resetting && q.frame.stacks.all fun h => !(s.live (.stack h)) || (s.hub h).mem.state != 1 then
      let s := s.modPart p fun q =>
        { q with resetting := false, resetStep := 0, resets := sat q.resets, resetMs := min ms 0xFFFFFFFF }
      let s := s.modLog fun l => { l with live := { l.live with partResets := sat l.live.partResets } }
      telem p (.partitionResetDone p) s
    else s

end Sys2Proof.Machine
end

