-- ==== Sys2Proof/Machine/Baith.lean ====
section
/-! DEFINITION. Blocks on a Baith port (17 R420 to R429): their bytes, sequence, acknowledgement and credit, and
the transfers that they carry. -/

namespace Sys2Proof.Machine

/-! ## Bytes of a block (Table 17.1) -/

/-- The header's first four bytes. -/
def blockSync : List Byte := [0x4C, 0xB4, 0x1E, 0xA7]

/-- A header as its fields say. -/
def blockHead (kind : Nat) (more : Bool) (seq len ack credit tag : Nat) : List Byte :=
  let h := blockSync ++ leBytes 1 kind ++ leBytes 1 (b2n more) ++ leBytes 2 0 ++ leBytes 4 seq ++ leBytes 4 len ++
    leBytes 4 ack ++ leBytes 4 credit ++ leBytes 4 tag
  h ++ leBytes 4 (crc32c h).toNat

/-- A block as it goes out, with the port's ack and credit. -/
def Baith.blockBytes (q : Baith) (x : Block) : List Byte :=
  blockHead x.kind x.more x.seq x.payload.length q.rxNext q.creditOut x.tag ++ x.payload ++
    leBytes 4 (crc32c x.payload).toNat

/-- A keep-alive as it goes out (R421). -/
def Baith.keepAliveBytes (q : Baith) : List Byte := blockHead 0 false q.txNext 0 q.rxNext q.creditOut 0

/-- Whether bytes begin with a header that can be accepted (R426). -/
def headOk (b : List Byte) : Bool :=
  32 ≤ b.length && b.take 4 == blockSync && leAt b 0x1C 4 == (crc32c (b.take 0x1C)).toNat &&
    leAt b 0x0C 4 % 4 == 0 && leAt b 0x0C 4 ≤ 65536

/-- Whether bytes are fewer than a header's and may be the beginning of one. -/
def headStarts (b : List Byte) : Bool := b.length < 32 && b.take 4 == blockSync.take b.length

/-- The bytes from the first header on, or from what may be the beginning of one, and how many were skipped (R426). -/
def huntHead : List Byte → Nat × List Byte
  | [] => (0, [])
  | b :: r =>
    if headOk (b :: r) || headStarts (b :: r) then (0, b :: r) else ((huntHead r).1 + 1, (huntHead r).2)

/-- Units of 1 KiB that a payload uses (R425). -/
def blockUnits (len : Nat) : Nat := ceilDiv len 1024

/-- Whether a does not pass b, modulo 2^32. -/
def notPast (a b : Nat) : Bool := (b + 2 ^ 32 - a % 2 ^ 32) % 2 ^ 32 < 2 ^ 31

/-- The types that are transfers (R429). -/
def isTransfer (kind : Nat) : Bool := kind == 0x01 || kind == 0x02 || kind == 0x0E

/-- The types that are requests (Table 17.2). -/
def isRequest (kind : Nat) : Bool := kind == 0x03 || kind == 0x04 || kind == 0x06 || kind == 0x0A || kind == 0x0C

/-! ## What goes out -/

/-- A block put in the queue to be sent. While the module is being reset no block is kept (R422). -/
def postBlock (b kind tag : Nat) (payload : List Byte) (s : State) : State :=
  if s.ctrl.module.inReset then s
  else
    let pad := (4 - payload.length % 4) % 4
    s.modBp b fun q =>
      { q with outQueue := q.outQueue ++
          [{ kind, more := false, seq := 0, tag, payload := payload ++ List.replicate pad 0 }] }

/-- Data sent in blocks of at most 65 536 bytes. -/
def postData (b kind tag : Nat) (data : List Byte) (s : State) : State :=
  forRange (ceilDiv data.length 65536)
    (fun i t => postBlock b kind tag ((data.drop (65536 * i)).take 65536) t) s

/-- What a completion names: the tag, sequence and type of its request, or of its transfer's last block. -/
structure ReqId where
  tag : Nat
  seq : Nat
  kind : Nat
deriving DecidableEq, Repr

/-- What an inbound block's completion names. -/
def Block.id (x : Block) : ReqId := ⟨x.tag, x.seq, x.kind⟩

/-- A completion (Table 17.3). -/
def complete (b : Nat) (r : ReqId) (status reason done address : Nat) (s : State) : State :=
  postBlock b 0x08 r.tag
    (leBytes 4 r.tag ++ leBytes 4 r.seq ++ leBytes 1 r.kind ++ leBytes 1 status ++ leBytes 1 reason ++ leBytes 1 0 ++
      leBytes 4 done ++ leBytes 8 address ++ leBytes 8 0) s

/-- A request refused with a number of Table 03.9. -/
def refuse (b : Nat) (r : ReqId) (code address : Nat) (s : State) : State := complete b r 7 code 0 address s

/-- A port comes up once a block has been received and one has been sent (R419). -/
def Baith.tryUp (q : Baith) : Baith :=
  if q.light = 2 && q.sentBlock && q.gotBlock then { q with light := 3 } else q

/-- A keep-alive sent at once (R421). -/
def sendKeepAlive (b : Nat) (s : State) : State :=
  s.modBp b fun q =>
    if q.light < 2 then q
    else { q with keepAlives := q.keepAlives + 1, wire := q.keepAliveBytes, sentBlock := true }.tryUp

/-- The units of a block that is discarded or whose payload has been taken out (R425). -/
def returnUnits (b n : Nat) (s : State) : State :=
  s.modBp b fun q => { q with creditOut := (q.creditOut + n) % 2 ^ 32 }

/-- A block that uses units and is discarded (R425). -/
def discardUnits (b n : Nat) (s : State) : State :=
  returnUnits b n (s.modBp b fun q => { q with unitsIn := (q.unitsIn + n) % 2 ^ 32 })

/-! ## Transfers (R429) -/

/-- Whether the loader takes images of a port now. -/
def State.loads (s : State) (b : Nat) : Bool := s.ctrl.module.state == 5 && (s.partOfBaith b).isSome

/-- WR_STATE follows an image's transfer (Table 02.9). -/
def showLoad (b kind st : Nat) (bytes : List Byte) (s : State) : State :=
  if kind = 0x02 && s.loads b then
    let t := imageTarget b bytes s
    let rest := s.restState t
    s.modLoader t fun l => { l with state := if st = 0 then rest else st }
  else s

/-- A port's open transfer of a type. -/
def Baith.transfer? (q : Baith) (kind : Nat) : Option Transfer := q.transfers.find? fun t => t.kind == kind

/-- A port without its open transfer of a type. -/
def Baith.closeTransfer (q : Baith) (kind : Nat) : Baith := { q with transfers := q.transfers.filter fun t => t.kind != kind }

/-- The open transfer of a type discarded with a TRUNCATED completion. -/
def dropTransfer (b kind : Nat) (s : State) : State :=
  match (s.bp b).transfer? kind with
  | none => s
  | some t =>
    let s := s.modBp b fun q => { q.closeTransfer kind with truncated := sat q.truncated }
    complete b ⟨t.tag, t.seq, t.kind⟩ 6 0 0 0 (showLoad b t.kind 0 t.bytes s)

/-- A block of a transfer taken: it opens one of its type, goes on with it, or breaks it; the first block whose more
bit is clear ends it. Blocks of other types may come between. -/
def takeTransfer (b : Nat) (x : Block) (s : State) : State :=
  let goes := fun (t : Transfer) => t.bytes.length == x.tag
  let s := if x.tag = 0 || !((s.bp b).transfer? x.kind).elim false goes then dropTransfer b x.kind s else s
  let before := if x.tag = 0 then some [] else ((s.bp b).transfer? x.kind).map (·.bytes)
  match before with
  | none => s
  | some bytes =>
    let bytes := bytes ++ x.payload
    if x.more then
      showLoad b x.kind 1 bytes <| s.modBp b fun q =>
        { q.closeTransfer x.kind with transfers :=
            { kind := x.kind, bytes, seq := x.seq, tag := x.tag } :: (q.closeTransfer x.kind).transfers }
    else
      showLoad b x.kind 2 bytes <| s.modBp b fun q =>
        { q.closeTransfer x.kind with inbound := q.inbound ++ [{ x with payload := bytes }] }

/-! ## What comes in (R421 to R426) -/

/-- A valid header: its ack and credit are taken, and the port is not silent (R421, R424, R428). -/
def takeHead (b : Nat) (h : List Byte) (s : State) : State :=
  let ack := leAt h 0x10 4
  s.modBp b fun q =>
    let fresh := notPast q.txAcked ack && notPast ack q.txNext
    { q with
      gotBlock := true, silent := false, creditIn := leAt h 0x14 4
      txAcked := if fresh then ack else q.txAcked
      unacked := if fresh then q.unacked.filter fun x => notPast ack x.seq else q.unacked }.tryUp

/-- An accepted block (R423): its sequence is consumed, and its payload goes where its type says. -/
def acceptBlock (b : Nat) (x : Block) (s : State) : State :=
  let n := x.payload.length
  let s := s.modBp b fun q =>
    { q with rxNext := (q.rxNext + 1) % 2 ^ 32, inBytes := wrap64 q.inBytes n
             unitsIn := (q.unitsIn + blockUnits n) % 2 ^ 32 }
  if isTransfer x.kind then returnUnits b (blockUnits n) (takeTransfer b x s)
  else if isRequest x.kind then s.modBp b fun q => { q with inbound := q.inbound ++ [x] }
  else returnUnits b (blockUnits n) (refuse b x.id 1 0 s)

/-- A whole block with its payload and trailer, checked by sequence, credit and trailer (R423, R425). -/
def takeBlock (b : Nat) (bytes : List Byte) (s : State) : State :=
  let len := leAt bytes 0x0C 4
  let seq := leAt bytes 0x08 4
  let units := blockUnits len
  let payload := (bytes.drop 32).take len
  let q := s.bp b
  if seq != q.rxNext then
    let old := (q.rxNext + 2 ^ 32 - seq) % 2 ^ 32 ≤ 2 ^ 31
    sendKeepAlive b <| discardUnits b units <|
      if old then s else s.modBp b fun q => { q with seqDrop := sat q.seqDrop }
  else if !notPast (q.unitsIn + units) q.creditOut then
    discardUnits b units (s.modBp b fun q => { q with creditDrop := sat q.creditDrop })
  else if leAt bytes (32 + len) 4 != (crc32c payload).toNat then
    discardUnits b units (s.modBp b fun q => { q with crcDrop := sat q.crcDrop })
  else
    acceptBlock b
      { kind := leAt bytes 4 1, more := bit (leAt bytes 5 1) 0, seq, tag := leAt bytes 0x18 4, payload } s

/-- Bytes skipped before a header (R426). -/
def countHunt (b n : Nat) (s : State) : State := s.modBp b fun q => { q with hunt := satAdd q.hunt n }

/-- The bytes received of a block that is not whole yet, kept. -/
def keepPart (b : Nat) (part : List Byte) (s : State) : State := s.modBp b fun q => { q with part }

/-- Bytes from the line: what lies before a header is skipped, and each whole block is taken. `fuel` bounds the
blocks. The bytes of a block that is not whole are kept. -/
def receiveBytes (b : Nat) : Nat → List Byte → State → State
  | 0, bytes, s => keepPart b bytes s
  | fuel + 1, bytes, s =>
    let x := huntHead bytes
    let s := countHunt b x.1 s
    if !headOk x.2 then keepPart b x.2 s
    else
      let len := leAt x.2 0x0C 4
      let whole := if len = 0 then 32 else 36 + len
      if x.2.length < whole then keepPart b x.2 s
      else
        let s := takeHead b x.2 s
        let s := if len = 0 then s else takeBlock b x.2 s
        receiveBytes b fuel (x.2.drop whole) s

/-- BAITH_BLOCK_RECEIVE: bytes arrive, after those kept of a block that was not whole. -/
def execBaithBlockReceive (b : Nat) (bytes : List Byte) (s : State) : Host.Outcome State Fault Refusal :=
  onlyIf (b < 4) <|
    let all := (s.bp b).part ++ bytes
    if (s.bp b).light < 2 then s else receiveBytes b (all.length / 32 + 1) all (keepPart b [] s)

/-- KEEP_ALIVE_RECEIVE: a block of length 0 (R421); any other is kept, to be received as such. -/
def execKeepAliveReceive (b : Nat) (bytes : List Byte) (s : State) : Host.Outcome State Fault Refusal :=
  onlyIf (b < 4) <|
    let x := huntHead ((s.bp b).part ++ bytes)
    if (s.bp b).light < 2 then s
    else
      let s := countHunt b x.1 s
      if headOk x.2 && leAt x.2 0x0C 4 == 0 then keepPart b (x.2.drop 32) (takeHead b x.2 s) else keepPart b x.2 s

/-- BLOCK_TRUNCATE_TIMEOUT: of the block that an accepted header began, these bytes are the last, with nothing more
for 1 ms (R427). -/
def execBlockTruncateTimeout (b : Nat) (bytes : List Byte) (s : State) : Host.Outcome State Fault Refusal :=
  onlyIf (b < 4) <|
    let x := huntHead ((s.bp b).part ++ bytes)
    if (s.bp b).light < 2 then s
    else
      let s := countHunt b x.1 s
      let len := leAt x.2 0x0C 4
      if !headOk x.2 || len = 0 || 36 + len ≤ x.2.length then keepPart b x.2 s
      else
        let s := keepPart b [] s
        let s := discardUnits b (blockUnits len) (takeHead b x.2 s)
        let s := s.modBp b fun q => { q with truncated := sat q.truncated }
        sendKeepAlive b (complete b ⟨leAt x.2 0x18 4, leAt x.2 0x08 4, leAt x.2 4 1⟩ 6 0 0 0 s)

/-! ## Sending (R421, R424, R425, R428) -/

/-- Whether the host's credit lets a payload be sent. -/
def Baith.creditFor (q : Baith) (len : Nat) : Bool := notPast (q.unitsOut + blockUnits len) q.creditIn

/-- A block sent: it takes the next sequence and stays in the outbound buffer. -/
def Baith.sendBlock (q : Baith) (x : Block) : Baith :=
  let x := { x with seq := q.txNext }
  { q with
    unacked := q.unacked ++ [x], txNext := (q.txNext + 1) % 2 ^ 32, wire := q.blockBytes x, sentBlock := true
    outBytes := wrap64 q.outBytes x.payload.length
    unitsOut := (q.unitsOut + blockUnits x.payload.length) % 2 ^ 32 }.tryUp

/-- BAITH_BLOCK_SEND: the oldest block that waits is sent, as credit and buffer allow. -/
def execBaithBlockSend (b : Nat) (s : State) : Host.Outcome State Fault Refusal :=
  onlyIf (b < 4) <| s.modBp b fun q =>
    match q.nextOut with
    | some (x, q') =>
      if 2 ≤ q.light && q.creditFor x.payload.length && q.buffered + x.payload.length ≤ outBuffer then q'.sendBlock x
      else q
    | none => q

/-- Blocks sent again, while credit lets them. -/
def Baith.resend : List Block → Baith → Baith
  | [], q => q
  | x :: r, q =>
    if q.creditFor x.payload.length then
      Baith.resend r
        { q with
          resent := sat q.resent, wire := q.blockBytes x, outBytes := wrap64 q.outBytes x.payload.length
          unitsOut := (q.unitsOut + blockUnits x.payload.length) % 2 ^ 32 }
    else q

/-- BAITH_RESEND_TIMEOUT: 2 ms without an ack: the blocks from the host's ack on are sent again (R424). -/
def execBaithResendTimeout (b : Nat) (s : State) : Host.Outcome State Fault Refusal :=
  onlyIf (b < 4) <| s.modBp b fun q => if 2 ≤ q.light then q.resend q.unacked else q

/-- KEEP_ALIVE_SEND: 100 µs without a block sent (R421). -/
def execKeepAliveSend (b : Nat) (s : State) : Host.Outcome State Fault Refusal :=
  onlyIf (b < 4) (sendKeepAlive b s)

/-- BAITH_SILENCE_TIMEOUT: an up port has received no block for 100 ms (R428). -/
def execBaithSilenceTimeout (b : Nat) (s : State) : Host.Outcome State Fault Refusal :=
  onlyIf (b < 4) <| s.modBp b fun q => if q.light = 3 then { q with silent := true } else q

end Sys2Proof.Machine
end

