-- ==== Sys2Proof/Machine/Boundary.lean ====
section
/-! DEFINITION. A tick boundary (03 R73, R82 to R85): commits, the stream's steps, publications, slips and
stall counts, and what blocks and dies publish. -/

namespace Sys2Proof.Machine

/-! ## When a boundary falls and what is due at it -/

/-- The module time at which tick n of a partition begins (R73). The offset then is that of the boundary: three
rounds settle it, since a slew of 200 ppm moves it by 13 ns at most in the longest tick. -/
def State.boundaryTime (s : State) (p n : Nat) : Nat :=
  let c := (s.part p).cadence
  let at' := fun (t : Nat) =>
    ((16 * ((n * c.period + c.phase : Nat) : Int) - (s.part p).disc.offsetAt t + 15) / 16).toNat
  at' (at' (at' s.now))

/-- Whether a partition's time is a boundary of its cadence (R73). -/
def State.onBoundary (s : State) (p : Nat) : Bool :=
  let c := (s.part p).cadence
  c.phase ≤ s.partTime p && (s.partTime p - c.phase) % c.period == 0

/-- Whether the step two before the next has a record left on some die (R82). -/
def State.bankBusy (s : State) (p : Nat) : Bool :=
  let st := (s.part p).stream
  st.started && st.step != 0 && s.stepLive p (st.step - 1)

/-- Whether the stream's next step is due at boundary n (R82). -/
def Stream.nextDue (st : Stream) (n : Nat) : Bool :=
  st.state == 2 && st.stepStart + st.stepTicks ≤ n && !(st.closing && st.queued.isEmpty)

/-- Whether a step begins at boundary n (R82, R85). -/
def State.stepBegins (s : State) (p n : Nat) : Bool :=
  let q := s.part p
  let st := q.stream
  match st.queued.head? with
  | none => false
  | some g =>
    !st.stopReq &&
      if st.state = 1 then
        g.startTick ≤ n && (q.disc.sync == 0 || q.disc.sync == 2) &&
          !(q.pendingImg.elim false fun i => q.changesShape i)
      else st.nextDue n && !s.bankBusy p

/-- Whether the pending image commits at boundary n: one that changes the update regions section waits
for a step boundary, except while its shape keeps step 0 from beginning (R54, R56). -/
def State.jobDue (s : State) (p n : Nat) : Bool :=
  let q := s.part p
  match q.pendingImg with
  | none => false
  | some i =>
    q.loader.pendingTick ≤ n &&
      (!q.changesUpdate i || !q.stream.running || s.stepBegins p n ||
        (q.stream.state == 1 && q.changesShape i))

/-! ## A step begins -/

/-- The record states of a die at the beginning of a step. -/
def SegDie.recStates (x : SegDie) : List RecState :=
  (x.records.zip x.cycles).map fun y => { record := y.1, cycles := y.2 }

/-- What step 0 of an opening segment clears on a die (R90, R132, R198), and its COE's message numbers. -/
def openDie (d : Nat) (s : State) : State :=
  s.modCd d fun c =>
    { c with
      seq := { c.seq with sregs := List.replicate 56 0 }
      eng := { c.eng with
        mxe := c.eng.mxe.map fun m => { m with tiles := List.replicate 4 {} }
        coe := { c.eng.coe with numbers := [] }
        pepper := { c.eng.pepper with live := c.eng.pepper.seed } } }

/-- The event bank of a step cleared (R80). -/
def Seq.clearBank (q : Seq) (step : Nat) : Seq :=
  { q with ev := (List.range 128).map fun i => if i / 64 == step % 2 then 0 else q.ev.getD i 0 }

/-- A step's records taken from the segment onto a die (R77, R82). -/
def beginDie (g : SegmentImg) (n : Nat) (d : Nat) (s : State) : State :=
  s.modSeq d fun q =>
    let q := q.clearBank g.step
    match g.dies.find? fun x => x.die == d with
    | none => q
    | some x =>
      { q with steps := q.steps ++
          [{ step := g.step, startTick := n, ticks := g.ticks, closing := g.closing, recs := x.recStates }] }

/-- The gathering of a step's control word set up, where the segment has one (R237). -/
def beginGather (p : Nat) (g : SegmentImg) (s : State) : State :=
  let word := (g.dies.flatMap (·.records)).find? fun r => r.opcode == 0x0604
  let s := s.modPart p fun q => { q with gathers := q.gathers.filter fun x => g.step ≤ x.step + 1 }
  match word with
  | none => s
  | some r => s.modGather p g.step fun w =>
      { w with lead := g.lead, mask := g.dieMask, ring := field (r.ops.getD 5 0) 7 0 }

/-- A step begins (R82): on every die of the partition that has not been cut out. Step 0 of an opening segment leaves
no granule record (R209), and no verdict or early shard of the stream before. Closings of granules are kept for as long
as a record of their step may wait on them. -/
def beginStep (p n : Nat) (g : SegmentImg) (s : State) : State :=
  let e := (s.part p).frame
  let dies := e.cds.filter fun d => !s.isCut (.cd d)
  let s := s.modStream p fun st =>
    { st with
      state := 2, step := g.step, started := true, stepStart := n, stepTicks := g.ticks
      queued := st.queued.drop 1, begun := (st.begun.filter fun x => s.stepLive p x.step) ++ [g] }
  let s := if g.opening then
      let s := forAll e.stacks (fun h t => t.modRed h fun q => { q with closed := [], history := [] }) (forAll dies openDie s)
      forAll e.uds (fun u t => t.modUd u fun k => { k with verdicts := [] })
        (s.modFab p fun f => { f with early := [], forwarded := [] })
    else s
  let s := forAll e.stacks
    (fun h t => t.modRed h fun q => { q with history := q.history.filter fun x => g.step ≤ x.step + 2 }) s
  let s := forAll dies (beginDie g n) s
  forAll e.ports (fun k t => decidePeer k t) (beginGather p g s)

/-! ## The stream at a boundary -/

/-- Ticks of waiting counted (R82). -/
def countWait (p n : Nat) (s : State) : State :=
  let st := (s.part p).stream
  if st.nextDue n then
    let busy := s.bankBusy p
    s.modStream p fun st =>
      { st with
        starve := if st.queued.isEmpty then sat st.starve else st.starve
        stepLate := if busy then sat st.stepLate else st.stepLate }
  else s

/-- A requested stop, an abort that waited for a step boundary, and the end of a closing segment's step, at boundary n
(R85). -/
def endSteps (p n : Nat) (s : State) : State :=
  let st := (s.part p).stream
  if st.state = 2 && st.stepStart + st.stepTicks ≤ n && st.abortReq then abortNow p s
  else if st.state = 1 && st.stopReq then closeStream p 4 (dropQueued p s)
  else if st.state = 2 && st.stepStart + st.stepTicks ≤ n && (st.stopReq || (st.closing && st.queued.isEmpty)) then
    endIfDone p ((dropQueued p s).modStream p fun st => { st with state := 3 })
  else s

/-! ## Slips and stall counts -/

/-- A record counted as slipped at boundary n (R83): one whose due boundary this is, or an alternate
chosen after its due boundary. -/
def slipsAt (n : Nat) (q : Seq) (u : StepRun) (cmd : Nat) (x : RecState) : Bool :=
  let due := u.startTick + x.record.slot + x.record.span
  let again := q.replays.any fun y => y.todo.contains (u.step, cmd)
  (x.phase == .waiting || x.phase == .running) && !x.slipped &&
    (!bit x.record.flags 0 || (u.choiceOf cmd).elim false fun c => c.2.decided) &&
    (due == n || (due < n && bit x.record.flags 0 && !again))

/-- The slips of a step on a die at boundary n, by command number. -/
def Seq.slips (q : Seq) (n : Nat) (u : StepRun) : List (Nat × RecState) :=
  ((List.range u.recs.length).zip u.recs).filter fun x => slipsAt n q u x.1 x.2

/-- A die's slips counted and the first of each step latched (R83). -/
def slipDie (p n d : Nat) (s : State) : State :=
  let q := (s.cd d).seq
  let found := q.steps.flatMap fun u => (q.slips n u).map fun x => (u.step, x.1, x.2.record.unit)
  let s := forAll found
    (fun x t => t.modSeq d fun q =>
      let fresh := (q.step? x.1).elim false fun u => !u.slipLatched
      let q := if fresh then
          { q with slipFirst := x.2.1, slipStep := x.1, slipInfo := BitVec.ofNat 32 (2 ^ 16 + x.2.2) }
        else q
      { q with
        slip := sat q.slip
        steps := q.steps.map fun u =>
          if u.step == x.1 then
            { u with
              slipLatched := true
              recs := modAt u.recs x.2.1 fun y => { y with slipped := true } }
          else u }) s
  s.modStream p fun st => { st with slip := wrap64 st.slip found.length }

/-- Whether input has landed in the tick that ends at boundary n in a granule that a record waits on. -/
def freshGranule (n : Nat) (r : RecRef) (x : RecState) (s : State) : Bool :=
  (waitedGranules r x s).any fun g => n ≤ g.2.lastTick + 1

/-- A record's becalmed state and stall count at boundary n (R382, R383). -/
def becalmAt (p n : Nat) (r : RecRef) (x : RecState) (s : State) : State :=
  let due := ((s.cd r.die).seq.step? r.step).elim 0 fun u => u.startTick + x.record.slot + x.record.span
  if due ≤ n && s.waitsInput p r x then
    match x.becalmed with
    | none =>
      (s.modRec r fun y => { y with becalmed := some n, idle := 0 }).modFab p fun f =>
        { f with becalmTotal := sat f.becalmTotal }
    | some _ =>
      let k := if freshGranule n r x s then 1 else x.idle + 1
      s.modRec r fun y => { y with idle := k }
  else if x.becalmed.isSome then s.modRec r fun y => { y with becalmed := none, idle := 0 }
  else s

/-- The stall counts of a partition's records and messages at boundary n. -/
def stallCounts (p n : Nat) (s : State) : State :=
  let s := forAll (s.liveRecs p) (fun x t => becalmAt p n x.1 x.2 t) s
  s.modFab p fun f =>
    { f with
      msgs := f.msgs.map fun m => { m with idle := m.idle + 1 }
      table := f.table.map fun m => { m with idle := m.idle + 1 } }

/-! ## Forecasts (16 R412, 14 R347) -/

/-- Whether a die's SEQ expects a block to run in tick n. -/
def State.expects (s : State) (d n : Nat) (b : BlockRef) : Bool :=
  (s.cd d).seq.steps.any fun u => u.recs.any fun x =>
    blockUses b x.record.unit &&
      (x.phase == .running || (x.phase == .waiting && u.startTick + x.record.slot ≤ n))

/-- A die's forecast in W for tick n (R412): nominal power scaled by the clock last chosen for the blocks
that are expected to run, and 5 % of nominal for those in lulls. -/
def State.forecast (s : State) (d n : Nat) : Nat :=
  let mw := dieBlocks.foldl
    (fun t i =>
      let b := BlockRef.die d i
      let x := s.blk b
      if s.expects d n b then t + blockNominal b * x.choice / 1600
      else if x.asleep || x.mode == .lull1 then t + blockNominal b / 20
      else t) 0
  min (mw / 1000) 1023

/-- A die's forecast sent to its light engine, unless its stream does not run or its SEQ is in a lull. -/
def sendForecast (p n d : Nat) (s : State) : State :=
  let x := s.blk (.die d 0x0F)
  if (s.part p).policy.forecast && (s.part p).stream.running && x.lullOf = 0 && x.mode != .lull1 then
    let f := s.forecast d (n + 1)
    takeForecast d f (s.modDiePwr d fun w => { w with forecast := f })
  else s

/-! ## What the model does not time -/

/-- A unit's wait counters and a stack's temperature at the end of a tick: free values (log entry 3). The
refresh rate follows the temperature (22 R504, Table 22.5). -/
def hubTiming (h : Nat) (s : State) : State :=
  let t := Config.stackTemp s.free % 256
  let rate := if t < 85 then 0 else if t < 95 then 1 else 2
  let full := if (s.hub h).mem.narrowWasFull then Config.waitCycles 2 s.free else 0
  let retry := Config.waitCycles 3 s.free
  s.drawn.modMem h fun m =>
    { m with
      narrowWasFull := narrowDepth ≤ m.queue.length
      narrowFull := satAdd m.narrowFull full, linkRetry := satAdd m.linkRetry retry
      temp := BitVec.ofNat 32 (rate * 256 + t) }

def dieTiming (d : Nat) (s : State) : State :=
  let v := if s.tileContended d 0x0A then Config.waitCycles 0 s.free else 0
  let c := if s.tileContended d 0x0D then Config.waitCycles 1 s.free else 0
  (s.drawn.modVxe d fun x => { x with tileWait := satAdd x.tileWait v }).modCve d
    fun x => { x with tileWait := satAdd x.tileWait c }

/-! ## The boundary -/

/-- What happens at boundary n of a partition, in order: the commit that is due; the stream's step; the
published sets; slips and stall counts; and what blocks publish and ask for. A commit may renumber the ticks
(R74): what follows it is judged at the new number, and step 0 may begin in that slot, the first after the
commit (R56), if the boundary is one of the new cadence. -/
def atBoundary (p n : Nat) (s : State) : State :=
  let old := (s.part p).cadence
  let s := if s.jobDue p n then commitJob p n s else s
  let n := (s.part p).disc.tick
  let begins := ((s.part p).cadence == old || s.onBoundary p) && s.stepBegins p n
  let s := endSteps p n s
  let next := (s.part p).stream.queued.head?
  let s := match begins, next with
    | true, some g => beginStep p n g (publishStep p g.step s)
    | _, _ =>
      let s := countWait p n s
      if (s.part p).stream.running then s else publishStep p 0xFFFFFFFF s
  let s := publishTick p s
  let s := forAll (s.part p).frame.cds (slipDie p n) s
  let s := stallCounts p n s
  let s := forAll (s.part p).frame.cds (fun d t => retireSteps p d t) s
  let s := forAll (s.part p).frame.cds (pickChoices n) (publishHeads p s)
  let s := wakePoints p s
  let s := forAll (s.part p).frame.stacks hubTiming (forAll (s.part p).frame.cds dieTiming s)
  forAll (s.part p).frame.cds (fun d t => sendForecast p n d (feedForward d t)) s

/-- The next tick boundary of a present partition, with module time moved on to it (R73). -/
def passBoundary (p : Nat) (s : State) : State :=
  if (s.part p).present && s.powered then
    let n := (s.part p).disc.tick + 1
    let s := advanceTo (s.boundaryTime p n) s
    atBoundary p n (s.modDisc p fun d => { d with tick := n })
  else s

/-- Module boundary m, at which the pending frame image commits: then the boundary of every partition of
the new frame (R54). -/
def frameBoundary (m : Nat) (s : State) : State :=
  let s := commitFrame m (advanceTo (4000 * m) s)
  forAll partNums (fun p t => passBoundary p t) s

/-- Whether the frame image commits by module boundary m (R54, R438); never under a committed job image (R29). -/
def State.frameDue (s : State) (m : Nat) : Bool :=
  s.ctrl.pendingFrame.isSome && s.ctrl.frameLoader.pendingTick ≤ m && !s.anyResetting && s.powered &&
    partNums.all fun p => (s.part p).active.isNone

/-- TICK_BOUNDARY: the next tick boundary of a partition. -/
def execTickBoundary (p : Nat) (s : State) : Host.Outcome State Fault Refusal :=
  onlyIf (p < 4) <|
    let m := s.boundaryTime p ((s.part p).disc.tick + 1) / 4000
    if (s.part p).present && s.frameDue m then frameBoundary m s else passBoundary p s

/-- WINDROSE_COMMIT: the boundary at which a pending image commits. Nothing happens where the image does
not commit at the next boundary of its partition. -/
def execWindroseCommit (t : WrTarget) (s : State) : Host.Outcome State Fault Refusal :=
  onlyIf t.wf <|
    match t with
    | .part p => if s.jobDue p ((s.part p).disc.tick + 1) then passBoundary p s else s
    | .frame =>
      let m := max s.ctrl.frameLoader.pendingTick (ceilDiv s.now 4000)
      if s.frameDue m then frameBoundary m s else s

end Sys2Proof.Machine
end

