-- ==== Sys2Proof/Machine/FennelCmp.lean ====
section
/-! DEFINITION. Fennel's comparison of a sample with its binary64 reference and tolerance (21 R492 to R496). -/

namespace Sys2Proof.Machine

/-! ## binary64 -/

/-- A finite magnitude rounded to binary64: to nearest even, or upward. One past the range is an infinity. -/
def round64Mag (up : Bool) (neg : Bool) (m : Nat) (e : Int) : Num :=
  if m = 0 then .fin neg 0 0
  else
    let q := max (magLog m e - 52) (-1074)
    let r := if up then roundMag .rz 0 m e q else roundMag .rne 0 m e q
    let k := if up && !r.2 then r.1 + 1 else r.1
    if k != 0 && 1024 ≤ magLog k q then .inf neg else .fin neg k q

/-- A value rounded to binary64. -/
def round64 (up : Bool) : Num → Num
  | .fin neg m e => round64Mag up neg m e
  | v => v

/-- The 64 bits of a binary64 value. -/
def f64Bits : Num → Nat
  | .nan _ _ _ => 0x7FF8000000000000
  | .inf neg => (if neg then 2 ^ 63 else 0) + 0x7FF0000000000000
  | .fin neg m e =>
    let sign := if neg then 2 ^ 63 else 0
    if m = 0 then sign
    else
      let l := magLog m e
      if -1022 ≤ l then
        sign + (l + 1023).toNat * 2 ^ 52 + (atExp (m : Int) e (l - 52)).toNat % 2 ^ 52
      else sign + (atExp (m : Int) e (-1074)).toNat

/-- The magnitude of a value. -/
def Num.mag : Num → Num
  | .fin _ m e => .fin false m e
  | .inf _ => .inf false
  | v => v

/-- The value of a dyadic number. -/
def Dyadic.num (d : Dyadic) : Num := .fin (d.man < 0) d.man.natAbs d.exp

/-- Sums of values. -/
def numSum (l : List Num) : Num := l.foldl (fun a x => (numAdd a x).1) (.fin false 0 0)

/-- 2^e as a value. -/
def pow2 (e : Int) : Num := .fin false 1 e

/-- Whether a value is finite. -/
def Num.finite : Num → Bool
  | .fin _ _ _ => true
  | _ => false

/-! ## The bound (R145, R493) -/

/-- Whether a value is not zero and lies below 2^-126. -/
def tiny : Num → Bool
  | .fin _ m e => m != 0 && magLog m e < -126
  | _ => false

/-- A chunk's largest exponent, its sum S and Ŝ (R141, R142). -/
def chunkParts (ps : List Num) : Option Int × Num × Word :=
  let x := chunkFinite ps
  (blockLog ps, x.1, (round32 .rne x.1).1)

/-- Whether the addition of Ŝ to a pair meets a value below 2^-126 (R145). -/
def tinyStep (p : Pair) (c : Word) : Bool :=
  let a := twoSum p.hi c
  let t := add32 p.lo a.2.1
  let b := twoSum a.1 t.1
  [a.1, a.2.1, t.1, b.1, b.2.1].any fun w => tiny (f32 w)

/-- What the bound needs of the chunks: the truncation terms, the sum of |Ŝ|, and whether the last term stands. -/
structure BoundSums where
  pair : Pair
  trunc : List Num := []
  sums : List Num := []
  low : Bool := false

/-- The chunks of a column taken in order. -/
def boundSums (before : Pair) (ps : List Num) : BoundSums :=
  (chunksOf (ceilDiv ps.length 32) ps).foldl
    (fun b c =>
      let x := chunkParts c
      { pair := (addPair b.pair x.2.2).1
        trunc := b.trunc ++ (x.1.map fun e => pow2 (e - 21)).toList
        sums := b.sums ++ [(f32 x.2.2).mag]
        low := b.low || tiny x.2.1 || tiny (f32 x.2.2) || tinyStep b.pair x.2.2 })
    { pair := before }

/-- The tolerance of an element: exact, then rounded toward +infinity (R493). -/
def tolerance (before : Pair) (k : Nat) (ps : List Num) : Num :=
  let b := boundSums before ps
  let n := ceilDiv k 32 + 1
  let vb := before.value.mag
  let sums := numSum (vb :: b.sums)
  let factor := (numAdd (pow2 (-23)) (.fin false (4 * n) (-48))).1
  let bound := numSum (b.trunc ++ [(numMul factor sums).1] ++ if b.low then [.fin false n (-149)] else [])
  let wide := (numMul (.fin false (k + 1) (-53)) (numSum (vb :: ps.map Num.mag))).1
  round64 true (numAdd (bound.scale 1) wide).1

/-- The reference X′ (R492). -/
def reference (before : Pair) (ps : List Num) : Num :=
  ps.foldl (fun x p => round64 false (numAdd x p).1) (round64 false before.value)

/-! ## A sample -/

/-- Whether a product is out of the range that Fennel compares (R494). -/
def outOfRange (d : Dyadic) : Bool :=
  d.man != 0 && (magLog d.man.natAbs d.exp < -1022 || numLt (pow2 1023) d.num.mag)

/-- Whether a sample is exempt (R494). -/
def FennelSample.isExempt (m : FennelSample) : Bool :=
  (m.before ++ m.after).any (fun p => !p.value.finite) ||
    m.products.any (fun ps => match ps with
      | none => true
      | some l => l.any outOfRange) ||
    longSumLimit < m.chunksBefore || longSumLimit < m.chunksAfter

/-- The divergence record of column c, if it diverges (R493, Table 21.5). -/
def FennelSample.column (m : FennelSample) (time c : Nat) : Option FennelRec :=
  let before := m.before.getD c {}
  let after := m.after.getD c {}
  let ps := ((m.products.getD c none).getD []).map Dyadic.num
  let x := reference before ps
  let t := tolerance before m.k ps
  let d := (round64 false (numAdd after.value x.neg).1).mag
  if numLt t d then
    some
      { time, step := m.ref.step, cmd := m.ref.cmd, engine := m.engine, tile := m.tile, row := m.row, column := c
        chunks := ceilDiv m.k 32, after, before, reference := BitVec.ofNat 64 (f64Bits x)
        tolerance := BitVec.ofNat 64 (f64Bits t), difference := BitVec.ofNat 64 (f64Bits d) }
  else none

/-- A sample compared: counted, with each diverging element logged and the first of them told to the host
(R496). -/
def compareSample (d : Nat) (m : FennelSample) (s : State) : State :=
  let s := s.modFennel d fun f => { f with sample := none }
  if m.isExempt then s.modFennel d fun f => { f with exempt := sat f.exempt }
  else
    let recs := (List.range m.before.length).filterMap fun c => m.column s.now c
    let s := s.modFennel d fun f =>
      { f with
        checked := sat f.checked, diverge := satAdd f.diverge recs.length
        divergeSamples := if recs.isEmpty then f.divergeSamples else sat f.divergeSamples
        log := recs.foldl (fun l r => l.push 32 r) f.log }
    match recs with
    | [] => s
    | r :: _ => telemTo (s.partOfCd d) (.fennel d r) s

/-- FENNEL_SAMPLE_COMPARE: the sampled record has completed, and its row is compared. -/
def execFennelSampleCompare (d : Nat) (s : State) : Host.Outcome State Fault Refusal :=
  onlyIf (d < 16) <|
    match (s.cd d).eng.fennel.sample with
    | none => s
    | some m =>
      match s.rec? m.ref with
      | some x => if x.phase = .running then s else compareSample d m s
      | none => compareSample d m s

end Sys2Proof.Machine
end

