-- ==== Sys2Proof/Machine/RegWrite.lean ====
section
/-! DEFINITION. What a write to a register does (R13 and the register tables), and which host may read or
write it (17 R432, Table 17.5). -/

namespace Sys2Proof.Machine

/-! ## Writes to a published set (R60, R61) -/

/-- A member's value with the word at bit `low` replaced; bits outside the mask are written as 0. -/
def putWord (old low mask : Nat) (v : Word) : Nat :=
  old - old / 2 ^ low % 2 ^ 32 * 2 ^ low + (v.toNat &&& mask) * 2 ^ low

/-- A member staged, or the closing field written. -/
def writeMember (m : Member) (v : Word) (s : State) : State :=
  s.modSet m.set fun u =>
    let x := putWord (u.staged.getD m.index 0) m.low m.mask v
    if m.closing then u.close x else u.stage m.index x

/-! ## Blocks of a compute die -/

/-- The first-event record cleared and armed again (R157). -/
def writeFe (d e : Nat) (v : Word) (s : State) : State :=
  if bit v.toNat 0 then s.modMxe d e fun m => { m with fe := {} } else s

/-- The out-of-range latch cleared and armed again (R186). -/
def writeOor (d : Nat) (v : Word) (s : State) : State :=
  if bit v.toNat 0 then
    s.modGxe d fun g => { g with oorValid := false, oorStep := 0, oorCmd := 0, oorElem := 0, oorIndex := 0 }
  else s

/-- GXE_BAD_ADDR made invalid (R187). -/
def writeBad (d : Nat) (v : Word) (s : State) : State :=
  if bit v.toNat 0 then s.modGxe d fun g => { g with badValid := false } else s

/-- A word of a CVE table entry (R192): only while no stream runs, and normalised. -/
def writeCveTable (d off : Nat) (v : Word) (s : State) : State :=
  let st := (s.partOfCd d).elim 0 fun p => (s.part p).stream.state
  if off < 0x80000 && (st = 0 || st = 4 || st = 5) then
    s.modCve d fun c =>
      c.setEntry (off / 0x80)
        (CveEntry.ofBytes (patch (c.entry (off / 0x80)).bytes (off % 0x80 / 4 * 4) (leBytes 4 v.toNat)))
  else s

/-- SEG_WAIT_MAX cleared by any write (R417). -/
def clearWaitMax (d g : Nat) (s : State) : State := s.modSeg d g fun y => { y with waitMax := 0 }

/-- A register of a compute die written. -/
def writeCd (d off : Nat) (v : Word) (s : State) : State :=
  let o := off % 0x10000
  if 0x200000 ≤ off && off < 0x280000 then writeCveTable d (off - 0x200000) v s
  else match off / 0x10000, o with
    | 0x5, 0x04 => s.modVxe d fun x => { x with flags := x.flags.clear1 v }
    | 0x7, 0x04 => s.modGxe d fun x => { x with flags := x.flags.clear1 v }
    | 0x7, 0x10 => writeOor d v s
    | 0x7, 0x30 => writeBad d v s
    | 0x8, 0x04 => s.modCve d fun x => { x with flags := x.flags.clear1 v }
    | 0x4, _ =>
      if 0xA00 ≤ o then s
      else match o % 0x100 with
        | 0x04 => s.modMxe d (o / 0x100) fun m => { m with flags := m.flags.clear1 v }
        | 0x08 => writeFe d (o / 0x100) v s
        | _ => s
    | 0xA, _ =>
      if 0x10 ≤ o && o < 0x20 then
        s.modEng d fun g =>
          { g with pepper := { g.pepper with seed := modAt g.pepper.seed ((o - 0x10) / 4) fun _ => v } }
      else s
    | 0xC, _ => if 0x1000 ≤ o && o < 0x1100 && o % 0x40 = 0x14 then clearWaitMax d ((o - 0x1000) / 0x40) s else s
    | _, _ => s

/-! ## Hubs, update dies and ports -/

/-- The NV record cleared and armed again (R219). -/
def writeNv (h : Nat) (v : Word) (s : State) : State :=
  if bit v.toNat 0 then s.modRed h fun q => { q with nv := {} } else s

/-- HUB_CACHE_CTRL written (R280). -/
def writeCacheCtrl (h : Nat) (v : Word) (s : State) : State := if bit v.toNat 0 then startWriteback h s else s

/-- SCR_CTRL written (R304). -/
def writeScrub (h : Nat) (v : Word) (s : State) : State :=
  let s := if bit v.toNat 0 then startPass h s else s
  if bit v.toNat 1 then stopPass h s else s

/-- A register of a hub written. -/
def writeHub (h off : Nat) (v : Word) (s : State) : State :=
  match off with
  | 0x10004 => s.modRed h fun q => { q with flags := q.flags.clear1 v }
  | 0x10024 => writeNv h v s
  | 0x2001C => writeCacheCtrl h v s
  | 0x30018 => s.modChk h fun c => { c with scrBase := putWord c.scrBase 0 0xFFFFFFC0 v }
  | 0x3001C => s.modChk h fun c => { c with scrBase := putWord c.scrBase 32 0xFFFFFFFF v }
  | 0x30020 => s.modChk h fun c => { c with scrLines := v.toNat }
  | 0x30024 => writeScrub h v s
  | _ => if 0x38000 ≤ off && off < 0x40000 && off % 8 = 0 then writeRetire h ((off - 0x38000) / 8) v s else s

/-- A register of an update die written. -/
def writeUd (u off : Nat) (v : Word) (s : State) : State :=
  if off = 0x10004 then s.modUd u fun d => { d with flags := d.flags.clear1 v } else s

/-- The arbiter's flag record cleared and armed again (R375). -/
def writeArbFlag (n : Nat) (v : Word) (s : State) : State :=
  if bit v.toNat 0 then s.modArb n fun a => { a with flag := {} } else s

/-- LK_CMD written (R329). -/
def writeLkCmd (n : Nat) (v : Word) (s : State) : State := if bit v.toNat 0 then retrainPort n s else s

/-- A register of a port's block written. -/
def writePort (n off : Nat) (v : Word) (s : State) : State :=
  match off with
  | 0x04 => holdPort n v s
  | 0x08 => writeLkCmd n v s
  | 0x0C => holdLanes n v s
  | 0x4C => s.modLink n fun k => { k with timeAsym := v }
  | 0x7C => writeArbFlag n v s
  | _ => s

/-- LE_SWAP_CMD written (R359). -/
def writeSwapCmd (m : Nat) (v : Word) (s : State) : State :=
  if bit v.toNat 8 && field v 3 0 < 8 then queueSwap m (field v 3 0) s else s

/-- A register of a light engine written. -/
def writeLe (m off : Nat) (v : Word) (s : State) : State :=
  if 0x10000 ≤ off && off < 0x14000 then writePort (16 * m + (off - 0x10000) / 0x400) (off % 0x400) v s
  else match off with
    | 0x2040C => writeSwapCmd m v s
    | 0x20418 => s.modLe m fun e => { e with ffCtrl := v &&& 0xFF01 }
    | _ => s

/-! ## The control die -/

/-- A word of a 64-bit register replaced. -/
def putHalf (old : DWord) (low : Nat) (v : Word) : DWord := BitVec.ofNat 64 (putWord old.toNat low 0xFFFFFFFF v)

/-- MT_ANCHOR_SET written: the staged pair becomes the anchor, and a record tells of it (R72, R479). -/
def setAnchor (v : Word) (s : State) : State :=
  if bit v.toNat 0 then
    let s := s.modCtrl fun c =>
      { c with clock := { c.clock with baseMt := c.clock.anchorMt, baseUtc := c.clock.anchorUtc, anchored := true } }
    logEvent 0x03 0xFF 0xFF (leBytes 8 s.ctrl.clock.baseMt.toNat ++ leBytes 8 s.ctrl.clock.baseUtc.toNat) s
  else s

/-- WR_ABORT written (R52). -/
def abortImage (t : WrTarget) (v : Word) (s : State) : State := if bit v.toNat 0 then withdrawImage t s else s

/-- Bits of MOD_ALERT cleared (R13, Table 18.9). -/
def clearAlert (v : Nat) (s : State) : State :=
  s.modMod fun m => { m with alert := m.alert - (m.alert &&& v) }

/-- A register of the control die written. -/
def writeCtrl (off : Nat) (v : Word) (s : State) : State :=
  let p := off / 0x100 % 4
  if 0x10000 ≤ off && off < 0x10400 then if off % 0x100 = 0x50 then abortImage (.part p) v s else s
  else if 0x20000 ≤ off && off < 0x20400 then if off % 0x100 = 0x28 then streamControl p v s else s
  else if 0x22000 ≤ off && off < 0x22400 then
    if off % 0x100 = 0 && bit v.toNat 0 then startPartReset p s else s
  else
    let clk := fun (f : Clock → Clock) => s.modCtrl fun c => { c with clock := f c.clock }
    match off with
    | 0x00004 => modReset (field v 1 0) s
    | 0x00024 => clearAlert v.toNat s
    | 0x10450 => abortImage .frame v s
    | 0x20408 => clk fun c => { c with anchorMt := putHalf c.anchorMt 0 v }
    | 0x2040C => clk fun c => { c with anchorMt := putHalf c.anchorMt 32 v }
    | 0x20410 => clk fun c => { c with anchorUtc := putHalf c.anchorUtc 0 v }
    | 0x20414 => clk fun c => { c with anchorUtc := putHalf c.anchorUtc 32 v }
    | 0x20418 => setAnchor v s
    | 0x5001C => snapCommand v s
    | _ => s

/-! ## One write -/

/-- A word written at an offset of a window: discarded where the die is absent or cut out (Table 00.3), and
at a shadow offset as at the live offset of a set member (R60). -/
def regWrite (win off : Nat) (v : Word) (s : State) : State :=
  let there := (windowSite win).elim (win == winCtrl) s.live
  let at' := if shadowBase ≤ off then off - shadowBase else off
  if !there then s
  else match memberAt s.ctrl.ident.part win at' with
    | some m => writeMember m v s
    | none =>
      if shadowBase ≤ off then s
      else match windowSite win with
        | some (.cd d) => writeCd d off v s
        | some (.stack h) => writeHub h off v s
        | some (.ud u) => writeUd u off v s
        | some (.le m) => writeLe m off v s
        | _ => writeCtrl off v s

/-! ## Rights (R432, Table 17.5) -/

/-- The partition that owns a compute die, hub or update die window. -/
def State.ownerOf (s : State) (win : Nat) : Option Nat :=
  match windowSite win with
  | some (.cd d) => s.partOfCd d
  | some (.stack h) => s.partOfHub h
  | some (.ud u) => s.partOfUd u
  | _ => none

/-- Whether a partition holds a port of light engine m. -/
def FrameEntry.holdsPortOf (e : FrameEntry) (m : Nat) : Bool := (List.range 16).any fun k => bit e.portMask (16 * m + k)

/-- Rights in a light engine's window. -/
def State.mayLe (s : State) (b : Nat) (p : Option Nat) (m off : Nat) (write : Bool) : Bool :=
  if 0x10000 ≤ off && off < 0x14000 then
    match s.partOfPort (16 * m + (off - 0x10000) / 0x400) with
    | some q => p == some q
    | none => b == 0
  else if write then b == 0
  else p.elim false fun q => (s.part q).frame.holdsPortOf m

/-- Rights in the control die's window. -/
def State.mayCtrl (b : Nat) (p : Option Nat) (off : Nat) (write : Bool) : Bool :=
  let own := p == some (off / 0x100 % 4)
  let block := fun (base : Nat) => base ≤ off && off < base + 0x400
  if block 0x10000 || block 0x20000 || block 0x21000 then own
  else if block 0x22000 then own || (write && b == 0 && off % 0x100 == 0)
  else if block 0x30000 then off / 0x100 % 4 == b || (b == 0 && !write)
  else !write || b == 0

/-- Whether the host on port b may read or write a word. -/
def State.hostMay (s : State) (b win off : Nat) (write : Bool) : Bool :=
  let p := s.partOfBaith b
  let at' := off % shadowBase
  match windowSite win with
  | some (.le m) => s.status (.le m) != 1 || s.mayLe b p m at' write
  | some site => s.status site != 1 || (p.isSome && s.ownerOf win == p)
  | none => if win = winCtrl then State.mayCtrl b p at' write else true

/-- Whether a window belongs to a partition that is being reset (R438). -/
def State.busyWin (s : State) (win : Nat) : Bool := (s.ownerOf win).elim false fun p => (s.part p).resetting

/-- Whether the module takes register requests of a port in its state (R419, R443, R462): any once it is ready
and the port has a partition; before, the control die's registers from B0, which recovery only reads. -/
def State.takesRegs (s : State) (b win : Nat) (write : Bool) : Bool :=
  let m := s.ctrl.module
  if m.state = 5 then (s.partOfBaith b).isSome
  else s.powered && !m.inReset && b == 0 && win == winCtrl && !(m.state == 3 && write)

/-- An access of n bytes denied; a write of a light engine's LE_SWAP_CMD or LE_FF_CTRL by another host than B0's counts
there too (R356, R432). -/
def denyAccess (b win off n : Nat) (write : Bool) (s : State) : State :=
  let covers := fun (o : Nat) => off ≤ o && o < off + n && !s.hostMay b win o true
  let s := s.modBp b fun q => { q with denied := sat q.denied }
  match windowSite win with
  | some (.le m) =>
    if write && (covers 0x2040C || covers 0x20418) then s.modLe m fun e => { e with denied := sat e.denied } else s
  | _ => s

/-- A write of one word by the host on port b, as far as it is allowed. -/
def hostWrite (b win off : Nat) (v : Word) (s : State) : State :=
  if !s.takesRegs b win true || s.busyWin win then s
  else if s.hostMay b win off true then regWrite win off v s
  else denyAccess b win off 4 true s

/-- A read of one word by the host on port b, for what it changes. -/
def hostRead (b win off : Nat) (s : State) : State :=
  if !s.takesRegs b win false || s.busyWin win then s
  else if s.hostMay b win off false then afterRead win off s
  else denyAccess b win off 4 false s

/-! ## The registers with a row of their own -/

/-- MOD_RESET_WARM: 1 written to MOD_RESET (R447). -/
def execModResetWarm (b : Nat) (s : State) : Host.Outcome State Fault Refusal :=
  onlyIf (b < 4) (hostWrite b winCtrl 0x00004 1 s)

/-- MOD_RESET_COLD: 2 written to MOD_RESET (R447). -/
def execModResetCold (b : Nat) (s : State) : Host.Outcome State Fault Refusal :=
  onlyIf (b < 4) (hostWrite b winCtrl 0x00004 2 s)

/-- PART_RESET: 1 written to PART_RESET of partition p (R436). -/
def execPartReset (b p : Nat) (s : State) : Host.Outcome State Fault Refusal :=
  onlyIf (b < 4 && p < 4) (hostWrite b winCtrl (0x22000 + 0x100 * p) 1 s)

/-- WR_ABORT (R52). -/
def execWrAbort (b : Nat) (t : WrTarget) (v : Word) (s : State) : Host.Outcome State Fault Refusal :=
  onlyIf (b < 4 && t.wf) <|
    hostWrite b winCtrl (match t with | .frame => 0x10450 | .part p => 0x10050 + 0x100 * p) v s

/-- ST_STOP: bit 0 written to ST_CTRL (R85). -/
def execStStop (b p : Nat) (s : State) : Host.Outcome State Fault Refusal :=
  onlyIf (b < 4 && p < 4) (hostWrite b winCtrl (0x20028 + 0x100 * p) 1 s)

/-- ST_ABORT: bit 1 written to ST_CTRL (R85). -/
def execStAbort (b p : Nat) (s : State) : Host.Outcome State Fault Refusal :=
  onlyIf (b < 4 && p < 4) (hostWrite b winCtrl (0x20028 + 0x100 * p) 2 s)

/-- CVE_TABLE_WRITE: a word at an offset of the CVE table (R192). -/
def execCveTableWrite (b d off : Nat) (v : Word) (s : State) : Host.Outcome State Fault Refusal :=
  onlyIf (b < 4 && d < 16) <| if off < 0x80000 then hostWrite b (winCd d) (0x200000 + off / 4 * 4) v s else s

/-- HUB_CACHE_CTRL (R280). -/
def execHubCacheCtrl (b h : Nat) (v : Word) (s : State) : Host.Outcome State Fault Refusal :=
  onlyIf (b < 4 && h < 32) (hostWrite b (winHub h) 0x2001C v s)

/-- HUB_NARROW_DEPTH_READ (R287). -/
def execHubNarrowDepthRead (b h : Nat) (s : State) : Host.Outcome State Fault Refusal :=
  onlyIf (b < 4 && h < 32) (hostRead b (winHub h) 0x20048 s)

/-- SCRUB_PASS_START: bit 0 written to SCR_CTRL (R304). -/
def execScrubPassStart (b h : Nat) (s : State) : Host.Outcome State Fault Refusal :=
  onlyIf (b < 4 && h < 32) (hostWrite b (winHub h) 0x30024 1 s)

/-- SCRUB_PASS_STOP: bit 1 written to SCR_CTRL (R304). -/
def execScrubPassStop (b h : Nat) (s : State) : Host.Outcome State Fault Refusal :=
  onlyIf (b < 4 && h < 32) (hostWrite b (winHub h) 0x30024 2 s)

/-- RET_TABLE_WRITE: the target word of entry i (R300). -/
def execRetTableWrite (b h i : Nat) (v : Word) (s : State) : Host.Outcome State Fault Refusal :=
  onlyIf (b < 4 && h < 32 && i < 4096) (hostWrite b (winHub h) (0x38000 + 8 * i) v s)

/-- MXE_FE_STAT (R157). -/
def execMxeFeStat (b d e : Nat) (v : Word) (s : State) : Host.Outcome State Fault Refusal :=
  onlyIf (b < 4 && d < 16 && e < 10) (hostWrite b (winCd d) (0x40008 + 0x100 * e) v s)

/-- GXE_OOR_STAT (R186). -/
def execGxeOorStat (b d : Nat) (v : Word) (s : State) : Host.Outcome State Fault Refusal :=
  onlyIf (b < 4 && d < 16) (hostWrite b (winCd d) 0x70010 v s)

/-- GXE_BAD_COUNT (R187). -/
def execGxeBadCount (b d : Nat) (v : Word) (s : State) : Host.Outcome State Fault Refusal :=
  onlyIf (b < 4 && d < 16) (hostWrite b (winCd d) 0x70030 v s)

/-- RED_NV_STAT (R219). -/
def execRedNvStat (b h : Nat) (v : Word) (s : State) : Host.Outcome State Fault Refusal :=
  onlyIf (b < 4 && h < 32) (hostWrite b (winHub h) 0x10024 v s)

/-- The offset of a port's register in its engine's window (R339). -/
def portOff (n off : Nat) : Nat := 0x10000 + 0x400 * (n % 16) + off

/-- ARB_FLAG_STAT (R375). -/
def execArbFlagStat (b n : Nat) (v : Word) (s : State) : Host.Outcome State Fault Refusal :=
  onlyIf (b < 4 && n < 128) (hostWrite b (winLe (n / 16)) (portOff n 0x7C) v s)

/-- SEG_WAIT_MAX (R417). -/
def execSegWaitMax (b d g : Nat) (v : Word) (s : State) : Host.Outcome State Fault Refusal :=
  onlyIf (b < 4 && d < 16 && g < 4) (hostWrite b (winCd d) (0xC1014 + 0x40 * g) v s)

/-- The set member at an offset, live or shadow. -/
def State.memberOf (s : State) (win off : Nat) : Option Member :=
  memberAt s.ctrl.ident.part win (if shadowBase ≤ off then off - shadowBase else off)

/-- STAGED_WRITE: a WS member of a published set is staged (R60). -/
def execStagedWrite (b win off : Nat) (v : Word) (s : State) : Host.Outcome State Fault Refusal :=
  onlyIf (b < 4) <|
    match s.memberOf win off with
    | some m => if m.closing then s else hostWrite b win off v s
    | none => s

/-- CLOSING_FIELD_WRITE: a set's closing field is written (R61). -/
def execClosingFieldWrite (b win off : Nat) (v : Word) (s : State) : Host.Outcome State Fault Refusal :=
  onlyIf (b < 4) <|
    match s.memberOf win off with
    | some m => if m.closing then hostWrite b win off v s else s
    | none => s

/-- MT_ANCHOR_SET (R72). -/
def execMtAnchorSet (b : Nat) (v : Word) (s : State) : Host.Outcome State Fault Refusal :=
  onlyIf (b < 4) (hostWrite b winCtrl 0x20418 v s)

/-- LK_CMD (R329). -/
def execLkCmd (b n : Nat) (v : Word) (s : State) : Host.Outcome State Fault Refusal :=
  onlyIf (b < 4 && n < 128) (hostWrite b (winLe (n / 16)) (portOff n 0x08) v s)

/-- LK_CTRL (R329). -/
def execLkCtrl (b n : Nat) (v : Word) (s : State) : Host.Outcome State Fault Refusal :=
  onlyIf (b < 4 && n < 128) (hostWrite b (winLe (n / 16)) (portOff n 0x04) v s)

/-- LK_LANE_HOLD (R334). -/
def execLkLaneHold (b n : Nat) (v : Word) (s : State) : Host.Outcome State Fault Refusal :=
  onlyIf (b < 4 && n < 128) (hostWrite b (winLe (n / 16)) (portOff n 0x0C) v s)

/-- LE_SWAP_CMD (R359). -/
def execLeSwapCmd (b le : Nat) (v : Word) (s : State) : Host.Outcome State Fault Refusal :=
  onlyIf (b < 4 && le < 8) (hostWrite b (winLe le) 0x2040C v s)

/-- LB_SNAP_CMD (R477). -/
def execLbSnapCmd (b : Nat) (v : Word) (s : State) : Host.Outcome State Fault Refusal :=
  onlyIf (b < 4) (hostWrite b winCtrl 0x5001C v s)

end Sys2Proof.Machine
end

