-- ==== Sys2Proof/Machine/Host.lean ====
section
/-! DEFINITION. What the hosts ask for (17 R419, R429 to R432, 18 R443, 19 R460 to R468, 20 R476). Each row takes the
oldest request of its type that waits on a port; with none waiting it changes nothing. -/

namespace Sys2Proof.Machine

/-! ## Taking a request -/

/-- The oldest block of a port that satisfies f. -/
def Baith.oldest (q : Baith) (f : Block → Bool) : Option Block := q.inbound.find? f

/-- The port without that block. -/
def Baith.without (q : Baith) (f : Block → Bool) : Baith := { q with inbound := q.inbound.eraseP f }

/-- The port whose turn it is: the first from the turn on at which a block waits (R435). -/
def State.turnOf (s : State) : Option Nat :=
  ((List.range 4).map fun i => (s.ctrl.turn + i) % 4).find? fun b => !(s.bp b).inbound.isEmpty

/-- A port's turn passed to the next. -/
def passTurn (b : Nat) (s : State) : State := s.modCtrl fun c => { c with turn := (b + 1) % 4 }

/-- The oldest block of a port that satisfies f handled as the port's turn comes; the control die takes one block per
turn, in round robin (R435). -/
def serve (b : Nat) (f : Block → Bool) (k : Block → State → State) (s : State) : State :=
  match (s.bp b).oldest f with
  | none => s
  | some x => if s.turnOf == some b then k x (passTurn b s) else s

/-- A request taken out: its units go back to the host, but a transfer's went back as it arrived. -/
def takeOut (b : Nat) (f : Block → Bool) (s : State) : State :=
  match (s.bp b).oldest f with
  | none => s
  | some x =>
    let s := s.modBp b fun q => q.without f
    if isTransfer x.kind then s else returnUnits b (blockUnits x.payload.length) s

/-- The number of the refusal that a request meets for the state of the module or for want of a partition (R419,
R443, R460, R462), if it meets one. `regOk` says whether a register request is one that is served before the module
is ready. -/
def gate (b kind : Nat) (regOk : Bool) (s : State) : Option Nat :=
  let m := s.ctrl.module
  if kind = 0x0A || kind = 0x0C then none
  else if m.state = 5 then (if (s.partOfBaith b).isNone then some 0x0B else none)
  else if kind = 0x0E then (if m.state = 3 then none else some 9)
  else if kind = 0x06 && regOk then none
  else some 9

/-- A request's head (R430). -/
structure ReqHead where
  addr : Nat
  count : Nat
  op : Nat
  ok : Bool

/-- The head of a request's payload; `ok` says that it is whole and that its reserved bytes are 0. -/
def ReqHead.of (p : List Byte) : ReqHead :=
  { addr := leAt p 0 8, count := leAt p 8 4, op := leAt p 12 1, ok := 16 ≤ p.length && zeroAt p 13 3 }

/-! ## Transfers (R429) -/

/-- A segment judged by its port's partition (R95, R438). -/
def takeSegment (b : Nat) (x : Block) (s : State) : State :=
  match gate b x.kind false s, s.partOfBaith b with
  | some code, _ => refuse b x.id code 0 s
  | none, none => s
  | none, some p =>
    if (s.part p).resetting then refuse b x.id 9 0 s
    else match checkSegment b x.payload s with
      | some r => refuse b x.id r.code r.offset (refuseSegment p r s)
      | none => complete b x.id 0 0 x.payload.length 0 (acceptSegment x.payload s)

/-- COMMAND_SEGMENT_TRANSFER: a whole segment is checked, and queued or refused (R95). -/
def execCommandSegmentTransfer (b : Nat) (s : State) : Host.Outcome State Fault Refusal :=
  onlyIf (b < 4) <|
    let mine := fun (x : Block) => x.kind == 0x01
    serve b mine (fun x s => takeSegment b x (takeOut b mine s)) s

/-- Whether an image is for a partition that is being reset (R438). -/
def State.imageBusy (s : State) : WrTarget → Bool
  | .frame => false
  | .part p => (s.part p).resetting

/-- A loader block that was checking an image it does not judge reads as before. -/
def endLoad (t : WrTarget) (s : State) : State :=
  let rest := s.restState t
  s.modLoader t fun l => if l.state = 1 || l.state = 2 then { l with state := rest } else l

/-- An image judged (R49, R438). -/
def takeImage (b : Nat) (x : Block) (s : State) : State :=
  let t := imageTarget b x.payload s
  match gate b x.kind false s with
  | some code => refuse b x.id code 0 s
  | none =>
    if s.imageBusy t then refuse b x.id 9 0 (endLoad t s)
    else match checkImage b x.payload s with
      | some r => refuse b x.id r.code r.offset (refuseImage t r s)
      | none => complete b x.id 0 0 x.payload.length 0 (acceptImage x.payload s)

/-- WINDROSE_TRANSFER: a whole image is checked, and made pending or refused (R49). -/
def execWindroseTransfer (b : Nat) (s : State) : Host.Outcome State Fault Refusal :=
  onlyIf (b < 4) <|
    let mine := fun (x : Block) => x.kind == 0x02
    serve b mine (fun x s => takeImage b x (takeOut b mine s)) s

/-- A firmware image judged (R460): refused with the check that fails, or accepted, and then written. -/
def takeFirmware (b : Nat) (x : Block) (s : State) : State :=
  if b != 0 then refuse b x.id 0x0B 0 s
  else match gate b x.kind false s with
    | some code => refuse b x.id code 0 s
    | none =>
      if s.ctrl.fw.writing.isSome then refuse b x.id 9 0 s
      else
        let check := fwCheck s.ctrl.sec x.payload true
        if check = 0 then beginWrite x.payload (complete b x.id 0 0 x.payload.length 0 s)
        else
          refuse b x.id (if check = 1 then 1 else 2) (fwOffset x.payload check)
            (s.modFw fun f => { f with result := check, fromTransfer := true })

/-- RECOVERY_FIRMWARE_TRANSFER (R460). -/
def execRecoveryFirmwareTransfer (b : Nat) (s : State) : Host.Outcome State Fault Refusal :=
  onlyIf (b < 4) <|
    let mine := fun (x : Block) => x.kind == 0x0E
    serve b mine (fun x s => takeFirmware b x (takeOut b mine s)) s

/-! ## Memory (R431) -/

/-- Where a memory request leads. -/
inductive MemReq
  | refused (code : Nat)
  | waits
  | span (p r o : Nat)
deriving DecidableEq, Repr

/-- The region of a partition that holds n bytes from an address. -/
def Part.regionFor (q : Part) (a n : Nat) : Option Nat :=
  (List.range q.regions.length).find? fun r =>
    (q.region? r).elim false fun g => g.base ≤ a && a + n ≤ g.base + g.length && a < g.base + g.length

/-- A memory request judged (R430, R431, R438): refused, waiting for an open granule, or a span of a region. -/
def judgeMem (b kind n : Nat) (h : ReqHead) (s : State) : MemReq :=
  match gate b kind false s, s.partOfBaith b with
  | some code, _ => .refused code
  | none, none => .refused 0x0B
  | none, some p =>
    if !h.ok || h.op != 0 || h.count != n || 2 ^ 24 < n then .refused 1
    else if 2 ^ 46 ≤ h.addr || h.addr / 2 ^ 42 % 4 != 0 then .refused 0x11
    else if h.addr / 2 ^ 44 != p then .refused 5
    else if (s.part p).resetting then .refused 9
    else
      let a := h.addr % 2 ^ 42
      match (s.part p).regionFor a n with
      | none => .refused 0x11
      | some r =>
        let o := a - ((s.part p).region? r).elim 0 (·.base)
        if spanOpen p r o n s then .waits else .span p r o

/-- The fault-record source of host DMA (Table 12.2). -/
def dmaSrc : Nat := 0x22

/-- A write made piece by piece: the bytes written, and the first failing line's address. -/
structure DmaRes where
  state : State
  done : Nat := 0
  bad : Option Nat := none

/-- Host data written to a region (R277, R293). -/
def dmaWrite (p r o : Nat) (bs : List Byte) (s : State) : DmaRes :=
  let base := ((s.part p).region? r).elim 0 (·.base)
  (pieces o bs.length).foldl
    (fun x q =>
      let y := writeRegionPiece p r dmaSrc .wide q (slice bs q.off q.count) x.state
      { state := y.1, done := if y.2 then x.done + q.count else x.done
        bad := firstBad x.bad (if y.2 then none else some (base + 64 * q.line)) })
    { state := s }

/-- A completion with the first failing line as a module address, if one failed. -/
def completeMem (b p : Nat) (r : ReqId) (done : Nat) (bad : Option Nat) (s : State) : State :=
  match bad with
  | none => complete b r 0 0 done 0 s
  | some a => complete b r 3 0 done (p * 2 ^ 44 + a) s

/-- A host's write of memory; it waits while a line lies in an open granule. -/
def takeWrite (b : Nat) (x : Block) (s : State) : State :=
  let mine := fun (x : Block) => x.kind == 0x03
  match judgeMem b 0x03 (x.payload.length - 16) (ReqHead.of x.payload) s with
  | .waits => s
  | .refused code => refuse b x.id code 0 (takeOut b mine s)
  | .span p r o =>
    let y := dmaWrite p r o (x.payload.drop 16) (takeOut b mine s)
    completeMem b p x.id y.done y.bad y.state

/-- MEMORY_WRITE: host data to a region. -/
def execMemoryWrite (b : Nat) (s : State) : Host.Outcome State Fault Refusal :=
  onlyIf (b < 4) (serve b (fun x => x.kind == 0x03) (takeWrite b) s)

/-- A host's read of memory; it waits while a line lies in an open granule, and a line that fails twice is sent as
zeros. -/
def takeRead (b : Nat) (x : Block) (s : State) : State :=
  let mine := fun (x : Block) => x.kind == 0x04
  let h := ReqHead.of x.payload
  match judgeMem b 0x04 h.count h s with
  | .waits => s
  | .refused code => refuse b x.id code 0 (takeOut b mine s)
  | .span p r o =>
    let y := readRegion p r o h.count dmaSrc .wide (takeOut b mine s)
    completeMem b p x.id h.count y.bad (postData b 0x05 x.tag (chunkBytes y.chunks) y.state)

/-- MEMORY_READ: a region's bytes to the host. -/
def execMemoryRead (b : Nat) (s : State) : Host.Outcome State Fault Refusal :=
  onlyIf (b < 4) (serve b (fun x => x.kind == 0x04) (takeRead b) s)

/-! ## Registers (R432) -/

/-- Where a register request leads: refused, denied, or words from an offset of a window. -/
inductive RegReq
  | refused (code : Nat)
  | denied (win off n : Nat)
  | words (win off : Nat)
deriving DecidableEq, Repr

/-- A register request judged (R430, R432, R438, R476). -/
def judgeReg (b : Nat) (write : Bool) (n : Nat) (h : ReqHead) (s : State) : RegReq :=
  let win := h.addr / 2 ^ 24 % 128
  let off := h.addr % 2 ^ 24
  let named := h.addr / 2 ^ 31 == 3 * 2 ^ 15
  match gate b 0x06 (named && s.takesRegs b win write) s with
  | some code => .refused code
  | none =>
    if !h.ok || h.count != n || n % 4 != 0 || 16384 < n || h.addr % 4 != 0 then .refused 1
    else if !named || 2 ^ 24 < off + n then .refused 0x11
    else if win == winCtrl && ((errorBase < off + n && off < errorBase + 64 * 4096) ||
        (pageBase < off + n && off < pageBase + 4096 * 1024)) then .refused 0x11
    else if s.busyWin win then .refused 9
    else if (List.range (n / 4)).all fun i => s.hostMay b win (off + 4 * i) write then .words win off
    else .denied win off n

/-- Whether a waiting register request reads or writes. -/
def regOp (write : Bool) (x : Block) : Bool :=
  x.kind == 0x06 && if write then leAt x.payload 12 1 != 0 else leAt x.payload 12 1 == 0

/-- Words of control space read for a host. -/
def takeRegRead (b : Nat) (x : Block) (s : State) : State :=
  let h := ReqHead.of x.payload
  let s := takeOut b (regOp false) s
  match judgeReg b false h.count h s with
  | .refused code => refuse b x.id code 0 s
  | .denied win off n => refuse b x.id 5 0 (denyAccess b win off n false s)
  | .words win off =>
    let offs := (List.range (h.count / 4)).map fun i => off + 4 * i
    let data := offs.flatMap fun o => leBytes 4 (readReg s win o).toNat
    complete b x.id 0 0 h.count 0 (postData b 0x07 x.tag data (forAll offs (fun o t => afterRead win o t) s))

/-- REGISTER_READ: words of control space to the host. -/
def execRegisterRead (b : Nat) (s : State) : Host.Outcome State Fault Refusal :=
  onlyIf (b < 4) (serve b (regOp false) (takeRegRead b) s)

/-- Words of control space written in order for a host; a request with a word that is denied writes nothing. -/
def takeRegWrite (b : Nat) (x : Block) (s : State) : State :=
  let h := ReqHead.of x.payload
  let s := takeOut b (regOp true) s
  if h.op != 1 then refuse b x.id 1 0 s
  else match judgeReg b true (x.payload.length - 16) h s with
    | .refused code => refuse b x.id code 0 s
    | .denied win off n => refuse b x.id 5 0 (denyAccess b win off n true s)
    | .words win off =>
      complete b x.id 0 0 h.count 0
        (forRange (h.count / 4) (fun i t => regWrite win (off + 4 * i) (wordAt x.payload (16 + 4 * i)) t) s)

/-- REGISTER_WRITE: words of control space from the host. -/
def execRegisterWrite (b : Nat) (s : State) : Host.Outcome State Fault Refusal :=
  onlyIf (b < 4) (serve b (regOp true) (takeRegWrite b) s)

/-! ## Logbook reads (R476) -/

/-- Pages of the logbook or slots of the error log read for a host. -/
def takeLogRead (b : Nat) (x : Block) (s : State) : State :=
  let h := ReqHead.of x.payload
  let off := h.addr % 2 ^ 24
  let s := takeOut b (fun x => x.kind == 0x0A) s
  if !h.ok || h.op != 0 then refuse b x.id 1 0 s
  else if h.addr / 2 ^ 24 != 3 * 2 ^ 22 + winCtrl || !logRangeOk off h.count then refuse b x.id 0x11 0 s
  else complete b x.id 0 0 h.count 0 (postData b 0x0B x.tag (readLogbook off h.count s) s)

/-- LOGBOOK_READ: pages of the logbook or slots of the error log to the host. -/
def execLogbookRead (b : Nat) (s : State) : Host.Outcome State Fault Refusal :=
  onlyIf (b < 4) (serve b (fun x => x.kind == 0x0A) (takeLogRead b) s)

/-! ## Attestation (R466 to R468) -/

/-- Whether a port has a report outstanding. -/
def State.attesting (s : State) (b : Nat) : Bool := s.ctrl.fw.queue.any fun a => a.port == b

/-- Whether an attestation request asks for certificates. -/
def asksCerts (certs : Bool) (x : Block) : Bool := x.kind == 0x0C && (leAt x.payload 0 1 == 1) == certs

/-- A request for a report. -/
def takeReport (b : Nat) (x : Block) (s : State) : State :=
  let s := takeOut b (asksCerts false) s
  if x.payload.length != 36 || leAt x.payload 0 1 != 0 then refuse b x.id 1 0 s
  else if s.ctrl.fw.idFailed then refuse b x.id 4 0 s
  else if s.attesting b then refuse b x.id 9 0 s
  else
    let a : AttReq := { port := b, tag := x.tag, seq := x.seq, nonce := slice x.payload 4 32 }
    s.modFw fun f => { f with queue := f.queue ++ [a] }

/-- ATTESTATION_REPORT: a request of kind 0 joins the queue; other kinds but 1 are refused. -/
def execAttestationReport (b : Nat) (s : State) : Host.Outcome State Fault Refusal :=
  onlyIf (b < 4) (serve b (asksCerts false) (takeReport b) s)

/-- A request for the certificates, which waits until derivation has ended. -/
def takeCerts (b : Nat) (x : Block) (s : State) : State :=
  let out := takeOut b (asksCerts true) s
  if x.payload.length != 36 then refuse b x.id 1 0 out
  else if s.attesting b then refuse b x.id 9 0 out
  else if !s.ctrl.fw.derived then s
  else if s.ctrl.fw.idFailed then refuse b x.id 4 0 out
  else
    let data := s.ctrl.ident.certificates
    complete b x.id 0 0 data.length 0 (postBlock b 0x0D x.tag data out)

/-- ATTESTATION_CERTIFICATES: a request of kind 1 is answered. -/
def execAttestationCertificates (b : Nat) (s : State) : Host.Outcome State Fault Refusal :=
  onlyIf (b < 4) (serve b (asksCerts true) (takeCerts b) s)

/-- ATTESTATION_SIGN: the oldest report is captured, signed and sent; without an identity it is refused. -/
def execAttestationSign (s : State) : Host.Outcome State Fault Refusal :=
  .next <|
    match s.ctrl.fw.queue with
    | [] => s
    | a :: rest =>
      let id : ReqId := ⟨a.tag, a.seq, 0x0C⟩
      if !s.ctrl.fw.derived then s
      else if s.ctrl.fw.idFailed then refuse a.port id 4 0 (s.modFw fun f => { f with queue := rest })
      else
        let data := signedReport s.free (attestReport a.port a.nonce s)
        let s := s.drawn.modFw fun f => { f with queue := rest, reports := sat f.reports }
        complete a.port id 0 0 data.length 0 (postBlock a.port 0x0D a.tag data s)

end Sys2Proof.Machine
end

