-- ==== Sys2Proof/Machine/Smbus.lean ====
section
/-! DEFINITION. The SMBus target (18 R452, Table 18.8). Each command leaves its answer's data bytes in `Ctrl.smbus`; no
byte is left where the target does not answer. It answers from stage 1 on. -/

namespace Sys2Proof.Machine

/-- An answer given, as far as the standby rail is good. -/
def smbusAnswer (data : List Byte) (s : State) : State :=
  s.modCtrl fun c => { c with smbus := if s.powered then data else [] }

/-- The blocks of the part's population. -/
def State.allBlocks (s : State) : List BlockRef :=
  let there := inPopulation s.ctrl.ident.part
  ((List.range 16).filter fun d => there (.cd d)).flatMap (fun d => dieBlocks.map fun i => BlockRef.die d i) ++
    ((List.range 32).filter fun h => there (.stack h)).map BlockRef.hub ++
    ((List.range 32).filter fun u => there (.ud u)).map BlockRef.ud ++
    ((List.range 8).filter fun m => there (.le m)).map BlockRef.le

/-- The hottest junction of the module's blocks, in 1/16 °C. -/
def State.hottest (s : State) : Int :=
  match s.allBlocks.map fun b => (s.blk b).temp with
  | [] => 0
  | t :: r => r.foldl max t

/-- SMBUS_READ_STATE. -/
def execSmbusReadState (s : State) : Host.Outcome State Fault Refusal :=
  .next (smbusAnswer (leBytes 1 s.ctrl.module.state) s)

/-- SMBUS_READ_CAUSE. -/
def execSmbusReadCause (s : State) : Host.Outcome State Fault Refusal :=
  .next (smbusAnswer (leBytes 1 s.ctrl.module.cause) s)

/-- SMBUS_READ_TEMP. -/
def execSmbusReadTemp (s : State) : Host.Outcome State Fault Refusal :=
  .next (smbusAnswer (leBytes 2 (twos 16 s.hottest)) s)

/-- SMBUS_READ_POWER: the meter's input power, in W. -/
def execSmbusReadPower (watts : Nat) (s : State) : Host.Outcome State Fault Refusal :=
  .next (smbusAnswer (leBytes 2 (min watts 0xFFFF)) s)

/-- SMBUS_READ_ALERT: MOD_ALERT bits [15:0]. -/
def execSmbusReadAlert (s : State) : Host.Outcome State Fault Refusal :=
  .next (smbusAnswer (leBytes 2 s.ctrl.module.alert) s)

/-- SMBUS_CLEAR_ALERT: bits written as 1 are cleared; Table 17.5 does not apply. -/
def execSmbusClearAlert (v : Half) (s : State) : Host.Outcome State Fault Refusal :=
  .next (smbusAnswer [] (if s.powered then clearAlert v.toNat s else s))

/-- SMBUS_READ_DESCRIPTOR: 32 bytes of the descriptor for codes 0x10 to 0x17; another code is not answered. -/
def execSmbusReadDescriptor (code : Nat) (s : State) : Host.Outcome State Fault Refusal :=
  .next <|
    if 0x10 ≤ code && code < 0x18 then smbusAnswer (slice s.ctrl.module.descriptor (32 * (code - 0x10)) 32) s
    else smbusAnswer [] s

/-- SMBUS_ALERT_RESPONSE: while ALERT_L is low the target answers with its address, 0x4C. -/
def execSmbusAlertResponse (s : State) : Host.Outcome State Fault Refusal :=
  .next (smbusAnswer (if s.ctrl.module.alert = 0 then [] else [0x98]) s)

end Sys2Proof.Machine
end

