-- ==== Sys2Proof/Machine/Dispatch.lean ====
section
/-! DEFINITION. One arm for each command: its meaning, or its rejection by name. -/

namespace Sys2Proof.Machine

/-- What a command does to everything but the queue. -/
def exec (i : Instr) (s : State) : Host.Outcome State Fault Refusal :=
  match i with
  | .powerUp held10ms below60For1s => Sys2Proof.Machine.execPowerUp held10ms below60For1s s
  | .stagePowerGood resetHigh => Sys2Proof.Machine.execStagePowerGood resetHigh s
  | .resetLReleaseStandby => Sys2Proof.Machine.execResetLReleaseStandby s
  | .firmwareVerifyDone ms flashReadsOk => Sys2Proof.Machine.execFirmwareVerifyDone ms flashReadsOk s
  | .homeGroupPower => Sys2Proof.Machine.execHomeGroupPower s
  | .siteProbeResult site answers lanes => Sys2Proof.Machine.execSiteProbeResult site answers lanes s
  | .hubTrainDone h failed ms => Sys2Proof.Machine.execHubTrainDone h failed ms s
  | .ringSearchPhaseEnd le port obs => Sys2Proof.Machine.execRingSearchPhaseEnd le port obs s
  | .moduleReady => Sys2Proof.Machine.execModuleReady s
  | .identityDeriveDone ok => Sys2Proof.Machine.execIdentityDeriveDone ok s
  | .powerFail => Sys2Proof.Machine.execPowerFail s
  | .thermalTrip site t1 t2 => Sys2Proof.Machine.execThermalTrip site t1 t2 s
  | .resetLFall heldFor1us => Sys2Proof.Machine.execResetLFall heldFor1us s
  | .warmToColdTimeout => Sys2Proof.Machine.execWarmToColdTimeout s
  | .resetLRise => Sys2Proof.Machine.execResetLRise s
  | .modResetWarm b => Sys2Proof.Machine.execModResetWarm b s
  | .modResetCold b => Sys2Proof.Machine.execModResetCold b s
  | .partReset b p => Sys2Proof.Machine.execPartReset b p s
  | .partResetDone p ms => Sys2Proof.Machine.execPartResetDone p ms s
  | .portDarkExpiry port => Sys2Proof.Machine.execPortDarkExpiry port s
  | .probePulse port => Sys2Proof.Machine.execProbePulse port s
  | .lightSeen port lanes => Sys2Proof.Machine.execLightSeen port lanes s
  | .lossOfLight port together => Sys2Proof.Machine.execLossOfLight port together s
  | .baithBlockReceive b bytes => Sys2Proof.Machine.execBaithBlockReceive b bytes s
  | .keepAliveReceive b bytes => Sys2Proof.Machine.execKeepAliveReceive b bytes s
  | .commandSegmentTransfer b => Sys2Proof.Machine.execCommandSegmentTransfer b s
  | .windroseTransfer b => Sys2Proof.Machine.execWindroseTransfer b s
  | .memoryWrite b => Sys2Proof.Machine.execMemoryWrite b s
  | .memoryRead b => Sys2Proof.Machine.execMemoryRead b s
  | .registerRead b => Sys2Proof.Machine.execRegisterRead b s
  | .registerWrite b => Sys2Proof.Machine.execRegisterWrite b s
  | .logbookRead b => Sys2Proof.Machine.execLogbookRead b s
  | .attestationReport b => Sys2Proof.Machine.execAttestationReport b s
  | .attestationCertificates b => Sys2Proof.Machine.execAttestationCertificates b s
  | .attestationSign => Sys2Proof.Machine.execAttestationSign s
  | .recoveryFirmwareTransfer b => Sys2Proof.Machine.execRecoveryFirmwareTransfer b s
  | .firmwareWriteDone readBack => Sys2Proof.Machine.execFirmwareWriteDone readBack s
  | .keepAliveSend b => Sys2Proof.Machine.execKeepAliveSend b s
  | .blockTruncateTimeout b bytes => Sys2Proof.Machine.execBlockTruncateTimeout b bytes s
  | .baithResendTimeout b => Sys2Proof.Machine.execBaithResendTimeout b s
  | .baithSilenceTimeout b => Sys2Proof.Machine.execBaithSilenceTimeout b s
  | .baithBlockSend b => Sys2Proof.Machine.execBaithBlockSend b s
  | .windroseCommit t => Sys2Proof.Machine.execWindroseCommit t s
  | .cellAreaReady h => Sys2Proof.Machine.execCellAreaReady h s
  | .wrAbort b t v => Sys2Proof.Machine.execWrAbort b t v s
  | .tickBoundary p => Sys2Proof.Machine.execTickBoundary p s
  | .recordIssue r upsets => Sys2Proof.Machine.execRecordIssue r upsets s
  | .recordComplete r => Sys2Proof.Machine.execRecordComplete r s
  | .replayRangeRerun d => Sys2Proof.Machine.execReplayRangeRerun d s
  | .stStop b p => Sys2Proof.Machine.execStStop b p s
  | .stAbort b p => Sys2Proof.Machine.execStAbort b p s
  | .nop r => Sys2Proof.Machine.execNop r s
  | .smovi r => Sys2Proof.Machine.execSmovi r s
  | .salu r => Sys2Proof.Machine.execSalu r s
  | .sld r => Sys2Proof.Machine.execSld r s
  | .sst r => Sys2Proof.Machine.execSst r s
  | .choice r => Sys2Proof.Machine.execChoice r s
  | .replay r => Sys2Proof.Machine.execReplay r s
  | .evadd r => Sys2Proof.Machine.execEvadd r s
  | .mma r => Sys2Proof.Machine.execMma r s
  | .aclr r => Sys2Proof.Machine.execAclr r s
  | .ast r => Sys2Proof.Machine.execAst r s
  | .asv r => Sys2Proof.Machine.execAsv r s
  | .ald r => Sys2Proof.Machine.execAld r s
  | .vadd r => Sys2Proof.Machine.execVadd r s
  | .vmul r => Sys2Proof.Machine.execVmul r s
  | .vfma r => Sys2Proof.Machine.execVfma r s
  | .vmin r => Sys2Proof.Machine.execVmin r s
  | .vmax r => Sys2Proof.Machine.execVmax r s
  | .vcmp r => Sys2Proof.Machine.execVcmp r s
  | .vsel r => Sys2Proof.Machine.execVsel r s
  | .vred r => Sys2Proof.Machine.execVred r s
  | .txp r => Sys2Proof.Machine.execTxp r s
  | .load r => Sys2Proof.Machine.execLoad r s
  | .store r => Sys2Proof.Machine.execStore r s
  | .gather r => Sys2Proof.Machine.execGather r s
  | .narrowQueueFree h => Sys2Proof.Machine.execNarrowQueueFree h s
  | .cvt r => Sys2Proof.Machine.execCvt r s
  | .amxout r => Sys2Proof.Machine.execAmxout r s
  | .amxpush r => Sys2Proof.Machine.execAmxpush r s
  | .scsel r => Sys2Proof.Machine.execScsel r s
  | .tst r => Sys2Proof.Machine.execTst r s
  | .tld r => Sys2Proof.Machine.execTld r s
  | .cveTableWrite b d off v => Sys2Proof.Machine.execCveTableWrite b d off v s
  | .put r => Sys2Proof.Machine.execPut r s
  | .waitin r => Sys2Proof.Machine.execWaitin r s
  | .accum r => Sys2Proof.Machine.execAccum r s
  | .ringag r => Sys2Proof.Machine.execRingag r s
  | .stepword r => Sys2Proof.Machine.execStepword r s
  | .stepwordGatherDone p => Sys2Proof.Machine.execStepwordGatherDone p s
  | .verdictDelivery p => Sys2Proof.Machine.execVerdictDelivery p s
  | .fill r => Sys2Proof.Machine.execFill r s
  | .scrub r => Sys2Proof.Machine.execScrub r s
  | .ufold r => Sys2Proof.Machine.execUfold r s
  | .ushare r => Sys2Proof.Machine.execUshare r s
  | .update r => Sys2Proof.Machine.execUpdate r s
  | .updateApply r => Sys2Proof.Machine.execUpdateApply r s
  | .accumArrival h k => Sys2Proof.Machine.execAccumArrival h k s
  | .heldArrivalOpen h => Sys2Proof.Machine.execHeldArrivalOpen h s
  | .granuleStallDiscard h region granule => Sys2Proof.Machine.execGranuleStallDiscard h region granule s
  | .hubCacheCtrl b h v => Sys2Proof.Machine.execHubCacheCtrl b h v s
  | .hubWritebackDone h => Sys2Proof.Machine.execHubWritebackDone h s
  | .hubNarrowDepthRead b h => Sys2Proof.Machine.execHubNarrowDepthRead b h s
  | .scrubPassStart b h => Sys2Proof.Machine.execScrubPassStart b h s
  | .scrubPassStop b h => Sys2Proof.Machine.execScrubPassStop b h s
  | .scrubPassEnd h => Sys2Proof.Machine.execScrubPassEnd h s
  | .breezeRead h upsets => Sys2Proof.Machine.execBreezeRead h upsets s
  | .breezeHeldRecheck h => Sys2Proof.Machine.execBreezeHeldRecheck h s
  | .retTableWrite b h k v => Sys2Proof.Machine.execRetTableWrite b h k v s
  | .retireEntryInForce h => Sys2Proof.Machine.execRetireEntryInForce h s
  | .mxeFeStat b d e v => Sys2Proof.Machine.execMxeFeStat b d e v s
  | .gxeOorStat b d v => Sys2Proof.Machine.execGxeOorStat b d v s
  | .gxeBadCount b d v => Sys2Proof.Machine.execGxeBadCount b d v s
  | .redNvStat b h v => Sys2Proof.Machine.execRedNvStat b h v s
  | .arbFlagStat b n v => Sys2Proof.Machine.execArbFlagStat b n v s
  | .segWaitMax b d g v => Sys2Proof.Machine.execSegWaitMax b d g v s
  | .stagedWrite b win off v => Sys2Proof.Machine.execStagedWrite b win off v s
  | .closingFieldWrite b win off v => Sys2Proof.Machine.execClosingFieldWrite b win off v s
  | .mtAnchorSet b v => Sys2Proof.Machine.execMtAnchorSet b v s
  | .frameSend n lane => Sys2Proof.Machine.execFrameSend n lane s
  | .frameReceive n lane bytes scr noise => Sys2Proof.Machine.execFrameReceive n lane bytes scr noise s
  | .identityFrameReceive n lane bytes scr noise => Sys2Proof.Machine.execIdentityFrameReceive n lane bytes scr noise s
  | .linkOnlyFrameReceive n lane bytes scr noise => Sys2Proof.Machine.execLinkOnlyFrameReceive n lane bytes scr noise s
  | .timeRequestSend p => Sys2Proof.Machine.execTimeRequestSend p s
  | .timeResponseSend n => Sys2Proof.Machine.execTimeResponseSend n s
  | .linkReportSend n => Sys2Proof.Machine.execLinkReportSend n s
  | .nakTimer n => Sys2Proof.Machine.execNakTimer n s
  | .replayTimeout n => Sys2Proof.Machine.execReplayTimeout n s
  | .portDown n => Sys2Proof.Machine.execPortDown n s
  | .laneAcquireTimeout n lane => Sys2Proof.Machine.execLaneAcquireTimeout n lane s
  | .laneLightLoss n lane => Sys2Proof.Machine.execLaneLightLoss n lane s
  | .lkCmd b n v => Sys2Proof.Machine.execLkCmd b n v s
  | .lkCtrl b n v => Sys2Proof.Machine.execLkCtrl b n v s
  | .lkLaneHold b n v => Sys2Proof.Machine.execLkLaneHold b n v s
  | .ringLockLoop n ring detune heaterStep => Sys2Proof.Machine.execRingLockLoop n ring detune heaterStep s
  | .ringUnlock n ring => Sys2Proof.Machine.execRingUnlock n ring s
  | .toneWindowEnd n ring levels => Sys2Proof.Machine.execToneWindowEnd n ring levels s
  | .ringRelock n ring => Sys2Proof.Machine.execRingRelock n ring s
  | .kappaFit le fits => Sys2Proof.Machine.execKappaFit le fits s
  | .laserBiasLoop le j output biasStep => Sys2Proof.Machine.execLaserBiasLoop le j output biasStep s
  | .laserThresholdJudge le j bias output => Sys2Proof.Machine.execLaserThresholdJudge le j bias output s
  | .laserSwapStart le => Sys2Proof.Machine.execLaserSwapStart le s
  | .swapSpareTuned le => Sys2Proof.Machine.execSwapSpareTuned le s
  | .swapResume le => Sys2Proof.Machine.execSwapResume le s
  | .leSwapCmd b le v => Sys2Proof.Machine.execLeSwapCmd b le v s
  | .messageBind p k => Sys2Proof.Machine.execMessageBind p k s
  | .arbitrationPhase n => Sys2Proof.Machine.execArbitrationPhase n s
  | .holderStall n => Sys2Proof.Machine.execHolderStall n s
  | .parkedEligible n k => Sys2Proof.Machine.execParkedEligible n k s
  | .receiveHeldRelease n => Sys2Proof.Machine.execReceiveHeldRelease n s
  | .becalmStallLimit r => Sys2Proof.Machine.execBecalmStallLimit r s
  | .messageStallDiscard p k => Sys2Proof.Machine.execMessageStallDiscard p k s
  | .senderStallLimit r => Sys2Proof.Machine.execSenderStallLimit r s
  | .moduleOut p m => Sys2Proof.Machine.execModuleOut p m s
  | .sitePoll answers => Sys2Proof.Machine.execSitePoll answers s
  | .clockChoice blk powerMax currentMax thermalMax => Sys2Proof.Machine.execClockChoice blk powerMax currentMax thermalMax s
  | .lullEnter blk => Sys2Proof.Machine.execLullEnter blk s
  | .wakeBegin d g => Sys2Proof.Machine.execWakeBegin d g s
  | .wakeComplete blk => Sys2Proof.Machine.execWakeComplete blk s
  | .tokenRefill d g => Sys2Proof.Machine.execTokenRefill d g s
  | .junctionSample blk temp powerMw => Sys2Proof.Machine.execJunctionSample blk temp powerMw s
  | .segmentCurrentSample d g mean peak => Sys2Proof.Machine.execSegmentCurrentSample d g mean peak s
  | .currentStopRestart d g => Sys2Proof.Machine.execCurrentStopRestart d g s
  | .fennelSampleCompare d => Sys2Proof.Machine.execFennelSampleCompare d s
  | .logbookBucketRefill => Sys2Proof.Machine.execLogbookBucketRefill s
  | .lifetimeSnapshot => Sys2Proof.Machine.execLifetimeSnapshot s
  | .lbSnapCmd b v => Sys2Proof.Machine.execLbSnapCmd b v s
  | .smbusReadState => Sys2Proof.Machine.execSmbusReadState s
  | .smbusReadCause => Sys2Proof.Machine.execSmbusReadCause s
  | .smbusReadTemp => Sys2Proof.Machine.execSmbusReadTemp s
  | .smbusReadPower watts => Sys2Proof.Machine.execSmbusReadPower watts s
  | .smbusReadAlert => Sys2Proof.Machine.execSmbusReadAlert s
  | .smbusClearAlert v => Sys2Proof.Machine.execSmbusClearAlert v s
  | .smbusReadDescriptor code => Sys2Proof.Machine.execSmbusReadDescriptor code s
  | .smbusAlertResponse => Sys2Proof.Machine.execSmbusAlertResponse s
  | .modResetRelease => Sys2Proof.Machine.execModResetRelease s
  | .laneLightReturn n lane shortGap => Sys2Proof.Machine.execLaneLightReturn n lane shortGap s
  | .laneAlignmentLost n lane => Sys2Proof.Machine.execLaneAlignmentLost n lane s
  | .lullEntryDone blk => Sys2Proof.Machine.execLullEntryDone blk s
  | .meshMessageArrival p k => Sys2Proof.Machine.execMeshMessageArrival p k s
  | .snapshotWriteDone => Sys2Proof.Machine.execSnapshotWriteDone s
  | .logbookPageErased => Sys2Proof.Machine.execLogbookPageErased s

end Sys2Proof.Machine
end

