-- ==== Sys2Proof/Safety.lean ====
section
/-! DEFINITION. The words in which claims are stated: a safe step, the shape of the module, its memories in
canonical form, records in flight, and which part of the module a command leaves alone. -/

namespace Sys2Proof

/-- A command the module carries out in this state: it answers a next state. -/
def Safe (c : Instr) (s : Machine.State) : Prop := ∃ t, Machine.exec c s = .next t

namespace Machine

/-! ## The shape of the module (R1, R80, R90, R130, R202, R311, Tables 14.8 and 14.10) -/

/-- A compute die with all its s-registers, event counters, engines, tiles, channels, blocks and segments. -/
def Cd.whole (c : Cd) : Bool :=
  c.seq.sregs.length == 56 && c.seq.ev.length == 128 && c.eng.mxe.length == 10 &&
    c.eng.mxe.all (fun m => m.tiles.length == 4) && c.eng.coe.chans.length == 64 &&
    c.pwr.blocks.map (·.1) == dieBlocks && c.pwr.segs.length == 4

/-- A port with its lanes and rings. -/
def Port.whole (q : Port) : Bool := q.rx.length == 8 && q.tx.length == 8 && q.rings.length == 16

/-- Every unit that the family has is there, with all its parts. -/
def State.whole (s : State) : Bool :=
  s.parts.length == 4 && s.baith.length == 4 && s.cds.length == 16 && s.hubs.length == 32 &&
    s.uds.length == 32 && s.les.length == 8 && s.ports.length == 128 && s.cds.all Cd.whole &&
    s.les.all (fun e => e.lasers.length == 10) && s.ports.all Port.whole

/-! ## Memories -/

/-- Every scratchpad and every stack in canonical form. -/
def State.memWf (s : State) : Bool :=
  s.cds.all (fun c => c.scratch.store.bytes.wf) && s.hubs.all fun h => h.mem.stack.bytes.wf

/-- Whether the keys of a table rise strictly. -/
def rising {α : Type} : List (Nat × α) → Bool
  | [] => true
  | [_] => true
  | a :: b :: r => a.1 < b.1 && rising (b :: r)

/-- Every table that lists only what differs from its reset value has its keys strictly rising: the pairs of
tiles, CVE and retire tables, and an update die's pending amax and recorded scales. -/
def State.tablesWf (s : State) : Bool :=
  s.cds.all (fun c => rising c.eng.cve.table && c.eng.mxe.all fun m => m.tiles.all fun t => rising t.pairs) &&
    s.hubs.all (fun h => rising h.chk.ret) && s.uds.all fun u => rising u.pendAmax && rising u.wcScale

/-- A memory none of whose lines is in any way at fault. -/
def LineStore.sound (st : LineStore) : Bool := st.bad.isEmpty && st.glitch.isEmpty && st.hard.isEmpty

/-- Die d's scratchpad. -/
def State.pad (s : State) (d : Nat) : LineStore := (s.cd d).scratch.store

/-- n scratchpad bytes of die d from address a on. -/
def State.padBytes (s : State) (d a n : Nat) : List Byte := Memory.read (s.pad d).bytes a n

/-- Every scratchpad byte of die d outside the spans (address, length) is the same in t as in s. -/
def padSame (d : Nat) (spans : List (Nat × Nat)) (s t : State) : Prop :=
  ∀ a, (∀ p ∈ spans, a < p.1 ∨ p.1 + p.2 ≤ a) → t.padBytes d a 1 = s.padBytes d a 1

/-! ## Stacks behind their hubs (R275, R278, R279) -/

/-- The 64 bytes that a stack hub holds at a stack-local line: its cached copy, or the stack's own. -/
def Hub.line (h : Hub) (l : Nat) : List Byte :=
  match h.cached l with
  | some c => c.data
  | none => h.mem.stack.data (physLine (h.place (64 * l)))

/-- A hub that reads and writes without a fault: a sound stack all of whose channels trained, cached copies that
check, a clean copy being what the stack holds, no line cached twice, and no two lines of the usable capacity in one
place. -/
def Hub.orderly (h : Hub) : Prop :=
  h.mem.stack.sound = true ∧ h.mem.trainFail = 0 ∧
    (∀ c ∈ h.mem.cache, c.check = lineCheck c.data (stackSeal (h.place (64 * c.line))) ∧ c.glitch = false ∧
      c.data.length = 64 ∧ 64 * c.line < usableBytes h.mem.chanUse ∧
      (c.dirty = false → c.data = h.mem.stack.data (physLine (h.place (64 * c.line))))) ∧
    (h.mem.cache.map (·.line)).Nodup ∧
    ∀ l k, 64 * l < usableBytes h.mem.chanUse → 64 * k < usableBytes h.mem.chanUse →
      physLine (h.place (64 * l)) = physLine (h.place (64 * k)) → l = k

/-- Byte o of region g of partition p, as its hub holds it. -/
def State.regionByte (s : State) (p g o : Nat) : Byte :=
  match (s.part p).place? g (64 * (o / 64)) with
  | some (h, loc) => ((s.hub h).line (loc / 64)).getD (o % 64) 0
  | none => 0

/-- Every line of region g of partition p lies within the usable capacity of an orderly hub whose stack has not been
cut out. -/
def State.served (s : State) (p g : Nat) : Prop :=
  ∀ o h loc, (s.part p).place? g (64 * o) = some (h, loc) →
    h < 32 ∧ s.isCut (.stack h) = false ∧ (s.hub h).orderly ∧ 64 * (loc / 64) < usableBytes (s.hub h).mem.chanUse

/-- Between s and t the hubs differ in their stacks, caches, traffic counters and narrow queues alone. -/
def memTraffic (s t : State) : Prop :=
  ∀ h, ∃ st ca hi mi wb nr qu wa hw wf, t.hub h = { s.hub h with
    mem := { (s.hub h).mem with
      stack := st
      cache := ca
      hits := hi
      misses := mi
      wideBytes := wb
      narrowReads := nr
      queue := qu
      waiting := wa
      highWater := hw
      narrowWasFull := wf } }

/-- Every line of the usable capacity of a hub is in t what it was in s, but for the lines of region g of partition p
that the spans (offset, length) touch. -/
def linesSame (p g : Nat) (spans : List (Nat × Nat)) (s t : State) : Prop :=
  ∀ h l, 64 * l < usableBytes (s.hub h).mem.chanUse →
    (∀ q ∈ spans, ∀ o, q.1 ≤ o → o < q.1 + q.2 → ∀ loc,
      (s.part p).place? g (64 * (o / 64)) = some (h, loc) → loc / 64 ≠ l) →
    (t.hub h).line l = (s.hub h).line l

/-- Every byte of region g of partition p outside the spans (offset, length) is in t what it was in s. -/
def regionSame (p g : Nat) (spans : List (Nat × Nat)) (s t : State) : Prop :=
  ∀ o, (∀ q ∈ spans, o < q.1 ∨ q.1 + q.2 ≤ o) → t.regionByte p g o = s.regionByte p g o

/-- No two lines of the regions of a list lie in one line of a hub. -/
def State.apart (s : State) (p : Nat) (regions : List Nat) : Prop :=
  regions.Nodup ∧ ∀ a ∈ regions, ∀ b ∈ regions, ∀ i j h k l, (s.part p).place? a (64 * i) = some (h, k) →
    (s.part p).place? b (64 * j) = some (h, l) → k / 64 = l / 64 → a = b ∧ i = j

/-- n bytes of region g of partition p from byte o on, as a number. -/
def State.regionNat (s : State) (p g o n : Nat) : Nat :=
  leNat ((List.range n).map fun i => s.regionByte p g (o + i))

/-! ## Records in flight -/

/-- Record r runs, its operation, of this opcode, has not been carried out and no stop suspends it, and x is its
state. -/
def State.goes (s : State) (r : RecRef) (code : Nat) (x : RecState) : Prop :=
  r.wf = true ∧ s.rec? r = some x ∧ x.phase = .running ∧ x.executed = false ∧ x.record.opcode = code ∧
    s.suspended r x = false

/-- Such a record, under the job image in force. -/
def State.runs (s : State) (r : RecRef) (code : Nat) (x : RecState) : Prop :=
  s.goes r code x ∧ s.oldImage? r x = none

/-- The state with record r's operation marked as carried out. -/
def State.marked (s : State) (r : RecRef) : State := s.modRec r fun y => { y with executed := true }

/-- The record, and its opcode, whose operation a command carries out or begins. STEPWORD, which only contributes
to a word, is not among them. -/
def opRecord : Instr → Option (RecRef × Nat)
  | .nop r => some (r, 0x0700)
  | .smovi r => some (r, 0x0701)
  | .salu r => some (r, 0x0702)
  | .sld r => some (r, 0x0703)
  | .sst r => some (r, 0x0704)
  | .choice r => some (r, 0x0705)
  | .replay r => some (r, 0x0706)
  | .evadd r => some (r, 0x0707)
  | .mma r => some (r, 0x0100)
  | .aclr r => some (r, 0x0101)
  | .ast r => some (r, 0x0102)
  | .asv r => some (r, 0x0103)
  | .ald r => some (r, 0x0104)
  | .vadd r => some (r, 0x0200)
  | .vmul r => some (r, 0x0201)
  | .vfma r => some (r, 0x0202)
  | .vmin r => some (r, 0x0203)
  | .vmax r => some (r, 0x0204)
  | .vcmp r => some (r, 0x0205)
  | .vsel r => some (r, 0x0206)
  | .vred r => some (r, 0x0207)
  | .txp r => some (r, 0x0300)
  | .load r => some (r, 0x0400)
  | .store r => some (r, 0x0401)
  | .gather r => some (r, 0x0402)
  | .cvt r => some (r, 0x0500)
  | .amxout r => some (r, 0x0501)
  | .amxpush r => some (r, 0x0502)
  | .scsel r => some (r, 0x0503)
  | .tst r => some (r, 0x0504)
  | .tld r => some (r, 0x0505)
  | .put r => some (r, 0x0600)
  | .waitin r => some (r, 0x0601)
  | .accum r => some (r, 0x0602)
  | .ringag r => some (r, 0x0603)
  | .fill r => some (r, 0x0800)
  | .scrub r => some (r, 0x0900)
  | .ufold r => some (r, 0x0A00)
  | .ushare r => some (r, 0x0A01)
  | .update r => some (r, 0x0A02)
  | _ => none

/-! ## Register accesses (R432) -/

/-- A register access by the host on port b that is carried out: the module takes it, the window's partition is not
being reset, the host may make it, and the window's unit is there. -/
def State.grants (s : State) (b win off : Nat) (write : Bool) : Prop :=
  s.takesRegs b win write = true ∧ s.busyWin win = false ∧ s.hostMay b win off write = true ∧
    ((windowSite win).elim (win == winCtrl) s.live) = true

/-- The port, window and offset of a command that writes one register. -/
def regTarget : Instr → Option (Nat × Nat × Nat)
  | .modResetWarm b | .modResetCold b => some (b, winCtrl, 0x00004)
  | .partReset b p => some (b, winCtrl, 0x22000 + 0x100 * p)
  | .wrAbort b (.part p) _ => some (b, winCtrl, 0x10050 + 0x100 * p)
  | .wrAbort b .frame _ => some (b, winCtrl, 0x10450)
  | .stStop b p | .stAbort b p => some (b, winCtrl, 0x20028 + 0x100 * p)
  | .hubCacheCtrl b h _ => some (b, winHub h, 0x2001C)
  | .scrubPassStart b h | .scrubPassStop b h => some (b, winHub h, 0x30024)
  | .retTableWrite b h i _ => some (b, winHub h, 0x38000 + 8 * i)
  | .mxeFeStat b d e _ => some (b, winCd d, 0x40008 + 0x100 * e)
  | .gxeOorStat b d _ => some (b, winCd d, 0x70010)
  | .gxeBadCount b d _ => some (b, winCd d, 0x70030)
  | .redNvStat b h _ => some (b, winHub h, 0x10024)
  | .arbFlagStat b n _ => some (b, winLe (n / 16), portOff n 0x7C)
  | .segWaitMax b d g _ => some (b, winCd d, 0xC1014 + 0x40 * g)
  | .mtAnchorSet b _ => some (b, winCtrl, 0x20418)
  | .lkCmd b n _ => some (b, winLe (n / 16), portOff n 0x08)
  | .lkCtrl b n _ => some (b, winLe (n / 16), portOff n 0x04)
  | .lkLaneHold b n _ => some (b, winLe (n / 16), portOff n 0x0C)
  | .leSwapCmd b m _ => some (b, winLe m, 0x2040C)
  | .lbSnapCmd b _ => some (b, winCtrl, 0x5001C)
  | _ => none

/-! ## What a command leaves alone -/

/-- Between s and t only compute die d differs. -/
def dieOnly (d : Nat) (s t : State) : Prop := t = { s with cds := t.cds } ∧ ∀ e, e ≠ d → t.cd e = s.cd e

/-- Between s and t only compute die d differs, and what its line faults leave behind: records in the logs of
the control die, and telemetry that waits at the Baith ports. -/
def dieAndLogs (d : Nat) (s t : State) : Prop :=
  t = { s with
        cds := t.cds, free := t.free, baith := t.baith, ctrl := { s.ctrl with log := t.ctrl.log } } ∧
    (∀ e, e ≠ d → t.cd e = s.cd e) ∧
    ∀ b, t.bp b = { s.bp b with
      telemetry := (t.bp b).telemetry, heldTelem := (t.bp b).heldTelem, telemDrop := (t.bp b).telemDrop }

/-- Between s and t no die, stack or command that waits differs. -/
def diesSame (s t : State) : Prop := t.cds = s.cds ∧ t.hubs = s.hubs ∧ t.uds = s.uds ∧ t.pending = s.pending

/-- Between s and t no port but n differs in its link, its lanes or its rings. -/
def linksSame (n : Nat) (s t : State) : Prop :=
  ∀ k, k ≠ n → (t.port k).link = (s.port k).link ∧ (t.port k).rx = (s.port k).rx ∧
    (t.port k).tx = (s.port k).tx ∧ (t.port k).rings = (s.port k).rings

/-- Between s and t only Baith port b differs. -/
def baithOnly (b : Nat) (s t : State) : Prop := t = { s with baith := t.baith } ∧ ∀ c, c ≠ b → t.bp c = s.bp c

/-! ## The step control word (R238) -/

/-- What norm_sq holds from 2^192 on: all ones. -/
def normCap : Nat := 2 ^ 640 - 1

/-! ## Host requests (R429, R430, Table 17.3) -/

/-- The newest block that waits at port b is the completion of request x (Table 17.3). -/
def State.ended (t : State) (b : Nat) (x : Block) (status reason done address : Nat) : Prop :=
  ∃ c, (t.bp b).outQueue.getLast? = some c ∧ c.kind = 0x08 ∧ c.tag = x.tag ∧ c.payload.length = 32 ∧
    leAt c.payload 0 4 = x.tag % 2 ^ 32 ∧ leAt c.payload 4 4 = x.seq % 2 ^ 32 ∧ leAt c.payload 8 1 = x.kind % 256 ∧
    leAt c.payload 9 1 = status ∧ leAt c.payload 10 1 = reason ∧ leAt c.payload 12 4 = done % 2 ^ 32 ∧
    leAt c.payload 16 8 = address % 2 ^ 64

/-- Request x is the oldest of those that f names at port b, whose turn it is, of a module that is not in a reset. -/
def State.asks (s : State) (b : Nat) (f : Block → Bool) (x : Block) : Prop :=
  b < 4 ∧ (s.bp b).inbound.find? f = some x ∧ s.turnOf = some b ∧ s.ctrl.module.inReset = false

end Machine
end Sys2Proof
end

