-- ==== Sys2Proof/Certificates/Slice0/Obligations.lean ====
section
/-! DEFINITION. The statements for the provers, in the words of Sys2Proof/Safety.lean. -/

open Sys2Proof Sys2Proof.Machine

/-- O1. Whatever the state, a step with a command at the front of the queue is that command's meaning on the state with the rest of the queue. On an empty queue a step answers a state in which module time has gone on by 1 ns if the module is powered and its time has not reached its end, and otherwise the same state; only the control die's clock and log and the free-value counter may change. That an idle step is 1 ns is the model's choice (log entry 2). (03_cadence_and_command_streams.md Module time; R68) -/
def Obligations.StepRunsFront : Prop :=
  (∀ (c : Instr) (s : State) (rest : List Instr),
    s.pending = c :: rest → step s = exec c { s with pending := rest }) ∧
  ∀ s : State, s.pending = [] →
    ∃ t, step s = .next t ∧
      t = { s with free := t.free, ctrl := { s.ctrl with clock := t.ctrl.clock, log := t.ctrl.log } } ∧
      t.ctrl.clock = { s.ctrl.clock with time := t.ctrl.clock.time } ∧
      (s.ctrl.module.stage = 0 → t = s) ∧
      (s.ctrl.module.stage ≠ 0 → s.now + 1 < 2 ^ 64 → t.now = s.now + 1)

/-- O2. For every command and state: if the command names only units that the family has, it answers a next state; otherwise it is the fault noSuchUnit. No command is refused. (00_scope.md Names; R1) -/
def Obligations.EveryCommandRuns : Prop :=
  ∀ (c : Instr) (s : State),
    (c.wf = true → ∃ t, exec c s = .next t) ∧ (c.wf = false → exec c s = .fault .noSuchUnit)

/-- O3. Each of these commands answers exactly the next state named. A CHOICE whose alternate was picked at its boundary, none of its blocks asleep, writes s62, the partition's count and its record. A FRAME_RECEIVE of a good sequenced frame in its turn, of the partition's epoch, without control flits and with no message current on a matched or crossed up port, counts the frame and moves the expected sequence on. A LINK_ONLY_FRAME_RECEIVE of a good frame of IDLE flits counts its codewords. A JUNCTION_SAMPLE below 100 C of a block in no squall and no stop records its values; a SEGMENT_CURRENT_SAMPLE within the limits records the current; a CURRENT_STOP_RESTART restarts each stopped block of the segment, but none in a thermal stop, throttled at 400 MHz. (R88; R317; R318; R322; R414; 16_power_heat_and_choice.md Table 16.3) -/
def Obligations.UndisturbedEvents : Prop :=
  ∀ (s : State), s.whole = true →
    (∀ (r : RecRef) (x : RecState) (u : StepRun) (p k : Nat),
      s.runs r 0x0705 x → (s.cd r.die).seq.step? r.step = some u → s.partOfCd r.die = some p →
      x.decided = false → x.pick = some k →
      (∀ a, (x.record.alternates r.cmd)[k]? = some a → ∀ b ∈ alternateBlocks r.die u.recs a, (s.blk b).asleep = false) →
      exec (.choice r) s = .next ((((s.modSeq r.die fun q =>
          { q.modStep r.step fun v => { v with recs := dropUnchosen (x.record.alternates r.cmd) k v.recs } with
            lastChoice := k }).modRec r fun y => { y with pick := some k, decided := true }).modStream p
        fun st => { st with choices := st.choices.modify k fun n => min (n + 1) 0xFFFFFFFF }).marked r)) ∧
    (∀ (n i p : Nat) (sent : List Byte) (scr : Nat) (noise : List (Nat × Byte)), n < 128 → i < 8 →
      s.partOfPort n = some p →
      let line := arriving false sent scr noise
      line.length = 2720 →
      let l := (s.port n).link
      let x := (s.port n).rx.getD i {}
      let y := decodeFrame false x.descr line
      let b := y.bytes
      let w := leAt b 0 4
      let ms := s.now / 1000000
      let heard := s.modRx n i fun z => { z with
        descr := y.state, corrected := (z.corrected + y.corrected) % 2 ^ 64, uncorr := min z.uncorr 0xFFFFFFFF
        msStart := ms, uncorrMs := if z.msStart = ms then z.uncorrMs else 0
        runCorrected := z.runCorrected + y.corrected }
      y.uncorrectable = 0 → (crc32c (slice b 0 6 ++ b.drop 10)).toNat = leAt b 6 4 → x.uncorrMs ≤ 16 →
      (2 ≤ l.light → x.reads = true → w / 2 ^ 30 = 2 →
        (∀ k < 10, w.testBit (20 + k) = true → leAt b (10 + 256 * k) 1 = 1) →
        exec (.linkOnlyFrameReceive n i sent scr noise) s = .next heard) ∧
      (l.light = 3 → x.state = 3 → w / 2 ^ 20 = 0 → w % 2 ^ 20 = l.rxSeq → l.held = [] → l.current = none →
        leAt b 4 2 = (s.part p).epoch16 → (s.port n).arb.peer = 1 ∨ (s.port n).arb.peer = 2 →
        exec (.frameReceive n i sent scr noise) s = .next (heard.modLink n fun k =>
          { k with rxSeq := (k.rxSeq + 1) % 2 ^ 20, rxFrames := (k.rxFrames + 1) % 2 ^ 64 }))) ∧
    (∀ (b : BlockRef) (temp : Int) (mw : Nat), b.wf = true → temp < 1600 → (s.blk b).squall = none →
      (s.blk b).halted = false →
      exec (.junctionSample b temp mw) s = .next (s.modBlk b fun y => { y with
        temp, tempTick := if y.powerCount = 0 then temp else max y.tempTick temp, powerMw := mw
        powerSum := y.powerSum + mw, powerCount := y.powerCount + 1 })) ∧
    ∀ d < 16, ∀ g < 4,
      (∀ mean peak, peak * 100 ≤ (s.seg d g).limit * 115 → (s.seg d g).stopped = false → mean ≤ (s.seg d g).limit →
        (s.seg d g).squall = none →
        exec (.segmentCurrentSample d g mean peak) s = .next (s.modSeg d g fun z =>
          { z with current := mean, sumTick := z.sumTick + mean, samples := z.samples + 1 })) ∧
      ((s.seg d g).stopped = true →
        exec (.currentStopRestart d g) s = .next (forAll (dieSegBlocks d g) (fun c t => t.modBlk c fun x =>
            if x.mode = .stopped ∧ x.halted = false then { x with mode := .throttled, clock := 400, climb := 0 } else x)
          (s.modSeg d g fun y => { y with stopped := false })))

/-- O4. The reset state has every unit of the family with all its parts, its memories and tables in canonical form with no byte listed in any scratchpad or stack, and no command waiting. (00_scope.md; 05_matrix_engines.md; 11_memory_system.md) -/
def Obligations.ResetShape : Prop :=
  State.reset.whole = true ∧ State.reset.memWf = true ∧ State.reset.tablesWf = true ∧ State.reset.pending = [] ∧
    (∀ d < 16, (State.reset.pad d).bytes = []) ∧ ∀ h < 32, (State.reset.hub h).mem.stack.bytes = []

/-- O5. From every state in which every unit of the family is there with all its parts, a step that answers a next state answers one in which they all are. (00_scope.md Names; R1) -/
def Obligations.StepKeepsShape : Prop :=
  ∀ s t : State, s.whole = true → step s = .next t → t.whole = true

/-- O6. From every state whose scratchpads and stacks are in canonical form (addresses strictly rising, no byte listed that equals what an unlisted address reads as), a step that answers a next state answers one whose memories are. That an unlisted byte reads as 0 is the model's choice (log entry 4). (11_memory_system.md; R285; R289) -/
def Obligations.StepKeepsMemory : Prop :=
  ∀ s t : State, s.memWf = true → step s = .next t → t.memWf = true

/-- O7. From every state in which the pairs of every tile, the CVE and retire tables and the update dies' pending amax and recorded scales are listed by strictly rising key, a step that answers a next state answers one in which they are. So no element of a tile and no entry of a table is ever held twice. (R130; R192; R299; R258) -/
def Obligations.StepKeepsTables : Prop :=
  ∀ s t : State, s.tablesWf = true → step s = .next t → t.tablesWf = true

/-- O8. Whatever the state and the command, a step that answers a next state answers one whose stored security version and key floor, each the larger of copies A and B, are at least what they were. The stored values are counts of cleared bits, which nothing sets again. (R458; R471) -/
def Obligations.SecurityNeverFalls : Prop :=
  ∀ s t : State, step s = .next t →
    max s.ctrl.sec.versionA s.ctrl.sec.versionB ≤ max t.ctrl.sec.versionA t.ctrl.sec.versionB ∧
      max s.ctrl.sec.floorA s.ctrl.sec.floorB ≤ max t.ctrl.sec.floorA t.ctrl.sec.floorB

/-- O9. Whatever the state, a step that answers a next state leaves in the queue exactly the commands behind the front one, in their order; on an empty queue it leaves the queue empty. The queue is the model's own (log entry 1). (17_baith_ports_and_partitions.md) -/
def Obligations.QueueIsFifo : Prop :=
  ∀ s t : State, step s = .next t → t.pending = s.pending.tail

/-- O10. For a running record of that opcode: NOP only marks its record as carried out; SMOVI puts words 1 and 2, word 1 low, and SALU the result of its operation code on the two source registers (add and subtract modulo 2^64, and, or, exclusive or, shifts by the low 6 bits, unsigned minimum and maximum) into s[w0] where it is s0 to s55. A destination of s56 to s63 is discarded (the loader refuses such a record). EVADD raises event counter ev[w0] of the bank of its step (bank 0 for even steps, bank 1 for odd) by w1 modulo 2^16. REPLAY adds to its step the range of partition addresses from the base of the region that w0 names plus w1 and w2 (counted from the region's start: log entry 118), of the length in w3 and w4, recomputed by the w5 records after it, unless its die holds 16 ranges or its step that one. Nothing else of the module changes but the mark on the record. (03_cadence_and_command_streams.md Table 03.6; R90; R80; R91; R93) -/
def Obligations.SeqRegisters : Prop :=
  ∀ (s : State) (r : RecRef) (x : RecState),
    let dst := field (x.w 0) 5 0
    let a := s.sreg r.die (field (x.w 1) 5 0)
    let b := s.sreg r.die (field (x.w 2) 5 0)
    let wrote := fun (v : DWord) => (s.modSeq r.die fun q =>
      { q with sregs := if dst < 56 then q.sregs.set dst v else q.sregs }).marked r
    (s.runs r 0x0700 x → exec (.nop r) s = .next (s.marked r)) ∧
    (s.runs r 0x0701 x → exec (.smovi r) s = .next (wrote (x.w 2 ++ x.w 1))) ∧
    (s.runs r 0x0702 x →
      ((x.w 3).toNat = 0 → exec (.salu r) s = .next (wrote (BitVec.ofNat 64 (a.toNat + b.toNat)))) ∧
      ((x.w 3).toNat = 1 → exec (.salu r) s = .next (wrote (BitVec.ofNat 64 (a.toNat + (2 ^ 64 - b.toNat))))) ∧
      ((x.w 3).toNat = 2 → exec (.salu r) s = .next (wrote (a &&& b))) ∧
      ((x.w 3).toNat = 3 → exec (.salu r) s = .next (wrote (a ||| b))) ∧
      ((x.w 3).toNat = 4 → exec (.salu r) s = .next (wrote (a ^^^ b))) ∧
      ((x.w 3).toNat = 5 → exec (.salu r) s = .next (wrote (BitVec.ofNat 64 (a.toNat * 2 ^ (b.toNat % 64))))) ∧
      ((x.w 3).toNat = 6 → exec (.salu r) s = .next (wrote (BitVec.ofNat 64 (a.toNat / 2 ^ (b.toNat % 64))))) ∧
      ((x.w 3).toNat = 7 → exec (.salu r) s = .next (wrote (BitVec.ofNat 64 (min a.toNat b.toNat)))) ∧
      ((x.w 3).toNat = 8 → exec (.salu r) s = .next (wrote (BitVec.ofNat 64 (max a.toNat b.toNat))))) ∧
    (s.runs r 0x0707 x →
      let i := 64 * (r.step % 2) + dst
      exec (.evadd r) s = .next ((s.modSeq r.die fun q =>
        { q with ev := q.ev.set i ((q.ev.getD i 0 + (x.w 1).toNat) % 65536) }).marked r)) ∧
    (s.runs r 0x0706 x → ∀ p g, s.partOfCd r.die = some p → (s.part p).region? (field (x.w 0) 9 0) = some g →
      let new : ReplayRange :=
        { base := g.base + (x.w 1).toNat + 2 ^ 32 * (x.w 2).toNat
          length := (x.w 3).toNat + 2 ^ 32 * (x.w 4).toNat, first := r.cmd + 1, records := (x.w 5).toNat }
      let q := (s.cd r.die).seq
      (((q.steps.map fun u => u.ranges.length).sum < 16 ∧
          ∀ u ∈ q.steps, u.step = r.step → ∀ h ∈ u.ranges, h.first ≠ new.first) →
        exec (.replay r) s = .next ((s.modSeq r.die fun q =>
          q.modStep r.step fun u => { u with ranges := u.ranges ++ [new] }).marked r)) ∧
      (16 ≤ (q.steps.map fun u => u.ranges.length).sum → exec (.replay r) s = .next (s.marked r)))

/-- O11. s0 to s55 read as the die's register file has them. s56 reads the tick number of the die's partition, s57 its step number, s60 the die's published headroom word, s61 the status number of the die's last completion, s62 the alternate index of its last CHOICE, and s63 the module number above the die number. Bit u of s59 is set exactly for a unit code below 0x15 whose block runs or is in lull-1; of a hub or an update die only if it is present and not cut out. (R90; 03_cadence_and_command_streams.md Table 03.5) -/
def Obligations.SregValues : Prop :=
  ∀ (s : State) (d p : Nat), s.partOfCd d = some p →
    (∀ i < 56, s.sreg d i = (s.cd d).seq.sregs.getD i 0) ∧
    s.sreg d 56 = BitVec.ofNat 64 (s.part p).disc.tick ∧
    s.sreg d 57 = BitVec.ofNat 64 (s.part p).stream.step ∧
    s.sreg d 60 = (s.cd d).pwr.head.setWidth 64 ∧
    s.sreg d 61 = BitVec.ofNat 64 (s.cd d).seq.lastStatus ∧
    s.sreg d 62 = BitVec.ofNat 64 (s.cd d).seq.lastChoice ∧
    s.sreg d 63 = BitVec.ofNat 64 (16 * (s.part p).frame.moduleNumber + d) ∧
    ∀ u < 21, (s.sreg d 59).getLsbD u =
      (((s.blk (unitBlock d u)).mode == .running || (s.blk (unitBlock d u)).mode == .lull1) &&
        (u < 17 || if u < 19 then s.live (.stack (2 * d + (u - 17))) else s.live (.ud (2 * d + (u - 19)))))

/-- O12. With the memories in canonical form, on a die whose scratchpad has no line at fault, a running SLD puts the 8 bytes at w1, least significant first, into s[w0], and changes nothing else; a running SST leaves the bytes of s[w0], least significant first, in the 8 scratchpad bytes at w1, leaves every other scratchpad byte as it was, and changes nothing but that die. A destination s-register of s56 to s63 discards the value. (03_cadence_and_command_streams.md Table 03.6; R285; R292) -/
def Obligations.SeqScratch : Prop :=
  ∀ (s : State) (r : RecRef) (x : RecState), s.memWf = true → (s.pad r.die).sound = true →
    let k := field (x.w 0) 5 0
    let a := (x.w 1).toNat
    (s.runs r 0x0703 x →
      exec (.sld r) s = .next ((s.modSeq r.die fun q =>
        { q with sregs := if k < 56 then q.sregs.set k (BitVec.ofNat 64 (leNat (s.padBytes r.die a 8))) else q.sregs }).marked r)) ∧
    (s.runs r 0x0704 x →
      ∃ t, exec (.sst r) s = .next t ∧ t.padBytes r.die a 8 = leBytes 8 (s.sreg r.die k).toNat ∧
        padSame r.die [(a, 8)] s t ∧ dieOnly r.die s t ∧ (t.pad r.die).sound = true ∧
        t.cd r.die = { s.cd r.die with
          seq := ((s.marked r).cd r.die).seq
          scratch := { (s.cd r.die).scratch with store := t.pad r.die } })

/-- O13. For every command that carries out or begins a record's operation: while the clock of the block of the record's unit is stopped, or the record does not run or has another opcode, it changes nothing (but a STEPWORD needs no opcode of the list: it changes nothing while suspended). Where another image has been committed since the running record started, the command does exactly what it does with the record's own image in force, and the image in force stays. (R55; R414) -/
def Obligations.RecordOperations : Prop :=
  ∀ (s : State) (r : RecRef) (x : RecState), r.wf = true → s.rec? r = some x →
    (s.suspended r x = true → exec (.stepword r) s = .next s) ∧
    ∀ (c : Instr) (code : Nat), opRecord c = some (r, code) →
      (s.suspended r x = true ∨ x.phase ≠ .running ∨ x.record.opcode ≠ code → exec c s = .next s) ∧
      ∀ (p : Nat) (i : JobImage), p < 4 → s.whole = true → s.goes r code x → s.oldImage? r x = some (p, i) →
        ∃ t, exec c (s.withImage p (some i)) = .next t ∧ exec c s = .next (t.withImage p (s.part p).active)

/-- O14. A running CHOICE of a begun step that lists n alternates, n at least 1, and has not been decided, answers a next state in which it has been decided for some alternate k: the one picked at its slot's boundary, if one was. Otherwise every alternate before k has a block that is not running or in lull-1, or is in a squall, or needs more current or heat than the die's headroom word allows, and k itself qualifies or is the last. k is what s62 then reads and its counter among the partition's rises by one, saturating; the records of every other alternate never start, and those of k are as they were. Outside the die only blocks' wake requests and the partition's count change. One that has been decided, run again in a replay, answers a state with only its record marked: the decision is final and counted once. (R86; R87; R88; R413) -/
def Obligations.ChoicePicks : Prop :=
  ∀ (s : State) (r : RecRef) (x : RecState) (u : StepRun) (p : Nat),
    s.runs r 0x0705 x → (s.cd r.die).seq.step? r.step = some u → s.partOfCd r.die = some p →
    let alts := x.record.alternates r.cmd
    let good := fun a => alternateAwake s r.die u.recs a && alternateFits (s.cd r.die).pwr.head a
    (x.decided = true → exec (.choice r) s = .next (s.marked r)) ∧
    (x.decided = false → alts ≠ [] →
      ∃ t k, exec (.choice r) s = .next t ∧ (∀ j, x.pick = some j → k = j) ∧
        (x.pick = none → k < alts.length ∧ (∀ j < k, (alts[j]?.map good) = some false) ∧
          (k + 1 < alts.length → alts[k]?.map good = some true)) ∧
        (t.cd r.die).seq.lastChoice = k ∧
        (t.part p).stream.choices = (s.part p).stream.choices.modify k (fun n => min (n + 1) 0xFFFFFFFF) ∧
        t.rec? r = some { x with executed := true, pick := some k, decided := true } ∧
        (∀ c y, u.recs[c]? = some y → c ≠ r.cmd →
          ((alts.zipIdx.any fun a => a.2 != k && a.1.first ≤ c && c < a.1.first + a.1.records) = true →
            t.rec? ⟨r.die, r.step, c⟩ = some { y with phase := .never }) ∧
          ((alts.zipIdx.any fun a => a.2 != k && a.1.first ≤ c && c < a.1.first + a.1.records) = false →
            t.rec? ⟨r.die, r.step, c⟩ = some y)) ∧
        t.pending = s.pending ∧ t.ctrl = s.ctrl ∧ t.baith = s.baith ∧ t.ports = s.ports ∧
        (∀ d, t.pad d = s.pad d) ∧ ∀ h, (t.hub h).mem = (s.hub h).mem)

/-- O15. For a record that is startable (its slot boundary has passed, its wait condition holds, its unit is free for it, its alternate, if any, was chosen, what it reads is ready, and no matrix record that could start now writes its tile) and whose blocks are all awake and whose unit is not cut out, RECORD_ISSUE with no line fault answers a state in which the record runs under the image in force, its operation not yet carried out, with each operand word named by a substitution bit replaced by the low half of the s-register that the word's low 6 bits name, and every other word as in the record. Memories, ports, partitions, Baith ports and the control die are as they were. Of a GATHER, which reads its index array as it starts, this is said where its scratchpad has no line at fault. (R81; R79; R406; R88; R139) -/
def Obligations.RecordStarts : Prop :=
  ∀ (s : State) (r : RecRef) (x : RecState) (u : StepRun) (p : Nat),
    r.wf = true → s.partOfCd r.die = some p → (s.cd r.die).seq.step? r.step = some u → s.rec? r = some x →
    startable p u r x s = true → (recBlocks r x).all s.awake = true →
    (∀ v, x.target r.die = some v → s.isCut v = false) →
    (x.record.opcode = 0x0402 → (s.pad r.die).sound = true) →
    ∃ t y, exec (.recordIssue r []) s = .next t ∧ t.rec? r = some y ∧
      y.phase = .running ∧ y.executed = false ∧ y.lost = false ∧ y.record = x.record ∧ y.image = (s.part p).active ∧
      (∀ i < 11, ∀ w, x.record.ops[i]? = some w →
        y.words[i]? = some (if x.record.subst.testBit i then (s.sreg r.die (w.toNat % 64)).setWidth 32 else w)) ∧
      (∀ d, t.pad d = s.pad d) ∧ (∀ h, (t.hub h).mem = (s.hub h).mem) ∧ t.ctrl = s.ctrl ∧ t.parts = s.parts ∧
      t.baith = s.baith ∧ t.ports = s.ports ∧ t.pending = s.pending

/-- O16. RECORD_ISSUE without line faults changes nothing for a record that is not waiting to start, whose slot boundary has not passed, whose event counter is below its wait value, whose unit another running record of its die holds (other than the COE), or that reads a tile for which a matrix record could start now. For a startable record with a block that is not awake, its unit not cut out, it starts nothing: the record stays as it is, and every sleeping block that the record needs has a wake request. (R81; R139; R406) -/
def Obligations.RecordWaits : Prop :=
  ∀ (s : State) (r : RecRef) (x : RecState) (u : StepRun) (p : Nat),
    r.wf = true → s.partOfCd r.die = some p → (s.cd r.die).seq.step? r.step = some u → s.rec? r = some x →
    (x.phase ≠ .waiting → exec (.recordIssue r []) s = .next s) ∧
    ((s.part p).disc.tick < u.startTick + x.record.slot → exec (.recordIssue r []) s = .next s) ∧
    (x.record.waitEv < 64 → (s.cd r.die).seq.ev.getD (64 * (r.step % 2) + x.record.waitEv) 0 < x.record.waitValue →
      exec (.recordIssue r []) s = .next s) ∧
    (x.record.unit ≠ 0x0E →
      ((s.dieRecs r.die).any fun y => y.2.record.unit == x.record.unit && y.2.phase == .running) = true →
      exec (.recordIssue r []) s = .next s) ∧
    (mxeFirst p r.die x.tilesRead s = true → exec (.recordIssue r []) s = .next s) ∧
    (startable p u r x s = true → (recBlocks r x).all s.awake = false →
      (∀ v, x.target r.die = some v → s.isCut v = false) →
      ∃ t, exec (.recordIssue r []) s = .next t ∧ t.rec? r = some x ∧
        ∀ b ∈ recBlocks r x, (s.blk b).asleep = true → (t.blk b).request.isSome = true)

/-- O17. For a running record whose operation has been carried out and has nothing left to wait for (other than RINGAG, whose status its ring decides), RECORD_COMPLETE ends the record, unless a stop of its block suspends it, when nothing changes. The die's last status is, in this order, 2 where input was lost, 5 where its step was skipped, 3 where a line failed, 4 where it met a frozen entry, 1 where it slipped, and otherwise 0. A status other than 0 writes one log entry at the head of the ring of 256; status 0 writes none. With status 0, its event not yet raised, no replay under way, and no CHOICE of which it is a part, its signal_ev rises by one modulo 2^16 in the bank of its step. (R81; R99; R262; R80; R414; 03_cadence_and_command_streams.md Table 03.8) -/
def Obligations.RecordCompletes : Prop :=
  ∀ (s : State) (r : RecRef) (x : RecState) (u : StepRun) (p : Nat),
    r.wf = true → s.partOfCd r.die = some p → (s.cd r.die).seq.step? r.step = some u → s.rec? r = some x →
    (s.suspended r x = true → exec (.recordComplete r) s = .next s) ∧
    (x.phase = .running → x.executed = true → settled p r x s = true → s.suspended r x = false →
      x.record.opcode ≠ 0x0603 →
      let st := if x.lost then 2 else if x.skipped then 5 else if x.lineBad then 3 else if x.frozen then 4
        else if x.slipped then 1 else 0
      let q := (s.cd r.die).seq
      let i := 64 * (r.step % 2) + x.record.signalEv
      ∃ t, exec (.recordComplete r) s = .next t ∧ (t.cd r.die).seq.lastStatus = st ∧
        (∀ y, t.rec? r = some y → y.phase = .done) ∧
        (st = 0 → (t.cd r.die).seq.log = q.log) ∧
        (st ≠ 0 → ∃ late, (t.cd r.die).seq.log =
          { items := (⟨r.step, r.cmd, x.record.unit, st, late⟩ :: q.log.items).take 256
            head := (q.log.head + 1) % 256, count := min (q.log.count + 1) 0xFFFFFFFF }) ∧
        (st = 0 → q.replays = [] → x.signalled = false → x.record.opcode ≠ 0x0705 → u.choiceOf r.cmd = none →
          x.record.signalEv < 64 → (t.cd r.die).seq.ev = q.ev.set i ((q.ev.getD i 0 + 1) % 65536)))

/-- O18. With a replay under way on a die whose next record is command c of a step: while a record of the replay still runs, or its unit is busy, or a tile it needs is held or awaited by a matrix record that could start, REPLAY_RANGE_RERUN changes nothing. Otherwise, its unit not cut out, where its blocks are awake c runs again from the start of its operation, whatever its slot and wait condition, and the replay is no longer draining; where one is not, c stays as it is, and every sleeping block that it needs has a wake request. With no replay it changes nothing. (R92; R139; R406) -/
def Obligations.ReplayRuns : Prop :=
  ∀ (s : State) (d : Nat), d < 16 →
    ((s.cd d).seq.replays = [] → exec (.replayRangeRerun d) s = .next s) ∧
    ∀ y more n c rest x p, (s.cd d).seq.replays = y :: more → y.todo = (n, c) :: rest → s.partOfCd d = some p →
      s.rec? ⟨d, n, c⟩ = some x →
      let r : RecRef := ⟨d, n, c⟩
      let busy := (y.todo.any fun k => (s.rec? ⟨d, k.1, k.2⟩).elim false fun z => z.phase == .running) ||
        decide ((if x.record.unit = 0x0E then 16 else 1) ≤
          ((s.dieRecs d).filter fun z => z.2.record.unit == x.record.unit && z.2.phase == .running).length) ||
        !tilesFree r x s || mxeFirst p d x.tilesRead s
      (busy = true → exec (.replayRangeRerun d) s = .next s) ∧
      (busy = false → (∀ v, x.target d = some v → s.isCut v = false) →
        ((recBlocks r x).all s.awake = true → (x.record.opcode = 0x0402 → (s.pad d).sound = true) →
          ∃ t z, exec (.replayRangeRerun d) s = .next t ∧ t.rec? r = some z ∧ z.phase = .running ∧
            z.executed = false ∧ z.record = x.record ∧
            (t.cd d).seq.replays = { y with draining := false } :: more ∧ ∀ e, t.pad e = s.pad e) ∧
        ((recBlocks r x).all s.awake = false →
          ∃ t, exec (.replayRangeRerun d) s = .next t ∧ t.rec? r = some x ∧
            (∀ b ∈ recBlocks r x, (s.blk b).asleep = true → (t.blk b).request.isSome = true) ∧
            ∀ e, t.pad e = s.pad e))

/-- O19. Where the host may write ST_CTRL and the partition's stream runs: ST_STOP asks for a stop at the next step boundary and changes nothing else. ST_ABORT in the tick of a step boundary asks for the abort, which the next tick boundary carries out, and changes nothing else. In any other tick, with the queued segments' dies all the partition's, it drops those segments and leaves no record of the partition's dies waiting to start, every running record as it is, and ST_STATE at 4 if no step is left on any die and 3 otherwise. Where the stream does not run, neither changes anything. (R85) -/
def Obligations.StreamStops : Prop :=
  ∀ (s : State) (b p : Nat), b < 4 → p < 4 → s.grants b winCtrl (0x20028 + 0x100 * p) true →
    let st := (s.part p).stream
    let runs := st.state = 1 ∨ st.state = 2 ∨ st.state = 3
    (¬ runs → exec (.stStop b p) s = .next s ∧ exec (.stAbort b p) s = .next s) ∧
    (runs →
      exec (.stStop b p) s = .next (s.modStream p fun v => { v with stopReq := true }) ∧
      (st.state = 2 ∧ st.stepStart = (s.part p).disc.tick →
        exec (.stAbort b p) s = .next (s.modStream p fun v => { v with abortReq := true })) ∧
      (st.state ≠ 2 ∨ st.stepStart ≠ (s.part p).disc.tick →
        (∀ g ∈ st.queued, ∀ e ∈ g.dies, e.die ∈ (s.part p).frame.cds) →
        ∃ t, exec (.stAbort b p) s = .next t ∧ (t.part p).stream.queued = [] ∧
          (t.part p).stream.state = (if (s.part p).frame.cds.any (fun d => !(t.cd d).seq.steps.isEmpty) then 3 else 4) ∧
          (∀ r y, r.die ∈ (s.part p).frame.cds → t.rec? r = some y → y.phase ≠ .waiting) ∧
          (∀ r x, s.rec? r = some x → x.phase = .running → t.rec? r = some x) ∧
          (∀ d, d ∉ (s.part p).frame.cds → t.cd d = s.cd d) ∧ (∀ d, t.pad d = s.pad d) ∧
          t.hubs = s.hubs ∧ t.uds = s.uds ∧ t.pending = s.pending))

/-- O20. Where the host may write the register and the value has bit 0 set: MXE_FE_STAT clears every first-event field of its engine, GXE_OOR_STAT the out-of-range latch, GXE_BAD_COUNT the validity of GXE_BAD_ADDR, RED_NV_STAT the hub's NV record, ARB_FLAG_STAT the arbiter's flag record; with bit 0 clear none of them changes anything. Any write to SEG_WAIT_MAX sets it to 0. Nothing else of the module changes. (R157; R186; R187; R219; R375; R417) -/
def Obligations.LatchesClear : Prop :=
  ∀ (s : State) (b d e h n g : Nat) (v : Word), b < 4 → d < 16 → e < 10 → h < 32 → n < 128 → g < 4 →
    let on := v.getLsbD 0 = true
    (s.grants b (winCd d) (0x40008 + 0x100 * e) true → ∃ t, exec (.mxeFeStat b d e v) s = .next t ∧
      (on → t = s.modMxe d e fun m => { m with fe := {} }) ∧ (¬ on → t = s)) ∧
    (s.grants b (winCd d) 0x70010 true → ∃ t, exec (.gxeOorStat b d v) s = .next t ∧
      (on → t = s.modGxe d fun q =>
        { q with oorValid := false, oorStep := 0, oorCmd := 0, oorElem := 0, oorIndex := 0 }) ∧ (¬ on → t = s)) ∧
    (s.grants b (winCd d) 0x70030 true → ∃ t, exec (.gxeBadCount b d v) s = .next t ∧
      (on → t = s.modGxe d fun q => { q with badValid := false }) ∧ (¬ on → t = s)) ∧
    (s.grants b (winHub h) 0x10024 true → ∃ t, exec (.redNvStat b h v) s = .next t ∧
      (on → t = s.modRed h fun q => { q with nv := {} }) ∧ (¬ on → t = s)) ∧
    (s.grants b (winLe (n / 16)) (portOff n 0x7C) true → ∃ t, exec (.arbFlagStat b n v) s = .next t ∧
      (on → t = s.modArb n fun q => { q with flag := {} }) ∧ (¬ on → t = s)) ∧
    (s.grants b (winCd d) (0xC1014 + 0x40 * g) true →
      exec (.segWaitMax b d g v) s = .next (s.modSeg d g fun q => { q with waitMax := 0 }))

/-- O21. For every command that writes one register by name: where the module does not take register requests of its port, or the window's partition is being reset, it changes nothing; where the host may not write the register, only the port's denied counter rises by one, saturating, and for LE_SWAP_CMD the light engine's denied counter too. (R432; R438; R419; 17_baith_ports_and_partitions.md Table 17.5) -/
def Obligations.AccessDenied : Prop :=
  ∀ (c : Instr) (s : State) (b win off : Nat), c.wf = true → regTarget c = some (b, win, off) →
    (s.takesRegs b win true = false ∨ s.busyWin win = true → exec c s = .next s) ∧
    (s.takesRegs b win true = true → s.busyWin win = false → s.hostMay b win off true = false →
      let t := s.modBp b fun q => { q with denied := min (q.denied + 1) 0xFFFFFFFF }
      ((∀ m v, c ≠ .leSwapCmd b m v) → exec c s = .next t) ∧
      ∀ m v, c = .leSwapCmd b m v →
        exec c s = .next (t.modLe m fun e => { e with denied := min (e.denied + 1) 0xFFFFFFFF }))

/-- O22. Take any published set, a closing write, any staged writes after it, and a second closing write. What is captured is then what is staged at the second write, with its closing value. The publication makes exactly that capture live (as the set takes its members), leaves no capture, and a further publication changes nothing. (R64) -/
def Obligations.SecondClosingWrite : Prop :=
  ∀ (u : PubSet) (v w : Nat) (writes : List (Nat × Nat)) (take : List Nat → List Nat),
    let before := writes.foldl (fun x m => x.stage m.1 m.2) (u.close v)
    let again := before.close w
    let done := again.publish take
    again.captured = some (before.staged.set (before.staged.length - 1) w) ∧
      done.live = take (before.staged.set (before.staged.length - 1) w) ∧ done.captured = none ∧
      done.publish take = done

/-- O23. Take any set whose staged values and marks of later writes are as many as its captured values, and any taking of members that keeps their number. After its publication each member written after the closing write keeps the staged value it was given, and every other member's staged value is its newly published one. And take any set whose staged values are its live ones: staging one member other than the closing field and then closing captures the live value of every member but that one and the closing field. (R63) -/
def Obligations.StagedReloads : Prop :=
  (∀ (u : PubSet) (c : List Nat) (take : List Nat → List Nat),
    u.captured = some c → u.staged.length = c.length → u.after.length = c.length → (take c).length = c.length →
    let t := u.publish take
    t.live = take c ∧ t.staged.length = c.length ∧
      ∀ i < c.length, t.staged[i]? = if u.after[i]? = some true then u.staged[i]? else (take c)[i]?) ∧
  ∀ (u : PubSet) (i v close : Nat), u.staged = u.live → u.captured = none → i + 1 < u.live.length →
    ((u.stage i v).close close).captured = some ((u.live.set i v).set (u.live.length - 1) close)

/-- O24. For every member of a published set in a window whose unit is there: the word at its live offset plus 0x0080_0000 reads the member's staged value (its word), and a write at that shadow offset does what a write at the live offset does. (R60) -/
def Obligations.ShadowReads : Prop :=
  ∀ (s : State) (win off : Nat) (v : Word) (m : Member),
    off < 0x800000 → memberAt s.ctrl.ident.part win off = some m →
    ((windowSite win).elim (win == winCtrl) s.live) = true →
      readReg s win (off + 0x800000) =
          BitVec.ofNat 32 ((s.set? m.set).staged.getD m.index 0 / 2 ^ m.low) ∧
        regWrite win (off + 0x800000) v s = regWrite win off v s

/-- O25. Where the host may write a member of a published set: STAGED_WRITE of a member other than the closing field puts the value's defined bits into its staged value, notes that it was written after a closing write if one is outstanding, and changes nothing else, no live value among them. CLOSING_FIELD_WRITE puts the value into the closing field and captures the staged value of every member. Each changes nothing at the other kind of member. (R60; R61; 02_windrose_structure_image.md Table 02.10) -/
def Obligations.SetWrites : Prop :=
  ∀ (s : State) (b win off : Nat) (v : Word) (m : Member),
    b < 4 → s.grants b win off true → s.memberOf win off = some m →
    let put := fun (old : Nat) => old - old / 2 ^ m.low % 2 ^ 32 * 2 ^ m.low + (v.toNat &&& m.mask) * 2 ^ m.low
    (m.closing = false →
      exec (.closingFieldWrite b win off v) s = .next s ∧
      exec (.stagedWrite b win off v) s = .next (s.modSet m.set fun u =>
        { u with
          staged := u.staged.set m.index (put (u.staged.getD m.index 0))
          after := if u.captured.isSome then u.after.set m.index true else u.after })) ∧
    (m.closing = true →
      exec (.stagedWrite b win off v) s = .next s ∧
      exec (.closingFieldWrite b win off v) s = .next (s.modSet m.set fun u =>
        let staged := u.staged.set (u.staged.length - 1) (put (u.staged.getD m.index 0))
        { u with staged, captured := some staged, after := u.after.map fun _ => false }))

/-- O26. Where the host may make the access: bit 0 of HUB_CACHE_CTRL leaves no line of the hub's cache dirty, shows the write-back, and changes no other hub and no die; without bit 0 nothing changes. SCRUB_PASS_START starts a pass over the span in the base and length registers, its counts 0, unless one runs or the length is 0. SCRUB_PASS_STOP ends the pass. A write of the retire table that clears valid empties the entry and drops the cached lines whose place that changes (the model's reading, log entry 88); one that sets valid while the partition's stream runs leaves the table as it was and counts a refusal. Reading HUB_NARROW_DEPTH sets its high-water field to the present occupancy. Nothing else changes. (R280; R300; R304; 11_memory_system.md Table 11.7; 12_line_checks_and_memory_faults.md Table 12.6) -/
def Obligations.HubRegisters : Prop :=
  ∀ (s : State) (b h : Nat), b < 4 → h < 32 → h < s.hubs.length →
    let c := (s.hub h).chk
    let kept := fun (t : State) => (s.hub h).mem.cache.filter fun x =>
      (t.hub h).place (64 * x.line) == (s.hub h).place (64 * x.line)
    (∀ v : Word, s.grants b (winHub h) 0x2001C true →
      ∃ t, exec (.hubCacheCtrl b h v) s = .next t ∧ (v.getLsbD 0 = false → t = s) ∧
        (v.getLsbD 0 = true →
          ((t.hub h).mem.cache.all fun x => !x.dirty) = true ∧ (t.hub h).mem.writingBack = true ∧
          (t.hub h).red = (s.hub h).red ∧ (∀ k, k ≠ h → t.hub k = s.hub k) ∧ t.cds = s.cds ∧ t.uds = s.uds ∧
          t.parts = s.parts ∧ t.ports = s.ports)) ∧
    (s.grants b (winHub h) 0x30024 true →
      exec (.scrubPassStart b h) s = .next (s.modChk h fun q =>
        if c.scrRunning || c.scrLines == 0 then q
        else { q with scrRunning := true, scrSpan := (c.scrBase, c.scrLines), scrDone := 0, scrFound := 0 }) ∧
      exec (.scrubPassStop b h) s = .next (s.modChk h fun q => { q with scrRunning := false })) ∧
    (∀ (i : Nat) (v : Word), i < 4096 → s.grants b (winHub h) (0x38000 + 8 * i) true → c.retPending = none →
      (v.getLsbD 31 = false → ∃ t, exec (.retTableWrite b h i v) s = .next t ∧ t = { s with hubs := t.hubs } ∧
        (∀ k, k ≠ h → t.hub k = s.hub k) ∧ t.hub h = { s.hub h with
          chk := { c with ret := place c.ret i {} { q := field v 30 26, granule := field v 20 0 } }
          mem := { (s.hub h).mem with cache := kept t } }) ∧
      (v.getLsbD 31 = true → ∀ p, s.partOfHub h = some p →
        (s.part p).stream.state = 1 ∨ (s.part p).stream.state = 2 ∨ (s.part p).stream.state = 3 →
        exec (.retTableWrite b h i v) s = .next (s.modChk h fun q =>
          { q with retRefused := min (q.retRefused + 1) 0xFFFFFFFF }))) ∧
    (s.grants b (winHub h) 0x20048 false →
      exec (.hubNarrowDepthRead b h) s = .next (s.modMem h fun m => { m with highWater := m.queue.length }))

/-- O27. With the memories in canonical form: where the host may write the entry and no other is being put in force, a valid target that lies outside the spare area, in a channel in use, named by no other valid entry, with no reserved bit set and no running stream, empties the entry and makes it the one being put in force, with the lowest-numbered free spare granule of its pseudo-channel. RETIRE_ENTRY_IN_FORCE then writes the spare's 2048 bytes as zeros, makes the entry valid, drops the cached lines whose place that changes (the model's reading, log entry 88), and leaves every other byte of the stack as it was; with no entry being put in force it changes nothing. (R298; R300; R301) -/
def Obligations.RetireTakesEffect : Prop :=
  ∀ (s : State) (h : Nat), h < 32 → h < s.hubs.length → s.memWf = true →
    let c := (s.hub h).chk
    let kept := fun (t : State) => (s.hub h).mem.cache.filter fun x =>
      (t.hub h).place (64 * x.line) == (s.hub h).place (64 * x.line)
    (∀ (b i : Nat) (v : Word) (sp : Nat), b < 4 → i < 4096 → s.grants b (winHub h) (0x38000 + 8 * i) true →
      c.retPending = none → v.getLsbD 31 = true → field v 25 21 = 0 →
      let q := field v 30 26
      let j := field v 20 0
      let use := (s.hub h).mem.chanUse
      let others := c.ret.filter fun e => e.1 != i
      (∀ p, s.partOfHub h = some p → (s.part p).stream.running = false) → j < 1179648 → use.getLsbD (q / 2) = true →
      inSpare use q j = false → (∀ e ∈ others, ¬ (e.2.valid = true ∧ e.2.q = q ∧ e.2.granule = j)) →
      freeSpare use others q = some sp →
      ∃ t, exec (.retTableWrite b h i v) s = .next t ∧ t = { s with hubs := t.hubs } ∧
        (∀ k, k ≠ h → t.hub k = s.hub k) ∧ t.hub h = { s.hub h with
          chk := { c with
            ret := place c.ret i {} { q, granule := j }
            retPending := some (i, { spare := sp, valid := true, q, granule := j }) }
          mem := { (s.hub h).mem with cache := kept t } }) ∧
    (c.retPending = none → exec (.retireEntryInForce h) s = .next s) ∧
    ∀ i e, c.retPending = some (i, e) →
      let first := (e.q * 1179648 + e.spare) * 2048
      ∃ t, exec (.retireEntryInForce h) s = .next t ∧ (t.hub h).chk.ret = place c.ret i {} e ∧
        (t.hub h).chk.retPending = none ∧
        (t.hub h).mem.cache = kept t ∧
        (∀ a, first ≤ a → a < first + 2048 → look (t.hub h).mem.stack.bytes a 0 = 0) ∧
        (∀ a, a < first ∨ first + 2048 ≤ a →
          look (t.hub h).mem.stack.bytes a 0 = look (s.hub h).mem.stack.bytes a 0) ∧
        (∀ k, k ≠ h → t.hub k = s.hub k) ∧ t = { s with hubs := t.hubs }

/-- O28. Where the host may write the register: bit 0 of WR_ABORT withdraws a pending image, so that its loader block has none and no pending tick, and without bit 0, or with no image pending, nothing changes. Bit 0 of MT_ANCHOR_SET makes the staged pair of module time and UTC the anchor in force and valid; without it nothing changes. Bit 0 of LB_SNAP_CMD begins a snapshot that holds the lifetime counters, unless one was taken by this register within the last 60 s of module time or the flash has failed. (R52; R72; R477; R479) -/
def Obligations.ControlRegisters : Prop :=
  ∀ (s : State) (b : Nat) (v : Word), b < 4 → s.whole = true →
    (∀ p < 4, s.grants b winCtrl (0x10050 + 0x100 * p) true →
      ∃ t, exec (.wrAbort b (.part p) v) s = .next t ∧
        ((v.getLsbD 0 = false ∨ (s.part p).pendingImg = none) → t = s) ∧
        (v.getLsbD 0 = true → (t.part p).pendingImg = none ∧ t = { s with parts := t.parts } ∧
          (t.part p).active = (s.part p).active ∧ ∀ k, k ≠ p → t.part k = s.part k) ∧
        (v.getLsbD 0 = true → (s.part p).pendingImg ≠ none → (t.part p).loader.pendingTick = 0 ∧
          (t.part p).loader.state = if (s.part p).active.isSome then 4 else 0)) ∧
    (s.grants b winCtrl 0x10450 true →
      ∃ t, exec (.wrAbort b .frame v) s = .next t ∧
        ((v.getLsbD 0 = false ∨ s.ctrl.pendingFrame = none) → t = s) ∧
        (v.getLsbD 0 = true → t.ctrl.pendingFrame = none ∧ t = { s with ctrl := t.ctrl })) ∧
    (s.grants b winCtrl 0x20418 true →
      ∃ t, exec (.mtAnchorSet b v) s = .next t ∧ (v.getLsbD 0 = false → t = s) ∧
        (v.getLsbD 0 = true → t = { s with ctrl := t.ctrl } ∧ t.ctrl.clock = { s.ctrl.clock with
          baseMt := s.ctrl.clock.anchorMt, baseUtc := s.ctrl.clock.anchorUtc, anchored := true })) ∧
    (s.grants b winCtrl 0x5001C true →
      ∃ t, exec (.lbSnapCmd b v) s = .next t ∧
        let due := v.getLsbD 0 = true ∧ ∀ was, s.ctrl.log.lastSnapCmd = some was → was + 60000000000 ≤ s.now
        (¬ due → t = s) ∧
        (due → t = { s with ctrl := { s.ctrl with log := t.ctrl.log } } ∧ t.ctrl.log.lastSnapCmd = some s.now ∧
          (s.ctrl.log.flashFault = false → ∃ w, t.ctrl.log.writing = some w ∧
            w.counters = s.ctrl.log.live ∧ w.time = s.now ∧ w.number = s.ctrl.log.snapNext)))

/-- O29. With the tables in canonical form, where the host may write the window: with the partition's stream idle, ended or abandoned, CVE_TABLE_WRITE at an offset within the table leaves the entry as its bytes with that word replaced read back (head modulo 24, filled at most 24), every other entry and the rest of the module as they were; while the stream runs, or at an offset past the table, it changes nothing. (R192; R195; 07_engine_zoo.md Table 07.7) -/
def Obligations.CveTableWrites : Prop :=
  ∀ (s : State) (b d off p : Nat) (v : Word), s.tablesWf = true → b < 4 → d < 16 → d < s.cds.length → s.partOfCd d = some p →
    s.grants b (winCd d) (0x200000 + off / 4 * 4) true →
    let st := (s.part p).stream.state
    let e := off / 0x80
    let old := (s.cd d).eng.cve
    (0x80000 ≤ off ∨ (st ≠ 0 ∧ st ≠ 4 ∧ st ≠ 5) → exec (.cveTableWrite b d off v) s = .next s) ∧
    (off < 0x80000 → st = 0 ∨ st = 4 ∨ st = 5 →
      ∃ t, exec (.cveTableWrite b d off v) s = .next t ∧
        (t.cd d).eng.cve.entry e =
          CveEntry.ofBytes (patch (old.entry e).bytes (off % 0x80 / 4 * 4) (leBytes 4 v.toNat)) ∧
        (∀ k, k ≠ e → (t.cd d).eng.cve.entry k = old.entry k) ∧ dieOnly d s t ∧
        t.cd d = { s.cd d with eng := { (s.cd d).eng with cve := { old with table := (t.cd d).eng.cve.table } } })

/-- O30. A dark fabric or Baith port that may emit begins to probe at PORT_DARK_EXPIRY; a probing port that serves (a fabric port is allotted, and its light engine neither absent, failed nor cut out) counts a pulse at PROBE_PULSE, and LIGHT_SEEN on some lane lights it: a lit fabric port's transmit lanes start their frame count again, and each receive lane that sees light, was dark and has a ring that did not fail begins to acquire. LOSS_OF_LIGHT takes a lit or up fabric port dark: no lane in service, every receive lane dark or failed, its peer status unknown; an up port counts a port down and empties its buffers, and lanes lost together raise the peer dark alert bit. A lit or up Baith port goes dark. In any other light state each changes nothing. (R313; R329; R330; R451; 13_nurok_links.md Table 13.5; 18_startup_reset_boundary.md Table 18.9) -/
def Obligations.PortLight : Prop :=
  ∀ (s : State), s.whole = true →
    (∀ n < 128,
      let l := (s.port n).link
      exec (.portDarkExpiry (.fabric n)) s = .next (s.modLink n fun k =>
        if l.light = 0 && s.mayLight n then { k with light := 1 } else k) ∧
      exec (.probePulse (.fabric n)) s = .next (s.modLink n fun k =>
        if l.light = 1 && s.portServes n then { k with probes := k.probes + 1 } else k) ∧
      (∀ lanes : Byte, (l.light ≠ 1 ∨ lanes = 0 ∨ s.portServes n = false → exec (.lightSeen (.fabric n) lanes) s = .next s) ∧
        (l.light = 1 → lanes ≠ 0 → s.portServes n = true → ∃ t, exec (.lightSeen (.fabric n) lanes) s = .next t ∧
          t = { s with ports := t.ports } ∧ (∀ k, k ≠ n → t.port k = s.port k) ∧
          (t.port n).link = { l with light := 2 } ∧ (∀ x ∈ (t.port n).tx, x.frame = 0) ∧
          ∀ i < 8, (t.port n).rx[i]? = ((s.port n).rx[i]?).map fun x =>
            if lanes.getLsbD i && x.state == 0 && ((s.port n).rings.getD (8 + i) {}).state != 6 then
              { x with state := 1, tries := 0, positions := 0, lostAt := none } else x)) ∧
      ∀ together : Bool, (l.light < 2 → exec (.lossOfLight (.fabric n) together) s = .next s) ∧
        (2 ≤ l.light → ∃ t, exec (.lossOfLight (.fabric n) together) s = .next t ∧ (t.port n).link.light = 0 ∧
          (∀ x ∈ (t.port n).tx, x.inService = false) ∧ (∀ x ∈ (t.port n).rx, x.state = 0 ∨ x.state = 5) ∧
          (t.port n).arb.peer = 0 ∧
          (l.light = 3 → (t.port n).link.downs = min (l.downs + 1) 0xFFFFFFFF ∧ (t.port n).link.buffer = [] ∧
            (t.port n).link.held = []) ∧
          (l.light ≠ 3 → (t.port n).link.downs = l.downs) ∧
          (together = true → t.ctrl.module.alert.testBit 3 = true) ∧ diesSame s t ∧ linksSame n s t)) ∧
    ∀ b < 4,
      let q := s.bp b
      exec (.portDarkExpiry (.baith b)) s = .next (s.modBp b fun k =>
        if q.light = 0 && s.baithMayLight b then { k with light := 1 } else k) ∧
      exec (.probePulse (.baith b)) s = .next (s.modBp b fun k =>
        if q.light = 1 then { k with probes := k.probes + 1 } else k) ∧
      (∀ lanes : Byte, exec (.lightSeen (.baith b) lanes) s = .next (s.modBp b fun k =>
        if q.light = 1 && lanes != 0 then { k with light := 2, sentBlock := false, gotBlock := false } else k)) ∧
      ∀ together : Bool, exec (.lossOfLight (.baith b) together) s = .next (s.modBp b fun k =>
        if 2 ≤ q.light then { k with light := 0, silent := false } else k)

/-- O31. LANE_ACQUIRE_TIMEOUT of an acquiring lane counts a try, and the fifth fails the lane with a record in the error log. LANE_LIGHT_LOSS on a lit port makes a lane that is neither dark nor failed dark, a lane in service being withdrawn with cause 7 and counted. LANE_LIGHT_RETURN after a gap of 50 µs or more starts a dark lane acquiring unless its ring failed; after a shorter gap it changes nothing. LANE_ALIGNMENT_LOST takes an aligned, serving or withdrawn lane back to acquiring. Other lanes and ports keep their states. (R331; R334; R335; R346; R354; 13_nurok_links.md Table 13.6) -/
def Obligations.LaneStates : Prop :=
  ∀ (s : State) (n i : Nat) (x : RxLane), s.whole = true → n < 128 → i < 8 → (s.port n).rx[i]? = some x →
    let same := fun (t : State) => diesSame s t ∧ linksSame n s t ∧
      ∀ k, k ≠ i → (t.port n).rx[k]? = (s.port n).rx[k]?
    (x.state ≠ 1 → exec (.laneAcquireTimeout n i) s = .next s) ∧
    (x.state = 1 → x.tries < 4 → exec (.laneAcquireTimeout n i) s =
      .next (s.modRx n i fun y => { y with tries := y.tries + 1, positions := 0 })) ∧
    (x.state = 1 → 4 ≤ x.tries → ∃ t, exec (.laneAcquireTimeout n i) s = .next t ∧ same t ∧
      (t.port n).rx[i]? = some { x with state := 5, tries := 5, positions := 0 } ∧
      t.ctrl.log.errors.count = min (s.ctrl.log.errors.count + 1) 0xFFFFFFFF ∧ t.parts = s.parts) ∧
    ((s.port n).link.light < 2 ∨ x.state = 0 ∨ 5 ≤ x.state → exec (.laneLightLoss n i) s = .next s) ∧
    (2 ≤ (s.port n).link.light → 1 ≤ x.state → x.state ≤ 4 →
      ∃ t, exec (.laneLightLoss n i) s = .next t ∧ same t ∧
        (t.port n).rx[i]? = some { x with
          state := 0, cause := if x.state = 3 then 7 else x.cause, asked := x.asked || x.state == 3
          hist := [], runCorrected := 0, positions := 0, tries := 0
          lostAt := if x.state = 3 then some s.now else none } ∧
        (t.port n).link = { (s.port n).link with
          withdraws := if x.state = 3 then min ((s.port n).link.withdraws + 1) 0xFFFFFFFF
            else (s.port n).link.withdraws }) ∧
    exec (.laneLightReturn n i true) s = .next s ∧
    (2 ≤ (s.port n).link.light → exec (.laneLightReturn n i false) s = .next (s.modRx n i fun y =>
      if x.state = 0 && ((s.port n).rings.getD (8 + i) {}).state != 6 then
        { y with state := 1, tries := 0, positions := 0, lostAt := none } else y)) ∧
    exec (.laneAlignmentLost n i) s = .next (if x.state = 2 ∨ x.state = 3 ∨ x.state = 4 then
      s.modRx n i fun y =>
        { y with
          asked := y.asked || y.state == 3, state := 1, hist := [], runCorrected := 0, positions := 0, tries := 0 }
      else s)

/-- O32. FRAME_SEND on a lane that does not emit changes nothing. On one that emits it sends one frame, scrambled and encoded as levels from the lane's scrambler (log entry 122), and counts it modulo 1024: at count 0 an identity frame, which begins with the alignment pattern; otherwise on a port that is not up or a lane not in service a link-only frame (kind 2, map all ones, sequence 0); otherwise, if a frame of the replay buffer is called for again, the first such frame with its own sequence, counting a replay and one more resend of it; otherwise, with a holder and fewer than 256 frames in the buffer, a new frame with the next sequence, which joins the buffer; otherwise a link-only frame. Dies and stacks stay as they are. (R314; R315; R316; R318; R322; R324; R320) -/
def Obligations.FramesLeave : Prop :=
  ∀ (s : State) (n i p : Nat), s.whole = true → n < 128 → i < 8 → s.partOfPort n = some p →
    let q := s.port n
    let x := q.tx.getD i {}
    let serving := x.inService && q.link.light == 3
    let sent := fun (t : State) (kind : List Byte → Prop) =>
      (∃ b, (t.port n).link.lastSent = some (i, b) ∧ kind b ∧
        let line := encodeFrame (x.frame == 0) x.scr b
        (t.port n).link.lastLine = line.1 ∧ ((t.port n).tx.getD i {}).scr = line.2) ∧ diesSame s t ∧ t.ctrl = s.ctrl ∧ t.baith = s.baith ∧
        ((t.port n).tx.getD i {}).frame = (x.frame + 1) % 1024
    (s.txLit n i = false → exec (.frameSend n i) s = .next s) ∧
    (s.txLit n i = true →
      ∃ t, exec (.frameSend n i) s = .next t ∧
        (x.frame = 0 → sent t (fun b => b.take 16 = alignPattern) ∧ (t.port n).link.txSeq = q.link.txSeq ∧
          (t.port n).link.buffer = q.link.buffer) ∧
        (x.frame ≠ 0 → serving = false →
          sent t (fun b => leAt b 0 4 = 2 * 2 ^ 30 + 1023 * 2 ^ 20) ∧ (t.port n).link.txSeq = q.link.txSeq ∧
            (t.port n).link.buffer = q.link.buffer) ∧
        (x.frame ≠ 0 → serving = true → ∀ f, q.link.buffer.find? (·.again) = some f →
          sent t (fun b => leAt b 0 4 % 2 ^ 20 = f.seq % 2 ^ 20) ∧ (t.port n).link.txSeq = q.link.txSeq ∧
            (t.port n).link.replays = min (q.link.replays + 1) 0xFFFFFFFF ∧
            (t.port n).link.buffer = q.link.buffer.map fun y =>
              if y.seq = f.seq then { y with resends := y.resends + 1, again := false, sent := q.link.sends } else y) ∧
        (x.frame ≠ 0 → serving = true → q.link.buffer.find? (·.again) = none →
          (q.link.buffer.length < 256 → q.arb.holder.isSome = true →
            sent t (fun b => leAt b 0 4 % 2 ^ 20 = q.link.txSeq % 2 ^ 20) ∧
              (t.port n).link.txSeq = (q.link.txSeq + 1) % 2 ^ 20 ∧
              ∃ f, (t.port n).link.buffer = q.link.buffer ++ [f] ∧ f.seq = q.link.txSeq ∧ f.resends = 0 ∧
                f.sent = q.link.sends) ∧
          (256 ≤ q.link.buffer.length ∨ q.arb.holder = none →
            sent t (fun b => leAt b 0 4 = 2 * 2 ^ 30 + 1023 * 2 ^ 20) ∧ (t.port n).link.txSeq = q.link.txSeq ∧
              (t.port n).link.buffer = q.link.buffer)))

/-- O33. LINK_REPORT_SEND on a lit or up port queues a 256-byte LINK flit with the lanes in service and the last sequence delivered, and clears the missing sequences it carried. NAK_TIMER on an up port with a frame held names the first eight of the sequences missing below the highest held that it has not named yet, or of all of them once it has named them all. REPLAY_TIMEOUT calls the frame that was last sent longest ago, of those not yet called, again. TIME_REQUEST_SEND sends a request with the next serial on an up time source port; TIME_RESPONSE_SEND answers the oldest request with its serial and two times. PORT_DOWN takes an up port without a lane in service one way (cause 1), or with a frame resent eight times (cause 2), to lit with empty buffers, and changes nothing otherwise. (R323; R324; R325; R337; 13_nurok_links.md Table 13.2) -/
def Obligations.ReportsAndTimers : Prop :=
  ∀ (s : State) (n : Nat), s.whole = true → n < 128 →
    let q := s.port n
    let l := q.link
    (l.light < 2 → exec (.linkReportSend n) s = .next s) ∧
    (2 ≤ l.light → ∃ b, exec (.linkReportSend n) s =
        .next (s.modLink n fun k => { k with control := k.control ++ [b], naks := [] }) ∧
      b.length = 256 ∧ leAt b 0 1 = 2 ∧ leAt b 1 1 = q.rxService ∧ leAt b 2 1 = q.withdrawReq ∧
      leAt b 3 1 = q.txDone ∧ leAt b 4 4 = (l.rxSeq + 2 ^ 20 - 1) % 2 ^ 20 ∧ leAt b 8 1 = min 8 l.naks.length) ∧
    (l.light = 3 → l.held ≠ [] → l.rxSeq < 2 ^ 20 →
      let dist := fun (v : Nat) => (v + 2 ^ 20 - l.rxSeq) % 2 ^ 20
      let missing := fun (v : Nat) => (∀ x ∈ l.held, x.seq % 2 ^ 20 ≠ v) ∧ ∃ x ∈ l.held, dist v < dist x.seq
      (∀ x ∈ l.held, 0 < dist x.seq) →
      let next := fun (v : Nat) => missing v ∧ ((∃ e < 2 ^ 20, missing e ∧ e ∉ l.named) → v ∉ l.named)
      ∃ v w, exec (.nakTimer n) s = .next (s.modLink n fun k => { k with naks := v, named := w }) ∧
        v ≠ [] ∧ v.length ≤ 8 ∧ (∀ a ∈ v, a < 2 ^ 20 ∧ next a ∧ a ∈ w) ∧ (∀ a ∈ w, a ∈ v ∨ a ∈ l.named) ∧
        ∀ a < 2 ^ 20, next a → a ∈ v ∨ (v.length = 8 ∧ ∀ e ∈ v, dist e < dist a)) ∧
    (l.light ≠ 3 ∨ l.held = [] → exec (.nakTimer n) s = .next s) ∧
    ((l.buffer.all (·.again)) = true → exec (.replayTimeout n) s = .next s) ∧
    ((l.buffer.all (·.again)) = false →
      ∃ f ∈ l.buffer, f.again = false ∧ (∀ g ∈ l.buffer, g.again = false → f.sent ≤ g.sent) ∧
        exec (.replayTimeout n) s = .next (s.modLink n fun k =>
          { k with buffer := k.buffer.map fun y => if y.seq = f.seq then { y with again := true } else y })) ∧
    (∀ p < 4, (s.part p).timePort = some n → l.light = 3 →
      ∃ b, exec (.timeRequestSend p) s = .next (s.modLink n fun k =>
          { k with time := { k.time with serial := (k.time.serial + 1) % 2 ^ 16 }, control := k.control ++ [b] }) ∧
        b.length = 256 ∧ leAt b 0 2 = 3 ∧ leAt b 2 2 = (l.time.serial + 1) % 2 ^ 16) ∧
    (l.time.toAnswer = [] → exec (.timeResponseSend n) s = .next s) ∧
    (∀ serial t1 t2 rest, l.time.toAnswer = (serial, t1, t2) :: rest → l.light = 3 →
      ∃ b, exec (.timeResponseSend n) s = .next (s.modLink n fun k =>
          { k with time := { k.time with toAnswer := rest }, control := k.control ++ [b] }) ∧
        b.length = 256 ∧ leAt b 0 2 = 3 + 256 ∧ leAt b 2 2 = serial % 2 ^ 16 ∧ leAt b 0x10 8 = t1 % 2 ^ 64 ∧
        leAt b 0x18 8 = t2 % 2 ^ 64) ∧
    (let out := q.txService = 0 ∨ q.rxService = 0
     let tired := ∃ f ∈ l.buffer, 8 ≤ f.resends
     (l.light ≠ 3 ∨ (¬ out ∧ ¬ tired) → exec (.portDown n) s = .next s) ∧
     (l.light = 3 → out ∨ tired →
        ∃ t, exec (.portDown n) s = .next t ∧ (t.port n).link = { l with
            light := 2, buffer := [], held := [], naks := [], named := [], control := [], current := none
            downs := min (l.downs + 1) 0xFFFFFFFF, time := {} } ∧
          (t.port n).arb.requests = [] ∧ (t.port n).arb.holder = none ∧ (t.port n).rx = q.rx ∧ (t.port n).tx = q.tx ∧
          t.ctrl.log.errors.count = min (s.ctrl.log.errors.count + 1) 0xFFFFFFFF ∧
          diesSame s t ∧ linksSame n s t))

/-- O34. A whole frame on the line of a lit lane that reads frames is decoded from its levels and descrambled, and FRAME_RECEIVE and LINK_ONLY_FRAME_RECEIVE answer a next state. One with an uncorrectable codeword or a wrong CRC is dropped and counted, and neither the sequence, the buffers nor the far masks change. A good sequenced frame without control flits, on an up port and a serving lane: outside the window of 256 or already held it is counted as a duplicate; ahead of its turn, with nothing held at the turn, it is held. A good link-only frame whose first flit is a LINK flit and whose others are not control flits, on an up port, sets the far service and done masks, holds cause 1 on exactly the transmit lanes asked for, drops frames from the replay buffer only, and calls the frames it names again. On a dark or probing port nothing changes. (R314; R315; R317; R319; R322; R323; R324; R333; R334) -/
def Obligations.FramesArrive : Prop :=
  ∀ (s : State) (n i p : Nat) (sent : List Byte) (scr : Nat) (noise : List (Nat × Byte)), s.whole = true → n < 128 →
    i < 8 → s.partOfPort n = some p →
    let line := arriving false sent scr noise
    line.length = 2720 →
    let l := (s.port n).link
    let x := (s.port n).rx.getD i {}
    let y := decodeFrame false x.descr line
    let b := y.bytes
    let w := leAt b 0 4
    let ok := (crc32c (slice b 0 6 ++ b.drop 10)).toNat = leAt b 6 4
    let good := y.uncorrectable = 0 ∧ ok
    let serving := x.state = 3 ∧ x.uncorrMs ≤ 16 ∧ l.light = 3
    (l.light < 2 → exec (.frameReceive n i sent scr noise) s = .next s ∧ exec (.linkOnlyFrameReceive n i sent scr noise) s = .next s) ∧
    (2 ≤ l.light → x.reads = true →
      (¬ good →
        ∃ t, exec (.frameReceive n i sent scr noise) s = .next t ∧ exec (.linkOnlyFrameReceive n i sent scr noise) s = .next t ∧
          t.ctrl.module = s.ctrl.module ∧ (t.port n).link = { l with
            crcDrop := min (l.crcDrop + 1) 0xFFFFFFFF, withdraws := (t.port n).link.withdraws } ∧
          ((t.port n).rx.getD i {}).descr = y.state ∧ t.parts = s.parts ∧ diesSame s t ∧ linksSame n s t) ∧
      (good → w / 2 ^ 20 = 0 → serving →
        let d := (w % 2 ^ 20 + 2 ^ 20 - l.rxSeq) % 2 ^ 20
        (256 ≤ d ∨ (∃ x ∈ l.held, x.seq = w % 2 ^ 20) →
          ∃ t, exec (.frameReceive n i sent scr noise) s = .next t ∧ (t.port n).link = { l with
              dupDrop := min (l.dupDrop + 1) 0xFFFFFFFF } ∧ t.parts = s.parts ∧ diesSame s t) ∧
        (0 < d → d < 256 → l.rxSeq < 2 ^ 20 → (∀ x ∈ l.held, x.seq ≠ w % 2 ^ 20 ∧ x.seq ≠ l.rxSeq) →
          ∃ t x, exec (.frameReceive n i sent scr noise) s = .next t ∧ (t.port n).link = { l with held := l.held ++ [x] } ∧
            x.seq = w % 2 ^ 20 ∧ x.epoch = leAt b 4 2 ∧ x.flits = (List.range 10).map (fun k => slice b (10 + 256 * k) 256) ∧
            t.parts = s.parts ∧ diesSame s t)) ∧
      (good → w / 2 ^ 30 = 2 → w / 2 ^ 20 % 1024 = 1 → leAt b 10 1 = 2 → serving →
        ∃ t, exec (.linkOnlyFrameReceive n i sent scr noise) s = .next t ∧
          (t.port n).link.farService.toNat = leAt b 11 1 ∧ (t.port n).link.farDone.toNat = leAt b 13 1 ∧
          (∀ k < 8, ((t.port n).tx.getD k {}).causes.testBit 1 = (leAt b 12 1).testBit k) ∧
          (∀ f ∈ (t.port n).link.buffer, ∃ g ∈ l.buffer, g.seq = f.seq ∧ g.flits = f.flits ∧
            f.again = (g.again || (List.range (min 8 (leAt b 18 1))).any fun j => leAt b (22 + 4 * j) 4 % 2 ^ 20 == f.seq)) ∧
          (t.port n).link.rxSeq = l.rxSeq ∧ (t.port n).link.held = l.held ∧ diesSame s t))

/-- O35. On a lit port IDENTITY_FRAME_RECEIVE decodes a whole frame from its levels. An acquiring lane that meets the pattern at its place counts it, and the second one aligns the lane; without the pattern the count starts again. On an aligned or withdrawn lane of a port that has adopted the far shift, a good identity frame that names the lane and its ring's line counts toward qualification: the 64th in a row, with no cause held and at most 65536 corrected symbols in the span of the last 64, puts the lane in service and counts an admission; otherwise the last 64 spans are kept. A frame that fails its CRC or has an uncorrectable codeword starts the run again and is counted as dropped, and so, uncounted, does one of another kind. One that names another lane counts a wrong identity. A lane that reads nothing only descrambles. (R315; R316; R320; R328; R332; R335; R352) -/
def Obligations.IdentityFrames : Prop :=
  ∀ (s : State) (n i : Nat) (x : RxLane) (sent : List Byte) (scr : Nat) (noise : List (Nat × Byte)), s.whole = true →
    n < 128 → i < 8 → (s.port n).rx[i]? = some x → 2 ≤ (s.port n).link.light →
    let line := arriving true sent scr noise
    line.length = 2720 →
    let y := decodeFrame true x.descr line
    let b := y.bytes
    let good := y.uncorrectable = 0 ∧ (crc32c (slice b 16 6 ++ b.drop 26)).toNat = leAt b 22 4 ∧
      b.take 16 = alignPattern
    let kind := leAt b 16 4 / 2 ^ 30
    let mine := leAt b 29 1 = i ∧ leAt b 30 1 = ((s.port n).rings.getD (8 + i) {}).line
    let lane := fun (t : State) => (t.port n).rx.getD i {}
    let spans := (x.runCorrected + y.corrected) :: x.hist
    (x.state = 1 → exec (.identityFrameReceive n i sent scr noise) s = .next (s.modRx n i fun z =>
      if b.take 16 = alignPattern then
        if z.positions = 0 then { z with descr := y.state, positions := 1 }
        else { z with descr := y.state, state := 2, positions := 0, tries := 0, hist := [], runCorrected := 0 }
      else { z with descr := y.state, positions := 0 })) ∧
    (x.state = 0 ∨ 5 ≤ x.state →
      exec (.identityFrameReceive n i sent scr noise) s = .next (s.modRx n i fun z => { z with descr := y.state })) ∧
    (x.state = 2 ∨ x.state = 4 →
      (¬ good → ∃ t, exec (.identityFrameReceive n i sent scr noise) s = .next t ∧ (lane t).hist = [] ∧
        (lane t).state = x.state ∧ (t.port n).link = { (s.port n).link with
          crcDrop := min ((s.port n).link.crcDrop + 1) 0xFFFFFFFF } ∧ diesSame s t ∧ linksSame n s t) ∧
      (good → kind ≠ 1 → ∃ t, exec (.identityFrameReceive n i sent scr noise) s = .next t ∧ (lane t).hist = [] ∧
        (lane t).state = x.state ∧ (t.port n).link = (s.port n).link ∧ diesSame s t ∧ linksSame n s t) ∧
      (good → kind = 1 → mine → (s.port n).adopted = true →
        ∃ t, exec (.identityFrameReceive n i sent scr noise) s = .next t ∧ diesSame s t ∧ linksSame n s t ∧
          (t.port n).link.far = some (leAt b 26 2, leAt b 28 1 % 128) ∧ (t.port n).link.epochFar = leAt b 20 2 ∧
          (lane t).lastWave = leAt b 30 1 % 16 ∧
          (spans.length < 64 ∨ x.causes ≠ 0 ∨ 65536 < (spans.take 64).sum →
            (lane t).state = x.state ∧ (lane t).hist = spans.take 64) ∧
          (64 ≤ spans.length → x.causes = 0 → (spans.take 64).sum ≤ 65536 →
            (lane t).state = 3 ∧ (lane t).admits = min (x.admits + 1) 0xFFFFFFFF)) ∧
      (good → kind = 1 → leAt b 29 1 ≠ i → ∃ t, exec (.identityFrameReceive n i sent scr noise) s = .next t ∧
        (lane t).idBad = min (x.idBad + 1) 0xFFFFFFFF ∧ (lane t).state = x.state ∧ diesSame s t))

/-- O36. Where the host may write the register: bit 0 of LK_CMD takes the port dark and starts its ring search again, every receive lane dark and every ring searching; without bit 0 nothing changes. LK_CTRL keeps bit 0 of the value, and with it set the port is dark. LK_LANE_HOLD keeps the low 16 bits; a lane newly named holds cause 6 and is out of service, one no longer named loses cause 6, and every other lane's cause 6 is as it was. A lane's last cause may change. LE_SWAP_CMD with bit 8 queues a swap of the line in its low 4 bits if a laser serves it and no swap of it waits, and changes nothing otherwise. (R329; R334; R343; R359; 13_nurok_links.md Table 13.9) -/
def Obligations.PortControl : Prop :=
  ∀ (s : State) (b n : Nat) (v : Word), s.whole = true → b < 4 → n < 128 →
    (s.grants b (winLe (n / 16)) (portOff n 0x08) true → ∃ t, exec (.lkCmd b n v) s = .next t ∧
      (v.getLsbD 0 = false → t = s) ∧
      (v.getLsbD 0 = true → (t.port n).link.light = 0 ∧ (t.port n).link.searching = true ∧
        (∀ x ∈ (t.port n).rx, x.state = 0) ∧ (∀ r ∈ (t.port n).rings, r.state = 1) ∧
        (∀ x ∈ (t.port n).tx, x.inService = false) ∧ diesSame s t ∧ linksSame n s t)) ∧
    (s.grants b (winLe (n / 16)) (portOff n 0x04) true → ∃ t, exec (.lkCtrl b n v) s = .next t ∧
      (t.port n).link.ctrl = v &&& 1 ∧ (v.getLsbD 0 = true → (t.port n).link.light = 0) ∧
      (v.getLsbD 0 = false → t = s.modLink n fun k => { k with ctrl := 0 }) ∧ diesSame s t ∧ linksSame n s t) ∧
    (s.grants b (winLe (n / 16)) (portOff n 0x0C) true → ∃ t, exec (.lkLaneHold b n v) s = .next t ∧
      (t.port n).link.laneHold = v &&& 0xFFFF ∧ diesSame s t ∧ linksSame n s t ∧
      let old := (s.port n).link.laneHold
      ∀ i < 8, ∀ x y xt yt, (s.port n).tx[i]? = some x → (s.port n).rx[i]? = some y →
        (t.port n).tx[i]? = some xt → (t.port n).rx[i]? = some yt →
        (v.getLsbD i = true → old.getLsbD i = false → xt.causes.testBit 6 = true ∧ xt.inService = false) ∧
        (v.getLsbD i = false → old.getLsbD i = true → xt.causes.testBit 6 = false) ∧
        (v.getLsbD i = old.getLsbD i → xt.causes = x.causes) ∧
        (v.getLsbD (8 + i) = true → old.getLsbD (8 + i) = false →
          yt.causes.testBit 6 = true ∧ yt.state = if y.state = 3 then 4 else y.state) ∧
        (v.getLsbD (8 + i) = false → old.getLsbD (8 + i) = true → yt.causes.testBit 6 = false) ∧
        (v.getLsbD (8 + i) = old.getLsbD (8 + i) → yt = { y with cause := yt.cause })) ∧
    ∀ m < 8, s.grants b (winLe m) 0x2040C true →
      let line := field v 3 0
      let none? := v.getLsbD 8 = false ∨ 8 ≤ line ∨ (s.le m).serving line = none ∨ ∃ q ∈ (s.le m).queue, q.2 = line
      (none? → exec (.leSwapCmd b m v) s = .next s) ∧
      (¬ none? → ∃ t j, exec (.leSwapCmd b m v) s = .next t ∧ (s.le m).serving line = some j ∧
        ((t.le m).lasers.getD j {}).queued = true ∧ (∀ q, q ∈ (t.le m).queue ↔ q ∈ (s.le m).queue ∨ q = (s.now, line)) ∧
        t = { s with les := t.les } ∧ ∀ k, k ≠ m → t.le k = s.le k)

/-- O37. RING_LOCK_LOOP moves a fed ring's heater within 0 to 60 mW and shows the mean of its last ten detunings, a fraction of it either way; a reacquiring ring within 3 GHz locks (a transmit ring awaits its tone, except one with no cause 4 on the line of a swap that has switched); a locked ring whose set point leaves 2 to 58 mW hops one order and reacquires. RING_UNLOCK makes a locked ring reacquire. A tone window of a transmit ring that names its expected laser confirms it; one that names another, or a second that names none, parks it midway between two lines that its search met. Hops, unlocks and mislocks of a transmit ring take its lane out of service with cause 4. RING_RELOCK puts a parked ring with a line in use back at its setting and counts it. In any other state each changes nothing. (R342; R346; R350; R351; R353; R363; 14_ring_and_laser_control.md Table 14.5) -/
def Obligations.RingsLock : Prop :=
  ∀ (s : State) (n k : Nat) (r : RingRes), s.whole = true → n < 128 → k < 16 → (s.port n).rings[k]? = some r →
    let out := fun (t : State) => diesSame s t ∧ linksSame n s t ∧ (k < 8 →
      ((t.port n).tx.getD k {}).inService = false ∧ ((t.port n).tx.getD k {}).causes.testBit 4 = true)
    let locked := r.state = 4 ∨ r.state = 5
    (¬ locked → r.state ≠ 3 → (∀ a b, exec (.ringLockLoop n k a b) s = .next s)) ∧
    (¬ locked → exec (.ringUnlock n k) s = .next s ∧ ∀ v, exec (.toneWindowEnd n k v) s = .next s) ∧
    (∀ a b : Int,
      let v := max 0 (min 15360 (r.heater + b))
      let last := (a :: r.detunes).take 10
      ∃ mean : Int, (-(last.length : Int) < mean * last.length - last.sum ∧ mean * last.length - last.sum < last.length) ∧
      let d := max (-32768) (min 32767 mean)
      let near := -30 ≤ a ∧ a ≤ 30
      (r.state = 3 → ¬ near → exec (.ringLockLoop n k a b) s =
        .next (s.modRing n k fun y => { y with heater := v, detunes := last, detune := d })) ∧
      (r.state = 3 → near → exec (.ringLockLoop n k a b) s = .next (s.modRing n k fun y =>
        { y with
          heater := v, detunes := last, detune := d, windows := 0, nameless := 0
          state := if k < 8 ∧ (((s.port n).tx.getD k {}).causes.testBit 4 = true ∨
            ¬ ∃ w, (s.le (n / 16)).swap = some w ∧ w.stage = 2 ∧ w.line = r.line) then 5 else 4 })) ∧
      (locked → 512 ≤ v → v ≤ 14848 → exec (.ringLockLoop n k a b) s =
        .next (s.modRing n k fun y => { y with heater := v, detunes := last, detune := d })) ∧
      (locked → v < 512 ∨ 14848 < v → ∃ t y, exec (.ringLockLoop n k a b) s = .next t ∧ out t ∧
        (t.port n).rings[k]? = some y ∧ y.state = 3 ∧ y.order = decide (v < 512) ∧
        y.hops = min (r.hops + 1) 0xFFFFFFFF ∧ 0 ≤ y.heater ∧ y.heater ≤ 15360)) ∧
    (locked → ∃ t, exec (.ringUnlock n k) s = .next t ∧ out t ∧
      (t.port n).rings[k]? = some { r with state := 3, unlocks := min (r.unlocks + 1) 0xFFFFFFFF }) ∧
    (locked → ∀ v, ∃ t y, exec (.toneWindowEnd n k v) s = .next t ∧ (t.port n).rings[k]? = some y ∧
      y.tone = namedLaser v ∧ y.windows = min (r.windows + 1) 0xFFFF ∧ diesSame s t ∧ linksSame n s t ∧
      (8 ≤ k → y.state = r.state) ∧
      (k < 8 → y.tone = r.expect → y.state = 4) ∧
      (k < 8 → y.tone ≠ r.expect → y.tone = 0xF → r.nameless = 0 → y.state = r.state ∧ y.nameless = 1) ∧
      (k < 8 → y.tone ≠ r.expect → y.tone ≠ 0xF ∨ 1 ≤ r.nameless → y.state = 2 ∧ out t ∧
        (r.midways ≠ [] → ∃ w ∈ r.midways, y.heater = max 0 (min 15360 (w : Int))))) ∧
    (let ready := r.state = 2 ∧ r.line < 8 ∧ (s.le (n / 16)).removed.getLsbD r.line = false ∧
        (r.settingFor r.line).isSome = true
     (¬ ready → exec (.ringRelock n k) s = .next s) ∧
     (ready → ∃ t, exec (.ringRelock n k) s = .next t ∧ diesSame s t ∧ linksSame n s t ∧
        (t.port n).rings[k]? = some { r with
          state := if k < 8 then 5 else 4, heater := r.setting, windows := 0, nameless := 0
          relocks := min (r.relocks + 1) 0xFFFFFFFF } ∧
        (t.le (n / 16)).relocks = min ((s.le (n / 16)).relocks + 1) 0xFFFFFFFF ∧
        t.ctrl.log.errors.count = min (s.ctrl.log.errors.count + 1) 0xFFFFFFFF))

/-- O38. LASER_BIAS_LOOP moves the drive, from 0 to 150 % of start of life, of a serving laser more than 0.1 dB off target. LASER_THRESHOLD_JUDGE records a serving laser's bias and output; at 120 % it warns once; at 140 % with a spare free and no swap of its line waiting or running it queues one. LASER_SWAP_START takes the first queued line and the lowest free spare, which warms; SWAP_SPARE_TUNED then has the spare serve the line and its rings expect it; SWAP_RESUME ends the swap, the old laser spent and the swap counted, and writes a laser map in which only this engine's entry is changed. In any other state of its swap each changes nothing. KAPPA_FIT moves each feed-forward coefficient by half its distance to its fit, from a quarter to four times its calibration. (R348; R355; R357; R358; R359; R360; R361; R362; 14_ring_and_laser_control.md Table 14.6) -/
def Obligations.LaserCare : Prop :=
  ∀ (s : State) (m : Nat), s.whole = true → m < 8 →
    let e := s.le m
    let log := fun (t : State) => diesSame s t ∧ ∀ k, k ≠ m → t.le k = s.le k
    (∀ (j : Nat) (l : Laser) (o v : Int), e.lasers[j]? = some l → exec (.laserBiasLoop m j o v) s =
      .next (s.modLaser m j fun y =>
        if l.state = 3 ∧ (o < l.target - 10 ∨ l.target + 10 < o) then
          { y with drive := (max 0 (min ((s.solBias m j * 3 / 2 : Nat) : Int) ((l.drive : Int) + v))).toNat }
        else y)) ∧
    (∀ (j b : Nat) (l : Laser) (o : Int), e.lasers[j]? = some l →
      (l.state ≠ 3 → exec (.laserThresholdJudge m j b o) s = .next s) ∧
      (l.state = 3 → ∃ t y, exec (.laserThresholdJudge m j b o) s = .next t ∧ log t ∧
        (t.le m).lasers[j]? = some y ∧ y.bias = b ∧ y.power = max (-32768) (min 32767 o) ∧
        (y.warned = true ↔ l.warned = true ∨ 120 * s.solBias m j ≤ 100 * b) ∧
        (100 * b < 140 * s.solBias m j → l.target - 100 < o → (t.le m).queue = e.queue ∧ y.state = 3) ∧
        (140 * s.solBias m j ≤ 100 * b → l.queued = false → e.spares ≠ 0 → e.serving l.line = some j →
          (∀ q ∈ e.queue, q.2 ≠ l.line) → (∀ w, e.swap = some w → w.line ≠ l.line) → y.queued = true ∧ (s.now, l.line) ∈ (t.le m).queue))) ∧
    (e.swap ≠ none ∨ e.queue = [] → exec (.laserSwapStart m) s = .next s) ∧
    (∀ at' line rest old, e.swap = none → e.queue = (at', line) :: rest → e.serving line = some old → old < 8 →
      e.spares ≠ 0 → e.spares < 4 →
      let new := if e.spares.testBit 0 then 8 else 9
      ∃ t, exec (.laserSwapStart m) s = .next t ∧ log t ∧ (t.le m).queue = rest ∧
        (t.le m).swap = some ⟨line, old, new, 1⟩ ∧ (t.le m).spares = (if new = 8 then e.spares - 1 else 0) ∧
        ((t.le m).lasers.getD new {}).state = 2 ∧ ((t.le m).lasers.getD old {}).queued = false) ∧
    (∀ w, e.swap = some w → w.stage ≠ 1 → exec (.swapSpareTuned m) s = .next s) ∧
    (∀ w, e.swap = some w → w.stage = 1 → w.old < 8 → 8 ≤ w.new → w.new < 10 →
      ∃ t, exec (.swapSpareTuned m) s = .next t ∧ log t ∧ (t.le m).swap = some { w with stage := 2 } ∧
        ((t.le m).lasers.getD w.old {}).state = 1 ∧ ((t.le m).lasers.getD w.new {}).state = 3 ∧
        ((t.le m).lasers.getD w.new {}).line = w.line ∧
        ∀ x ∈ s.lineLanes m w.line, ((t.port x.1).rings.getD x.2 {}).expect = w.new) ∧
    (∀ w, e.swap = some w → w.stage ≠ 2 → exec (.swapResume m) s = .next s) ∧
    (∀ w, e.swap = some w → w.stage = 2 → w.old < 8 → 8 ≤ w.new → w.new < 10 →
      ∃ t, exec (.swapResume m) s = .next t ∧ log t ∧ (t.le m).swap = none ∧
        ((t.le m).lasers.getD w.old {}).state = 4 ∧
        ((t.le m).lasers.getD w.new {}).swapsIn = (((s.le m).lasers.getD w.new {}).swapsIn + 1) % 2 ^ 32 ∧
        t.ctrl.log.live.swaps = min (s.ctrl.log.live.swaps + 1) 0xFFFFFFFF ∧
        (t.mapEntry m).1 = (s.mapEntry m).1.set w.line w.new ∧ (t.mapEntry m).2.1.testBit w.old = true ∧
        (∀ k < 8, k ≠ m → t.mapEntry k = s.mapEntry k) ∧
        t.ctrl.log.maps.length = (if ((s.ctrl.log.maps.head?.map fun r => r.seq + 1).getD 0) % 31 = 0
          then (s.ctrl.log.maps.take 217).length else s.ctrl.log.maps.length) + 1) ∧
    ∀ (n k : Nat) (fit : Int) (r : RingRes), n / 16 = m → k < 16 → n < 128 → (s.port n).rings[k]? = some r →
      0 ≤ look s.ctrl.ident.kappa (16 * n + k) 0 →
      let cal := look s.ctrl.ident.kappa (16 * n + k) 0
      ∃ v, exec (.kappaFit m [(n, k, fit)]) s = .next (s.modRing n k fun y => { y with ffCoef := v }) ∧
        cal ≤ 4 * v ∧ v ≤ 4 * cal ∧
        (cal ≤ 4 * r.ffCoef → r.ffCoef ≤ 4 * cal → cal ≤ 4 * fit → fit ≤ 4 * cal →
          2 * v = r.ffCoef + fit ∨ 2 * v = r.ffCoef + fit + 1 ∨ 2 * v = r.ffCoef + fit - 1)

/-- O39. MESSAGE_BIND binds the chosen unbound message to a usable port to its module that has the fewest requests, then the most lanes, then the lowest number, and requests a grant there; with no usable port nothing changes. ARBITRATION_PHASE with no holder grants an eligible message that no other precedes: STEPWORD first, then dies round robin from the last granted, then the oldest. HOLDER_STALL counts a stall, keeps the first flag, and, where ARB_CTRL and ARB_PARK_MAX allow, cuts the holder off and parks its remainder at the port itself or at a usable port to the same module. PARKED_ELIGIBLE makes a parked request eligible. RECEIVE_HELD_RELEASE delivers the frame whose turn it is once it can be. (R365; R371; R372; R374; R375; R376; R377; R378; 15_topology_and_collectives.md Table 15.3) -/
def Obligations.EgressArbiter : Prop :=
  ∀ (s : State) (n p : Nat), s.whole = true → n < 128 → p < 4 →
    let a := (s.port n).arb
    let msgs := (s.part p).fab.msgs
    (∀ k, (msgs.filter fun m => m.port.isNone)[k]? = none → exec (.messageBind p k) s = .next s) ∧
    (∀ k m, (msgs.filter fun m => m.port.isNone)[k]? = some m →
      (s.usableTo p m.dstModule = [] → exec (.messageBind p k) s = .next s) ∧
      (s.usableTo p m.dstModule ≠ [] →
        ∃ c ∈ s.usableTo p m.dstModule,
          (∀ y ∈ s.usableTo p m.dstModule, (s.port c).load < (s.port y).load ∨
            ((s.port c).load = (s.port y).load ∧ ((s.port y).txLanes < (s.port c).txLanes ∨
              ((s.port y).txLanes = (s.port c).txLanes ∧ c ≤ y)))) ∧
          exec (.messageBind p k) s = .next ((s.modMsg p m.ident fun x =>
            { x with port := some c, sent := if x.last = some c then x.sent else x.acked }).modArb c fun b =>
              { b with requests := b.requests ++ [{ msg := m.ident }] }))) ∧
    (s.partOfPort n = some p →
      let eligible := (a.requests.filter (·.eligible)).filterMap fun r => (s.part p).outMsg r.msg
      let rank := fun (m : OutMsg) => (if m.kind = 4 then 0 else 16) + (m.ref.die + 15 - a.lastDie) % 16
      (a.holder ≠ none ∨ eligible = [] → exec (.arbitrationPhase n) s = .next s) ∧
      (a.holder = none → eligible ≠ [] → (∀ m ∈ msgs, m.ident < 2 ^ 64) →
        ∃ m ∈ eligible, (∀ y ∈ eligible, rank m < rank y ∨ (rank m = rank y ∧ m.ident ≤ y.ident)) ∧
          exec (.arbitrationPhase n) s = .next (s.modArb n fun b =>
            { b with
              holder := some m.ident, grant := b.set.live.getD 0 0x60, needHead := true, sent := 0, lastDie := m.ref.die
              requests := b.requests.filter fun r => r.msg != m.ident, grants := (b.grants + 1) % 2 ^ 32 })) ∧
      (a.holder = none → exec (.holderStall n) s = .next s) ∧
      (∀ m i, a.holder = some i → (s.part p).outMsg i = some m →
        (256 ≤ (s.port n).link.buffer.length ∨ (s.port n).txLanes = 0 → exec (.holderStall n) s = .next s) ∧
        ((s.port n).link.buffer.length < 256 → (s.port n).txLanes ≠ 0 →
          let cut := (a.set.live.getD 2 1).testBit 0 && (a.requests.filter (·.parked)).length < a.set.live.getD 1 8
          ∃ t, exec (.holderStall n) s = .next t ∧ t = { s with ports := t.ports, baith := t.baith, parts := t.parts } ∧
            (t.port n).arb = { a with
              stalls := min (a.stalls + 1) 0xFFFFFFFF
              flag := if a.flag.valid then a.flag else
                ⟨true, cut, m.ref.step, m.ref.cmd, BitVec.ofNat 32 (2 ^ 16 * m.dstModule + m.ref.die), m.number⟩
              cutoffs := if cut then min (a.cutoffs + 1) 0xFFFFFFFF else a.cutoffs
              holder := if cut then none else a.holder, requests := (t.port n).arb.requests } ∧
            (cut = false → t.parts = s.parts ∧ (t.port n).arb.requests = a.requests ∧
              ∀ k, k ≠ n → t.port k = s.port k) ∧
            (cut = true → ∃ c, (c = n ∨ c ∈ s.usableTo p m.dstModule) ∧
              (t.port c).arb.requests = (s.port c).arb.requests ++ [{ msg := i, parked := true, eligible := false }] ∧
              (t.part p).outMsg i = some { m with
                port := some c, sent := if m.last = some c then m.sent else m.acked } ∧
              (c ≠ n → (t.port n).arb.requests = a.requests) ∧ ∀ k, k ≠ n → k ≠ c → t.port k = s.port k))) ∧
      ((s.port n).link.held.all (fun x => x.seq != (s.port n).link.rxSeq) = true →
        exec (.receiveHeldRelease n) s = .next s) ∧
      ∀ x, (s.port n).link.held = [x] → x.seq = (s.port n).link.rxSeq → frameHeld p n x s = false →
        ∃ t, exec (.receiveHeldRelease n) s = .next t ∧ (t.port n).link.held = [] ∧
          (t.port n).link.rxSeq = (x.seq + 1) % 2 ^ 20 ∧ t.pending = s.pending) ∧
    (∀ k, (a.requests.filter (·.parked))[k]? = none → exec (.parkedEligible n k) s = .next s) ∧
    ∀ k r, (a.requests.filter (·.parked))[k]? = some r → exec (.parkedEligible n k) s =
      .next (s.modArb n fun b =>
        { b with requests := b.requests.map fun x => if x.msg = r.msg then { x with eligible := true } else x })

/-- O40. BECALM_STALL_LIMIT ends a becalmed record that has met no input for stall_limit boundaries with its input lost, and leaves no partial message that it waited on. MESSAGE_STALL_DISCARD frees the entry of the chosen stalled message and counts it. SENDER_STALL_LIMIT ends a running sender whose message has stood still for twice the limit, with its messages withdrawn. Otherwise each changes nothing. MODULE_OUT marks a module without a usable port while a step has begun. SITE_POLL of a present site clears its misses when it answers without fault, counts a miss otherwise, and at the tenth in a row, or when it reports a fault or more than 8 channels out of training, cuts it out (a stack with its update die) and raises the alert bit; no other site is cut out. (R383; R384; R385; R387; R388; R391; 15_topology_and_collectives.md Table 15.5; 18_startup_reset_boundary.md Table 18.9) -/
def Obligations.FabricLosses : Prop :=
  ∀ (s : State), s.whole = true →
    (∀ (r : RecRef) (p : Nat) (x : RecState), r.wf = true → s.partOfCd r.die = some p → s.rec? r = some x →
      let limit := (s.part p).cadence.stallLimit
      (s.waitsInput p r x = false ∨ x.becalmed = none ∨ x.idle < limit →
        exec (.becalmStallLimit r) s = .next s) ∧
      (s.waitsInput p r x = true → x.becalmed ≠ none → limit ≤ x.idle →
        ∃ t y, exec (.becalmStallLimit r) s = .next t ∧ t.rec? r = some y ∧ y.lost = true ∧ y.executed = true ∧
          (∀ m ∈ (t.part p).fab.table, m ∈ (s.part p).fab.table ∧ waitsOn p m.head s r x = false) ∧
          t.ports = s.ports ∧ t.les = s.les ∧ t.pending = s.pending) ∧
      let stalled := ∃ m ∈ (s.part p).fab.msgs, m.ref = r ∧ 2 * limit ≤ m.idle
      (x.phase ≠ .running ∨ ¬ stalled → exec (.senderStallLimit r) s = .next s) ∧
      (x.phase = .running → stalled →
        ∃ t y, exec (.senderStallLimit r) s = .next t ∧ t.rec? r = some y ∧ y.lost = true ∧ y.executed = true ∧
          (x.record.opcode ≠ 0x0604 → (t.part p).fab.msgs = (s.part p).fab.msgs.filter fun m => m.ref != r) ∧
          t.les = s.les ∧ t.pending = s.pending ∧ ∀ d, t.pad d = s.pad d ∨ (d = r.die ∧ x.record.opcode = 0x0604))) ∧
    (∀ p < 4, ∀ k,
      let stalled := ((s.part p).fab.table.filter fun m => (s.part p).cadence.stallLimit ≤ m.idle)[k]?
      (stalled = none → exec (.messageStallDiscard p k) s = .next s) ∧
      (∀ m, stalled = some m → ∃ t, exec (.messageStallDiscard p k) s = .next t ∧
        (t.part p).fab.table = (s.part p).fab.table.filter (fun y => y.head.key != m.head.key) ∧
        (t.part p).fab.discarded = min ((s.part p).fab.discarded + 1) 0xFFFFFFFF ∧
        (t.part p).fab.isGone m.head.key = true ∧ t.ports = s.ports ∧ t.les = s.les)) ∧
    (∀ p < 4, ∀ m,
      let q := s.part p
      let out := q.stream.running = true ∧ q.stream.step ≠ 0xFFFFFFFF ∧ s.usableTo p m = [] ∧
        m ≠ q.frame.moduleNumber ∧ m ∉ q.fab.modulesOut
      (out → exec (.moduleOut p m) s = .next (s.modFab p fun f => { f with modulesOut := f.modulesOut ++ [m] })) ∧
      (¬ out → exec (.moduleOut p m) s = .next s)) ∧
    (∀ a, (∀ x ∈ a, x.site.wf = true) → s.ctrl.module.state ≠ 5 → exec (.sitePoll a) s = .next s) ∧
    ∀ a : PollAnswer, a.site.wf = true → s.ctrl.module.state = 5 →
      (s.live a.site = false → exec (.sitePoll [a]) s = .next s) ∧
      (s.live a.site = true → (∀ b, a.site ≠ .baith b) → (∀ m, a.site = .le m → (s.le m).optState ≠ 5) →
        (a.answered = true → a.fault = false → (∀ h, a.site = .stack h → a.lostTraining ≤ 8) →
          exec (.sitePoll [a]) s = .next (s.modMod fun y => { y with misses := y.misses.filter fun z => z.1 != a.site })) ∧
        (a.answered = false → s.missed a.site < 9 → ∃ t, exec (.sitePoll [a]) s = .next t ∧
          t.missed a.site = s.missed a.site + 1 ∧
          t = s.modMod fun y => { y with misses := t.ctrl.module.misses }) ∧
        ((a.answered = false ∧ 9 ≤ s.missed a.site) ∨
            (a.answered = true ∧ (a.fault = true ∨ ∃ h, a.site = .stack h ∧ 8 < a.lostTraining)) → ∃ t, exec (.sitePoll [a]) s = .next t ∧
          t.isCut a.site = true ∧ t.ctrl.module.alert.testBit 5 = true ∧
          (∀ h, a.site = .stack h → s.live (.ud h) = true → t.isCut (.ud h) = true) ∧
          ∀ v, v ≠ a.site → (∀ h, a.site = .stack h → v ≠ .ud h) → t.isCut v = s.isCut v))

/-- O41. CLOCK_CHOICE gives a block its effective ceiling where PWR_CTRL bit 4 holds it; otherwise the highest multiple of 25 MHz, at least its floor, within its ceiling and the three limits, or the floor where there is none, counting PWR_OVER where only the power limit is in the way. In a squall only the choice is kept, for the climb. LULL_ENTER puts a present running or lull-1 block without running or startable records, on a segment where no request waits, into the deepest lull that its lull field, Table 16.1, its wake point (10 us ahead for lull-2, 200 us for lull-3) and R405 allow, none where the field is 0; any other block it leaves. LULL_ENTRY_DONE ends the entry. (R400; R401; R403; R404; R405; R409) -/
def Obligations.ClocksAndLulls : Prop :=
  ∀ (s : State) (b : BlockRef), b.wf = true →
    let ctrl := (s.blk b).set.live.getD 2 0
    (∀ power amps heat : Nat,
      let floor := s.floorOf b
      let ceil := s.ceilOf b
      let fits := fun (c : Nat) => c % 25 = 0 ∧ floor ≤ c ∧ c ≤ ceil ∧ c ≤ amps ∧ c ≤ heat
      ∃ c passed, exec (.clockChoice b power amps heat) s = .next (s.modBlk b fun x =>
          if s.inSquall b then { x with choice := c }
          else { x with choice := c, clock := c, limited := if passed then min (x.limited + 1) 0xFFFFFFFF else x.limited }) ∧
        (ctrl.testBit 4 = true → c = ceil ∧ passed = false) ∧
        (ctrl.testBit 4 = false →
          ((∃ k, fits k ∧ k ≤ power) → fits c ∧ c ≤ power ∧ (∀ k, fits k → k ≤ power → k ≤ c) ∧ passed = false) ∧
          ((¬ ∃ k, fits k ∧ k ≤ power) → c = floor ∧ (passed = true ↔ ∃ k, fits k)))) ∧
    (let x := s.blk b
     let free := (x.mode = .running ∨ x.mode = .lull1) ∧ s.live (blockSite b) = true ∧ s.segWaits b = false
     (¬ free ∨ s.blockPart b = none → exec (.lullEnter b) s = .next s) ∧
     ∀ p, s.blockPart b = some p → (s.blockBusy p b = true → exec (.lullEnter b) s = .next s) ∧
       (free → s.blockBusy p b = false →
         let ahead := fun (k : Nat) (ns : Int) => ∀ t, s.wakeAhead p b k = some t → ns ≤ t
         let allowed := fun (k : Nat) => k ≤ ctrl % 4 ∧ k ≤ blockDeepest b ∧ (k = 2 → ahead 2 10000) ∧
           (k = 3 → ahead 3 200000 ∧ s.mayPowerOff p b = true)
         ∃ k ≤ 3, allowed k ∧ (∀ j ≤ 3, allowed j → j ≤ k) ∧ exec (.lullEnter b) s = .next
           (if k = 0 then s else s.modBlk b fun y =>
             { y with mode := if k = 1 then .lull1 else .entering, lull := k }))) ∧
    exec (.lullEntryDone b) s = .next (s.modBlk b fun x =>
      if x.mode = .entering then { x with mode := if x.lull = 3 then .lull3 else .lull2 } else x)

/-- O42. With no request on a segment, in a current squall of it, while the block of its first request is still entering its lull, or with too few tokens for it, WAKE_BEGIN changes nothing; otherwise that block wakes: 1 token from lull-2, its count of Table 16.1 from lull-3, is taken, its request is gone, and the wake and its wait are counted. No waiting request is of a lower class, or of the same class and an earlier microsecond. TOKEN_REFILL adds one token up to 8. WAKE_COMPLETE makes a waking block run; after lull-3 a scratchpad slice reads zeros, a matrix engine's tiles are as after reset and Fennel has no sample. Other blocks wake with nothing else changed. (R403; R407; R408; R132; R286; R495) -/
def Obligations.WakesAndTokens : Prop :=
  ∀ (s : State), s.whole = true → s.memWf = true →
    (∀ d < 16, ∀ g < 4,
      exec (.tokenRefill d g) s = .next (s.modSeg d g fun y => { y with tokens := min 8 (y.tokens + 1) }) ∧
      ((∀ b ∈ segBlocks d g, (s.blk b).request = none) ∨ (s.seg d g).squall ≠ none →
        exec (.wakeBegin d g) s = .next s) ∧
      ((∀ b ∈ segBlocks d g, ∀ q, (s.blk b).request = some q → q.time < 2 ^ 64) →
        (∃ b ∈ segBlocks d g, (s.blk b).request ≠ none) → (s.seg d g).squall = none →
        ∃ b ∈ segBlocks d g, ∃ q, (s.blk b).request = some q ∧
          (∀ c ∈ segBlocks d g, ∀ r, (s.blk c).request = some r →
            q.cls < r.cls ∨ (q.cls = r.cls ∧ q.time / 1000 ≤ r.time / 1000)) ∧
          let x := s.blk b
          let cost := if x.mode = .lull3 then (match b with | .die _ i => blockTokens i | _ => 1) else 1
          let wait := (s.now - q.time) / 1000
          (x.mode = .entering ∨ (s.seg d g).tokens < cost → exec (.wakeBegin d g) s = .next s) ∧
          (x.mode ≠ .entering → cost ≤ (s.seg d g).tokens → exec (.wakeBegin d g) s = .next
            ((s.modBlk b fun y =>
              { y with
                mode := .waking, lull := if y.mode = .lull3 then 3 else 2, request := none
                wakes := min (y.wakes + 1) 0xFFFFFFFF, wakeWait := min (y.wakeWait + wait) 0xFFFFFFFF }).modSeg d g
              fun y =>
                { y with
                  tokens := y.tokens - cost, wakes := min (y.wakes + 1) 0xFFFFFFFF
                  waitUs := min (y.waitUs + wait) 0xFFFFFFFF, waitMax := max y.waitMax wait })))) ∧
    ∀ b : BlockRef, b.wf = true →
      let t := s.modBlk b fun x => { x with mode := .running, lull := 0 }
      ((s.blk b).mode ≠ .waking → exec (.wakeComplete b) s = .next s) ∧
      ((s.blk b).mode = .waking → (s.blk b).lull ≠ 3 → exec (.wakeComplete b) s = .next t) ∧
      ((s.blk b).mode = .waking → (s.blk b).lull = 3 →
        (∀ d i, b = .die d i → i < 10 →
          exec (.wakeComplete b) s = .next (t.modMxe d i fun m => { m with tiles := List.replicate 4 {} })) ∧
        (∀ d, b = .die d 0x18 → exec (.wakeComplete b) s = .next (t.modFennel d fun f => { f with sample := none })) ∧
        (∀ d j, b = .die d (0x20 + j) → ∃ u, exec (.wakeComplete b) s = .next u ∧
          (∀ a, j * 2 ^ 23 ≤ a → a < (j + 1) * 2 ^ 23 → u.padBytes d a 1 = [0]) ∧
          padSame d [(j * 2 ^ 23, 2 ^ 23)] s u ∧ u = t.modScratch d fun c => { c with store := u.pad d }) ∧
        ((∀ d i, b = .die d i → 10 ≤ i ∧ i ≠ 0x18 ∧ i < 0x20) → exec (.wakeComplete b) s = .next t))

/-- O43. JUNCTION_SAMPLE records the temperature and power, the highest temperature of the tick starting with its first sample. At 110 C a die or update die block at work or in lull-1 stops under kind 2, and a hub or light engine at work runs at 400 MHz. A block in a lull has its squall from 100 C, its clock and mode as they were. For a block at work that no stop holds: from 100 C it is throttled by 100 MHz, to 400 at least; below 100 C and in no squall nothing else changes. A thermally stopped block restarts at 400 MHz below 100 C. Below 97 C in a squall the clock climbs, and the squall ends at the choice. SEGMENT_CURRENT_SAMPLE above 115 % for 100 ns stops every block at work on the segment; above the limit it throttles those not stopped. CURRENT_STOP_RESTART restarts them at 400 MHz, but none in a thermal stop. A first squall raises the alert bit. (R414; R415; 16_power_heat_and_choice.md Table 16.3; 16_power_heat_and_choice.md Table 16.4) -/
def Obligations.Squalls : Prop :=
  ∀ (s : State), s.whole = true →
    (∀ (b : BlockRef) (temp : Int) (mw : Nat), b.wf = true →
      let x := s.blk b
      let noted := s.modBlk b fun y =>
        { y with
          temp, tempTick := if y.powerCount = 0 then temp else max y.tempTick temp, powerMw := mw, powerSum := y.powerSum + mw
          powerCount := y.powerCount + 1 }
      let own := fun (y : PwrBlock) => { x with
        temp, tempTick := if x.powerCount = 0 then temp else max x.tempTick temp, powerMw := mw, powerSum := x.powerSum + mw,
        powerCount := x.powerCount + 1, mode := y.mode, clock := y.clock, climb := y.climb
        squall := y.squall, squalls := y.squalls, halted := y.halted }
      let stops := match b with | .hub _ => False | .le _ => False | _ => True
      let free := s.segStopped b = false ∧ x.halted = false
      (temp < 1600 → x.squall = none → x.halted = false → exec (.junctionSample b temp mw) s = .next noted) ∧
      ∃ t, exec (.junctionSample b temp mw) s = .next t ∧ t.blk b = own (t.blk b) ∧
        (∀ c, c ≠ b → c.wf = true → t.blk c = s.blk c) ∧ (∀ d, t.pad d = s.pad d) ∧ t.ports = s.ports ∧
        (x.squall = none → (t.blk b).squall ≠ none → t.ctrl.module.alert.testBit 0 = true) ∧
        (x.mode = .lull1 → 1760 ≤ temp → stops →
          (t.blk b).mode = .stopped ∧ (t.blk b).clock = 0 ∧ (t.blk b).halted = true ∧ (t.blk b).squall ≠ none) ∧
        (x.atWork = false → x.halted = false → 1600 ≤ temp → x.mode ≠ .lull1 ∨ ¬ stops ∨ temp < 1760 →
          (t.blk b).mode = x.mode ∧ (t.blk b).clock = x.clock ∧ (t.blk b).squall ≠ none) ∧
        (x.atWork = true →
          (1760 ≤ temp → stops → (t.blk b).mode = .stopped ∧ (t.blk b).clock = 0 ∧ (t.blk b).halted = true ∧
            ∃ q, (t.blk b).squall = some q ∧ 2 ≤ q.kind ∧ q.clockMin = 0 ∧ temp ≤ q.tempMax) ∧
          (1760 ≤ temp → ¬ stops → (t.blk b).mode = .throttled ∧ (t.blk b).clock = 400) ∧
          (1600 ≤ temp → temp < 1760 → free → (t.blk b).mode = .throttled ∧
            (t.blk b).clock = max 400 (x.clock - 100) ∧ (t.blk b).squall ≠ none) ∧
          (temp < 1600 → x.halted = true → s.segStopped b = false →
            (t.blk b).mode = .throttled ∧ (t.blk b).clock = 400 ∧ (t.blk b).halted = false) ∧
          (1600 ≤ temp → temp < 1760 → x.halted = true →
            (t.blk b).mode = x.mode ∧ (t.blk b).clock = x.clock ∧ (t.blk b).halted = true) ∧
          (1552 ≤ temp → temp < 1600 → free → (t.blk b).clock = x.clock ∧ ((t.blk b).squall = none ↔ x.squall = none)) ∧
          (temp < 1552 → free → x.squall ≠ none → x.climb + 1 < 10 → x.clock < x.choice →
            (t.blk b).climb = x.climb + 1 ∧ (t.blk b).clock = x.clock ∧ (t.blk b).squall ≠ none) ∧
          (temp < 1552 → free → x.squall ≠ none → 10 ≤ x.climb + 1 → x.choice ≤ x.clock + 25 →
            (t.blk b).mode = .running ∧ (t.blk b).clock = x.choice ∧ (t.blk b).squall = none ∧
              (t.blk b).squalls = min (x.squalls + 1) 0xFFFFFFFF))) ∧
    ∀ d < 16, ∀ g < 4,
      let y := s.seg d g
      let on := fun (i : Nat) => i ∈ dieBlocks ∧ blockSeg i = g
      (∀ mean peak, ∃ t, exec (.segmentCurrentSample d g mean peak) s = .next t ∧
        (t.seg d g).current = mean ∧ (t.seg d g).sumTick = y.sumTick + mean ∧ (t.seg d g).samples = y.samples + 1 ∧
        (∀ c i, c ≠ d ∨ ¬ on i → c < 16 → t.blk (.die c i) = s.blk (.die c i)) ∧ (∀ c, t.pad c = s.pad c) ∧
        (peak * 100 > y.limit * 115 → (t.seg d g).stopped = true ∧ (t.seg d g).squall ≠ none ∧
          ∀ i, on i → (s.blk (.die d i)).atWork = true →
            (t.blk (.die d i)).mode = .stopped ∧ (t.blk (.die d i)).clock = 0) ∧
        (peak * 100 ≤ y.limit * 115 → y.stopped = false → mean > y.limit → (t.seg d g).squall ≠ none ∧
          ∀ i, on i → (s.blk (.die d i)).mode = .running ∨ (s.blk (.die d i)).mode = .throttled →
            (t.blk (.die d i)).mode = .throttled ∧
              (t.blk (.die d i)).clock = max 400 ((s.blk (.die d i)).clock - 100)) ∧
        (peak * 100 ≤ y.limit * 115 → y.stopped = false → mean ≤ y.limit → y.squall = none →
          t = s.modSeg d g fun z => { z with current := mean, sumTick := z.sumTick + mean, samples := z.samples + 1 })) ∧
      (y.stopped = false → exec (.currentStopRestart d g) s = .next s) ∧
      (y.stopped = true → ∃ t, exec (.currentStopRestart d g) s = .next t ∧ (t.seg d g).stopped = false ∧
        dieOnly d s t ∧ ∀ i, i ∈ dieBlocks → t.blk (.die d i) =
          let x := s.blk (.die d i)
          if on i ∧ x.mode = .stopped ∧ x.halted = false then { x with mode := .throttled, clock := 400, climb := 0 }
          else x)

/-- O44. While the module has power, LOGBOOK_BUCKET_REFILL adds one record up to 1024 and, at 64 or more with records kept out, reports them in one record of kind 7 and starts their span anew. LIFETIME_SNAPSHOT begins a snapshot with the lifetime counters, module time and the next number, any unfinished one completed; SNAPSHOT_WRITE_DONE makes the snapshot being written the newest of at most 32; LOGBOOK_PAGE_ERASED clears the erasing bit. FENNEL_SAMPLE_COMPARE does nothing while the sampled record runs or with no sample; an exempt sample is only counted exempt; otherwise it is checked, each column whose difference passes its tolerance counts as a divergence, and a sample with any counts once. (R474; R475; R477; R478; R493; R494; R496) -/
def Obligations.LogbookTimers : Prop :=
  ∀ (s : State), s.whole = true →
    let l := s.ctrl.log
    (s.powered = false → exec .logbookBucketRefill s = .next s ∧ exec .lifetimeSnapshot s = .next s) ∧
    (s.powered = true → l.span = none ∨ l.bucket + 1 < 64 →
      exec .logbookBucketRefill s = .next (s.modLog fun g => { g with bucket := min 1024 (g.bucket + 1) })) ∧
    (s.powered = true → ∀ n a z, l.span = some (n, a, z) → 63 ≤ l.bucket → ∃ t, exec .logbookBucketRefill s = .next t ∧
      t = { s with ctrl := { s.ctrl with log := t.ctrl.log } } ∧ t.ctrl.log.span = none ∧
      t.ctrl.log.bucket = min 1024 (l.bucket + 1) ∧ ∃ r, t.ctrl.log.errors.items.head? = some r ∧ r.kind = 7 ∧
        leAt r.payload 0 4 = min n 0xFFFFFFFF ∧ leAt r.payload 4 8 = a % 2 ^ 64 ∧ leAt r.payload 12 8 = z % 2 ^ 64 ∧
        (l.flashFault = false → t.ctrl.log.ring.head? = some r)) ∧
    (s.powered = true → l.flashFault = false → ∃ t w, exec .lifetimeSnapshot s = .next t ∧
      t = { s with ctrl := { s.ctrl with log := t.ctrl.log } } ∧ t.ctrl.log.writing = some w ∧
      w.counters = l.live ∧ w.time = s.now ∧ w.number = l.snapNext ∧ w.boot = l.boot ∧
      t.ctrl.log.snapNext = (l.snapNext + 1) % 2 ^ 32 ∧
      t.ctrl.log.snapshots = (l.writing.toList ++ l.snapshots).take 31) ∧
    (l.writing = none → exec .snapshotWriteDone s = .next s) ∧
    (∀ w, l.writing = some w → exec .snapshotWriteDone s = .next (s.modLog fun g =>
      { g with snapshots := (w :: g.snapshots).take 32, writing := none })) ∧
    exec .logbookPageErased s = .next (s.modLog fun g => { g with erasing := false }) ∧
    ∀ d < 16,
      let f := (s.cd d).eng.fennel
      (f.sample = none → exec (.fennelSampleCompare d) s = .next s) ∧
      (∀ m x, f.sample = some m → s.rec? m.ref = some x → x.phase = .running →
        exec (.fennelSampleCompare d) s = .next s) ∧
      (∀ m, f.sample = some m → (∀ x, s.rec? m.ref = some x → x.phase ≠ .running) →
        (m.isExempt = true → exec (.fennelSampleCompare d) s = .next (s.modFennel d fun g =>
          { g with sample := none, exempt := min (g.exempt + 1) 0xFFFFFFFF })) ∧
        (m.isExempt = false →
          let off := (List.range m.before.length).filter fun c => (m.column s.now c).isSome
          ∃ t, exec (.fennelSampleCompare d) s = .next t ∧ t = { s with cds := t.cds, baith := t.baith } ∧
            (∀ e, e ≠ d → t.cd e = s.cd e) ∧
            t.cd d = { s.cd d with eng := { (s.cd d).eng with fennel := { f with
              sample := none, checked := min (f.checked + 1) 0xFFFFFFFF
              diverge := min (f.diverge + off.length) 0xFFFFFFFF
              divergeSamples := if off = [] then f.divergeSamples else min (f.divergeSamples + 1) 0xFFFFFFFF
              log := (t.cd d).eng.fennel.log } } } ∧
            (off = [] → t.baith = s.baith ∧ (t.cd d).eng.fennel.log = f.log)))

/-- O45. With the standby rail good each SMBus command leaves its data bytes, least significant first: the state, the cause of the last reset, the hottest junction of the population's blocks in 1/16 C, the input power in W, the low 16 alert bits, or 32 descriptor bytes for codes 0x10 to 0x17; another code is not answered. SMBUS_ALERT_RESPONSE answers only while an alert bit is set. SMBUS_CLEAR_ALERT clears the alert bits written as 1 and keeps the others. Nothing else of the module changes, and without the rail the target leaves no bytes and clears nothing. (R452; 18_startup_reset_boundary.md Table 18.8) -/
def Obligations.Sideband : Prop :=
  ∀ (s : State),
    let answer := fun (b : List Byte) => { s with ctrl := { s.ctrl with smbus := b } }
    let m := s.ctrl.module
    (s.powered = true →
      exec .smbusReadState s = .next (answer (leBytes 1 m.state)) ∧
      exec .smbusReadCause s = .next (answer (leBytes 1 m.cause)) ∧
      (∃ b, exec .smbusReadTemp s = .next (answer b) ∧ b.length = 2 ∧
        ∀ h : Int, -32768 ≤ h → h < 32768 → (∀ x ∈ s.allBlocks, (s.blk x).temp ≤ h) →
          (∃ x ∈ s.allBlocks, (s.blk x).temp = h) → (leNat b : Int) = if h < 0 then h + 65536 else h) ∧
      (∀ w, exec (.smbusReadPower w) s = .next (answer (leBytes 2 (min w 0xFFFF)))) ∧
      exec .smbusReadAlert s = .next (answer (leBytes 2 m.alert)) ∧
      (∀ v : Half, ∃ t, exec (.smbusClearAlert v) s = .next t ∧
        t = { s with ctrl := { s.ctrl with smbus := [], module := { m with alert := t.ctrl.module.alert } } } ∧
        ∀ i, t.ctrl.module.alert.testBit i = (m.alert.testBit i && !v.getLsbD i)) ∧
      (∀ c, 0x10 ≤ c → c < 0x18 →
        exec (.smbusReadDescriptor c) s = .next (answer (slice m.descriptor (32 * (c - 0x10)) 32))) ∧
      (∀ c, c < 0x10 ∨ 0x18 ≤ c → exec (.smbusReadDescriptor c) s = .next (answer [])) ∧
      (m.alert = 0 → exec .smbusAlertResponse s = .next (answer [])) ∧
      (m.alert ≠ 0 → exec .smbusAlertResponse s = .next (answer [0x98]))) ∧
    (s.powered = false → ∀ c ∈ [.smbusReadState, .smbusReadCause, .smbusReadTemp, .smbusReadPower 0, .smbusReadAlert,
      .smbusClearAlert 0xFFFF, .smbusReadDescriptor 0x10, .smbusAlertResponse], exec c s = .next (answer []))

/-- O46. Where the register may be written, MOD_RESET 1 on a ready module begins a warm reset and 2 a cold one; before it is ready either is cold; one that meets a flash write waits. RESET_L low for 1 us begins a warm reset of a ready module, else a cold one. A reset leaves scratchpads and caches empty and no unit cut out; a cold one also every stack; a warm one keeps each stack and retire table, the caches of trained hubs written back. After 100 ms of RESET_L low a warm reset turns cold. RESET_L_RISE or MOD_RESET_RELEASE releases it: it is counted once and verification begins. POWER_FAIL and THERMAL_TRIP leave only flash, fuses and failed places. (R447; R448; R462; R302; R505; 18_startup_reset_boundary.md Table 18.5; 18_startup_reset_boundary.md Table 18.6) -/
def Obligations.ModuleResets : Prop :=
  ∀ (s : State), s.whole = true →
    let m := s.ctrl.module
    let ready := m.state = 5 ∧ 3 ≤ m.stage ∧ m.resetL = true
    let bare := fun (t : State) => (∀ d < 16, (t.pad d).bytes = []) ∧ (∀ h < 32, (t.hub h).mem.cache = []) ∧
      (∀ v, t.isCut v = false) ∧ (∀ p < 4, (t.part p).active = none ∧ (t.part p).present = false) ∧
      t.ctrl.sec = s.ctrl.sec ∧ t.ctrl.clock = s.ctrl.clock ∧ t.pending = s.pending
    let began := fun (t : State) (level cause : Nat) => bare t ∧ t.ctrl.module.state = 5 + level ∧
      t.ctrl.module.level = level ∧ t.ctrl.module.cause = cause ∧ t.ctrl.module.stage = 3 ∧
      t.ctrl.module.alert = m.alert ∧ t.ctrl.module.warm = m.warm ∧ t.ctrl.module.cold = m.cold ∧
      t.ctrl.module.counted = false ∧ ∀ h < 32,
        (level = 1 → (t.hub h).chk.ret = (s.hub h).chk.ret ∧ (t.hub h).mem.stack =
          if (s.hub h).mem.state = 2 then (s.hub h).cleanAll.hub.mem.stack else (s.hub h).mem.stack) ∧
        (level = 2 → (t.hub h).chk.ret = [] ∧ (t.hub h).mem.stack.bytes = [])
    (∀ b < 4, s.grants b winCtrl 0x00004 true →
      (m.stage < 3 ∨ m.state = 3 ∨ m.state = 6 ∨ m.state = 7 ∨ m.resetL = false →
        exec (.modResetWarm b) s = .next s ∧ exec (.modResetCold b) s = .next s) ∧
      (ready → s.ctrl.fw.writing = none → (∃ t, exec (.modResetWarm b) s = .next t ∧ began t 1 3) ∧
        ∃ t, exec (.modResetCold b) s = .next t ∧ began t 2 4) ∧
      (m.state = 2 ∨ m.state = 4 → 3 ≤ m.stage → m.resetL = true → s.ctrl.fw.writing = none →
        ∃ t, exec (.modResetWarm b) s = .next t ∧ began t 2 4) ∧
      (ready → s.ctrl.fw.writing ≠ none → m.resetPending = none →
        exec (.modResetWarm b) s = .next (s.modMod fun x => { x with resetPending := some (1, 3) }))) ∧
    (exec (.resetLFall false) s = .next s ∧
      (m.stage ≠ 0 → m.stage < 3 → exec (.resetLFall true) s = .next (s.modMod fun x => { x with resetL := false })) ∧
      (3 ≤ m.stage → m.state = 6 ∨ m.state = 7 → exec (.resetLFall true) s =
        .next (s.modMod fun x => { x with resetL := false, byPin := true })) ∧
      (3 ≤ m.stage → m.state = 5 → s.ctrl.fw.writing = none →
        ∃ t, exec (.resetLFall true) s = .next t ∧ began t 1 1 ∧ t.ctrl.module.byPin = true) ∧
      (3 ≤ m.stage → m.state < 5 → m.level ≠ 1 → s.ctrl.fw.writing = none →
        ∃ t, exec (.resetLFall true) s = .next t ∧ began t 2 2 ∧ t.ctrl.module.byPin = true)) ∧
    ((m.resetL = true → exec .warmToColdTimeout s = .next s) ∧
      (m.resetL = false → m.state = 6 → ∃ t, exec .warmToColdTimeout s = .next t ∧ t.ctrl.module.state = 7 ∧
        t.ctrl.module.level = 2 ∧ t.ctrl.module.cause = 5 ∧ (∀ h < 32, (t.hub h).mem.stack.bytes = []) ∧
        ∀ d < 16, (t.pad d).bytes = [])) ∧
    (let released := fun (t : State) => t.ctrl.module.state = 2 ∧ t.ctrl.module.stage = 3 ∧
        t.ctrl.module.counted = true ∧ t.ctrl.module.startAt = s.now ∧
        (m.counted = true → t.ctrl.module.warm = m.warm ∧ t.ctrl.module.cold = m.cold) ∧
        (m.counted = false → m.level = 1 → t.ctrl.module.warm = min (m.warm + 1) 0xFFFFFFFF ∧
          t.ctrl.module.cold = m.cold) ∧
        (m.counted = false → m.level = 2 → t.ctrl.module.cold = min (m.cold + 1) 0xFFFFFFFF ∧
          t.ctrl.module.warm = m.warm) ∧ t.cds = s.cds ∧ t.hubs = s.hubs ∧ t.parts = s.parts
     (m.state ≠ 6 → m.state ≠ 7 → exec .modResetRelease s = .next s ∧
        exec .resetLRise s = .next (s.modMod fun x => { x with resetL := true })) ∧
     (m.state = 6 ∨ m.state = 7 →
        (m.byPin = true → exec .modResetRelease s = .next s ∧
          (m.stage ≠ 0 → ∃ t, exec .resetLRise s = .next t ∧ released t ∧ t.ctrl.module.resetL = true)) ∧
        (m.byPin = false → (∃ t, exec .modResetRelease s = .next t ∧ released t) ∧
          exec .resetLRise s = .next (s.modMod fun x => { x with resetL := true })))) ∧
    (let lost := fun (t : State) (tripped : Bool) => t.ctrl.module.stage = 0 ∧ t.ctrl.module.tripped = tripped ∧
        t.ctrl.sec = s.ctrl.sec ∧ t.ctrl.ident = s.ctrl.ident ∧ t.ctrl.log.ring = s.ctrl.log.ring ∧
        t.ctrl.log.snapshots = s.ctrl.log.snapshots ∧ t.ctrl.log.maps = s.ctrl.log.maps ∧
        t.ctrl.fw.slot = (if s.ctrl.fw.writing.isSome then [] else s.ctrl.fw.slot) ∧ t.parts = State.reset.parts ∧
        t.ports = State.reset.ports ∧ t.uds = State.reset.uds ∧ t.baith = State.reset.baith ∧
        (∀ d < 16, t.cd d = { scratch := { store := { hard := (s.pad d).hard } } }) ∧
        (∀ h < 32, t.hub h = { mem := { stack := { hard := (s.hub h).mem.stack.hard } } }) ∧ t.pending = s.pending
     (m.stage = 0 → exec .powerFail s = .next s) ∧
     (m.stage ≠ 0 → ∃ t, exec .powerFail s = .next t ∧ lost t false) ∧
     ∀ x : TripSite, x.wf = true → ∀ a b,
       (m.stage ≠ 0 → tripAt x ≤ a → tripAt x ≤ b → ∃ t, exec (.thermalTrip x a b) s = .next t ∧ lost t true) ∧
       (m.stage = 0 ∨ a < tripAt x ∨ b < tripAt x → exec (.thermalTrip x a b) s = .next s))

/-- O47. POWER_UP begins stage 1 with B0 probing and the boot counted; after a trip only once the input has been cycled. STAGE_POWER_GOOD and RESET_L_RELEASE_STANDBY lead to verification once RESET_L is high. FIRMWARE_VERIFY_DONE goes to stage 4 if every check passes, else to recovery with its alert. HOME_GROUP_POWER powers groups one at a time; SITE_PROBE_RESULT notes a powered site's answer; HUB_TRAIN_DONE makes a hub ready when 9 or more of its 16 channels trained, failed otherwise. Each RING_SEARCH_PHASE_END takes an engine to its next phase. MODULE_READY, once the probe has ended, makes the module ready under the default frame, which holds the compute dies and stacks that the probe found present. (R442; R443; R444; R445; R446; R457; R458; R267; R28; R343; 18_startup_reset_boundary.md Table 18.2) -/
def Obligations.BringUp : Prop :=
  ∀ (s : State), s.whole = true →
    let m := s.ctrl.module
    (∀ held cycled, (m.stage ≠ 0 ∨ held = false ∨ (m.tripped = true ∧ cycled = false) →
        exec (.powerUp held cycled) s = .next s) ∧
      (m.stage = 0 → held = true → m.tripped = false ∨ cycled = true → ∃ t, exec (.powerUp held cycled) s = .next t ∧
        t.ctrl.module.stage = 1 ∧ t.ctrl.module.state = 1 ∧ t.ctrl.module.tripped = false ∧ (t.bp 0).light = 1 ∧
        t.ctrl.log.boot = (s.ctrl.log.boot + 1) % 2 ^ 32 ∧ t.ctrl.sec.versionA = t.ctrl.sec.versionB ∧
        t.ctrl.sec.floorA = t.ctrl.sec.floorB ∧ diesSame s t)) ∧
    (m.stage ≠ 1 → ∀ high, exec (.stagePowerGood high) s = .next s) ∧
    (m.stage = 1 → exec (.stagePowerGood false) s = .next (s.modMod fun x =>
        { x with stage := 2, pwrgd := true, resetL := false }) ∧
      exec (.stagePowerGood true) s = .next (s.modMod fun x =>
        { x with stage := 3, state := 2, pwrgd := true, resetL := true })) ∧
    exec .resetLReleaseStandby s = .next (s.modMod fun x =>
      if m.stage = 2 then { x with resetL := true, startAt := s.now, stage := 3, state := 2 } else x) ∧
    (∀ ms ok, (m.state ≠ 2 → exec (.firmwareVerifyDone ms ok) s = .next s) ∧
      (m.state = 2 → ∃ t, exec (.firmwareVerifyDone ms ok) s = .next t ∧
        let check := fwCheck s.ctrl.sec s.ctrl.fw.slot ok
        t.ctrl.fw.result = check ∧ t.ctrl.module.verifyMs = ms % 2 ^ 32 ∧ t.ctrl.sec = s.ctrl.sec ∧
        t.ctrl.fw.slot = s.ctrl.fw.slot ∧ t.baith = s.baith ∧
        (check = 0 → t.ctrl.module.state = 4 ∧ t.ctrl.module.stage = 4 ∧
          t.ctrl.fw.running = some (FwFacts.of s.ctrl.fw.slot) ∧ t.cds = s.cds) ∧
        (check ≠ 0 → t.ctrl.module.state = 3 ∧ t.ctrl.fw.running = none ∧ t.ctrl.module.alert.testBit 2 = true))) ∧
    (m.state ≠ 4 ∨ 24 ≤ m.groups → exec .homeGroupPower s = .next s) ∧
    (m.state = 4 → m.groups < 24 → ∃ t, exec .homeGroupPower s = .next t ∧
      t.ctrl.module = { m with groups := m.groups + 1 } ∧ t.parts = s.parts ∧ t.ports = s.ports ∧
      (m.groups < 16 → inPopulation s.ctrl.ident.part (.cd m.groups) = true →
        (t.hub (2 * m.groups)).mem.state = 1 ∧ (t.hub (2 * m.groups + 1)).mem.state = 1 ∧
        ∀ i ∈ dieBlocks, (t.blk (.die m.groups i)).mode = .lull3) ∧
      (16 ≤ m.groups → inPopulation s.ctrl.ident.part (.le (m.groups - 16)) = true →
        (t.le (m.groups - 16)).phase = 1 ∧ t.cds = s.cds ∧ t.hubs = s.hubs)) ∧
    (∀ (site : Site) (answers : Bool) (lanes : Nat), site.wf = true →
      exec (.siteProbeResult site answers lanes) s = .next (s.modMod fun x =>
        if m.state = 4 ∧ siteGroup site < m.groups then
          { x with probes := x.probes.filter (fun y => y.site != site) ++ [⟨site, answers, lanes⟩], stageAt := s.now }
        else x)) ∧
    (∀ h < 32, ∀ (failed : Half) (ms : Nat),
      let lost := ((List.range 16).filter fun i => failed.getLsbD i).length
      ((s.hub h).mem.state ≠ 1 → exec (.hubTrainDone h failed ms) s = .next s) ∧
      ((s.hub h).mem.state = 1 → ∃ t, exec (.hubTrainDone h failed ms) s = .next t ∧
        (t.hub h).mem = { (s.hub h).mem with
          trainFail := failed, trainMs := min ms 0xFFFF, state := if lost ≤ 7 then 2 else 4 } ∧
        (∀ k, k ≠ h → t.hub k = s.hub k) ∧ t.cds = s.cds ∧ (failed = 0 → t.ctrl.log = s.ctrl.log) ∧
        (failed ≠ 0 → t.ctrl.log.errors.count = min (s.ctrl.log.errors.count + 1) 0xFFFFFFFF))) ∧
    (∀ (e : Nat) (o : SearchObs), (Instr.ringSearchPhaseEnd e none o).wf = true →
      ∃ t, exec (.ringSearchPhaseEnd e none o) s = .next t ∧ diesSame s t ∧
        ((s.le e).phase = 0 ∨ 6 ≤ (s.le e).phase → t = s) ∧
        (1 ≤ (s.le e).phase → (s.le e).phase ≤ 4 → (t.le e).phase = (s.le e).phase + 1) ∧
        ((s.le e).phase = 5 → (t.le e).phase = 0 ∧
          (t.le e).optState = if (lePorts e).any t.portSearched then 4 else 5) ∧
        ∀ k, k / 16 ≠ e → t.port k = s.port k) ∧
    (∀ (e n : Nat) (o : SearchObs), (Instr.ringSearchPhaseEnd e (some n) o).wf = true →
      ∃ t, exec (.ringSearchPhaseEnd e (some n) o) s = .next t ∧
        ((s.port n).link.searching = false ∨ n / 16 ≠ e → t = s) ∧
        ((s.port n).link.searching = true → n / 16 = e → (t.port n).link.searching = false ∧ diesSame s t ∧
          linksSame n s t)) ∧
    (m.state ≠ 4 ∨ s.probeEnded = false → exec .moduleReady s = .next s) ∧
    (m.state = 4 → s.probeEnded = true → ∃ t, exec .moduleReady s = .next t ∧
      t.ctrl.module.state = 5 ∧ t.ctrl.module.stage = 5 ∧ t.ctrl.module.level = 0 ∧
      t.ctrl.module.descriptor.length = 256 ∧ (∀ v : Site, v.wf = true → t.status v = s.judge v) ∧
      (t.part 0).present = true ∧ (t.part 0).frame.cdCount = partCds s.ctrl.ident.part ∧
      (∀ d, d ∈ (t.part 0).frame.cds ↔ d < partCds s.ctrl.ident.part ∧ s.judge (.cd d) = 1) ∧
      (∀ h, h ∈ (t.part 0).frame.stacks ↔ h < 2 * partCds s.ctrl.ident.part ∧ s.judge (.stack h) = 1) ∧
      (t.part 0).frame.power = 10400 ∧ (t.part 0).frame.moduleNumber = 0xFFFF ∧
      (∀ p, 1 ≤ p → p < 4 → (t.part p).present = false) ∧
      (∀ f, s.ctrl.fw.running = some f → min 1023 f.secVersion ≤ max t.ctrl.sec.versionA t.ctrl.sec.versionB ∧
        min 3 f.keyFloor ≤ max t.ctrl.sec.floorA t.ctrl.sec.floorB) ∧ ∀ d, t.pad d = s.pad d)

/-- O48. RECOVERY_FIRMWARE_TRANSFER takes B0's oldest image: where recovery or a partition's host may send one and no write runs, an image that fails a check of Table 19.2 is refused, one that passes all is held for writing. FIRMWARE_WRITE_DONE puts what was read back in the slot: only if it equals the image is the update counted. IDENTITY_DERIVE_DONE makes both keys ready, or none, once. ATTESTATION_REPORT queues a request of kind 0, ATTESTATION_CERTIFICATES answers one of kind 1 after derivation, and ATTESTATION_SIGN answers the oldest report with 16 864 bytes and a completion. With nothing of their kind waiting, each changes nothing; a request taken on its port's turn passes the turn to the next port. (R435; R460; R461; R463; R465; R466; R467; R468; 19_firmware_and_attestation.md Table 19.2; 17_baith_ports_and_partitions.md Table 17.3) -/
def Obligations.FirmwareAndIdentity : Prop :=
  ∀ (s : State), s.whole = true →
    let f := s.ctrl.fw
    (∀ b < 4, (s.bp b).inbound.find? (fun x => x.kind == 0x0E) = none → exec (.recoveryFirmwareTransfer b) s = .next s) ∧
    (∀ b x, s.asks b (fun y => y.kind == 0x0E) x →
      (b ≠ 0 → ∃ t, exec (.recoveryFirmwareTransfer b) s = .next t ∧ t.ended b x 7 0x0B 0 0 ∧ baithOnly b (passTurn b s) t) ∧
      (b = 0 → s.ctrl.module.state = 3 ∨ (s.ctrl.module.state = 5 ∧ s.partOfBaith 0 ≠ none) → f.writing = none →
        let check := fwCheck s.ctrl.sec x.payload true
        ∃ t, exec (.recoveryFirmwareTransfer 0) s = .next t ∧ t.ctrl.sec = s.ctrl.sec ∧ t.ctrl.fw.slot = f.slot ∧
          diesSame s t ∧
          (check = 0 → t.ctrl.fw.writing = some x.payload ∧ t.ctrl.fw.state = 5 ∧ t.ended 0 x 0 0 x.payload.length 0) ∧
          (check ≠ 0 → t.ctrl.fw = { f with result := check, fromTransfer := true } ∧
            t.ended 0 x 7 (if check = 1 then 1 else 2) 0 (fwOffset x.payload check))) ∧
      (b = 0 → s.ctrl.module.state = 3 ∨ (s.ctrl.module.state = 5 ∧ s.partOfBaith 0 ≠ none) → f.writing ≠ none →
        ∃ t, exec (.recoveryFirmwareTransfer 0) s = .next t ∧ t.ended 0 x 7 9 0 0 ∧ baithOnly 0 (passTurn 0 s) t)) ∧
    (f.writing = none → ∀ r, exec (.firmwareWriteDone r) s = .next s) ∧
    (∀ image r, f.writing = some image → s.ctrl.module.resetPending = none →
      ∃ t, exec (.firmwareWriteDone r) s = .next t ∧ t.ctrl.fw.slot = r ∧ t.ctrl.fw.writing = none ∧
        t.ctrl.sec = s.ctrl.sec ∧ diesSame s t ∧ t.parts = s.parts ∧
        (r ≠ image → t.ctrl.fw.state = 6 ∧ t.ctrl.fw.updates = f.updates ∧ t.ctrl.module = s.ctrl.module) ∧
        (r = image → t.ctrl.fw.updates = min (f.updates + 1) 0xFFFFFFFF ∧
          t.ctrl.log.live.fwWrites = min (s.ctrl.log.live.fwWrites + 1) 0xFFFFFFFF ∧
          (s.ctrl.module.state = 3 → t.ctrl.module.state = 2 ∧ t.ctrl.module.stage = 3 ∧ t.ctrl.fw.pending = none) ∧
          (s.ctrl.module.state ≠ 3 → t.ctrl.fw.state = 7 ∧ t.ctrl.fw.pending = some (FwFacts.of image) ∧
            t.ctrl.module = s.ctrl.module))) ∧
    (∀ image level cause, f.writing = some image → s.ctrl.module.resetPending = some (level, cause) →
      ∃ t, exec (.firmwareWriteDone image) s = .next t ∧ t.ctrl.fw.slot = image ∧
        t.ctrl.module.state = 5 + level ∧ t.ctrl.module.cause = cause ∧ t.ctrl.module.resetPending = none) ∧
    (∀ ok, (s.powered = false ∨ f.derived = true → exec (.identityDeriveDone ok) s = .next s) ∧
      (s.powered = true → f.derived = false → ∃ t, exec (.identityDeriveDone ok) s = .next t ∧
        t.ctrl.fw = { f with derived := true, rsaReady := ok, slhReady := ok, idFailed := !ok } ∧
        (ok = true → t = s.modFw fun _ => t.ctrl.fw) ∧
        (ok = false → ∃ r, t.ctrl.log.errors.items.head? = some r ∧ r.kind = 0x12))) ∧
    (∀ b < 4, (s.bp b).inbound.find? (asksCerts false) = none → exec (.attestationReport b) s = .next s) ∧
    (∀ b x, s.asks b (asksCerts false) x → ∃ t, exec (.attestationReport b) s = .next t ∧
      let bad := x.payload.length ≠ 36 ∨ leAt x.payload 0 1 ≠ 0
      let busy := ∃ a ∈ f.queue, a.port = b
      (bad → t.ended b x 7 1 0 0 ∧ baithOnly b (passTurn b s) t) ∧
      (¬ bad → f.idFailed = true → t.ended b x 7 4 0 0 ∧ baithOnly b (passTurn b s) t) ∧
      (¬ bad → f.idFailed = false → busy → t.ended b x 7 9 0 0 ∧ baithOnly b (passTurn b s) t) ∧
      (¬ bad → f.idFailed = false → ¬ busy →
        t.ctrl.fw = { f with queue := f.queue ++ [⟨b, x.tag, x.seq, slice x.payload 4 32⟩] } ∧
        (t.bp b).outQueue = (s.bp b).outQueue)) ∧
    (∀ b < 4, (s.bp b).inbound.find? (asksCerts true) = none → exec (.attestationCertificates b) s = .next s) ∧
    (∀ b x, s.asks b (asksCerts true) x → x.payload.length = 36 → (∀ a ∈ f.queue, a.port ≠ b) →
      (f.derived = false → exec (.attestationCertificates b) s = .next (passTurn b s)) ∧
      (f.derived = true → f.idFailed = false → ∃ t c, exec (.attestationCertificates b) s = .next t ∧ baithOnly b (passTurn b s) t ∧
        c ∈ (t.bp b).outQueue ∧ c.kind = 0x0D ∧ c.tag = x.tag ∧
        c.payload.take s.ctrl.ident.certificates.length = s.ctrl.ident.certificates ∧
        t.ended b x 0 0 s.ctrl.ident.certificates.length 0) ∧
      (f.derived = true → f.idFailed = true → ∃ t, exec (.attestationCertificates b) s = .next t ∧
        t.ended b x 7 4 0 0 ∧ baithOnly b (passTurn b s) t)) ∧
    (f.queue = [] ∨ f.derived = false → exec .attestationSign s = .next s) ∧
    ∀ a rest, f.queue = a :: rest → a.port < 4 → f.derived = true → f.idFailed = false →
      s.ctrl.module.inReset = false → ∃ t c, exec .attestationSign s = .next t ∧
        t.ctrl.fw = { f with queue := rest, reports := min (f.reports + 1) 0xFFFFFFFF } ∧
        c ∈ (t.bp a.port).outQueue ∧ c.kind = 0x0D ∧ c.tag = a.tag ∧ c.payload.length = 16864 ∧
        slice c.payload 0x20 32 = slice a.nonce 0 32 ∧
        t.ended a.port ⟨0x0C, false, a.seq, a.tag, []⟩ 0 0 16864 0

/-- O49. For a running MXE record on a die whose scratchpad is sound: MMA changes no element outside the M x N it addresses; a count of 0 only clears; in fast mode with 8-bit operands along k each addressed element takes K terms from the places of Table 05.4, in chunks of 32, onto its pair or (+0, +0), and the chunk counter rises by ceil(K/32). ACLR leaves the named tiles as after reset and the others alone. AST stores each row's converted elements and clears those it read only if told to. ASV stores every pair of a tile, and ALD loads a tile's pairs and its counter. No scratchpad byte, tile, engine or die other than those changes. (R132; R136; R138; R141; R146; R153; R154; 05_matrix_engines.md Table 05.2; 05_matrix_engines.md Table 05.4) -/
def Obligations.MatrixTiles : Prop :=
  ∀ (s : State) (r : RecRef) (x : RecState), s.whole = true → s.memWf = true → s.tablesWf = true →
    (s.pad r.die).sound = true → x.record.unit < 10 →
    let d := r.die
    let e := x.record.unit
    let tile := fun (t : State) (i : Nat) => (t.mxe d e).tile i
    let only := fun (t : State) => dieOnly d s t ∧ (t.pad d).sound = true ∧
      t.cd d = { s.cd d with
        seq := ((s.marked r).cd d).seq
        eng := { (s.cd d).eng with mxe := (t.cd d).eng.mxe, fennel := (t.cd d).eng.fennel }
        scratch := { (s.cd d).scratch with store := t.pad d } } ∧
      ∀ k, k ≠ e → t.mxe d k = s.mxe d k
    let quiet := fun (t : State) => only t ∧ (t.cd d).eng.fennel = (s.cd d).eng.fennel ∧
      t.mxe d e = { s.mxe d e with tiles := (t.mxe d e).tiles }
    (s.runs r 0x0100 x →
      let f := MmaOp.of x.w
      let old := tile s f.tile
      let k := x.record.count
      ∃ t, exec (.mma r) s = .next t ∧ only t ∧ t.pad d = s.pad d ∧ (∀ i, i ≠ f.tile → tile t i = tile s i) ∧
        (∀ i, f.m ≤ i / 256 ∨ f.n ≤ i % 256 → (tile t f.tile).get i = old.get i) ∧
        (k = 0 → quiet t ∧ (f.clear = false → tile t f.tile = old) ∧
          (f.clear = true → (tile t f.tile).chunks = 0 ∧
            ∀ m n, m < f.m → n < f.n → n < 256 → (tile t f.tile).get (m * 256 + n) = {})) ∧
        (f.strict = false → 0 < k → (tile t f.tile).chunks =
          min ((if f.clear then 0 else old.chunks) + (k + 31) / 32) 0xFFFFFFFF) ∧
        ∀ ea eb, fmtOf f.aFmt = some (ea, false) → fmtOf f.bFmt = some (eb, false) → ea.bits = 8 → eb.bits = 8 →
          f.strict = false → f.transA = false → f.transB = false → 0 < k →
          let term := fun (el : Elem) (addr : Nat) =>
            let raw := leNat (s.padBytes d addr 1)
            (⟨raw, Num.read el raw, (Num.read el raw).signalling, 0⟩ : Opnd)
          ∀ m n, m < f.m → n < f.n → n < 256 → (tile t f.tile).get (m * 256 + n) =
            (fastElem m n (f.sa + f.sb) (if f.clear then {} else old.get (m * 256 + n))
              ((List.range k).map fun j =>
                (term ea (f.aAddr + m * f.aStride + j), term eb (f.bAddr + n * f.bStride + j)))).pair) ∧
    (s.runs r 0x0101 x → ∃ t, exec (.aclr r) s = .next t ∧ quiet t ∧ t.pad d = s.pad d ∧
      ∀ i < 4, tile t i = if (x.w 0).getLsbD i then {} else tile s i) ∧
    (s.runs r 0x0102 x →
      let f := AstOp.of x.w
      let el := match fmtOf f.ctl.dst with | some p => p.1 | none => .fp32
      let row := fun (m : Nat) => packElems el ((List.range f.n).map fun n => (astElem f ((tile s f.tile).get (m * 256 + n))).1)
      (f.m = 1 ∨ ∀ m < f.m, (row m).length ≤ f.stride) →
      ∃ t, exec (.ast r) s = .next t ∧ only t ∧ (∀ i, i ≠ f.tile → tile t i = tile s i) ∧
        (∀ m < f.m, t.padBytes d (f.dst + m * f.stride) (row m).length = row m) ∧
        padSame d ((List.range f.m).map fun m => (f.dst + m * f.stride, (row m).length)) s t ∧
        (f.clear = false → tile t f.tile = tile s f.tile) ∧
        (f.clear = true → ∀ i, (tile t f.tile).get i =
          if i / 256 < f.m ∧ i % 256 < f.n then {} else (tile s f.tile).get i)) ∧
    (s.runs r 0x0103 x → ∃ t, exec (.asv r) s = .next t ∧ quiet t ∧ (∀ i, tile t i = tile s i) ∧
      (∀ i < 32768, t.padBytes d ((x.w 0).toNat + 8 * i) 8 =
        leBytes 4 ((tile s (field (x.w 1) 1 0)).get i).hi.toNat ++ leBytes 4 ((tile s (field (x.w 1) 1 0)).get i).lo.toNat) ∧
      padSame d [((x.w 0).toNat, 262144)] s t) ∧
    (s.runs r 0x0104 x → ∃ t, exec (.ald r) s = .next t ∧ quiet t ∧ t.pad d = s.pad d ∧
      (∀ i, i ≠ field (x.w 1) 1 0 → tile t i = tile s i) ∧ (tile t (field (x.w 1) 1 0)).chunks = (x.w 2).toNat ∧
      ∀ i < 32768,
        let at' := (x.w 0).toNat + 8 * i
        (tile t (field (x.w 1) 1 0)).get i = aldPair (BitVec.ofNat 32 (leNat (s.padBytes d at' 4)))
          (BitVec.ofNat 32 (leNat (s.padBytes d (at' + 4) 4))))

/-- O50. For a running VXE record on a die whose scratchpad is sound, sources read before anything is written: the destination takes the packed results in order, the flags they raise stay, the conflict counter takes the cycles that the record's own streams lose and a free number more (log entry 3), and no other scratchpad byte, engine or die changes. On plain INT32 arrays the results are sums, products, products plus c, signed extremes, comparisons and selections modulo 2^32; VSEL ignores neg_b and neg_c. An elementwise count of 0 changes nothing. VRED writes one element per group (INT32 sums modulo 2^32), and for a count of 0 the identity of Table 06.5. (R159; R160; R161; R162; R163; R167; R168; R171; R178; 06_vector_engine.md Table 06.2; 06_vector_engine.md Table 06.5) -/
def Obligations.VectorOps : Prop :=
  ∀ (s : State) (r : RecRef) (x : RecState), s.whole = true → s.memWf = true → (s.pad r.die).sound = true →
    let d := r.die
    let f := VxeOp.of x.w
    let n := x.record.count
    let src := fun (o : VxeSrc) => (readSource d f o n s).2.1
    let used := fun (code : Nat) (o : VxeSrc) => src { o with neg := o.neg && code != 0x0206 }
    let int := fun (a : Nat) => signed 32 (leNat (s.padBytes d a 4))
    let plain := fun (o : VxeSrc) => o.kind = 0 ∧ o.fmt = 8 ∧ o.neg = false
    let writes := fun (t : State) (bytes : List Byte) => dieOnly d { s with free := t.free } t ∧ (t.pad d).sound = true ∧
      t.cd d = { s.cd d with
        seq := ((s.marked r).cd d).seq
        eng := { (s.cd d).eng with vxe := (t.cd d).eng.vxe }
        scratch := { (s.cd d).scratch with store := t.pad d } } ∧
      t.padBytes d f.dAddr bytes.length = bytes ∧ padSame d [(f.dAddr, bytes.length)] s t
    let ends := fun (t : State) (red : Bool) (out : List (Nat × Flags)) =>
      writes t (packElems (vxeElem f.dFmt) (out.map (·.1))) ∧
      ∃ others, (t.cd d).eng.vxe = { (s.cd d).eng.vxe with
        flags := out.foldl (fun g o => g.or o.2) (s.cd d).eng.vxe.flags
        conflict := min ((s.cd d).eng.vxe.conflict + conflicts (partLanes s.ctrl.ident.part) n red f + others) (2 ^ 64 - 1) }
    (∀ p ∈ [(0x0200, Instr.vadd r), (0x0201, .vmul r), (0x0202, .vfma r), (0x0203, .vmin r), (0x0204, .vmax r),
        (0x0205, .vcmp r), (0x0206, .vsel r)], s.runs r p.1 x →
      (n = 0 → exec p.2 s = .next (s.marked r)) ∧
      (0 < n → ∃ t, exec p.2 s = .next t ∧
        ends t false (((src f.a).zip ((used p.1 f.b).zip (used p.1 f.c))).map fun q => vElement p.1 f q.1 q.2.1 q.2.2) ∧
        (plain f.a → plain f.b → f.dFmt = 8 → (p.1 = 0x0202 ∨ p.1 = 0x0206 → plain f.c) → ∀ i < n,
          let a := int (f.a.word.toNat + 4 * i)
          let b := int (f.b.word.toNat + 4 * i)
          let c := int (f.c.word.toNat + 4 * i)
          let got := leNat (t.padBytes d (f.dAddr + 4 * i) 4)
          (p.1 = 0x0200 → got = twos 32 (a + b)) ∧ (p.1 = 0x0201 → got = twos 32 (a * b)) ∧
          (p.1 = 0x0202 → got = twos 32 (a * b + c)) ∧ (p.1 = 0x0203 → got = twos 32 (min a b)) ∧
          (p.1 = 0x0204 → got = twos 32 (max a b)) ∧
          (p.1 = 0x0205 → got = if vcmpHolds f.sub (a < b) (a == b) (b < a) then 0xFFFFFFFF else 0) ∧
          (p.1 = 0x0206 → got = twos 32 (if a = 0 then c else b))))) ∧
    (s.runs r 0x0207 x → ∃ t, exec (.vred r) s = .next t ∧
      (n = 0 → writes t (packElems (vxeElem f.dFmt) [redIdentity f.sub f.dFmt]) ∧
        (t.cd d).eng.vxe = (s.cd d).eng.vxe) ∧
      (0 < n → ends t true ((groupsOf f.group (n / f.group) (src f.a)).map (redGroup f)) ∧
        (plain f.a → f.dFmt = 8 → f.sub = 0 → 0 < f.group → ∀ j < n / f.group,
          leNat (t.padBytes d (f.dAddr + 4 * j) 4) =
            twos 32 (((List.range f.group).map fun i => int (f.a.word.toNat + 4 * (j * f.group + i))).foldl (· + ·) 0))))

/-- O51. For a running record of a sound die: TXP writes source element (row, c) as element (c, row), element by element from its strides. LOAD copies each row of the region into scratchpad, and STORE each scratchpad row into the region, once none lies in an open granule (until then they wait); GATHER copies for each of the indices read at its start that is in range its row, at most 2048 line reads outstanding and the rest kept back, and writes zeros for the others, raising NV and latching the first. All lines outside what is written keep their bytes. A freed narrow entry goes to the next waiting die by increasing number after the last served, and its GXE has one read fewer outstanding, or issues the next that it keeps back. (R182; R184; R185; R186; R187; R210; R278; R279; R283; 07_engine_zoo.md Table 07.1; 07_engine_zoo.md Table 07.3; 07_engine_zoo.md Table 07.4) -/
def Obligations.Moves : Prop :=
  ∀ (s : State), s.whole = true → s.memWf = true →
    (∀ h < 32, (s.hub h).mem.queue = [] → exec (.narrowQueueFree h) s = .next s) ∧
    (∀ h d rest, h < 32 → d < 16 → (s.hub h).mem.queue = d :: rest →
      let m := (s.hub h).mem
      let after := fun (x : HubMem) => Host.Outcome.next ((s.modMem h fun _ => x).modGxe d fun g =>
        { g with outstanding := g.outstanding - 1 })
      let e := (s.cd d).eng.gxe
      (∀ k more, e.toIssue = k :: more → e.outstanding ≤ 2048 → ∃ t, exec (.narrowQueueFree h) s = .next t ∧
        t = { s with cds := t.cds, hubs := t.hubs } ∧ (∀ j, j ≠ d → t.cd j = s.cd j) ∧
        t.cd d = { s.cd d with eng := { (s.cd d).eng with gxe := { e with
          outstanding := e.outstanding - 1 + 1
          toIssue := more } } } ∧ ∀ j, j ≠ h → j ≠ k → t.hub j = s.hub j) ∧
      (e.toIssue = [] → m.waiting = [] → exec (.narrowQueueFree h) s = after { m with queue := rest }) ∧
      ∀ w ∈ m.waiting, w < 16 → e.toIssue = [] → (∀ v ∈ m.waiting, v < 16 →
          (w + 16 - (m.lastDie + 1) % 16) % 16 ≤ (v + 16 - (m.lastDie + 1) % 16) % 16) →
        exec (.narrowQueueFree h) s =
          after { m with queue := rest ++ [w], waiting := m.waiting.erase w, lastDie := w }) ∧
    ∀ (r : RecRef) (x : RecState), (s.pad r.die).sound = true →
      let d := r.die
      let quiet := fun (t : State) => (∀ e, e ≠ d → t.cd e = s.cd e) ∧ (t.pad d).sound = true ∧
        t.cd d = { s.cd d with
          seq := ((s.marked r).cd d).seq
          scratch := { (s.cd d).scratch with store := t.pad d } }
      (s.runs r 0x0300 x →
        let f := TxpOp.of x.w
        let rows := x.record.count / f.cols
        let row := fun (i : Nat) => s.padBytes d (f.sAddr + i * f.sStride) (f.cols * f.bits / 8)
        let out := fun (c : Nat) => bitsPack f.bits ((List.range rows).map fun i => bitsElem f.bits (row i) c)
        (x.record.count = 0 → exec (.txp r) s = .next (s.marked r)) ∧
        (0 < x.record.count → (f.cols = 1 ∨ ∀ c < f.cols, (out c).length ≤ f.dStride) →
          ∃ t, exec (.txp r) s = .next t ∧ dieOnly d s t ∧ quiet t ∧
            (∀ c < f.cols, t.padBytes d (f.dAddr + c * f.dStride) (out c).length = out c) ∧
            padSame d ((List.range f.cols).map fun c => (f.dAddr + c * f.dStride, (out c).length)) s t ∧
            (8 ≤ f.bits → ∀ c < f.cols, ∀ i < rows,
              t.padBytes d (f.dAddr + c * f.dStride + i * (f.bits / 8)) (f.bits / 8) =
                s.padBytes d (f.sAddr + i * f.sStride + c * (f.bits / 8)) (f.bits / 8)))) ∧
      ∀ p g, s.partOfCd d = some p →
        let f := MoveOp.of x.w
        let n := x.record.count / f.rowBytes
        let rows := List.range n
        let moved := fun (t : State) (spans : List (Nat × Nat)) => t = { s with cds := t.cds, hubs := t.hubs } ∧
          memTraffic s t ∧ linesSame p f.region spans s t ∧ regionSame p f.region spans s t
        let reads := (s.part p).region? f.region = some g ∧ s.served p f.region ∧
          ∀ j < n, f.offset + j * f.mStride + f.rowBytes ≤ g.length
        let waits := ∃ j < n, spanOpen p f.region (f.offset + j * f.mStride) f.rowBytes s = true
        (s.runs r 0x0400 x → (waits → exec (.load r) s = .next s) ∧
          (¬ waits → 0 < x.record.count → reads → (n = 1 ∨ f.rowBytes ≤ f.sStride) →
            ∃ t, exec (.load r) s = .next t ∧ moved t [] ∧ quiet t ∧
              (∀ j < n, ∀ i < f.rowBytes, t.padBytes d (f.sAddr + j * f.sStride + i) 1 =
                [s.regionByte p f.region (f.offset + j * f.mStride + i)]) ∧
              padSame d (rows.map fun j => (f.sAddr + j * f.sStride, f.rowBytes)) s t)) ∧
        (s.runs r 0x0401 x → (waits → exec (.store r) s = .next s) ∧
          (¬ waits → 0 < x.record.count → reads → (n = 1 ∨ f.rowBytes ≤ f.mStride) →
            ∃ t, exec (.store r) s = .next t ∧ moved t (rows.map fun j => (f.offset + j * f.mStride, f.rowBytes)) ∧
              quiet t ∧ padSame d [] s t ∧
              ∀ j < n, ∀ i < f.rowBytes, [t.regionByte p f.region (f.offset + j * f.mStride + i)] =
                s.padBytes d (f.sAddr + j * f.sStride + i) 1)) ∧
        (s.runs r 0x0402 x →
          let k := GatherOp.of x.w
          let count := x.record.count
          ∀ idx : Nat → Nat, (∀ i < count, idx i < 2 ^ 32) → x.index = (List.range count).map (fun i => some (idx i)) →
          x.indexBad = false →
          let out := fun (i : Nat) => decide (2 ^ 31 ≤ idx i ∨ g.length < idx i * k.rStride + k.rowBytes)
          let bad := (List.range count).filter out
          let ins := (List.range count).filter fun i => !out i
          (s.part p).region? k.region = some g → 0 < count →
          ((∃ i ∈ ins, spanOpen p k.region (idx i * k.rStride) k.rowBytes s = true) → exec (.gather r) s = .next s) ∧
          ((∀ i ∈ ins, spanOpen p k.region (idx i * k.rStride) k.rowBytes s = false) → s.served p k.region →
            ∃ t, exec (.gather r) s = .next t ∧ t = { s with cds := t.cds, hubs := t.hubs } ∧ memTraffic s t ∧
              linesSame p k.region [] s t ∧ (∀ e, e ≠ d → t.cd e = s.cd e) ∧ (t.pad d).sound = true ∧
              (∀ i < count, ∀ b < k.rowBytes, t.padBytes d (k.dAddr + i * k.rowBytes + b) 1 =
                [if out i then 0 else s.regionByte p k.region (idx i * k.rStride + b)]) ∧
              padSame d [(k.dAddr, count * k.rowBytes)] s t ∧
              let e := (s.cd d).eng.gxe
              let lines := ins.length * (k.rowBytes / 64)
              let asked := min lines (2048 - e.outstanding)
              let e1 := { e with
                flags := { e.flags with nv := e.flags.nv || !bad.isEmpty }
                outstanding := e.outstanding + asked
                toIssue := (t.cd d).eng.gxe.toIssue }
              e1.toIssue.length = e.toIssue.length + (lines - asked) ∧
              t.cd d = { s.cd d with
                seq := ((s.marked r).cd d).seq
                scratch := { (s.cd d).scratch with store := t.pad d }
                eng := { (s.cd d).eng with
                  gxe := match bad.head?, e.oorValid with
                    | some i, false => { e1 with
                        oorValid := true
                        oorStep := r.step
                        oorCmd := r.cmd
                        oorElem := i
                        oorIndex := BitVec.ofNat 32 (idx i) }
                    | _, _ => e1 } }))

/-- O52. For a running record on a die whose scratchpad is sound: CVT writes, by the scale that its tensor had at the record's start, the converted elements and the scales of MX blocks, keeps the flags, folds magnitudes and non-finite elements into the tensor's entry if asked to, and clears the tile elements it read if told to. AMXOUT stores step_amax and nonfinite, AMXPUSH pushes each reduced amax into its history, SCSEL takes the largest scale exponent that keeps the window's largest value within the target, less the margin, within its limits; TST and TLD move whole entries. FILL stores random words. Nothing else changes, and a count of 0 changes nothing. (R189; R190; R191; R192; R193; R194; R195; R196; R199; R226; R227; 07_engine_zoo.md Table 07.6) -/
def Obligations.Conversions : Prop :=
  ∀ (s : State) (r : RecRef) (x : RecState), s.whole = true → s.memWf = true → s.tablesWf = true →
    (s.pad r.die).sound = true →
    let d := r.die
    let n := x.record.count
    let cve := (s.cd d).eng.cve
    let only := fun (t : State) (spans : List (Nat × Nat)) => dieOnly d s t ∧ (t.pad d).sound = true ∧
      padSame d spans s t ∧ t.cd d = { s.cd d with
        seq := ((s.marked r).cd d).seq
        eng := { (s.cd d).eng with cve := (t.cd d).eng.cve, mxe := (t.cd d).eng.mxe }
        scratch := { (s.cd d).scratch with store := t.pad d } }
    let tableOnly := fun (t : State) => (t.cd d).eng.mxe = (s.cd d).eng.mxe ∧
      (t.cd d).eng.cve = { cve with table := (t.cd d).eng.cve.table }
    let entry := fun (t : State) (k : Nat) => (t.cd d).eng.cve.entry k
    let t0 := field (x.w 2) 11 0
    let row := fun (t : State) (first : Nat) (f : Nat → CveEntry → CveEntry) =>
      (∀ i < n, entry t (first + i) = f i (entry s (first + i))) ∧
        ∀ k, k < first ∨ first + n ≤ k → entry t k = entry s k
    (n = 0 → ∀ p ∈ [(0x0800, Instr.fill r), (0x0500, .cvt r), (0x0501, .amxout r), (0x0502, .amxpush r),
        (0x0503, .scsel r), (0x0504, .tst r), (0x0505, .tld r)], s.runs r p.1 x → exec p.2 s = .next (s.marked r)) ∧
    (0 < n →
    (s.runs r 0x0800 x → ∃ t, exec (.fill r) s = .next t ∧ only t [((x.w 0).toNat, 2 * n)] ∧ tableOnly t ∧
      (t.cd d).eng.cve = cve ∧ ∀ i < n, t.padBytes d ((x.w 0).toNat + 2 * i) 2 =
        leBytes 2 (pepperBits (s.cd d).eng.pepper.live (x.w 1).toNat
          ((x.w 2).toNat + 2 ^ 32 * field (x.w 3) 15 0 + i) 1)) ∧
    (s.runs r 0x0500 x →
      let f := CvtOp.of x.w
      let e := entry s f.tensor
      let scale := if f.scaleSrc = 1 then x.scaleExp else if f.scaleSrc = 2 then f.sImm else 0
      let xs := (cvtSource d f n s).2.1
      let out := cvtResult f (s.cd d).eng.pepper.live scale xs
      let gone := (List.range n).map fun i => (f.row + i / f.len) * 256 + f.col + i % f.len
      out.2.1 = [] ∨ f.dAddr + out.1.length ≤ f.mxScales ∨ f.mxScales + out.2.1.length ≤ f.dAddr →
      ∃ t, exec (.cvt r) s = .next t ∧
        only t [(f.dAddr, out.1.length), (f.mxScales, out.2.1.length)] ∧
        t.padBytes d f.dAddr out.1.length = out.1 ∧ t.padBytes d f.mxScales out.2.1.length = out.2.1 ∧
        (t.cd d).eng.cve = { cve with flags := cve.flags.or out.2.2, table := (t.cd d).eng.cve.table } ∧
        (∀ k, f.amax = false ∨ k ≠ f.tensor → entry t k = entry s k) ∧
        (f.amax = true →
          let mags := xs.filterMap CvElem.fold
          let lost := xs.length - mags.length
          entry t f.tensor = { e with
            stepAmax := (entry t f.tensor).stepAmax
            nonfinite := if lost = 0 then e.nonfinite else min (e.nonfinite + lost) 0xFFFFFFFF } ∧
          (entry t f.tensor).stepAmax ∈ e.stepAmax :: mags ∧
          ∀ m ∈ e.stepAmax :: mags, m.toNat ≤ (entry t f.tensor).stepAmax.toNat) ∧
        (f.acc = false ∨ f.clear = false → (t.cd d).eng.mxe = (s.cd d).eng.mxe) ∧
        (f.acc = true → f.clear = true → f.engine < 10 → (∀ k, k ≠ f.engine → t.mxe d k = s.mxe d k) ∧
          t.mxe d f.engine = { s.mxe d f.engine with tiles := (t.mxe d f.engine).tiles } ∧
          (∀ i, i ≠ f.tile → (t.mxe d f.engine).tile i = (s.mxe d f.engine).tile i) ∧
          (n = 32768 → ((t.mxe d f.engine).tile f.tile).chunks = 0) ∧
          ∀ i, ((t.mxe d f.engine).tile f.tile).get i =
            if i ∈ gone then {} else ((s.mxe d f.engine).tile f.tile).get i)) ∧
    (s.runs r 0x0501 x →
      (x.w 0).toNat + 4 * n ≤ (x.w 1).toNat ∨ (x.w 1).toNat + 4 * n ≤ (x.w 0).toNat →
      ∃ t, exec (.amxout r) s = .next t ∧ only t [((x.w 0).toNat, 4 * n), ((x.w 1).toNat, 4 * n)] ∧ tableOnly t ∧
        (t.cd d).eng.cve = cve ∧ ∀ i < n,
          t.padBytes d ((x.w 0).toNat + 4 * i) 4 = leBytes 4 (entry s (t0 + i)).stepAmax.toNat ∧
          t.padBytes d ((x.w 1).toNat + 4 * i) 4 = leBytes 4 (entry s (t0 + i)).nonfinite) ∧
    (s.runs r 0x0502 x → ∃ t, exec (.amxpush r) s = .next t ∧ only t [] ∧ tableOnly t ∧
      row t t0 fun i e => { e with
        history := e.history.set e.head (BitVec.ofNat 32 (leNat (s.padBytes d ((x.w 0).toNat + 4 * i) 4)))
        head := (e.head + 1) % 24
        filled := min (e.filled + 1) 24
        stepAmax := 0
        nonfinite := 0 }) ∧
    (s.runs r 0x0503 x →
      let window := field (x.w 1) 23 16
      let margin := field (x.w 1) 15 8
      let target := scselMax (field (x.w 1) 7 0)
      let lo := signed 16 (field (x.w 2) 15 0)
      let hi := signed 16 (field (x.w 2) 31 16)
      ∃ t, exec (.scsel r) s = .next t ∧ only t [] ∧ tableOnly t ∧
        row t (field (x.w 0) 11 0) (fun i e => { e with
          scaleExp := (entry t (field (x.w 0) 11 0 + i)).scaleExp }) ∧
        ∀ i < n,
          let e := entry s (field (x.w 0) 11 0 + i)
          let chosen := (entry t (field (x.w 0) 11 0 + i)).scaleExp
          match e.windowMax window with
          | .fin _ m q => if m = 0 then chosen = e.scaleExp else
              ∃ k : Int, magGt m (q + k) target.1 target.2 = false ∧ magGt m (q + k + 1) target.1 target.2 = true ∧
                chosen = clampInt lo hi (k - margin)
          | _ => chosen = e.scaleExp) ∧
    (s.runs r 0x0504 x → (∀ i < n, (entry s (t0 + i)).history.length = 24) → ∃ t, exec (.tst r) s = .next t ∧
      only t [((x.w 0).toNat, 128 * n)] ∧ tableOnly t ∧ (t.cd d).eng.cve = cve ∧
        ∀ i < n, t.padBytes d ((x.w 0).toNat + 128 * i) 128 = (entry s (t0 + i)).bytes) ∧
    (s.runs r 0x0505 x → ∃ t, exec (.tld r) s = .next t ∧ only t [] ∧ tableOnly t ∧
      row t t0 fun i _ => CveEntry.ofBytes (s.padBytes d ((x.w 0).toNat + 128 * i) 128)))

/-- O53. For a running record of a partition's sound die: PUT sends the source's bytes over the panel mesh, or as a message with its sender's next number; ACCUM sends each element, in order, to the hub that holds its offset, with its ordinal and position; RINGAG counts its own position and sends its shard to the next member, and in a plan of both directions (three members or more; log entry 62) to the one before too. A PUT or RINGAG whose bytes lie in an open granule waits. WAITIN takes its expected count from its channel's counter of the step, if that holds it, and waits otherwise. A PUT that arrives is written and counted once, or rejected outside its destination; one for an open granule waits; a message across the partition's border is dropped, counted and recorded; a shard that comes early waits, and a share joins its step's gathering. Nothing else changes but the marks on records. (R44; R200; R201; R202; R203; R206; R210; R380; R383; R393; R434; 13_nurok_links.md Table 13.3) -/
def Obligations.Collectives : Prop :=
  ∀ (s : State) (p : Nat), s.whole = true → s.memWf = true → p < 4 →
    (∀ (r : RecRef) (x : RecState), s.partOfCd r.die = some p → (s.pad r.die).sound = true →
      let d := r.die
      let n := x.record.count
      let fab := (s.part p).fab
      let sent := fun (t : State) (k : Nat) (f : Fabric → Fabric) (g : Coe → Coe) =>
        t = { s with cds := t.cds, parts := t.parts, hubs := t.hubs } ∧ (∀ q, q ≠ p → t.part q = s.part q) ∧
        t.part p = { s.part p with fab := f fab } ∧ (∀ e, e ≠ d → t.cd e = s.cd e) ∧
        t.cd d = { s.cd d with
          seq := ((s.marked r).cd d).seq
          eng := { (s.cd d).eng with
            coe := g { (s.cd d).eng.coe with outBytes := ((s.cd d).eng.coe.outBytes + k) % 2 ^ 64 } } }
      let number := fun (m : Nat) => look (s.cd d).eng.coe.numbers m 0
      let counted := fun (m : Nat) (c : Coe) => { c with numbers := place c.numbers m 0 (number m + 1) }
      let joins := fun (m : OutMsg) (b : Fabric) => { b with nextMsg := b.nextMsg + 1, msgs := b.msgs ++ [m] }
      let ch := field (x.w 0) 5 0
      (n = 0 → ∀ q ∈ [(0x0600, Instr.put r), (0x0602, .accum r), (0x0603, .ringag r)], s.runs r q.1 x →
        exec q.2 s = .next (s.marked r)) ∧
      (s.runs r 0x0600 x → 0 < n →
        let f := PutOp.of x.w
        let dst := f.dst.region.getD 0xFFFF
        let ok := fun (t : State) (data : List Byte) =>
          (f.module = 0xFFFF → sent t n (fun b => { b with
            mesh := b.mesh ++ [.put r f.die f.channel dst f.dst.offset data []] }) id) ∧
          (f.module ≠ 0xFFFF → sent t n (joins
            { ident := fab.nextMsg, kind := 1, ref := r, dstModule := f.module, dstDie := f.die, channel := f.channel,
              format := 0, number := number f.module, ordinal := 0, ring := 0, region := dst, offset := f.dst.offset,
              data := data }) (counted f.module))
        (f.src.region = none → ∃ t, exec (.put r) s = .next t ∧ t.hubs = s.hubs ∧ ok t (s.padBytes d f.src.offset n)) ∧
        (∀ i, f.src.region = some i → spanOpen p i f.src.offset n s = true → exec (.put r) s = .next s) ∧
        ∀ i g, f.src.region = some i → (s.part p).region? i = some g → s.served p i → f.src.offset + n ≤ g.length →
          spanOpen p i f.src.offset n s = false → ∃ t, exec (.put r) s = .next t ∧ memTraffic s t ∧ linesSame p i [] s t ∧
            ok t ((List.range n).map fun k => s.regionByte p i (f.src.offset + k))) ∧
      (s.runs r 0x0601 x →
        let c := (s.cd d).eng.coe.chans.getD ch {}
        let even := r.step % 2 = 0
        let have' := if even then (if c.step0 = r.step then c.count0 else 0)
          else if c.step1 = r.step then c.count1 else 0
        let leaves := fun (k : Nat) => s.modCoe d fun q => { q with
          chans := q.chans.set ch (if even then { c with step0 := r.step, count0 := k }
            else { c with step1 := r.step, count1 := k }) }
        ((x.w 1).toNat ≤ have' → exec (.waitin r) s = .next ((leaves (have' - (x.w 1).toNat)).marked r)) ∧
        (have' < (x.w 1).toNat → exec (.waitin r) s = .next (leaves have'))) ∧
      (s.runs r 0x0602 x → 0 < n →
        let f := AccumOp.of x.w
        let w := (elemOf f.fmt).bits / 8
        (f.module ≠ 0xFFFF → ∃ t, exec (.accum r) s = .next t ∧ t.hubs = s.hubs ∧ sent t (n * w) (joins
          { ident := fab.nextMsg, kind := 2, ref := r, dstModule := f.module, dstDie := 0xFF, channel := 0,
            format := f.fmt, number := number f.module, ordinal := accumOrdinal r s, ring := 0, region := f.region,
            offset := f.offset, data := s.padBytes d f.src (n * w) }) (counted f.module)) ∧
        ∀ (g : Region) (home : Nat → Nat), f.module = 0xFFFF → 0 < w → (s.part p).region? f.region = some g → g.reduces f.fmt = true →
          (∀ k < n, home k < 32 ∧ s.isCut (.stack (home k)) = false ∧
            ∃ loc, (s.part p).place? f.region (f.offset + k * w) = some (home k, loc)) →
          let elem := fun (k : Nat) => ({
            part := p, region := f.region, offset := f.offset + k * w, format := f.fmt
            bits := BitVec.ofNat 32 (elemAt (elemOf f.fmt) (s.padBytes d f.src (n * w)) k)
            srcModule := (s.part p).frame.moduleNumber, srcDie := d, step := r.step, ordinal := accumOrdinal r s
            pos := k, sender := some r } : Arrival)
          ∃ t, exec (.accum r) s = .next t ∧ sent t (n * w) id id ∧ ∀ h < 32, t.hub h = { s.hub h with
            red := { (s.hub h).red with
              inFlight := (s.hub h).red.inFlight ++ ((List.range n).filter fun k => home k == h).map elem } }) ∧
      ∀ i g, s.runs r 0x0603 x → 0 < n →
        let f := RingOp.of x.w
        let here := (s.part p).frame.moduleNumber
        let ms := (s.part p).members f.ring
        2 ≤ ms.length → i < ms.length → ms[i]? = some (here, d) → (∀ j < i, ms[j]? ≠ some (here, d)) →
        (spanOpen p f.region (f.offset + i * n) n s = true → exec (.ringag r) s = .next s) ∧
        (spanOpen p f.region (f.offset + i * n) n s = false → (∀ q ∈ ms, s.memberOut p q = false) → fab.early = [] →
          (∀ q ∈ fab.rings, q.ref ≠ r) → (s.part p).region? f.region = some g →
          s.served p f.region → f.offset + (i + 1) * n ≤ g.length →
          let both := ((s.part p).ringPlan f.ring).any fun k => k.direction == 1
          let own : RingProgress :=
            { ref := r, ring := f.ring, count := n, region := f.region, offset := f.offset, pos := i, members := ms
              both := both, got := [i] }
          let data := (List.range n).map fun k => s.regionByte p f.region (f.offset + i * n + k)
          let goes := (if both ∧ 3 ≤ ms.length then [i + 1, i + (ms.length - 1)] else [i + 1]).map fun k =>
            ms.getD (k % ms.length) (0, 0)
          let post := fun (b : Fabric × Coe) (m : Nat × Nat) =>
            if m.1 = here then ({ b.1 with
              mesh := b.1.mesh ++ [.shard r m.2 f.ring f.region (f.offset + i * n) data [] false] }, b.2)
            else
              let number := look b.2.numbers m.1 0
              ({ b.1 with
                nextMsg := b.1.nextMsg + 1
                msgs := b.1.msgs ++ [{
                  ident := b.1.nextMsg, kind := 3, ref := r, dstModule := m.1, dstDie := m.2, channel := 0, format := 0
                  number := number, ordinal := 0, ring := f.ring, region := f.region, offset := f.offset + i * n
                  data := data }] },
                { b.2 with numbers := place b.2.numbers m.1 0 (number + 1) })
          let posted := goes.foldl post ({ fab with rings := fab.rings ++ [own] }, (s.cd d).eng.coe)
          ∃ t, exec (.ringag r) s = .next t ∧ memTraffic s t ∧ linesSame p f.region [] s t ∧
            sent t (n * goes.length) (fun _ => posted.1) fun c => { c with numbers := posted.2.numbers })) ∧
    ∀ i m, (s.part p).fab.mesh[i]? = some m →
      let out := fun (s : State) => s.modFab p fun f => { f with mesh := f.mesh.eraseIdx i }
      let e := (s.part p).frame
      (m.inside e = false → ∃ t rec, exec (.meshMessageArrival p i) s = .next t ∧
        t = { out s with ctrl := { s.ctrl with log := t.ctrl.log }, parts := t.parts } ∧
        (∀ q, q ≠ p → t.part q = s.part q) ∧
        t.part p = { (out s).part p with meshReject := min ((s.part p).meshReject + 1) 0xFFFFFFFF } ∧
        t.ctrl.log = s.ctrl.log.accept rec ∧ rec.kind = 0x12) ∧
      (m.inside e = true → m.waits p s = true → exec (.meshMessageArrival p i) s = .next s) ∧
      (∀ r d ch off data skip, m = .put r d ch 0xFFFF off data skip → r.die ∈ e.cds → d ∈ e.cds → d < 16 → ch < 64 →
        (s.isCut (.cd d) = true → exec (.meshMessageArrival p i) s = .next s) ∧
        (s.isCut (.cd d) = false → 2 ^ 27 < off + data.length → exec (.meshMessageArrival p i) s =
          .next ((out s).modCoe d fun c => { c with inReject := min (c.inReject + 1) 0xFFFFFFFF })) ∧
        (s.isCut (.cd d) = false → off + data.length ≤ 2 ^ 27 → (s.pad d).sound = true → s.partOfCd d = some p →
          skip = [] → ∃ t, exec (.meshMessageArrival p i) s = .next t ∧
            t = { out s with cds := t.cds } ∧ (∀ e, e ≠ d → t.cd e = s.cd e) ∧
            t.padBytes d off data.length = data ∧ padSame d [(off, data.length)] s t ∧
            (∃ seq, t.cd d = { s.cd d with
              seq := { (s.cd d).seq with steps := seq }
              scratch := { (s.cd d).scratch with store := t.pad d }
              eng := { (s.cd d).eng with coe := { (s.cd d).eng.coe with
                inBytes := ((s.cd d).eng.coe.inBytes + data.length) % 2 ^ 64
                chans := (t.cd d).eng.coe.chans } } }) ∧
            (let c := (s.cd d).eng.coe.chans.getD ch {}
             (t.cd d).eng.coe.chans = (s.cd d).eng.coe.chans.set ch (if r.step % 2 = 0
               then { c with step0 := r.step, count0 := (if c.step0 = r.step then c.count0 else 0) + data.length }
               else { c with step1 := r.step, count1 := (if c.step1 = r.step then c.count1 else 0) + data.length })) ∧
            ∀ q y, s.rec? q = some y → t.rec? q = some { y with
              idle := if q.die = d ∧ q.step = r.step ∧ y.record.opcode = 0x0601 ∧ field (y.w 0) 5 0 = ch then 0
                else y.idle })) ∧
      (∀ r d ring region off data, m = .shard r d ring region off data [] true → r.die ∈ e.cds → d ∈ e.cds →
        spanOpen p region off data.length s = false → s.shardCame p d r.step ring region off = false → s.isCut (.cd d) = false →
        (∀ g ∈ (s.part p).fab.rings, g.ref.die ≠ d) → ∃ t, exec (.meshMessageArrival p i) s = .next t ∧
          t.hubs = s.hubs ∧ (t.part p).fab = { (s.part p).fab with
            mesh := (s.part p).fab.mesh.eraseIdx i
            early := (s.part p).fab.early ++ [⟨d, r.step, ring, region, off, true⟩] }) ∧
      ∀ u step sh, m = .share u step sh → u ∈ e.uds → ∃ t, exec (.meshMessageArrival p i) s = .next t ∧
        (t.part p).fab = { (s.part p).fab with mesh := (s.part p).fab.mesh.eraseIdx i } ∧ t.hubs = s.hubs ∧
        t.uds = s.uds ∧ ((t.part p).gather step).shares =
          if ((s.part p).gather step).shares.any (fun y => y.1 == u) then ((s.part p).gather step).shares
          else ((s.part p).gather step).shares ++ [(u, sh)]

/-- O54. A running STEPWORD that has not begun hands the lead die its step, exponent, threshold, masked amax array and software share, and the stall counts of its step's STEPWORDs start again. Once every contribution is there, GATHER_DONE forms the word: minima, maxima, saturating and exact sums, with input lost where a die or stack is cut out; with ring 0xFF it is the combined word, and else the ring's first member sends it on, with input lost where it closes the ring, and the others wait; a member with no other left takes its own word. VERDICT_DELIVERY writes every running die's amax array and verdict block, after the adjustments its loss scale owes already, and gives every update die of the partition the verdict of the first row of Table 09.5 that holds. (R230; R235; R236; R238; R239; R240; R241; R242; R246; R394; 09_training_numerics.md Table 09.2; 09_training_numerics.md Table 09.5) -/
def Obligations.StepWords : Prop :=
  (∀ w : StepWordVal,
    let v := w.verdict
    let b := w.cfgMin % 2 ^ 32
    let mag := b % 2 ^ 31
    let differs := w.mismatch = true ∨ w.stepMin ≠ w.stepMax ∨ w.lexpMin ≠ w.lexpMax ∨ w.cfgMin ≠ w.cfgMax
    let config := 2 ^ 31 ≤ b ∨ mag = 0 ∨ 0x7F800000 < mag
    let votes := 0 < w.nonfinite ∨ w.normOvf = true
    let skips := fun (k : Nat) => v.skip = true ∧ v.reason = k ∧ v.clip = 0
    (w.inputLost = true → skips 4) ∧
    (w.inputLost = false → differs → skips 2) ∧
    (w.inputLost = false → ¬ differs → config → skips 3) ∧
    (w.inputLost = false → ¬ differs → ¬ config → votes → skips 1) ∧
    (w.inputLost = false → ¬ differs → ¬ config → ¬ votes → v.skip = false ∧ v.reason = 0 ∧
      (mag = 0x7F800000 → v.clip = 0x3F800000) ∧
      ∀ m e, f32 (BitVec.ofNat 32 w.cfgMin) = .fin false m e →
        if magGt w.normSq (-448) (m * m) (2 * e) then v.clip = (round32 .rne (clipExact m e w.normSq)).1 ∧ v.clipped = true
        else v.clip = 0x3F800000 ∧ v.clipped = false)) ∧
  ∀ (s : State) (p : Nat), s.whole = true → s.memWf = true → p < 4 →
    (∀ r x, s.runs r 0x0604 x → x.begun = false → s.partOfCd r.die = some p → (s.pad r.die).sound = true →
      let d := r.die
      let n := x.record.count - 1
      let l := wordInt (x.w 6)
      let base : StepWordVal :=
        { stepMin := r.step, stepMax := r.step, lexpMin := max (-128) (min 127 l), lexpMax := max (-128) (min 127 l)
          mismatch := l != (s.cd d).eng.cve.cur, normOvf := false, inputLost := false, cfgMin := (x.w 7).toNat
          cfgMax := (x.w 7).toNat, nonfinite := 0, normSq := 0
          amax := (List.range n).map fun i =>
            BitVec.ofNat 32 (leNat (s.padBytes d ((x.w 1).toNat + 4 * i) 4)) &&& 0x7FFFFFFF }
      let at4 := fun (k : Nat) => leNat (s.padBytes d ((x.w 4).toNat + k) 4)
      let word := if (x.w 4).toNat = 0xFFFFFFFF then base
        else base.addShare (softShare (BitVec.ofNat 32 (at4 0)) (at4 4) (at4 8 % 2 == 1))
      let g := (s.part p).gather r.step
      ∃ t, exec (.stepword r) s = .next t ∧ t = { s with cds := t.cds, parts := t.parts } ∧
        (∀ q, q ≠ p → t.part q = s.part q) ∧ t.part p = { s.part p with gathers := (t.part p).gathers } ∧
        (∀ k, k ≠ r.step → (t.part p).gather k = (s.part p).gather k) ∧
        (t.part p).gather r.step = { g with 
          dies := g.dies ++ [(d, r.cmd, word)]
          ring := field (x.w 5) 7 0
          members := if g.dies.isEmpty then (s.part p).members (field (x.w 5) 7 0) else g.members } ∧
        (∀ e, ∃ steps, t.cd e = { s.cd e with
          seq := { (s.cd e).seq with steps := steps }
          eng := if e = d then { (s.cd e).eng with coe := { (s.cd e).eng.coe with swState := 1 } } else (s.cd e).eng }) ∧
        ∀ q y, s.rec? q = some y → t.rec? q = some { y with
          begun := if q = r then true else y.begun
          idle := if y.record.opcode = 0x0604 ∧ q.step = r.step ∧ q.die ∈ (s.part p).frame.cds then 0 else y.idle }) ∧
    (∀ g, gatherDue p s = some g → g.dies ≠ [] → (s.part p).gather g.step = g →
      let words := g.dies.map (·.2.2)
      let total := (words.map (·.normSq)).foldl (· + ·) 0 + (g.shares.map (·.2.normSq)).foldl (· + ·) 0
      let votes := (words.map (·.nonfinite)).foldl (· + ·) 0 + (g.shares.map (·.2.nonfinite)).foldl (· + ·) 0
      (∀ w ∈ words, w.normSq ≤ normCap ∧ w.nonfinite < 2 ^ 64 ∧ (w.normOvf = true → w.normSq = normCap)) →
      ∃ w t, exec (.stepwordGatherDone p) s = .next t ∧ ((t.part p).gather g.step).moduleWord = some w ∧
        (∀ y ∈ words, w.stepMin ≤ y.stepMin ∧ y.stepMax ≤ w.stepMax ∧ w.lexpMin ≤ y.lexpMin ∧ y.lexpMax ≤ w.lexpMax ∧
          w.cfgMin ≤ y.cfgMin ∧ y.cfgMax ≤ w.cfgMax) ∧
        w.stepMin ∈ words.map (·.stepMin) ∧ w.stepMax ∈ words.map (·.stepMax) ∧
        w.lexpMin ∈ words.map (·.lexpMin) ∧ w.lexpMax ∈ words.map (·.lexpMax) ∧
        w.cfgMin ∈ words.map (·.cfgMin) ∧ w.cfgMax ∈ words.map (·.cfgMax) ∧
        w.mismatch = words.any (·.mismatch) ∧ w.nonfinite = min votes (2 ^ 64 - 1) ∧
        w.inputLost = (words.any (·.inputLost) || g.shares.any (·.2.inputLost) || s.holdsCut p) ∧
        w.normOvf = (words.any (·.normOvf) || g.shares.any (·.2.normOvf) || decide (normCap < total)) ∧
        w.normSq = (if w.normOvf then normCap else total) ∧
        (g.ring = 0xFF → t = s.modGather p g.step fun q => { q with moduleWord := some w, combined := some w }) ∧
        (∀ lead i st, g.ring ≠ 0xFF → g.lead = some lead → g.sent = 0 → g.inbox = [] → g.combined = none →
          let ms := g.members
          let skipped := (s.successor p ms i).2
          let marked := if skipped = [] then w else { w with inputLost := true }
          ringPos ms ((s.part p).moduleNo, lead) = some i → s.ringStart p ms = some st →
          ((s.successor p ms i).1 = none → t.hubs = s.hubs ∧ t.baith = s.baith ∧
            ((t.part p).gather g.step).combined = some marked) ∧
          ∀ k, (s.successor p ms i).1 = some k → s.brokenAt p (ms.getD k (0, 0)) skipped = false →
            t = { s with cds := t.cds, parts := t.parts } ∧
            (∀ e ∈ g.dies, e.1 < 16 → (t.cd e.1).eng.coe.swState = 2) ∧
            (i ≠ st → (t.part p).fab = (s.part p).fab ∧ ((t.part p).gather g.step).sent = 0) ∧
            (i = st → ((t.part p).gather g.step).sent = 1 ∧
              ∃ m, (t.part p).fab.msgs = (s.part p).fab.msgs ++ [m] ∧ m.kind = 4 ∧ m.data = marked.bytes ∧
                m.ring = g.ring ∧ m.ref.die = lead ∧ m.ref.step = g.step ∧
                (m.dstModule, m.dstDie) = ms.getD k (0, 0)))) ∧
    ((gatherDue p s = none → exec (.stepwordGatherDone p) s = .next s) ∧
      ((∀ g ∈ (s.part p).gathers, g.combined = none) → exec (.verdictDelivery p) s = .next s)) ∧
    ∀ (g : Gather) (w : StepWordVal) (x : Nat → RecState), (s.part p).gathers.find? (fun q => q.combined.isSome) = some g →
      g.combined = some w → (g.dies.map (·.1)).Nodup →
      (∀ e ∈ g.dies, e.1 < 16 ∧ s.rec? ⟨e.1, g.step, e.2.1⟩ = some (x e.1) ∧ (x e.1).phase = .running ∧
        (x e.1).executed = false ∧ (s.pad e.1).sound = true) →
      let out := fun (d : Nat) => ((w.amax ++ List.replicate (x d).count 0).take ((x d).count - 1)).flatMap fun (a : Word) =>
        leBytes 4 a.toNat
      let scale := fun (d : Nat) => (s.cd d).eng.cve.owed.adjusted w.verdict.reason
      let block := fun (d : Nat) => w.verdict.block (scale d).1 (scale d).2
      (∀ e ∈ g.dies, ((x e.1).w 2).toNat + (out e.1).length ≤ ((x e.1).w 3).toNat ∨
        ((x e.1).w 3).toNat + 64 ≤ ((x e.1).w 2).toNat) →
      ∃ t, exec (.verdictDelivery p) s = .next t ∧
        t = { s with cds := t.cds, uds := t.uds, baith := t.baith, parts := t.parts } ∧
        t.part p = { s.part p with gathers := (s.part p).gathers.filter fun q => q.step != g.step } ∧
        (∀ q, q ≠ p → t.part q = s.part q) ∧
        (∀ b, t.bp b = { s.bp b with
          telemetry := (t.bp b).telemetry, heldTelem := (t.bp b).heldTelem, telemDrop := (t.bp b).telemDrop }) ∧
        (w.verdict.reason ≠ 2 → w.verdict.reason ≠ 3 → t.baith = s.baith) ∧
        (∀ u < 32, t.ud u = if u ∈ (s.part p).frame.uds then { s.ud u with
            verdicts := (g.step, w.verdict) :: (s.ud u).verdicts.filter fun k => k.1 != g.step && g.step ≤ k.1 + 2 }
          else s.ud u) ∧
        (∀ d, d ∉ g.dies.map (·.1) → t.cd d = s.cd d) ∧
        ∀ e ∈ g.dies,
          let d := e.1
          let z := x d
          t.cd d = { s.cd d with
            seq := ((s.marked ⟨d, g.step, e.2.1⟩).cd d).seq
            scratch := { (s.cd d).scratch with store := t.pad d }
            eng := { (s.cd d).eng with
              cve := { (s.cd d).eng.cve with adjusts := (s.cd d).eng.cve.adjusts ++ [(g.step, w.verdict.reason)] }
              coe := (s.cd d).eng.coe.takeVerdict w.verdict (scale d).1 } } ∧
          t.padBytes d (z.w 2).toNat (out d).length = out d ∧ t.padBytes d (z.w 3).toNat 64 = block d ∧
          padSame d [((z.w 2).toNat, (out d).length), ((z.w 3).toNat, 64)] s t

/-- O55. For a running record of an update die that its hub serves: UFOLD waits for the granules of its blocks and then folds every owned gradient of the entries that are not frozen; a discarded granule sets the input-lost bit and the record's mark. USHARE sends the share with the pending amax and starts it anew. UPDATE begins and waits; UPDATE_APPLY acts only once the die's hub holds the step's verdict: on SKIP it marks the record and counts, on APPLY it waits for its granules and then updates every owned element by Table 10.3 with its working copies, counts frozen entries, and touches no other update die. All of it is said of what lies in the update die's own stack; the distance between gradient elements is gradStride (log entry 115). A count of 0 changes nothing. (R18; R248; R252; R253; R254; R255; R256; R257; R258; R260; R262; 10_update_dies.md Table 10.3) -/
def Obligations.Updates : Prop :=
  (∀ (c : UpdCtx) (gs : Nat) (th m v : Word),
    let g := (round32nv .rne (numMul ((Num.read (elemOf c.code) gs).scale (-(c.lexp + c.gScale))) (f32 c.clip))).1
    let step := fun (d : Word) => (sub32 th (mul32 c.lr (add32 d (mul32 c.decay th).1).1).1).1
    let out := updElem c gs th m v
    (c.rule = 1 → let m' := (fma32 c.beta1 m g).1
      out.1 = step m' ∧ out.2.1 = m' ∧ out.2.2.1 = v) ∧
    (c.rule ≠ 1 →
      let m' := (fma32 c.beta1 m (mul32 (sub32 0x3F800000 c.beta1).1 g).1).1
      let v' := (fma32 c.beta2 v (mul32 (sub32 0x3F800000 c.beta2).1 (mul32 g g).1).1).1
      let d := (divUd (mul32 m' c.bc1).1 (add32 (sqrt32 (mul32 v' c.bc2).1).1 c.epsilon).1).1
      out.1 = step d ∧ out.2.1 = m' ∧ out.2.2.1 = v')) ∧
  ∀ (s : State) (p : Nat) (r : RecRef) (x : RecState), s.whole = true → s.memWf = true → s.tablesWf = true →
    s.partOfCd r.die = some p → x.record.unit = 0x13 ∨ x.record.unit = 0x14 →
    let d := r.die
    let u := 2 * d + (x.record.unit - 0x13)
    let q := s.part p
    let runs := recRuns q u x
    let others := fun (t : State) => (∀ k, k ≠ u → t.ud k = s.ud k) ∧ (∀ e, e ≠ d → t.cd e = s.cd e) ∧
      t.cd d = { s.cd d with seq := (t.cd d).seq }
    let frozen := (recEntries x).filter fun e => frozenHere q u x e
    (x.record.count = 0 → ∀ c ∈ [(0x0A00, Instr.ufold r), (0x0A01, .ushare r)], s.runs r c.1 x →
      (c.1 = 0x0A00 → granulesReady r x (field (x.w 3) 7 0) s = true) → exec c.2 s = .next (s.marked r)) ∧
    (s.runs r 0x0A00 x → 0 < x.record.count →
      let code := field (x.w 3) 7 0
      let w := gradWidth code
      let stride := fun (region : Nat) => gradStride q region code
      let state := fun (k : Nat × UpdEntry × OwnedRun) => runState s p u r.step k.2.1 k.2.2 w
      let scale := -(wordInt (x.w 2) + wordInt (x.w 1))
      ((∃ k ∈ runs, state k = .waiting) → exec (.ufold r) s = .next s) ∧
      ((∀ k ∈ runs, state k ≠ .waiting) → ∃ t y, exec (.ufold r) s = .next t ∧ others t ∧ t.rec? r = some y ∧
        y.executed = true ∧ y.record = x.record ∧ (t.ud u) = { s.ud u with share := (t.ud u).share } ∧
        (frozen ≠ [] → y.frozen = true) ∧
        ((∃ k ∈ runs, state k = .discarded) → (t.ud u).share.inputLost = true ∧ y.lost = true) ∧
        ((∀ k ∈ runs, state k = .ready ∧ s.served p k.2.1.gradient ∧ (k.2.2.first + k.2.2.count) * stride k.2.1.gradient ≤
            ((q.region? k.2.1.gradient).elim 0 (·.length)) ∧
            ownSpan q k.2.1.gradient (k.2.2.first * stride k.2.1.gradient) (k.2.2.count * stride k.2.1.gradient) u = true) →
          0 < w → (∀ k ∈ runs, stride k.2.1.gradient ∣ 4) →
          memTraffic s t ∧ t = { s with cds := t.cds, hubs := t.hubs, uds := t.uds } ∧
          y = { x with executed := true, frozen := x.frozen || !frozen.isEmpty } ∧
          (∀ k ∈ runs, linesSame p k.2.1.gradient [] s t) ∧
          (t.ud u).share = (runs.flatMap fun k => (List.range k.2.2.count).map fun i =>
            (Num.read (elemOf code) (s.regionNat p k.2.1.gradient ((k.2.2.first + i) * stride k.2.1.gradient) w)).scale scale).foldl
              Share.fold (s.ud u).share))) ∧
    (s.runs r 0x0A01 x → 0 < x.record.count →
      let h := s.ud u
      let sh : Share := { h.share with
        nonfinite := h.share.nonfinite + h.nextNf
        amax := (List.range (x.record.count - 1)).map fun i => look h.pendAmax (field (x.w 0) 11 0 + i) 0 }
      exec (.ushare r) s = .next (((s.modUd u fun k => { k with share := {}, pendFresh := [] }).modFab p fun f =>
        { f with mesh := f.mesh ++ [.share u r.step sh] }).marked r)) ∧
    (s.runs r 0x0A02 x → x.begun = false → exec (.update r) s = .next (s.modRec r fun y =>
      { y with begun := true, executed := decide (x.record.count = 0) })) ∧
    (s.runs r 0x0A02 x → x.begun = true →
      ((∀ k ∈ (s.ud u).verdicts, k.1 ≠ r.step) → exec (.updateApply r) s = .next s) ∧
      ∀ v, (s.ud u).verdicts.find? (fun k => k.1 == r.step) = some (r.step, v) →
        let last := fun (k : Ud) => { k with lastStep := BitVec.ofNat 32 r.step }
        (v.skip = true → v.reason = 4 → exec (.updateApply r) s =
          .next ((s.modUd u last).modRec r fun y => { y with lost := true, executed := true })) ∧
        (v.skip = true → v.reason ≠ 4 → exec (.updateApply r) s =
          .next ((s.modUd u fun k => { last k with stepSkip := min (k.stepSkip + 1) 0xFFFFFFFF }).modRec r
            fun y => { y with skipped := true, executed := true })) ∧
        (v.skip = false →
          let ready := granulesReady r x (field (x.w 6) 7 0) s
          (ready = false → exec (.updateApply r) s = .next s) ∧
          ∀ img, ready = true → q.active = some img → ∃ t y, exec (.updateApply r) s = .next t ∧ others t ∧
            t = { s with
                  cds := t.cds, hubs := t.hubs, uds := t.uds, free := t.free, baith := t.baith
                  ctrl := { s.ctrl with log := t.ctrl.log } } ∧
            t.rec? r = some y ∧ y.executed = true ∧ y.record = x.record ∧ (frozen ≠ [] → y.frozen = true) ∧
            (t.ud u).lastStep = BitVec.ofNat 32 r.step ∧
            (t.ud u).frozenSkip = min ((s.ud u).frozenSkip + frozen.length) 0xFFFFFFFF ∧
            (t.ud u).share = (s.ud u).share ∧ (t.ud u).verdicts = (s.ud u).verdicts ∧
            ∀ e g run, x.record.count = 1 → runs = [(e, g, run)] → run.count ≤ 4096 →
              let c := UpdCtx.of x.w img.upd v
              let w := gradWidth c.code
              let st := gradStride q g.gradient c.code
              let moments := if c.rule = 1 then [g.moment1] else [g.moment1, g.moment2]
              let regions := [g.master, g.gradient, g.fp8] ++ moments ++ if c.bf16 then [g.bf16] else []
              0 < w → st ∣ 4 → runState s p u r.step g run w = .ready → s.apart p regions →
              (∀ k ∈ regions,
                let e := if k = g.gradient then st else if k = g.fp8 then 1 else if c.bf16 ∧ k = g.bf16 then 2 else 4
                s.served p k ∧ (run.first + run.count) * e ≤ (q.region? k).elim 0 (·.length) ∧
                  ownSpan q k (run.first * e) (run.count * e) u = true) →
              (∀ i < run.count,
                let at4 := fun (k : State) (region : Nat) => BitVec.ofNat 32 (k.regionNat p region (4 * (run.first + i)) 4)
                let out := updElem c (s.regionNat p g.gradient (st * (run.first + i)) w) (at4 s g.master)
                  (at4 s g.moment1) (if c.rule = 1 then 0 else at4 s g.moment2)
                at4 t g.master = out.1 ∧ at4 t g.moment1 = out.2.1 ∧ (c.rule ≠ 1 → at4 t g.moment2 = out.2.2.1) ∧
                t.regionNat p g.fp8 (run.first + i) 1 = (copyE4m3 c.wcScale out.1).1 % 256 ∧
                (c.bf16 = true → t.regionNat p g.bf16 (2 * (run.first + i)) 2 = (copyBf16 out.1).1 % 65536)) ∧
              regionSame p g.gradient [] s t ∧ regionSame p g.master [(4 * run.first, 4 * run.count)] s t ∧
              (∀ k ∈ moments, regionSame p k [(4 * run.first, 4 * run.count)] s t) ∧
              regionSame p g.fp8 [(run.first, run.count)] s t ∧
              y = { x with executed := true, frozen := x.frozen || !frozen.isEmpty }))

/-- O56. SCRUB and a register pass read every line of their span in the hub's own stack: no byte changes where the clean cached copies are what the stack holds, an orderly hub raises nothing, and the pass counts every line, and every line that fails twice as found. Breeze, where it is on and its microsecond's rate allows, advances its walk and reads the next line that is not dirty in the cache; a failing line is held while an UPDATE runs, is rewritten whole from its masters where R307 allows and its channel trained, and is counted as not repaired otherwise. A held line that reads well again is recorded as recovered. HUB_WRITEBACK_DONE clears its bit, and CELL_AREA_READY writes ways 16 to 31 back and frees their space. (R267; R278; R280; R288; R291; R297; R304; R305; R306; R307; 12_line_checks_and_memory_faults.md Table 12.2) -/
def Obligations.HubUpkeep : Prop :=
  ∀ (s : State) (h : Nat), s.whole = true → s.memWf = true → s.tablesWf = true → h < 32 →
    let c := (s.hub h).chk
    let chk := fun (f : LineCheck → LineCheck) => Host.Outcome.next (s.modChk h f)
    let fails := fun (l : Nat) =>
      let b := s.hub h
      let a := b.place (64 * l)
      let want := fun (data : List Byte) => lineCheck data (stackSeal a)
      match b.cached l with
      | some k => if k.dirty then k.check != want k.data
          else b.unreachable a || b.mem.stack.hard.contains (physLine a) ||
            b.mem.stack.stored (physLine a) (stackSeal a) != want (b.mem.stack.data (physLine a))
      | none => b.unreachable a || b.mem.stack.hard.contains (physLine a) ||
          b.mem.stack.stored (physLine a) (stackSeal a) != want (b.mem.stack.data (physLine a))
    let logged := fun (t : State) => t = { s with
          cds := t.cds, hubs := t.hubs, free := t.free, baith := t.baith
          ctrl := { s.ctrl with log := t.ctrl.log } } ∧
        ∀ b, t.bp b = { s.bp b with
          telemetry := (t.bp b).telemetry, heldTelem := (t.bp b).heldTelem, telemDrop := (t.bp b).telemDrop }
    let coherent := ∀ k ∈ (s.hub h).mem.cache, k.dirty = false →
      k.data = (s.hub h).mem.stack.data (physLine ((s.hub h).place (64 * k.line)))
    let bytesSame := fun (t : State) => logged t ∧ t.cds = s.cds ∧ (∀ k, k ≠ h → t.hub k = s.hub k) ∧
      (coherent → ∀ l, (t.hub h).line l = (s.hub h).line l) ∧
      t.hub h = { s.hub h with
        chk := (t.hub h).chk
        mem := { (s.hub h).mem with stack := (t.hub h).mem.stack, cache := (t.hub h).mem.cache } }
    exec (.hubWritebackDone h) s = .next (s.modMem h fun m => { m with writingBack := false }) ∧
    ((s.hub h).mem.clearing = false → exec (.cellAreaReady h) s = .next s) ∧
    ((s.hub h).mem.clearing = true → (s.hub h).orderly → ∃ t, exec (.cellAreaReady h) s = .next t ∧
      t = { s with hubs := t.hubs } ∧ (∀ k, k ≠ h → t.hub k = s.hub k) ∧
      t.hub h = { s.hub h with
        red := { (s.hub h).red with cellFree := (s.hub h).red.cellFree + 0x02000000 }
        mem := { (s.hub h).mem with
          clearing := false
          stack := (t.hub h).mem.stack
          cache := (s.hub h).mem.cache.filter fun k => k.way < 16 } } ∧
      ∀ l, 64 * l < usableBytes (s.hub h).mem.chanUse → (t.hub h).line l = (s.hub h).line l) ∧
    (c.scrRunning = false → exec (.scrubPassEnd h) s = .next s) ∧
    (c.scrRunning = true → ∃ t, exec (.scrubPassEnd h) s = .next t ∧ bytesSame t ∧
      (t.hub h).chk = { c with
        scrRunning := false
        scrDone := c.scrDone + c.scrSpan.2
        scrFound := c.scrFound + ((List.range c.scrSpan.2).filter fun i => fails (c.scrSpan.1 / 64 + i)).length
        log := (t.hub h).chk.log
        recovered := (t.hub h).chk.recovered
        badCount := (t.hub h).chk.badCount } ∧
      ((s.hub h).orderly → t = s.modChk h fun q =>
        { q with scrRunning := false, scrDone := q.scrDone + q.scrSpan.2 })) ∧
    (∀ r x p, s.runs r 0x0900 x → s.partOfCd r.die = some p → 2 * r.die + (x.record.unit - 0x11) = h →
      ∃ t, exec (.scrub r) s = .next t ∧ logged t ∧ t.cds = (s.marked r).cds ∧ (∀ k, k ≠ h → t.hub k = s.hub k) ∧
        (coherent → ∀ l, (t.hub h).line l = (s.hub h).line l) ∧ ((s.hub h).orderly → t = s.marked r) ∧
        (x.record.count = 0 → t = s.marked r) ∧
        ∀ i loc, x.record.count = 1 → (s.part p).place? (field (x.w 0) 9 0)
            ((x.w 1).toNat + 2 ^ 32 * field (x.w 2) 9 0) = some (i, loc) → i = h → fails (loc / 64) = true →
          (t.hub h).chk = { c with
            log := (t.hub h).chk.log
            badCount := min (c.badCount + 1) 0xFFFFFFFF } ∧
          ∃ f, (t.hub h).chk.log.items.head? = some f ∧ f.kind = 6 ∧ f.source = 0x21 ∧ f.site = h ∧ f.time = s.now) ∧
    (c.brzHeld = [] ∨ updateRuns h s = true → exec (.breezeHeldRecheck h) s = .next s) ∧
    (∀ line rest, c.brzHeld = line :: rest → updateRuns h s = false → (s.hub h).orderly →
      ∃ t, exec (.breezeHeldRecheck h) s = .next t ∧ bytesSame t ∧ (t.hub h).chk = { c with
        brzHeld := rest
        log := (t.hub h).chk.log
        recovered := min (c.recovered + 1) 0xFFFFFFFF }) ∧
    let us := s.now / 1000
    let begun := if c.brzUs = us then c.brzInUs else 0
    let on := hasBreeze s.ctrl.ident.part && s.live (.stack h) && (c.brz.live.getD 3 0).testBit 0 &&
      begun < c.brz.live.getD 2 0 % 2 ^ 13
    let line := c.brzPos / 64
    let moved := fun (q : LineCheck) => if q.brz.live.getD 1 0 ≤ q.brzPos
      then { q with brzPos := q.brz.live.getD 0 0, brzPasses := min (q.brzPasses + 1) 0xFFFFFFFF }
      else { q with brzPos := q.brzPos + 64 }
    let read := fun (q : LineCheck) => { moved q with brzInUs := begun + 1, brzUs := us }
    let dirty := ((s.hub h).cached line).elim false (·.dirty)
    (on = false → exec (.breezeRead h []) s = .next s) ∧
    (on = true → dirty = true → exec (.breezeRead h []) s = chk moved) ∧
    (on = true → dirty = false → (fails line = false → (s.hub h).mem.stack.glitch = [] →
        exec (.breezeRead h []) s = chk read) ∧
      (fails line = true → updateRuns h s = true → ∃ t, exec (.breezeRead h []) s = .next t ∧ bytesSame t ∧
        (t.hub h).chk = { read c with
          brzHeld := c.brzHeld ++ [line]
          log := (t.hub h).chk.log
          badCount := min (c.badCount + 1) 0xFFFFFFFF }) ∧
      (fails line = true → updateRuns h s = false → 
          ((s.partOfHub h).bind fun p => (s.part p).regionAt h (64 * line)) = none → ∃ t,
        exec (.breezeRead h []) s = .next t ∧ bytesSame t ∧ (t.hub h).chk = { read c with
          brzUnrepaired := min (c.brzUnrepaired + 1) 0xFFFFFFFF
          log := (t.hub h).chk.log
          badCount := min (c.badCount + 1) 0xFFFFFFFF }) ∧
      ∀ p region o, fails line = true → updateRuns h s = false → s.partOfHub h = some p →
        (s.part p).regionAt h (64 * line) = some (region, o) →
        match (s.hub h).unreachable ((s.hub h).place (64 * line)),
          (rebuildLine p h region o (checkLine h line 0x20 0 (s.modChk h read)).state).2 with
        | true, _
        | false, none => ∃ t, exec (.breezeRead h []) s = .next t ∧ logged t ∧
            (t.hub h).chk.brzUnrepaired = min (c.brzUnrepaired + 1) 0xFFFFFFFF
        | false, some bs => ∃ t, exec (.breezeRead h []) s = .next t ∧ logged t ∧
            (t.hub h).line line = (bs ++ List.replicate (64 - bs.length) 0).take 64 ∧
            (t.hub h).chk.brzRepaired = min (c.brzRepaired + 1) 0xFFFFFFFF)

/-- O57. TICK_BOUNDARY of a present, powered partition moves module time on to the boundary if that is later and numbers the tick (a commit that changes the cadence renumbers it). A due job image comes into force in its hubs; WINDROSE_COMMIT is that boundary, and nothing where no commit is due. A due frame image gives every partition its entry. Where none is due, a step that begins, no abort waiting, empties its event bank on every die not cut out and takes the segment's numbers; an opening one also clears s-registers and tiles and loads the Pepper seed. PART_RESET leaves dies and update dies as after reset but for their power shares, and refuses a second; PART_RESET_DONE waits for the hubs, and counts and reports the end. (R54; R56; R59; R68; R73; R80; R82; R90; R132; R436; R437; R438) -/
def Obligations.Boundaries : Prop :=
  ∀ (s : State) (p : Nat), s.whole = true → s.memWf = true → p < 4 →
    let q := s.part p
    let n := q.disc.tick + 1
    let at' := s.boundaryTime p n
    let quietFrame := s.frameDue (at' / 4000) = false
    (q.present = false ∨ s.ctrl.module.stage = 0 → exec (.tickBoundary p) s = .next s) ∧
    (q.present = true → s.ctrl.module.stage ≠ 0 → quietFrame → at' < 2 ^ 64 →
      ∃ t, exec (.tickBoundary p) s = .next t ∧ t.ctrl.clock.time.toNat = max s.ctrl.clock.time.toNat at' ∧
        t.pending = s.pending ∧ (t.part p).present = true ∧ (t.part p).frame = q.frame ∧
        ((∀ g ∈ q.stream.queued, ∀ e ∈ g.dies, e.die ∈ q.frame.cds) →
          ∀ d, d ∉ q.frame.cds → (t.cd d).seq = (s.cd d).seq ∧ (t.cd d).eng = (s.cd d).eng) ∧
        (∀ d < 16, t.pad d = s.pad d) ∧
        (s.jobDue p n = false → (t.part p).disc.tick = n ∧ (t.part p).active = q.active ∧
          (t.part p).pendingImg = q.pendingImg ∧ (∀ h < 32, (t.hub h).mem.stack = (s.hub h).mem.stack ∧
            (t.hub h).mem.cache = (s.hub h).mem.cache)) ∧
        (∀ i, s.jobDue p n = true → q.pendingImg = some i →
          exec (.windroseCommit (.part p)) s = .next t ∧
          (t.part p).active = some i ∧ (t.part p).pendingImg = none ∧ (t.part p).loader = { q.loader with
            state := 4
            commitTick := n
            pendingTick := 0
            digest := i.digest
            commits := min (q.loader.commits + 1) 0xFFFF } ∧
          ∀ h ∈ q.frame.stacks, h < 32 → (t.hub h).mem.chanUse = i.chanUse h ∧
            (t.hub h).mem.usable = usableBytes (i.chanUse h)) ∧
        (∀ g, s.jobDue p n = false → s.stepBegins p n = true → q.stream.abortReq = false → q.stream.queued.head? = some g →
          let st := (t.part p).stream
          st.state = 2 ∧ st.step = g.step ∧ st.stepStart = n ∧ st.stepTicks = g.ticks ∧ st.queued = q.stream.queued.tail ∧
          ∀ d ∈ q.frame.cds, d < 16 → s.isCut (.cd d) = false →
            (∀ e < 64, (t.cd d).seq.ev.getD (64 * (g.step % 2) + e) 0 = 0 ∧
              (t.cd d).seq.ev.getD (64 * ((g.step + 1) % 2) + e) 0 = (s.cd d).seq.ev.getD (64 * ((g.step + 1) % 2) + e) 0) ∧
            (g.opening = true → (t.cd d).seq.sregs = List.replicate 56 0 ∧
              (∀ m < 10, (t.mxe d m).tiles = List.replicate 4 {}) ∧
              (t.cd d).eng.pepper.live = (s.cd d).eng.pepper.seed) ∧
            (g.opening = false → (t.cd d).seq.sregs = (s.cd d).seq.sregs))) ∧
    (s.jobDue p n = false → exec (.windroseCommit (.part p)) s = .next s) ∧
    (let m := max s.ctrl.frameLoader.pendingTick ((s.now + 3999) / 4000)
     (s.frameDue m = false → exec (.windroseCommit .frame) s = .next s) ∧
     ∀ f, s.ctrl.pendingFrame = some f → s.frameDue m = true → ∃ t, exec (.windroseCommit .frame) s = .next t ∧
      t.ctrl.pendingFrame = none ∧ t.ctrl.frameLoader = { s.ctrl.frameLoader with
        state := 4
        commitTick := m
        pendingTick := 0
        digest := f.digest
        commits := min (s.ctrl.frameLoader.commits + 1) 0xFFFF } ∧
      ∀ k < 4, (t.part k).present = ((f.entries.getD k {}).cdCount != 0) ∧
        ((f.entries.getD k {}).cdCount ≠ 0 → (t.part k).frame = f.entries.getD k {})) ∧
    (∀ b, b < 4 → s.grants b winCtrl (0x22000 + 0x100 * p) true →
      (q.present = false ∨ q.resetting = true → exec (.partReset b p) s = .next s) ∧
      (q.present = true → q.resetting = false → ∃ t, exec (.partReset b p) s = .next t ∧
        (t.part p).resetting = true ∧ (t.part p).resetStep = 6 ∧ (t.part p).frame = q.frame ∧
        (t.part p).present = true ∧ (t.part p).active = none ∧ (t.part p).pendingImg = none ∧
        (t.part p).stream.state = 0 ∧ (t.part p).stream.queued = [] ∧ (t.part p).fab = {} ∧
        (∀ d < 16, t.cd d = if d ∈ q.frame.cds then { (s.cd d).fresh with pwr := (t.cd d).pwr } else s.cd d) ∧
        (∀ u < 32, t.ud u = if u ∈ q.frame.uds then { pwr := (t.ud u).pwr } else s.ud u) ∧
        (∀ h < 32, h ∉ q.frame.stacks → t.hub h = s.hub h) ∧ t.pending = s.pending)) ∧
    ∀ ms,
      let whole := q.frame.stacks.all fun h => !(s.live (.stack h)) || (s.hub h).mem.state != 1
      (q.resetting = false ∨ whole = false → exec (.partResetDone p ms) s = .next s) ∧
      (q.resetting = true → whole = true → exec (.partResetDone p ms) s = .next
        (((s.modPart p fun k => { k with
          resetting := false
          resetStep := 0
          resets := min (k.resets + 1) 0xFFFFFFFF
          resetMs := min ms 0xFFFFFFFF }).modLog fun l =>
            { l with live := { l.live with partResets := min (l.live.partResets + 1) 0xFFFFFFFF } }).modBp q.frame.hostPort
          fun k => k.telem (.partitionResetDone p)))

/-- O58. On a lit Baith port the bytes received follow those kept of a block that was not whole: a header that can be accepted brings its ack and credit. A block with the expected sequence, within the port's credit and with a good trailer is accepted: a request waits, a transfer's blocks are joined until the last, blocks of other types may come between, and give their units back, another type is refused. Any other block is dropped and its units come back; a wrong sequence is answered with a keep-alive, and every drop but a duplicate's is counted. The oldest waiting block is sent with the next sequence if credit and the 4 MiB buffer allow, and kept until acknowledged; a resend sends the kept blocks again as far as credit goes. A dark port does nothing. (R419; R421; R423; R424; R425; R426; R427; R428; R429; 17_baith_ports_and_partitions.md Table 17.1; 17_baith_ports_and_partitions.md Table 17.2) -/
def Obligations.BaithBlocks : Prop :=
  ∀ (s : State) (b : Nat), s.whole = true → b < 4 →
    let q := s.bp b
    let up := fun (p : Baith) => { p with light := if p.light = 2 ∧ p.sentBlock ∧ p.gotBlock then 3 else p.light }
    let keepAlive := fun (p : Baith) => if p.light < 2 then p
      else up { p with keepAlives := p.keepAlives + 1, wire := p.keepAliveBytes, sentBlock := true }
    let does := fun (c : Instr) (f : Baith → Baith) => exec c s = .next (s.modBp b f)
    let count := fun (n : Nat) => min (n + 1) 0xFFFFFFFF
    (q.light < 2 → ∀ bytes, ∀ c ∈ [Instr.baithBlockReceive b bytes, .keepAliveReceive b bytes, .baithBlockSend b,
      .keepAliveSend b, .blockTruncateTimeout b bytes, .baithResendTimeout b, .baithSilenceTimeout b], exec c s = .next s) ∧
    does (.keepAliveSend b) keepAlive ∧
    does (.baithSilenceTimeout b) (fun p => if p.light = 3 then { p with silent := true } else p) ∧
    (∀ bytes,
      let all := q.part ++ bytes
      headOk all = true → 2 ≤ q.light → q.hunt ≤ 0xFFFFFFFF →
      let len := leAt all 0x0C 4
      let seq := leAt all 0x08 4
      let tag := leAt all 0x18 4
      let kind := leAt all 4 1
      let units := (len + 1023) / 1024
      let payload := (all.drop 32).take len
      let ack := leAt all 0x10 4
      let headed := fun (p : Baith) => up { p with
        part := []
        gotBlock := true
        silent := false
        creditIn := leAt all 0x14 4
        txAcked := if notPast p.txAcked ack && notPast ack p.txNext then ack else p.txAcked
        unacked := if notPast p.txAcked ack && notPast ack p.txNext then p.unacked.filter fun x => notPast ack x.seq
          else p.unacked }
      let back := fun (p : Baith) => { p with
        unitsIn := (p.unitsIn + units) % 2 ^ 32
        creditOut := (p.creditOut + units) % 2 ^ 32 }
      let taken := fun (p : Baith) => { p with
        rxNext := (p.rxNext + 1) % 2 ^ 32
        inBytes := (p.inBytes + len) % 2 ^ 64
        unitsIn := (p.unitsIn + units) % 2 ^ 32 }
      let x : Block := { kind := kind, more := (leAt all 5 1).testBit 0, seq := seq, tag := tag, payload := payload }
      let receive := Instr.baithBlockReceive b bytes
      (len = 0 → all.length = 32 → does (.keepAliveReceive b bytes) headed ∧ does receive headed) ∧
      (0 < len → all.length = 36 + len →
        let fits := notPast (q.unitsIn + units) q.creditOut
        let good := leAt all (32 + len) 4 = (crc32c payload).toNat
        (seq ≠ q.rxNext → does receive fun p =>
          let late := (q.rxNext + 2 ^ 32 - seq) % 2 ^ 32 ≤ 2 ^ 31
          keepAlive (back { headed p with seqDrop := if late then p.seqDrop else count p.seqDrop })) ∧
        (seq = q.rxNext → fits = false → does receive fun p =>
          back { headed p with creditDrop := count p.creditDrop }) ∧
        (seq = q.rxNext → fits = true → ¬ good → does receive fun p => back { headed p with crcDrop := count p.crcDrop }) ∧
        (seq = q.rxNext → fits = true → good →
          (kind ∈ [0x03, 0x04, 0x06, 0x0A, 0x0C] → does receive fun p =>
            { taken (headed p) with inbound := p.inbound ++ [x] }) ∧
          (kind = 0x01 ∨ kind = 0x0E → tag = 0 → x.more = false → q.transfers.find? (fun k => k.kind == kind) = none → does receive fun p =>
            { taken (headed p) with inbound := p.inbound ++ [x], creditOut := (p.creditOut + units) % 2 ^ 32 }) ∧
          (kind = 0x01 ∨ kind = 0x0E → tag = 0 → x.more = true → q.transfers.find? (fun k => k.kind == kind) = none →
            does receive fun p => { taken (headed p) with
              transfers := ⟨kind, payload, seq, tag⟩ :: p.transfers, creditOut := (p.creditOut + units) % 2 ^ 32 }) ∧
          (kind = 0x01 ∨ kind = 0x0E → ∀ k, 0 < tag → q.transfers.find? (fun k => k.kind == kind) = some k →
            k.bytes.length = tag → x.more = false → does receive fun p => { taken (headed p) with
              transfers := p.transfers.filter fun k => k.kind != kind
              inbound := p.inbound ++ [{ x with payload := k.bytes ++ payload }]
              creditOut := (p.creditOut + units) % 2 ^ 32 }) ∧
          (kind ∉ [0x01, 0x02, 0x03, 0x04, 0x06, 0x0A, 0x0C, 0x0E] → s.ctrl.module.inReset = false →
            ∃ t, exec receive s = .next t ∧ baithOnly b s t ∧ t.ended b x 7 1 0 0 ∧ t.bp b =
              { taken (headed q) with
                creditOut := (q.creditOut + units) % 2 ^ 32
                outQueue := (t.bp b).outQueue } ∧ (t.bp b).outQueue.dropLast = q.outQueue))) ∧
      (0 < len → all.length < 36 + len → does receive (fun p => { p with part := all }) ∧
        (s.ctrl.module.inReset = false → ∃ t, exec (.blockTruncateTimeout b bytes) s = .next t ∧ baithOnly b s t ∧
          t.ended b x 6 0 0 0 ∧ t.bp b = { keepAlive (back { headed q with truncated := count q.truncated }) with
            outQueue := (t.bp b).outQueue } ∧ (t.bp b).outQueue.dropLast = q.outQueue))) ∧
    (let sends := fun (x : Block) (p : Baith) =>
        let y : Block := { x with seq := p.txNext }
        up { p with
          unacked := p.unacked ++ [y]
          txNext := (p.txNext + 1) % 2 ^ 32
          wire := p.blockBytes y
          sentBlock := true
          outBytes := (p.outBytes + x.payload.length) % 2 ^ 64
          unitsOut := (p.unitsOut + (x.payload.length + 1023) / 1024) % 2 ^ 32 }
     let may := fun (x : Block) => 2 ≤ q.light ∧ q.creditFor x.payload.length = true ∧
        q.buffered + x.payload.length ≤ 4194304
     let item := fun (t : Telem) => ({
        kind := 0x09, more := false, seq := 0, tag := 0
        payload := slice t.bytes 0 (max 4 (min 65536 ((t.bytes.length + 3) / 4 * 4))) } : Block)
     (∀ x r, q.outQueue = x :: r → (may x → does (.baithBlockSend b) fun p => sends x { p with outQueue := r }) ∧
       (¬ may x → exec (.baithBlockSend b) s = .next s)) ∧
     (∀ x r, q.outQueue = [] → q.telemetry = x :: r →
       (may (item x) → does (.baithBlockSend b) fun p => sends (item x) { p with telemetry := r }) ∧
       (¬ may (item x) → exec (.baithBlockSend b) s = .next s)) ∧
     (∀ x r, q.outQueue = [] → q.telemetry = [] → q.heldTelem = x :: r →
       (may (item x) → does (.baithBlockSend b) fun p => sends (item x) { p with heldTelem := r }) ∧
       (¬ may (item x) → exec (.baithBlockSend b) s = .next s)) ∧
     (q.outQueue = [] → q.telemetry = [] → q.heldTelem = [] → exec (.baithBlockSend b) s = .next s)) ∧
    (2 ≤ q.light → q.resent ≤ 0xFFFFFFFF → ∃ k ≤ q.unacked.length,
      let used := fun (k : Nat) => ((q.unacked.take k).map fun x => (x.payload.length + 1023) / 1024).foldl (· + ·) 0
      (∀ j < k, ∃ x, q.unacked[j]? = some x ∧ notPast ((q.unitsOut + used j) % 2 ^ 32 + blockUnits x.payload.length) q.creditIn = true) ∧
      (k < q.unacked.length → ∃ x, q.unacked[k]? = some x ∧
        notPast ((q.unitsOut + used k) % 2 ^ 32 + blockUnits x.payload.length) q.creditIn = false) ∧
      (k = 0 → exec (.baithResendTimeout b) s = .next s) ∧
      (0 < k → ∃ x, q.unacked[k - 1]? = some x ∧ does (.baithResendTimeout b) fun p => { p with
        resent := min (p.resent + k) 0xFFFFFFFF
        wire := p.blockBytes x
        outBytes := (p.outBytes + ((q.unacked.take k).map fun x => x.payload.length).foldl (· + ·) 0) % 2 ^ 64
        unitsOut := (p.unitsOut + used k) % 2 ^ 32 }))

/-- O59. With no request of its type waiting, or out of the port's turn, a row changes nothing. Otherwise the turn passes on and the oldest is taken out: a memory request that is malformed, out of range or for a busy or foreign partition is refused; one that meets an open granule waits; in a served region a write stores its bytes and a read sends them, before a completion with the count. Register words are read, or written in order, where the host may access every one; a denied one is refused and counted. A logbook read sends its pages or slots. A segment or image that fails a check is refused with its reason and offset and posted to its registers; one that passes joins the stream's queue, or becomes pending. (R49; R95; R210; R429; R430; R431; R432; R435; R438; R476; 17_baith_ports_and_partitions.md Table 17.3; 17_baith_ports_and_partitions.md Table 17.5) -/
def Obligations.HostRequests : Prop :=
  ∀ (s : State) (b : Nat), s.whole = true → s.memWf = true → b < 4 →
    let kind := fun (k : Nat) (x : Block) => x.kind == k
    let rows := [(kind 0x01, Instr.commandSegmentTransfer b), (kind 0x02, .windroseTransfer b), (kind 0x03, .memoryWrite b),
      (kind 0x04, .memoryRead b), (regOp false, .registerRead b), (regOp true, .registerWrite b), (kind 0x0A, .logbookRead b)]
    (∀ c ∈ rows, (s.bp b).inbound.find? c.1 = none ∨ s.turnOf ≠ some b → exec c.2 s = .next s) ∧
    ∀ x,
      let ready := s.ctrl.module.state = 5
      let out := fun (f : Block → Bool) => (passTurn b s).modBp b fun q => { q with
        inbound := q.inbound.eraseP f
        creditOut := if isTransfer x.kind then q.creditOut
          else (q.creditOut + (x.payload.length + 1023) / 1024) % 2 ^ 32 }
      let replied := fun (t : State) (f : Block → Bool) =>
        t.bp b = { (out f).bp b with outQueue := (t.bp b).outQueue } ∧ ∀ k, k ≠ b → t.bp k = s.bp k
      let refused := fun (f : Block → Bool) (c : Instr) (code : Nat) => ∃ t, exec c s = .next t ∧ t.ended b x 7 code 0 0 ∧
        t = (out f).modBp b fun q => { q with outQueue := (t.bp b).outQueue }
      let h := ReqHead.of x.payload
      let answers := fun (t : State) (k : Nat) (data : List Byte) => ∃ ds c, (t.bp b).outQueue =
          (s.bp b).outQueue ++ ds ++ [c] ∧ (∀ y ∈ ds, y.kind = k ∧ y.tag = x.tag ∧ y.payload.length ≤ 65536) ∧
          (ds.flatMap (·.payload)).take data.length = data
      let fits := fun (p r n : Nat) => ready ∧ s.partOfBaith b = some p ∧ h.ok = true ∧ h.op = 0 ∧ h.count = n ∧ n ≤ 2 ^ 24 ∧
        h.addr / 2 ^ 44 = p ∧ h.addr / 2 ^ 42 % 4 = 0 ∧ (s.part p).resetting = false ∧
        (s.part p).regionFor (h.addr % 2 ^ 42) n = some r
      let start := fun (p r : Nat) => h.addr % 2 ^ 42 - ((s.part p).region? r).elim 0 (·.base)
      let faulty := fun (n : Nat) => h.ok = false ∨ h.op ≠ 0 ∨ h.count ≠ n ∨ 2 ^ 24 < n
      let memory := fun (c : Instr) (k n : Nat) =>
        (¬ ready → refused (kind k) c 9) ∧
        (ready → s.partOfBaith b = none → refused (kind k) c 0x0B) ∧
        ∀ p, ready → s.partOfBaith b = some p →
          (faulty n → refused (kind k) c 1) ∧
          (¬ faulty n → 2 ^ 46 ≤ h.addr ∨ h.addr / 2 ^ 42 % 4 ≠ 0 → refused (kind k) c 0x11) ∧
          (¬ faulty n → h.addr < 2 ^ 46 → h.addr / 2 ^ 42 % 4 = 0 → h.addr / 2 ^ 44 ≠ p → refused (kind k) c 5) ∧
          (¬ faulty n → h.addr / 2 ^ 42 % 4 = 0 → h.addr / 2 ^ 44 = p →
            ((s.part p).resetting = true → refused (kind k) c 9) ∧
            ((s.part p).resetting = false → (s.part p).regionFor (h.addr % 2 ^ 42) n = none → refused (kind k) c 0x11) ∧
            ∀ r, (s.part p).resetting = false → (s.part p).regionFor (h.addr % 2 ^ 42) n = some r →
              spanOpen p r (start p r) n s = true → exec c s = .next (passTurn b s))
      (s.asks b (kind 0x03) x →
        let n := x.payload.length - 16
        memory (.memoryWrite b) 0x03 n ∧
        ∀ p r, fits p r n → s.served p r → spanOpen p r (start p r) n s = false →
          ∃ t, exec (.memoryWrite b) s = .next t ∧ t.ended b x 0 0 n 0 ∧
            t = { passTurn b s with baith := t.baith, hubs := t.hubs } ∧ replied t (kind 0x03) ∧ memTraffic s t ∧
            (∀ i < n, t.regionByte p r (start p r + i) = x.payload.getD (16 + i) 0) ∧
            regionSame p r [(start p r, n)] s t ∧ linesSame p r [(start p r, n)] s t) ∧
      (s.asks b (kind 0x04) x → memory (.memoryRead b) 0x04 h.count ∧
        ∀ p r, fits p r h.count → s.served p r → spanOpen p r (start p r) h.count s = false →
          ∃ t, exec (.memoryRead b) s = .next t ∧ t.ended b x 0 0 h.count 0 ∧
            t = { passTurn b s with baith := t.baith, hubs := t.hubs } ∧ replied t (kind 0x04) ∧ memTraffic s t ∧ linesSame p r [] s t ∧
            answers t 0x05 ((List.range h.count).map fun i => s.regionByte p r (start p r + i))) ∧
      (let win := h.addr / 2 ^ 24 % 128
       let off := h.addr % 2 ^ 24
       let sane := fun (n : Nat) => h.ok = true ∧ h.count = n ∧ n % 4 = 0 ∧ n ≤ 16384 ∧ h.addr / 2 ^ 31 = 3 * 2 ^ 15 ∧
         off % 4 = 0 ∧ off + n ≤ 2 ^ 24 ∧ (win = winCtrl → (off + n ≤ errorBase ∨ errorBase + 64 * 4096 ≤ off) ∧
           (off + n ≤ pageBase ∨ pageBase + 4096 * 1024 ≤ off))
       let may := fun (write : Bool) (n : Nat) => ∀ i < n / 4, s.hostMay b win (off + 4 * i) write = true
       (s.asks b (regOp false) x → sane h.count → s.takesRegs b win false = true → s.busyWin win = false →
         let words := (List.range (h.count / 4)).map fun i => off + 4 * i
         (may false h.count → ∃ t, exec (.registerRead b) s = .next t ∧ t.ended b x 0 0 h.count 0 ∧
           answers t 0x07 (words.flatMap fun o => leBytes 4 (readReg (out (regOp false)) win o).toNat) ∧
           t = (forAll words (fun o u => afterRead win o u) (out (regOp false))).modBp b fun q =>
             { q with outQueue := (t.bp b).outQueue }) ∧
         (¬ may false h.count → ∃ t, exec (.registerRead b) s = .next t ∧ t.ended b x 7 5 0 0 ∧
           (t.bp b).denied = min ((s.bp b).denied + 1) 0xFFFFFFFF ∧ diesSame s t ∧ t.ctrl = (passTurn b s).ctrl)) ∧
       (s.asks b (regOp true) x → h.op = 1 → sane (x.payload.length - 16) → s.takesRegs b win true = true →
         s.busyWin win = false →
         (may true h.count → ∃ t, exec (.registerWrite b) s = .next t ∧
           let wrote := forRange (h.count / 4)
             (fun i u => regWrite win (off + 4 * i) (BitVec.ofNat 32 (leAt x.payload (16 + 4 * i) 4)) u) (out (regOp true))
           (wrote.ctrl.module.inReset = true → t = wrote) ∧
           (wrote.ctrl.module.inReset = false → t.ended b x 0 0 h.count 0 ∧
             t = wrote.modBp b fun q => { q with outQueue := (t.bp b).outQueue })) ∧
         (¬ may true h.count → ∃ t, exec (.registerWrite b) s = .next t ∧ t.ended b x 7 5 0 0 ∧
           (t.bp b).denied = min ((s.bp b).denied + 1) 0xFFFFFFFF ∧ diesSame s t ∧ t.ctrl = (passTurn b s).ctrl)) ∧
       (s.asks b (regOp true) x → h.op ≠ 1 → refused (regOp true) (.registerWrite b) 1)) ∧
      (s.asks b (kind 0x0A) x →
        let off := h.addr % 2 ^ 24
        let named := h.addr / 2 ^ 24 = 3 * 2 ^ 22 + winCtrl ∧ logRangeOk off h.count = true
        (h.ok = false ∨ h.op ≠ 0 → refused (kind 0x0A) (.logbookRead b) 1) ∧
        (h.ok = true → h.op = 0 → ¬ named → refused (kind 0x0A) (.logbookRead b) 0x11) ∧
        (h.ok = true → h.op = 0 → named → ∃ t, exec (.logbookRead b) s = .next t ∧ t.ended b x 0 0 h.count 0 ∧
          answers t 0x0B (readLogbook off h.count s) ∧
          t = (out (kind 0x0A)).modBp b fun q => { q with outQueue := (t.bp b).outQueue })) ∧
      (s.asks b (kind 0x01) x →
        (¬ ready → refused (kind 0x01) (.commandSegmentTransfer b) 9) ∧
        (ready → s.partOfBaith b = none → refused (kind 0x01) (.commandSegmentTransfer b) 0x0B) ∧
        ∀ p, ready → s.partOfBaith b = some p → (s.part p).resetting = false →
          ∃ t, exec (.commandSegmentTransfer b) s = .next t ∧
          match checkSegment b x.payload (out (kind 0x01)) with
          | some r => t.ended b x 7 (r.code % 256) 0 r.offset ∧ t.cds = s.cds ∧ (t.part p).stream = { (s.part p).stream with
              reason := r.code
              faultDie := r.die
              faultRecord := r.record
              faultOffset := r.offset
              refusals := min ((s.part p).stream.refusals + 1) 0xFFFF }
          | none => leAt x.payload 7 1 = p → t.ended b x 0 0 x.payload.length 0 ∧ ∃ g,
              (t.part p).stream.queued = (if g.opening then [] else (s.part p).stream.queued) ++ [g] ∧
              g.step = leAt x.payload 0xC 4 ∧ g.ticks = leAt x.payload 0x18 2 ∧
              (t.part p).stream.lastStep = g.step ∧ (g.opening = true → (t.part p).stream.state = 1) ∧
              t.hubs = s.hubs ∧ t.ctrl = (passTurn b s).ctrl) ∧
      (s.asks b (kind 0x02) x → ready → s.partOfBaith b ≠ none →
        let target := imageTarget b x.payload s
        s.imageBusy target = false →
        ∃ t, exec (.windroseTransfer b) s = .next t ∧ diesSame s t ∧
          match checkImage b x.payload (out (kind 0x02)) with
          | some r => t.ended b x 7 (r.code % 256) 0 r.offset ∧ t.loader target = { s.loader target with
              state := 5
              reason := r.code
              faultSection := r.sect
              faultOffset := r.offset
              refusals := min ((s.loader target).refusals + 1) 0xFFFF }
          | none => leAt x.payload 6 1 = 1 ∨ (leAt x.payload 6 1 = 2 ∧ leAt x.payload 7 1 < 4) →
            t.ended b x 0 0 x.payload.length 0 ∧ t.loader target = { s.loader target with
              state := 3
              pendingTick := (t.loader target).pendingTick } ∧ t.imagePending target = true)

/-- O60. ACCUM_ARRIVAL takes the element off its way. It is added to an open granule of its step whose cell counts less than its contributions, and is excess otherwise; of a later step it is held, of an earlier one stale. At a closed granule it is excess or stale, opens the granule if the cell area has room, and is held if not. A granule all of whose cells have counted every contribution is read out, written as one piece, freed and closed. HELD_ARRIVAL_OPEN does so with the first held element that can land, and nothing if none can. GRANULE_STALL_DISCARD frees a granule past the stall limit without touching its lines, counts and reports it. An INT32 cell sums modulo 2^32, an exact cell sums exactly. (R206; R207; R208; R209; R210; R211; R215; R216; R384; 08_reductions_and_reproducibility.md Table 08.1) -/
def Obligations.Reductions : Prop :=
  (∀ (c : RedCell) (a : Arrival), (intAdd c a).1 = { c with value := c.value + a.bits } ∧
    ((intAdd c a).2 = true ↔ wordInt c.value + wordInt a.bits < -2 ^ 31 ∨ 2 ^ 31 ≤ wordInt c.value + wordInt a.bits) ∧
    ∀ n m e, Num.read (elemOf a.format) a.bits.toNat = .fin n m e →
      exactAdd c a = { c with n := c.n + exactUnits (.fin n m e) }) ∧
  ∀ (s : State) (h : Nat), s.whole = true → s.memWf = true → h < 32 →
    let q := (s.hub h).red
    (∀ i, q.inFlight[i]? = none → exec (.accumArrival h i) s = .next s) ∧
    (∀ i a, q.inFlight[i]? = some a →
      let exec' := exec (.accumArrival h i) s
      let off := s.modRed h fun k => { k with inFlight := k.inFlight.eraseIdx i }
      let does := fun (f : Reduce → Reduce) => exec' = .next (off.modRed h f)
      let held := does fun k => { k with held := k.held ++ [a] }
      let stale := does fun k => { k with stale := min (k.stale + 1) 0xFFFFFFFF }
      let excess := ∃ t, exec' = .next t ∧ t = { (off.modRed h fun k => { k with
          excess := min (k.excess + 1) 0xFFFFFFFF }) with ctrl := { s.ctrl with log := t.ctrl.log } } ∧
        t.ctrl.log.errors.count = min (s.ctrl.log.errors.count + 1) 0xFFFFFFFF ∧ t.ctrl.log.ring = s.ctrl.log.ring
      let index := a.offset / 4096
      let mine := fun (part region i : Nat) => part = a.part ∧ region = a.region ∧ i = index
      let cell := fun (g : Granule) => look g.cells a.cell {}
      let lands := fun (from' : Reduce) (g : Granule) =>
        let r := cellAdd g.mode (a.addr s) a from' (cell g)
        let g' := { g with
          cells := place g.cells a.cell {} r.2
          lastTick := (s.part a.part).disc.tick }
        (g'.full = false → exec' = .next (off.modRed h fun _ => r.1.setGranule g')) ∧
        (g'.full = true → s.served a.part a.region →
          4096 * (index + 1) ≤ ((s.part a.part).region? a.region).elim 0 (·.length) →
          ∃ t, exec' = .next t ∧ t = { s with hubs := t.hubs } ∧ memTraffic { s with hubs := s.hubs.set h { s.hub h with
            red := (t.hub h).red } } t ∧
            (t.hub h).red.cellFree = r.1.cellFree + g.space ∧
            (t.hub h).red.complete = (r.1.complete + 1) % 2 ^ 64 ∧
            (∀ x ∈ (t.hub h).red.granules, ¬ mine x.part x.region x.index) ∧
            (t.hub h).red.closed? a.part a.region index = some ⟨a.part, a.region, index, g.step, true⟩ ∧
            (t.hub h).red.history = ⟨a.part, a.region, index, g.step, true⟩ :: q.history ∧
            regionSame a.part a.region [(4096 * index, 4096)] s t ∧ linesSame a.part a.region [(4096 * index, 4096)] s t ∧
            let w := (elemOf g.format).bits / 8
            w ∣ 4 → ∀ k < 4096 / w, t.regionNat a.part a.region (4096 * index + k * w) w =
              (readCell g.mode g.format 0 q (look g'.cells k {})).2 % 2 ^ (8 * w))
      (∀ g, q.granules.find? (fun x => x.part == a.part && x.region == a.region && x.index == index) = some g →
        (a.step = g.step → (cell g).count < g.contributions → lands { q with inFlight := q.inFlight.eraseIdx i } g) ∧
        (a.step = g.step → g.contributions ≤ (cell g).count → excess) ∧
        (g.step < a.step → held) ∧ (a.step < g.step → stale)) ∧
      (q.granules.find? (fun x => x.part == a.part && x.region == a.region && x.index == index) = none →
        let last := q.closed.find? fun x => x.part == a.part && x.region == a.region && x.index == index
        (∀ c, last = some c → c.step = a.step → c.completed = true → excess) ∧
        (∀ c, last = some c → c.step = a.step → c.completed = false → stale) ∧
        (∀ c, last = some c → a.step < c.step → stale) ∧
        ((∀ c, last = some c → c.step < a.step) →
          let need := match (s.part a.part).region? a.region with
            | some g => granuleSpace g.mode a.format g.contributions
            | none => 0
          (q.cellFree < need → held) ∧
          ∀ g, need ≤ q.cellFree → (s.part a.part).region? a.region = some g →
            let new : Granule :=
              { part := a.part, region := a.region, index := index, step := a.step, format := a.format, mode := g.mode
                contributions := g.contributions, space := need, lastTick := (s.part a.part).disc.tick }
            lands { q with
              inFlight := q.inFlight.eraseIdx i
              granules := q.granules ++ [new]
              cellFree := q.cellFree - need } new))) ∧
    ((∀ a ∈ q.held, arrivalFate h a s = .hold) → exec (.heldArrivalOpen h) s = .next s) ∧
    (∀ i a, heldReady h s false q.held 0 = some i → q.held[i]? = some a → exec (.heldArrivalOpen h) s =
      exec (.accumArrival h q.inFlight.length) (s.modRed h fun k => { k with
        held := k.held.eraseIdx i
        inFlight := k.inFlight ++ [a] })) ∧
    (∀ a r, q.held = a :: r → arrivalFate h a s ≠ .hold → heldReady h s false q.held 0 = some 0) ∧
    ∀ region i,
      let same := exec (.granuleStallDiscard h region i) s = .next s
      (s.partOfHub h = none → same) ∧
      ∀ p, s.partOfHub h = some p →
        let found := q.granules.find? fun x => x.part == p && x.region == region && x.index == i
        (found = none → same) ∧
        ∀ g, found = some g →
          ((s.part p).disc.tick ≤ g.lastTick + (s.part p).cadence.stallLimit → same) ∧
          (g.lastTick + (s.part p).cadence.stallLimit < (s.part p).disc.tick →
            exec (.granuleStallDiscard h region i) s = .next ((s.modRed h fun k =>
              let other := fun (x : Nat × Nat × Nat) => !(x.1 == p && x.2.1 == region && x.2.2 == i)
              { k with
                granules := k.granules.filter fun x => other (x.part, x.region, x.index)
                cellFree := k.cellFree + g.space
                discard := min (k.discard + 1) 0xFFFFFFFF
                closed := ⟨p, region, i, g.step, false⟩ :: k.closed.filter fun x =>
                  other (x.part, x.region, x.index)
                history := ⟨p, region, i, g.step, false⟩ :: k.history }).modBp (s.part p).frame.hostPort fun k =>
              k.telem (.alertGranule region i g.arrived g.contributions)))
end

