-- ==== Sys2Proof/Laws/Lists.lean ====
section
/-! SUPPORT. The lists and tables of the state: an entry changed, and what a table in canonical form answers after
an entry is set. -/

namespace Sys2Proof.Machine

/-! ## An entry of a list changed -/

@[simp] theorem modAt_length {α : Type} (l : List α) (i : Nat) (f : α → α) : (modAt l i f).length = l.length := by
  induction l generalizing i with
  | nil => rfl
  | cons a as ih => cases i with
    | zero => rfl
    | succ i => simp [modAt, ih]

theorem modAt_getElem? {α : Type} (l : List α) (i j : Nat) (f : α → α) :
    (modAt l i f)[j]? = if j = i then l[j]?.map f else l[j]? := by
  induction l generalizing i j with
  | nil => simp [modAt]
  | cons a as ih =>
    cases i with
    | zero => cases j <;> simp [modAt]
    | succ i => cases j with
      | zero => simp [modAt]
      | succ j => simp [modAt, ih]

theorem modAt_getD_same {α : Type} (l : List α) (i : Nat) (f : α → α) (d : α) (h : i < l.length) :
    (modAt l i f).getD i d = f (l.getD i d) := by
  rw [List.getD_eq_getElem?_getD, List.getD_eq_getElem?_getD, modAt_getElem?]
  simp [h]

theorem modAt_getD_other {α : Type} (l : List α) (i j : Nat) (f : α → α) (d : α) (h : j ≠ i) :
    (modAt l i f).getD j d = l.getD j d := by
  simp [List.getD_eq_getElem?_getD, modAt_getElem?, h]

/-- Past the end nothing changes. -/
theorem modAt_past {α : Type} (l : List α) (i : Nat) (f : α → α) (h : l.length ≤ i) : modAt l i f = l := by
  induction l generalizing i with
  | nil => rfl
  | cons a as ih => cases i with
    | zero => simp at h
    | succ i => simp [modAt, ih i (by simpa using h)]

/-- Two changes of one entry are one. -/
theorem modAt_modAt {α : Type} (l : List α) (i : Nat) (f g : α → α) :
    modAt (modAt l i f) i g = modAt l i fun a => g (f a) := by
  induction l generalizing i with
  | nil => rfl
  | cons a as ih => cases i with
    | zero => rfl
    | succ i => simp [modAt, ih]

/-- A change that leaves the entry as it is changes nothing. -/
theorem modAt_same {α : Type} (l : List α) (i : Nat) (f : α → α) (h : ∀ a, l[i]? = some a → f a = a) :
    modAt l i f = l := by
  induction l generalizing i with
  | nil => rfl
  | cons a as ih => cases i with
    | zero => simp [modAt, h a rfl]
    | succ i => simp [modAt, ih i (by simpa using h)]

theorem modAt_eq_set {α : Type} (l : List α) (i : Nat) (f : α → α) (d : α) (h : i < l.length) :
    modAt l i f = l.set i (f (l.getD i d)) := by
  apply List.ext_getElem?
  intro j
  rw [modAt_getElem?, List.getElem?_set]
  by_cases e : j = i <;> simp [e, h]
  omega

/-- A property of every entry is kept by a change that keeps it. -/
theorem modAt_all {α : Type} (l : List α) (i : Nat) (f : α → α) (p : α → Bool) (hf : ∀ a, p a = true → p (f a) = true)
    (h : l.all p = true) : (modAt l i f).all p = true := by
  induction l generalizing i with
  | nil => rfl
  | cons a as ih =>
    simp only [List.all_cons, Bool.and_eq_true] at h
    cases i with
    | zero => simp [modAt, hf a h.1, h.2]
    | succ i => simp [modAt, h.1, ih i h.2]

/-! ## Tables with rising keys -/

theorem rising_tail {α : Type} (a : Nat × α) (t : List (Nat × α)) (h : rising (a :: t) = true) : rising t = true := by
  cases t with
  | nil => rfl
  | cons b t => simp only [rising, Bool.and_eq_true] at h; exact h.2

theorem rising_head {α : Type} (a b : Nat × α) (t : List (Nat × α)) (h : rising (a :: b :: t) = true) : a.1 < b.1 := by
  simp only [rising, Bool.and_eq_true, decide_eq_true_eq] at h; exact h.1

/-- In a rising table every later key is larger. -/
theorem rising_lt {α : Type} (a : Nat × α) (t : List (Nat × α)) (h : rising (a :: t) = true) : ∀ b ∈ t, a.1 < b.1 := by
  induction t generalizing a with
  | nil => simp
  | cons c t ih =>
    intro b hb
    have hc := rising_head a c t h
    cases hb with
    | head => exact hc
    | tail _ hb => exact Nat.lt_trans hc (ih c (rising_tail a _ h) b hb)

theorem look_absent {α : Type} (t : List (Nat × α)) (k : Nat) (d : α) (h : ∀ b ∈ t, k < b.1) : look t k d = d := by
  induction t with
  | nil => rfl
  | cons b t ih =>
    have hb := h b (by simp)
    have e : (b.1 == k) = false := by simp; omega
    obtain ⟨j, v⟩ := b
    simp only [look]
    simp only at e
    simp [e, ih fun c hc => h c (by simp [hc])]

theorem rising_cons {α : Type} (a : Nat × α) (t : List (Nat × α)) (ht : rising t = true) (h : ∀ b ∈ t, a.1 < b.1) :
    rising (a :: t) = true := by
  cases t with
  | nil => rfl
  | cons b t => simp [rising, ht, h b (by simp)]

/-- Setting a key adds no key but it. -/
theorem place_keys {α : Type} [DecidableEq α] (t : List (Nat × α)) (k : Nat) (d a : α) :
    ∀ b ∈ place t k d a, b.1 = k ∨ b ∈ t := by
  induction t with
  | nil =>
    intro b hb
    simp only [place] at hb
    split at hb
    · simp at hb
    · simp at hb; exact .inl (by rw [hb])
  | cons c t ih =>
    obtain ⟨j, v⟩ := c
    intro b hb
    simp only [place] at hb
    split at hb
    · cases hb with
      | head => exact .inr (by simp)
      | tail _ hb => exact (ih b hb).imp id fun m => by simp [m]
    · split at hb
      · split at hb
        · exact .inr (by simp [hb])
        · cases hb with
          | head => exact .inl rfl
          | tail _ hb => exact .inr (List.mem_cons_of_mem _ hb)
      · split at hb
        · exact .inr hb
        · cases hb with
          | head => exact .inl rfl
          | tail _ hb => exact .inr hb

/-- Setting a key keeps the keys rising. -/
theorem place_rising {α : Type} [DecidableEq α] (t : List (Nat × α)) (k : Nat) (d a : α) (h : rising t = true) :
    rising (place t k d a) = true := by
  induction t with
  | nil => simp only [place]; split <;> rfl
  | cons c t ih =>
    obtain ⟨j, v⟩ := c
    have ht := rising_tail _ _ h
    have hl := rising_lt _ _ h
    simp only [place]
    split
    · next hjk =>
      refine rising_cons _ _ (ih ht) fun b hb => ?_
      rcases place_keys t k d a b hb with e | m
      · simpa [e] using hjk
      · exact hl b m
    · split
      · next hjk =>
        split
        · exact ht
        · exact rising_cons _ _ ht fun b hb => by simpa [hjk] using hl b hb
      · split
        · exact h
        · refine rising_cons _ _ h fun b hb => ?_
          cases hb with
          | head => simp; omega
          | tail _ hb => have := hl b hb; simp at this ⊢; omega

/-- A key set reads as set. -/
theorem look_place_same {α : Type} [DecidableEq α] (t : List (Nat × α)) (k : Nat) (d a : α) (h : rising t = true) :
    look (place t k d a) k d = a := by
  induction t with
  | nil => simp only [place]; split <;> simp_all [look]
  | cons c t ih =>
    obtain ⟨j, v⟩ := c
    have ht := rising_tail _ _ h
    have hl := rising_lt _ _ h
    simp only [place]
    split
    · next hjk =>
      have e : (j == k) = false := by simp; omega
      simp [look, e, ih ht]
    · split
      · next hjk =>
        split
        · next ha => rw [ha]; exact look_absent t k d fun b hb => by simpa [hjk] using hl b hb
        · simp [look]
      · split
        · next h1 h2 ha =>
          rw [ha]
          refine look_absent _ k d fun b hb => ?_
          cases hb with
          | head => simp; omega
          | tail _ hb => have := hl b hb; simp at this; omega
        · simp [look]

/-- Every other key reads as before. -/
theorem look_place_other {α : Type} [DecidableEq α] (t : List (Nat × α)) (k i : Nat) (d a : α) (h : i ≠ k) :
    look (place t k d a) i d = look t i d := by
  have e : (k == i) = false := by simp; exact fun c => h c.symm
  induction t with
  | nil => simp only [place]; split <;> simp [look, e]
  | cons c t ih =>
    obtain ⟨j, v⟩ := c
    simp only [place]
    split
    · simp [look, ih]
    · split
      · next hjk => split <;> simp [look, hjk, e]
      · split <;> simp [look, e]

end Sys2Proof.Machine
end

