-- ==== Sys2Proof/Laws/Memory.lean ====
section
/-! SUPPORT. Memories keep their canonical form; a byte written reads back, and no other byte changes; what a sound
memory of checked lines reads. -/

namespace Sys2Proof.Machine

/-! ## The canonical form -/

/-- The canonical form is: keys rising, and no byte listed that is 0. -/
theorem Memory.wf_iff (m : Memory) : m.wf = true ↔ rising m = true ∧ ∀ c ∈ m, c.2 ≠ 0 := by
  induction m with
  | nil => simp [Memory.wf, rising]
  | cons c t ih =>
    cases t with
    | nil => simp [Memory.wf, rising]
    | cons d r =>
      rw [Memory.wf, rising, Bool.and_eq_true, Bool.and_eq_true, ih, Bool.and_eq_true]
      simp only [List.mem_cons, forall_eq_or_imp, bne_iff_ne, decide_eq_true_eq, ne_eq]
      constructor
      · rintro ⟨⟨a, b⟩, c, d⟩; exact ⟨⟨b, c⟩, a, d⟩
      · rintro ⟨⟨b, c⟩, a, d⟩; exact ⟨⟨a, b⟩, c, d⟩

theorem place_nonzero (m : Memory) (a : Nat) (b : Byte) (h : ∀ c ∈ m, c.2 ≠ 0) : ∀ c ∈ place m a 0 b, c.2 ≠ 0 := by
  induction m with
  | nil =>
    intro c hc
    simp only [place] at hc
    split at hc
    · simp at hc
    · next hb => simp at hc; rw [hc]; exact hb
  | cons x t ih =>
    obtain ⟨j, v⟩ := x
    have ht := fun c hc => h c (List.mem_cons_of_mem _ hc)
    intro c hc
    simp only [place] at hc
    split at hc
    · cases hc with
      | head => exact h _ (by simp)
      | tail _ hc => exact ih ht c hc
    · split at hc
      · split at hc
        · exact ht c hc
        · next hb => cases hc with
          | head => exact hb
          | tail _ hc => exact ht c hc
      · split at hc
        · exact h c hc
        · next hb => cases hc with
          | head => exact hb
          | tail _ hc => exact h c hc

/-- One byte set keeps the form. -/
theorem Memory.place_wf (m : Memory) (a : Nat) (b : Byte) (h : m.wf = true) : Memory.wf (place m a 0 b) = true := by
  rw [Memory.wf_iff] at h ⊢
  exact ⟨place_rising m a 0 b h.1, place_nonzero m a b h.2⟩

/-- Bytes written keep the form. -/
theorem Memory.write_wf (m : Memory) (a : Nat) (bs : List Byte) (h : m.wf = true) : (m.write a bs).wf = true := by
  induction bs generalizing m a with
  | nil => exact h
  | cons b bs ih => exact ih _ _ (Memory.place_wf m a b h)

theorem filter_rising {α : Type} (f : Nat × α → Bool) (t : List (Nat × α)) (h : rising t = true) :
    rising (t.filter f) = true := by
  induction t with
  | nil => rfl
  | cons a t ih =>
    have ht := ih (rising_tail a t h)
    rw [List.filter_cons]
    split
    · exact rising_cons _ _ ht fun b hb => rising_lt a t h b ((List.mem_filter.1 hb).1)
    · exact ht

/-- Bytes set to zero keep the form. -/
theorem Memory.clear_wf (m : Memory) (a n : Nat) (h : m.wf = true) : (m.clear a n).wf = true := by
  rw [Memory.wf_iff] at h ⊢
  exact ⟨filter_rising _ m h.1, fun c hc => h.2 c ((List.mem_filter.1 hc).1)⟩

/-! ## Reading what was written -/

/-- Every byte but those written reads as before. -/
theorem Memory.write_other (m : Memory) (a : Nat) (bs : List Byte) (x : Nat) (h : x < a ∨ a + bs.length ≤ x) :
    look (m.write a bs) x 0 = look m x 0 := by
  induction bs generalizing m a with
  | nil => rfl
  | cons b bs ih =>
    rw [Memory.write, ih]
    · exact look_place_other m a x 0 b (by simp at h; omega)
    · simp at h ⊢; omega

/-- Byte i of those written reads back. -/
theorem Memory.write_same (m : Memory) (a : Nat) (bs : List Byte) (i : Nat) (hm : m.wf = true) (h : i < bs.length) :
    look (m.write a bs) (a + i) 0 = bs[i] := by
  induction bs generalizing m a i with
  | nil => simp at h
  | cons b bs ih =>
    rw [Memory.write]
    cases i with
    | zero =>
      rw [Memory.write_other _ _ _ _ (by omega)]
      exact look_place_same m a 0 b ((Memory.wf_iff m).1 hm).1
    | succ i =>
      have := ih (place m a 0 b) (a + 1) i (Memory.place_wf m a b hm) (by simpa using h)
      rw [show a + (i + 1) = a + 1 + i by omega, this]; rfl

/-- The bytes written read back. -/
theorem Memory.read_write (m : Memory) (a : Nat) (bs : List Byte) (hm : m.wf = true) :
    (m.write a bs).read a bs.length = bs := by
  apply List.ext_getElem (by simp [Memory.read])
  intro i h1 h2
  simp only [Memory.read, List.getElem_map, List.getElem_range]
  exact Memory.write_same m a bs i hm h2

@[simp] theorem Memory.read_length (m : Memory) (a n : Nat) : (m.read a n).length = n := by simp [Memory.read]

@[simp] theorem slice_length (bs : List Byte) (o n : Nat) : (slice bs o n).length = n := by
  simp only [slice, List.length_append, List.length_replicate, List.length_take, List.length_drop]
  omega

/-! ## Lines and their checks -/

/-- A line put keeps the form of the bytes. -/
theorem LineStore.put_wf (st : LineStore) (l sl : Nat) (d : List Byte) (c : Half) (h : st.bytes.wf = true) :
    (st.put l sl d c).bytes.wf = true := Memory.write_wf _ _ _ h

/-- A whole line written with its own check leaves a sound memory sound. -/
theorem LineStore.write_sound (st : LineStore) (l sl : Nat) (d : List Byte) (h : st.sound = true) :
    (st.write l sl d).sound = true := by
  simp only [LineStore.sound, Bool.and_eq_true, List.isEmpty_iff] at h ⊢
  obtain ⟨⟨hb, hg⟩, hh⟩ := h
  simp [LineStore.write, LineStore.put, hb, hg, hh]

/-- A line of a sound memory reads good, with its bytes, and nothing changes. -/
theorem LineStore.readTwice_sound (st : LineStore) (l sl salt : Nat) (h : st.sound = true) :
    st.readTwice l sl salt false =
      ⟨st, .good, st.data l, lineCheck (st.data l) sl, lineCheck (st.data l) sl⟩ := by
  simp only [LineStore.sound, Bool.and_eq_true, List.isEmpty_iff] at h
  obtain ⟨⟨hb, hg⟩, hh⟩ := h
  simp [LineStore.readTwice, LineStore.readOnce, LineStore.stored, hb, hg, hh]

/-- A read of one line never changes a byte. -/
theorem LineStore.readOnce_bytes (st : LineStore) (l sl salt : Nat) (off : Bool) :
    (st.readOnce l sl salt off).store.bytes = st.bytes := by
  simp only [LineStore.readOnce]
  split
  · rfl
  · split <;> rfl

theorem LineStore.readTwice_bytes (st : LineStore) (l sl salt : Nat) (off : Bool) :
    (st.readTwice l sl salt off).store.bytes = st.bytes := by
  simp only [LineStore.readTwice]
  split
  · exact LineStore.readOnce_bytes ..
  · exact (LineStore.readOnce_bytes ..).trans (LineStore.readOnce_bytes ..)

/-- An upset keeps the form of the bytes. -/
theorem LineStore.upset_wf (st : LineStore) (l sl : Nat) (k : UpsetKind) (h : st.bytes.wf = true) :
    (st.upset l sl k).bytes.wf = true := by
  cases k with
  | glitch => simp only [LineStore.upset]; split <;> exact h
  | hard => simp only [LineStore.upset]; split <;> exact h
  | check c => exact LineStore.put_wf _ _ _ _ _ h
  | byte i v => exact LineStore.put_wf _ _ _ _ _ h

end Sys2Proof.Machine
end

