-- ==== Sys2Proof/Laws/Hub.lean ====
section
/-! SUPPORT. Every operation of a hub keeps its stack in canonical form. -/

namespace Sys2Proof.Machine

/-- A hub whose stack is in canonical form. -/
abbrev Hub.wf (h : Hub) : Prop := h.mem.stack.bytes.wf = true

theorem Hub.setStack_wf (h : Hub) (st : LineStore) (w : st.bytes.wf = true) : (h.setStack st).wf := w
@[simp] theorem Hub.setCache_stack (h : Hub) (c : List CacheLine) : (h.setCache c).mem.stack = h.mem.stack := rfl
@[simp] theorem Hub.touch_stack (h : Hub) (c : CacheLine) : (h.touch c).mem.stack = h.mem.stack := rfl
@[simp] theorem Hub.hit_stack (h : Hub) : h.hit.mem.stack = h.mem.stack := rfl
@[simp] theorem Hub.miss_stack (h : Hub) : h.miss.mem.stack = h.mem.stack := rfl
@[simp] theorem Hub.place_setCache (h : Hub) (c : List CacheLine) (l : Nat) : (h.setCache c).place l = h.place l := rfl
@[simp] theorem Hub.place_setStack (h : Hub) (st : LineStore) (l : Nat) : (h.setStack st).place l = h.place l := rfl

theorem Hub.flush_wf (h : Hub) (c : CacheLine) (w : h.wf) : (h.flush c).hub.wf := by
  simp only [Hub.flush]
  split
  · exact w
  · exact LineStore.put_wf _ _ _ _ _ w

theorem Hub.makeRoom_wf (h : Hub) (l : Nat) (w : h.wf) : (h.makeRoom l).1.hub.wf := by
  simp only [Hub.makeRoom]
  split
  · exact w
  · split
    · exact w
    · split
      · exact Hub.flush_wf _ _ w
      · exact w

theorem Hub.fillLine_wf (h : Hub) (l : Nat) (d : List Byte) (c : Half) (b : Bool) (w : h.wf) :
    (h.fillLine l d c b).hub.wf := Hub.makeRoom_wf h l w

theorem Hub.readStack_wf (h : Hub) (l src salt : Nat) (w : h.wf) : (h.readStack l src salt).hub.wf := by
  have : (h.readStack l src salt).hub.mem.stack.bytes = h.mem.stack.bytes := by
    simp only [Hub.readStack]
    split <;> exact LineStore.readTwice_bytes ..
  show Memory.wf _ = true
  rw [this]; exact w

theorem Hub.read_wf (h : Hub) (alloc : Bool) (l src salt : Nat) (w : h.wf) : (h.read alloc l src salt).hub.wf := by
  simp only [Hub.read]
  split
  · split
    · exact w
    · split
      · split <;> exact w
      · have once : ∀ (a sl : Nat) (off : Bool), Memory.wf (h.mem.stack.readOnce a sl salt off).store.bytes = true :=
          fun a sl off => by rw [LineStore.readOnce_bytes]; exact w
        split <;> exact once ..
  · split
    · exact Hub.fillLine_wf _ _ _ _ _ (Hub.readStack_wf _ _ _ _ w)
    · exact Hub.readStack_wf _ _ _ _ w

theorem Hub.write_wf (h : Hub) (wb : Bool) (l : Nat) (d : List Byte) (w : h.wf) : (h.write wb l d).hub.wf := by
  simp only [Hub.write]
  split
  · exact w
  · split
    · split
      · exact w
      · exact LineStore.put_wf _ _ _ _ _ w
    · split
      · exact Hub.fillLine_wf _ _ _ _ _ w
      · exact LineStore.put_wf _ _ _ _ _ w

theorem Hub.cleanAll_wf (h : Hub) (w : h.wf) : h.cleanAll.hub.wf := by
  simp only [Hub.cleanAll]
  suffices ∀ (l : List CacheLine) (r : HubRes), r.hub.wf → (l.foldl (fun r c =>
      if c.dirty then
        let f := r.hub.flush c
        { hub := f.hub.setCache (f.hub.mem.cache.map fun x =>
            if x.line == c.line then { x with dirty := false, glitch := false } else x)
          faults := r.faults ++ f.faults }
      else r) r).hub.wf from this _ _ w
  intro l
  induction l with
  | nil => exact fun r hr => hr
  | cons c l ih =>
    intro r hr
    rw [List.foldl_cons]
    apply ih
    split
    · exact Hub.flush_wf _ _ hr
    · exact hr

theorem Hub.dropWays_wf (h : Hub) (n : Nat) (w : h.wf) : (h.dropWays n).hub.wf := by
  simp only [Hub.dropWays]
  suffices ∀ (l : List CacheLine) (r : HubRes), r.hub.wf → (l.foldl (fun r c =>
      if c.dirty then let f := r.hub.flush c; { hub := f.hub, faults := r.faults ++ f.faults } else r) r).hub.wf from
    this _ _ w
  intro l
  induction l with
  | nil => exact fun r hr => hr
  | cons c l ih =>
    intro r hr
    rw [List.foldl_cons]
    apply ih
    split
    · exact Hub.flush_wf _ _ hr
    · exact hr

theorem zeroGranule_wf (q j : Nat) (st : LineStore) (w : st.bytes.wf = true) : (zeroGranule q j st).bytes.wf = true := by
  rw [zeroGranule]
  generalize List.range 32 = l
  induction l generalizing st with
  | nil => exact w
  | cons i l ih =>
    rw [List.foldl_cons]
    apply ih
    rw [LineStore.write]
    exact LineStore.put_wf _ _ _ _ _ w

/-! ## The memories of the module -/

/-- A change of a die that keeps its scratchpad's form keeps every memory's. -/
theorem State.memWf_modCd (s : State) (d : Nat) (f : Cd → Cd) (h : s.memWf = true)
    (hf : ∀ c : Cd, c.scratch.store.bytes.wf = true → (f c).scratch.store.bytes.wf = true) :
    (s.modCd d f).memWf = true := by
  simp only [State.memWf, Bool.and_eq_true] at h ⊢
  exact ⟨modAt_all _ _ _ _ hf h.1, h.2⟩

/-- A change of a hub that keeps its stack's form keeps every memory's. -/
theorem State.memWf_modHub (s : State) (k : Nat) (f : Hub → Hub) (h : s.memWf = true) (hf : ∀ b : Hub, b.wf → (f b).wf) :
    (s.modHub k f).memWf = true := by
  simp only [State.memWf, Bool.and_eq_true] at h ⊢
  exact ⟨h.1, modAt_all _ _ _ _ hf h.2⟩

/-- A physical upset keeps every memory's form. -/
theorem applyUpset_memWf (u : Upset) (s : State) (h : s.memWf = true) : (applyUpset u s).memWf = true := by
  simp only [applyUpset]
  split
  · exact State.memWf_modCd _ _ _ h fun c w => LineStore.upset_wf _ _ _ _ w
  · exact State.memWf_modHub _ _ _ h fun b w => LineStore.upset_wf _ _ _ _ w
  · exact State.memWf_modHub _ _ _ h fun b w => w

/-! ## An orderly hub -/

/-- With every channel in use the pseudo-channels are 0 to 31. -/
theorem pcsInUse_all : pcsInUse 0xFFFF = List.range 32 := by decide

/-- With every channel in use and no granule retired, a stack-local line lies in the pseudo-channel of its block of
256 bytes modulo 32 (R275). -/
theorem Hub.physLine_all (h : Hub) (hc : h.mem.chanUse = 0xFFFF) (hr : h.chk.ret = []) (l : Nat) :
    physLine (h.place (64 * l)) = l / 4 % 32 * 37748736 + (l / 128 * 4 + l % 4) := by
  have hn : chanCount 0xFFFF = 16 := by decide
  have hq : 64 * l / 256 % 32 < 32 := Nat.mod_lt _ (by decide)
  simp only [Hub.place, throughRet, retFind, hr, hc, spreadPc, pcsInUse_all, hn, physLine, pcBytes, List.find?_nil,
    Option.map_none, List.getD_eq_getElem?_getD, List.getElem?_range, hq, Option.getD_some]
  omega

/-- A trained hub with every channel in use, nothing retired, nothing cached and a sound stack is orderly. -/
theorem Hub.orderly_fresh (h : Hub) (hs : h.mem.stack.sound = true) (ht : h.mem.trainFail = 0)
    (hk : h.mem.cache = []) (hc : h.mem.chanUse = 0xFFFF) (hr : h.chk.ret = []) : h.orderly := by
  have hu : usableBytes 0xFFFF = 77040975872 := by decide
  refine ⟨hs, ht, by simp [hk], by simp [hk], fun l k hl hk' e => ?_⟩
  rw [h.physLine_all hc hr, h.physLine_all hc hr] at e
  rw [hc, hu] at hl hk'
  have split : ∀ a b x y : Nat, x < 37748736 → y < 37748736 → a * 37748736 + x = b * 37748736 + y → a = b ∧ x = y := by
    omega
  obtain ⟨h1, h2⟩ := split _ _ _ _ (by omega) (by omega) e
  omega

end Sys2Proof.Machine
end

