-- ==== Sys2Proof/Laws/Line.lean ====
section
/-! SUPPORT. What a frame sent on the line comes to where nothing happens to it: its own bytes. -/

namespace Sys2Proof.Machine

/-! ## Groups -/

/-- Items in groups of their own length. -/
theorem groups_flatten {α : Type} (n : Nat) (ls : List (List α)) (h : ∀ l ∈ ls, l.length = n) :
    groups n ls.length ls.flatten = ls := by
  induction ls with
  | nil => rfl
  | cons l ls ih =>
    have hl := h l (by simp)
    have hr := ih fun x hx => h x (by simp [hx])
    simp [groups, ← hl] at hr ⊢
    exact hr

/-- The groups of n items joined again. -/
theorem flatten_groups {α : Type} (n k : Nat) (l : List α) : (groups n k l).flatten = l.take (n * k) := by
  induction k generalizing l with
  | zero => simp [groups]
  | succ k ih => rw [groups, List.flatten_cons, ih, Nat.mul_succ, Nat.add_comm, ← List.take_add]

/-- Each of k groups holds n of at least n·k items. -/
theorem groups_length {α : Type} (n k : Nat) (l : List α) (h : n * k ≤ l.length) :
    ∀ g ∈ groups n k l, g.length = n := by
  induction k generalizing l with
  | zero => simp [groups]
  | succ k ih =>
    rw [Nat.mul_succ] at h
    intro g hg
    rcases List.mem_cons.mp hg with rfl | hg
    · rw [List.length_take]; omega
    · exact ih (l.drop n) (by rw [List.length_drop]; omega) g hg

@[simp] theorem length_groups {α : Type} (n k : Nat) (l : List α) : (groups n k l).length = k := by
  induction k generalizing l with
  | zero => rfl
  | succ k ih => simp [groups, ih]

/-! ## Bits -/

theorem bitsNat_lt (l : List Bool) : bitsNat l < 2 ^ l.length := by
  induction l with
  | nil => simp [bitsNat]
  | cons b l ih =>
    simp only [bitsNat, List.length_cons, Nat.pow_succ]
    cases b
    · simp [b2n]; omega
    · simp [b2n]; omega

theorem testBit_bitsNat (l : List Bool) (i : Nat) (h : i < l.length) : (bitsNat l).testBit i = l[i] := by
  induction l generalizing i with
  | nil => simp at h
  | cons b l ih =>
    cases i with
    | zero => cases b <;> simp [bitsNat, b2n, Nat.testBit_zero]
    | succ i =>
      have : (b2n b + 2 * bitsNat l) / 2 = bitsNat l := by
        have hb : b2n b < 2 := by cases b <;> decide
        omega
      simp only [bitsNat, Nat.testBit_succ, this, List.getElem_cons_succ]
      exact ih i (by simpa using h)

/-- The bits of the number that n bits spell are these bits. -/
theorem bits_of_bitsNat (n : Nat) (l : List Bool) (h : l.length = n) :
    ((List.range n).map fun i => (bitsNat l).testBit i) = l := by
  apply List.ext_getElem (by simp [h])
  intro i h1 h2
  simpa using testBit_bitsNat l i h2

/-- The number that the n low bits of a number below 2^n spell. -/
theorem bitsNat_of_bits (n v : Nat) (h : v < 2 ^ n) : bitsNat ((List.range n).map fun i => v.testBit i) = v := by
  apply Nat.eq_of_testBit_eq
  intro i
  by_cases hi : i < n
  · rw [testBit_bitsNat _ _ (by simpa using hi)]
    simp
  · have hl := bitsNat_lt ((List.range n).map fun i => v.testBit i)
    simp only [List.length_map, List.length_range] at hl
    have hp : 2 ^ n ≤ 2 ^ i := Nat.pow_le_pow_right (by decide) (by omega)
    rw [Nat.testBit_lt_two_pow (by omega), Nat.testBit_lt_two_pow (by omega)]

@[simp] theorem byteBits_length (b : Byte) : (byteBits b).length = 8 := by simp [byteBits]
@[simp] theorem symbolBits_length (v : Nat) : (symbolBits v).length = 10 := by simp [symbolBits]

/-- Bytes as bits, and the bits as bytes. -/
theorem bitsBytes_byteBits (l : List Byte) : bitsBytes l.length (l.flatMap byteBits) = l := by
  have h := groups_flatten 8 (l.map byteBits) (by simp)
  rw [List.length_map] at h
  rw [bitsBytes, List.flatMap_def, h, List.map_map]
  conv => rhs; rw [← List.map_id l]
  apply List.map_congr_left
  intro b _
  have hb : bitsNat (byteBits b) = b.toNat := bitsNat_of_bits 8 b.toNat b.isLt
  simp [hb]

/-! ## Levels -/

/-- A byte of levels gives its bits back. -/
theorem levelByte_bits : ∀ a b c d e f g i : Bool, ((List.range 4).flatMap fun j => pamBits
    ((BitVec.ofNat 8 (pamLevel a b + 4 * pamLevel c d + 16 * pamLevel e f + 64 * pamLevel g i)).toNat / 4 ^ j % 4))
    = [a, b, c, d, e, f, g, i] := by decide +kernel

/-- Bits as levels, and the levels as bits. -/
theorem levelsBits_bitsLevels (k : Nat) (l : List Bool) (h : l.length = 8 * k) : levelsBits (bitsLevels l) = l := by
  induction k generalizing l with
  | zero => obtain rfl := List.length_eq_zero_iff.mp (by omega); rfl
  | succ k ih =>
    match l, h with
    | a :: b :: c :: d :: e :: f :: g :: i :: r, h =>
      have hr := ih r (by simp at h; omega)
      simp only [levelsBits] at hr
      simp only [bitsLevels, levelsBits, List.flatMap_cons, hr]
      rw [levelByte_bits]
      rfl

theorem bitsLevels_length (k : Nat) (l : List Bool) (h : l.length = 8 * k) : (bitsLevels l).length = k := by
  induction k generalizing l with
  | zero => obtain rfl := List.length_eq_zero_iff.mp (by omega); rfl
  | succ k ih =>
    match l, h with
    | a :: b :: c :: d :: e :: f :: g :: i :: r, h =>
      simp only [bitsLevels, List.length_cons]
      rw [ih r (by simp at h; omega)]

/-! ## The scrambler -/

@[simp] theorem scramble_length (st : Nat) (l : List Bool) : (scramble st l).1.length = l.length := by
  induction l generalizing st with
  | nil => rfl
  | cons d l ih => simp [scramble, ih]

/-- A descrambler in the scrambler's state undoes it, and stays in its state. -/
theorem descramble_scramble (st : Nat) (l : List Bool) : descramble st (scramble st l).1 = (l, (scramble st l).2) := by
  induction l generalizing st with
  | nil => rfl
  | cons d l ih =>
    simp only [scramble, descramble, ih]
    cases d <;> cases scrambleTap st <;> rfl

/-! ## The code -/

theorem gfShift_lt (a : Nat) (h : a < 1024) : gfShift a < 1024 := by
  unfold gfShift
  split
  · omega
  · have h1 : (2 * a) ^^^ 0x409 < 2 ^ 11 := Nat.xor_lt_two_pow (by omega) (by decide)
    have h2 : ((2 * a) ^^^ 0x409).testBit 10 = false := by
      rw [Nat.testBit_xor]
      have : (2 * a).testBit 10 = true := by
        rw [Nat.testBit_eq_decide_div_mod_eq]
        simp only [decide_eq_true_eq]
        omega
      rw [this]
      decide
    rw [Nat.testBit_eq_decide_div_mod_eq] at h2
    simp only [decide_eq_false_iff_not] at h2
    omega

theorem gfMulBits_lt (k a b : Nat) (h : a < 1024) : gfMulBits k a b < 1024 := by
  induction k generalizing a b with
  | zero => simp [gfMulBits]
  | succ k ih =>
    rw [gfMulBits]
    exact Nat.xor_lt_two_pow (n := 10) (by split <;> omega) (ih _ _ (gfShift_lt a h))

theorem rsShift_lt (gen r : List Nat) (m : Nat) (hm : m < 1024) (hr : ∀ x ∈ r, x < 1024) :
    ∀ x ∈ rsShift gen r m, x < 1024 := by
  have hd : ∀ i, r.getD i 0 < 1024 := by
    intro i
    rw [List.getD_eq_getElem?_getD]
    cases h : r[i]? with
    | none => simp
    | some v => exact hr v (List.mem_of_getElem? h)
  have hh : r.headD 0 < 1024 := by
    cases r with
    | nil => simp
    | cons a r => exact hr a (by simp)
  intro x hx
  simp only [rsShift, List.mem_map] at hx
  obtain ⟨i, _, rfl⟩ := hx
  exact Nat.xor_lt_two_pow (n := 10) (hd _) (gfMulBits_lt 10 _ _ (Nat.xor_lt_two_pow (n := 10) hm hh))

/-- Parity symbols are field elements, and there are 15. -/
theorem rsParity_lt (m : List Nat) (hm : ∀ x ∈ m, x < 1024) :
    (∀ x ∈ rsParity m, x < 1024) ∧ (rsParity m).length = 15 := by
  have go : ∀ (l r : List Nat), (∀ x ∈ l, x < 1024) → (∀ x ∈ r, x < 1024) → r.length = 15 →
      (∀ x ∈ l.foldl (rsShift rsGenerator) r, x < 1024) ∧ (l.foldl (rsShift rsGenerator) r).length = 15 := by
    intro l
    induction l with
    | nil => exact fun r _ h1 h2 => ⟨h1, h2⟩
    | cons a l ih =>
      intro r hl h1 _
      exact ih _ (fun x hx => hl x (by simp [hx])) (rsShift_lt _ _ _ (hl a (by simp)) h1) (by simp [rsShift])
  exact go m _ hm (by simp) (by simp)

/-- A message's symbols followed by others, from their bits. -/
theorem symbols_append (k : Nat) (m : List Bool) (ps : List Nat) (h : m.length = 10 * k) (hp : ∀ x ∈ ps, x < 1024) :
    (groups 10 (k + ps.length) (m ++ ps.flatMap symbolBits)).map bitsNat = (groups 10 k m).map bitsNat ++ ps := by
  have hm : (groups 10 k m).flatten = m := by rw [flatten_groups, List.take_of_length_le (by omega)]
  have hc : m ++ ps.flatMap symbolBits = (groups 10 k m ++ ps.map symbolBits).flatten := by
    rw [List.flatten_append, hm, List.flatMap_def]
  have hl : (groups 10 k m ++ ps.map symbolBits).length = k + ps.length := by simp
  have := groups_flatten 10 (groups 10 k m ++ ps.map symbolBits) (by
    intro l hx
    rcases List.mem_append.mp hx with hx | hx
    · exact groups_length 10 k m (by omega) l hx
    · obtain ⟨v, _, rfl⟩ := List.mem_map.mp hx
      simp)
  rw [hl] at this
  rw [hc, this, List.map_append, List.map_map]
  congr 1
  conv => rhs; rw [← List.map_id ps]
  apply List.map_congr_left
  intro v hv
  exact bitsNat_of_bits 10 v (hp v hv)

theorem flatMap_symbolBits_length (l : List Nat) : (l.flatMap symbolBits).length = 10 * l.length := by
  induction l with
  | nil => rfl
  | cons b l ih => simp [List.flatMap_cons, ih]; omega

/-- The symbols of a message of k symbols, as bits again. -/
theorem symbolBits_groups (k : Nat) (m : List Bool) (h : m.length = 10 * k) :
    ((groups 10 k m).map bitsNat).flatMap symbolBits = m := by
  have hg := groups_length 10 k m (by omega)
  have : (groups 10 k m).map (symbolBits ∘ bitsNat) = groups 10 k m := by
    conv => rhs; rw [← List.map_id (groups 10 k m)]
    apply List.map_congr_left
    intro g hm
    exact bits_of_bitsNat 10 g (hg g hm)
  rw [List.flatMap_def, List.map_map, this, flatten_groups, List.take_of_length_le (by omega)]

/-- The symbols that bits spell are field elements. -/
theorem symbols_lt (k : Nat) (m : List Bool) (h : m.length = 10 * k) : ∀ x ∈ (groups 10 k m).map bitsNat, x < 1024 := by
  intro x hx
  obtain ⟨g, hm, rfl⟩ := List.mem_map.mp hx
  have := bitsNat_lt g
  rwa [groups_length 10 k m (by omega) g hm] at this

/-- A codeword of a message has 2720 bits. -/
theorem codewordBits_length (m : List Bool) (h : m.length = 2570) : (codewordBits m).length = 8 * 340 := by
  rw [codewordBits, List.length_append, h, flatMap_symbolBits_length,
    (rsParity_lt _ (symbols_lt 257 m (by omega))).2]

/-- A word that is a message and its parity is taken as it is. -/
theorem rsDecode_codeword (w : List Nat) (h : w.length = 257) : rsDecode (w ++ rsParity w) = (w, 0, true) := by
  have ht : (w ++ rsParity w).take 257 = w := by rw [← h]; exact List.take_left
  have hd : (w ++ rsParity w).drop 257 = rsParity w := by rw [← h]; exact List.drop_left
  simp only [rsDecode, rsCode, ht, hd, beq_self_eq_true, if_true]

/-- A codeword that arrives as it was sent gives its message bits, with nothing corrected. -/
theorem decode_codeword (m : List Bool) (h : m.length = 2570) :
    rsDecode ((groups 10 272 (levelsBits (bitsLevels (codewordBits m)))).map bitsNat) =
      ((groups 10 257 m).map bitsNat, 0, true) := by
  have hw := symbols_lt 257 m (by omega)
  have hp := rsParity_lt _ hw
  have hs := symbols_append 257 m (rsParity ((groups 10 257 m).map bitsNat)) (by omega) hp.1
  rw [hp.2] at hs
  rw [levelsBits_bitsLevels 340 _ (codewordBits_length m h), codewordBits, hs]
  exact rsDecode_codeword _ (by simp)

/-- What a codeword carries, read from its levels. -/
def readWord (g : List Byte) : List Nat × Nat × Bool := rsDecode ((groups 10 272 (levelsBits g)).map bitsNat)

/-- Codewords that arrive as they were sent give their messages' bits, with nothing corrected. -/
theorem readWords (ms : List (List Bool)) (h : ∀ m ∈ ms, m.length = 2570) :
    let words := ms.map fun m => readWord (bitsLevels (codewordBits m))
    (words.flatMap fun w => w.1.flatMap symbolBits) = ms.flatten ∧ words.foldl (fun n w => n + w.2.1) 0 = 0 ∧
      (words.filter fun w => !w.2.2) = [] := by
  have hr : ∀ m ∈ ms, readWord (bitsLevels (codewordBits m)) = ((groups 10 257 m).map bitsNat, 0, true) :=
    fun m hm => decode_codeword m (h m hm)
  rw [List.map_congr_left hr]
  refine ⟨?_, ?_, ?_⟩
  · rw [List.flatMap_map, List.flatMap_def]
    congr 1
    conv => rhs; rw [← List.map_id ms]
    apply List.map_congr_left
    intro m hm
    exact symbolBits_groups 257 m (by have := h m hm; omega)
  · clear hr h
    induction ms with
    | nil => rfl
    | cons m ms ih => simpa using ih
  · simp [List.filter_map, Function.comp_def]

/-! ## A frame -/

theorem flatMap_byteBits_length (l : List Byte) : (l.flatMap byteBits).length = 8 * l.length := by
  induction l with
  | nil => rfl
  | cons b l ih => simp [List.flatMap_cons, ih]; omega

/-- A frame received, from the words that its levels carry. -/
theorem decodeFrame_words (identity : Bool) (st : Nat) (line : List Byte) (words : List (List Nat × Nat × Bool))
    (h : (groups 340 8 line).map readWord = words) :
    decodeFrame identity st line =
      let bits := words.flatMap fun w => w.1.flatMap symbolBits
      let k := bypassed identity
      let r := descramble st (bits.drop k)
      { bytes := bitsBytes 2570 (bits.take k ++ r.1), corrected := words.foldl (fun n w => n + w.2.1) 0
        uncorrectable := (words.filter fun w => !w.2.2).length, state := r.2 } := by
  subst h
  rfl

/-- The levels of a frame's codewords, taken apart. -/
theorem groups_levels (ms : List (List Bool)) (h : ∀ m ∈ ms, m.length = 2570) :
    groups 340 ms.length (ms.map fun m => bitsLevels (codewordBits m)).flatten =
      ms.map fun m => bitsLevels (codewordBits m) := by
  have := groups_flatten 340 (ms.map fun m => bitsLevels (codewordBits m)) (by
    intro l hl
    obtain ⟨m, hm, rfl⟩ := List.mem_map.mp hl
    exact bitsLevels_length 340 _ (codewordBits_length m (h m hm)))
  rwa [List.length_map] at this

/-- A frame takes 2720 bytes of levels. -/
theorem encodeFrame_length (identity : Bool) (st : Nat) (bytes : List Byte) (h : bytes.length = 2570) :
    (encodeFrame identity st bytes).1.length = 2720 := by
  have hb : (bytes.flatMap byteBits).length = 20560 := by rw [flatMap_byteBits_length, h]
  have hk : bypassed identity ≤ 20560 := by cases identity <;> decide
  have hB : ((bytes.flatMap byteBits).take (bypassed identity) ++
      (scramble st ((bytes.flatMap byteBits).drop (bypassed identity))).1).length = 20560 := by
    rw [List.length_append, scramble_length, List.length_take, List.length_drop, hb]; omega
  have hg := groups_length 2570 8 _ (by rw [hB])
  have : ∀ ms : List (List Bool), (∀ m ∈ ms, m.length = 2570) →
      (ms.map fun m => bitsLevels (codewordBits m)).flatten.length = 340 * ms.length := by
    intro ms
    induction ms with
    | nil => exact fun _ => rfl
    | cons m ms ih =>
      intro hm
      rw [List.map_cons, List.flatten_cons, List.length_append, ih fun x hx => hm x (by simp [hx]),
        bitsLevels_length 340 _ (codewordBits_length m (hm m (by simp)))]
      simp only [List.length_cons]
      omega
  simp only [encodeFrame]
  rw [this _ hg, length_groups]

/-- A frame that arrives as it was sent, at a descrambler in the scrambler's state, is the frame that was sent, and
leaves the descrambler in the scrambler's state. -/
theorem decodeFrame_encodeFrame (identity : Bool) (st : Nat) (bytes : List Byte) (h : bytes.length = 2570) :
    decodeFrame identity st (encodeFrame identity st bytes).1 = ⟨bytes, 0, 0, (encodeFrame identity st bytes).2⟩ := by
  have hb : (bytes.flatMap byteBits).length = 20560 := by rw [flatMap_byteBits_length, h]
  have hk : bypassed identity ≤ 20560 := by cases identity <;> decide
  generalize hbits : bytes.flatMap byteBits = bits at hb
  generalize hkk : bypassed identity = k at hk
  generalize hr : scramble st (bits.drop k) = r
  have hlen : r.1.length = 20560 - k := by rw [← hr, scramble_length, List.length_drop, hb]
  have htl : (bits.take k).length = k := by rw [List.length_take, hb]; omega
  have hB : (bits.take k ++ r.1).length = 20560 := by rw [List.length_append, htl, hlen]; omega
  have htake : (bits.take k ++ r.1).take k = bits.take k := by
    conv => lhs; arg 1; rw [← htl]
    exact List.take_left
  have hdrop : (bits.take k ++ r.1).drop k = r.1 := by
    conv => lhs; arg 1; rw [← htl]
    exact List.drop_left
  generalize hms : groups 2570 8 (bits.take k ++ r.1) = ms
  have hg : ∀ m ∈ ms, m.length = 2570 := by rw [← hms]; exact groups_length 2570 8 _ (by omega)
  have hl8 : ms.length = 8 := by rw [← hms, length_groups]
  have hflat : ms.flatten = bits.take k ++ r.1 := by
    rw [← hms, flatten_groups, List.take_of_length_le (by omega)]
  have hw := groups_levels ms hg
  rw [hl8] at hw
  obtain ⟨h1, h2, h3⟩ := readWords ms hg
  have hd : descramble st r.1 = (bits.drop k, r.2) := by rw [← hr]; exact descramble_scramble st _
  have hend := bitsBytes_byteBits bytes
  rw [h, hbits] at hend
  have henc : encodeFrame identity st bytes = ((ms.map fun m => bitsLevels (codewordBits m)).flatten, r.2) := by
    simp only [encodeFrame, hbits, hkk, hr, hms]
  rw [henc]
  have hwords : ((ms.map fun m => bitsLevels (codewordBits m)).map readWord) =
      ms.map fun m => readWord (bitsLevels (codewordBits m)) := by rw [List.map_map]; rfl
  rw [decodeFrame_words identity st _ _ ((congrArg (List.map readWord) hw).trans hwords)]
  simp only [h1, h2, h3, hkk, hflat, htake, hdrop, hd, List.take_append_drop, hend, List.length_nil]

/-- A frame whose levels nothing changes arrives as it was sent. -/
@[simp] theorem arriving_quiet (identity : Bool) (bytes : List Byte) (scr : Nat) :
    arriving identity bytes scr [] = (encodeFrame identity scr bytes).1 := rfl

/-- Changed levels are as many as before. -/
@[simp] theorem disturbed_length (noise : List (Nat × Byte)) (line : List Byte) :
    (disturbed noise line).length = line.length := by
  induction noise generalizing line with
  | nil => rfl
  | cons x noise ih => rw [disturbed, List.foldl_cons]; exact (ih _).trans (modAt_length line x.1 _)

/-- A frame of 2570 bytes arrives as 2720 bytes of levels, whatever happens to it. -/
theorem arriving_length (identity : Bool) (bytes : List Byte) (scr : Nat) (noise : List (Nat × Byte))
    (h : bytes.length = 2570) : (arriving identity bytes scr noise).length = 2720 := by
  rw [arriving, disturbed_length, encodeFrame_length identity scr bytes h]

end Sys2Proof.Machine
end

