-- ==== Sys2Proof/Laws/State.lean ====
section
/-! SUPPORT. What each update of the state changes: one lemma per field per update, true by definition. The
updates of a part of a unit are first rewritten to the update of the unit. -/

namespace Sys2Proof.Machine

variable (s : State)

/-! ## modCd -/

@[simp] theorem State.modCd_pending (d : Nat) (f : Cd → Cd) : (s.modCd d f).pending = s.pending := rfl
@[simp] theorem State.modCd_free (d : Nat) (f : Cd → Cd) : (s.modCd d f).free = s.free := rfl
@[simp] theorem State.modCd_ctrl (d : Nat) (f : Cd → Cd) : (s.modCd d f).ctrl = s.ctrl := rfl
@[simp] theorem State.modCd_parts (d : Nat) (f : Cd → Cd) : (s.modCd d f).parts = s.parts := rfl
@[simp] theorem State.modCd_baith (d : Nat) (f : Cd → Cd) : (s.modCd d f).baith = s.baith := rfl
@[simp] theorem State.modCd_cds (d : Nat) (f : Cd → Cd) : (s.modCd d f).cds = modAt s.cds d f := rfl
@[simp] theorem State.modCd_hubs (d : Nat) (f : Cd → Cd) : (s.modCd d f).hubs = s.hubs := rfl
@[simp] theorem State.modCd_uds (d : Nat) (f : Cd → Cd) : (s.modCd d f).uds = s.uds := rfl
@[simp] theorem State.modCd_les (d : Nat) (f : Cd → Cd) : (s.modCd d f).les = s.les := rfl
@[simp] theorem State.modCd_ports (d : Nat) (f : Cd → Cd) : (s.modCd d f).ports = s.ports := rfl

/-! ## modHub -/

@[simp] theorem State.modHub_pending (h : Nat) (f : Hub → Hub) : (s.modHub h f).pending = s.pending := rfl
@[simp] theorem State.modHub_free (h : Nat) (f : Hub → Hub) : (s.modHub h f).free = s.free := rfl
@[simp] theorem State.modHub_ctrl (h : Nat) (f : Hub → Hub) : (s.modHub h f).ctrl = s.ctrl := rfl
@[simp] theorem State.modHub_parts (h : Nat) (f : Hub → Hub) : (s.modHub h f).parts = s.parts := rfl
@[simp] theorem State.modHub_baith (h : Nat) (f : Hub → Hub) : (s.modHub h f).baith = s.baith := rfl
@[simp] theorem State.modHub_cds (h : Nat) (f : Hub → Hub) : (s.modHub h f).cds = s.cds := rfl
@[simp] theorem State.modHub_hubs (h : Nat) (f : Hub → Hub) : (s.modHub h f).hubs = modAt s.hubs h f := rfl
@[simp] theorem State.modHub_uds (h : Nat) (f : Hub → Hub) : (s.modHub h f).uds = s.uds := rfl
@[simp] theorem State.modHub_les (h : Nat) (f : Hub → Hub) : (s.modHub h f).les = s.les := rfl
@[simp] theorem State.modHub_ports (h : Nat) (f : Hub → Hub) : (s.modHub h f).ports = s.ports := rfl

/-! ## modUd -/

@[simp] theorem State.modUd_pending (u : Nat) (f : Ud → Ud) : (s.modUd u f).pending = s.pending := rfl
@[simp] theorem State.modUd_free (u : Nat) (f : Ud → Ud) : (s.modUd u f).free = s.free := rfl
@[simp] theorem State.modUd_ctrl (u : Nat) (f : Ud → Ud) : (s.modUd u f).ctrl = s.ctrl := rfl
@[simp] theorem State.modUd_parts (u : Nat) (f : Ud → Ud) : (s.modUd u f).parts = s.parts := rfl
@[simp] theorem State.modUd_baith (u : Nat) (f : Ud → Ud) : (s.modUd u f).baith = s.baith := rfl
@[simp] theorem State.modUd_cds (u : Nat) (f : Ud → Ud) : (s.modUd u f).cds = s.cds := rfl
@[simp] theorem State.modUd_hubs (u : Nat) (f : Ud → Ud) : (s.modUd u f).hubs = s.hubs := rfl
@[simp] theorem State.modUd_uds (u : Nat) (f : Ud → Ud) : (s.modUd u f).uds = modAt s.uds u f := rfl
@[simp] theorem State.modUd_les (u : Nat) (f : Ud → Ud) : (s.modUd u f).les = s.les := rfl
@[simp] theorem State.modUd_ports (u : Nat) (f : Ud → Ud) : (s.modUd u f).ports = s.ports := rfl

/-! ## modLe -/

@[simp] theorem State.modLe_pending (m : Nat) (f : Le → Le) : (s.modLe m f).pending = s.pending := rfl
@[simp] theorem State.modLe_free (m : Nat) (f : Le → Le) : (s.modLe m f).free = s.free := rfl
@[simp] theorem State.modLe_ctrl (m : Nat) (f : Le → Le) : (s.modLe m f).ctrl = s.ctrl := rfl
@[simp] theorem State.modLe_parts (m : Nat) (f : Le → Le) : (s.modLe m f).parts = s.parts := rfl
@[simp] theorem State.modLe_baith (m : Nat) (f : Le → Le) : (s.modLe m f).baith = s.baith := rfl
@[simp] theorem State.modLe_cds (m : Nat) (f : Le → Le) : (s.modLe m f).cds = s.cds := rfl
@[simp] theorem State.modLe_hubs (m : Nat) (f : Le → Le) : (s.modLe m f).hubs = s.hubs := rfl
@[simp] theorem State.modLe_uds (m : Nat) (f : Le → Le) : (s.modLe m f).uds = s.uds := rfl
@[simp] theorem State.modLe_les (m : Nat) (f : Le → Le) : (s.modLe m f).les = modAt s.les m f := rfl
@[simp] theorem State.modLe_ports (m : Nat) (f : Le → Le) : (s.modLe m f).ports = s.ports := rfl

/-! ## modPort -/

@[simp] theorem State.modPort_pending (n : Nat) (f : Port → Port) : (s.modPort n f).pending = s.pending := rfl
@[simp] theorem State.modPort_free (n : Nat) (f : Port → Port) : (s.modPort n f).free = s.free := rfl
@[simp] theorem State.modPort_ctrl (n : Nat) (f : Port → Port) : (s.modPort n f).ctrl = s.ctrl := rfl
@[simp] theorem State.modPort_parts (n : Nat) (f : Port → Port) : (s.modPort n f).parts = s.parts := rfl
@[simp] theorem State.modPort_baith (n : Nat) (f : Port → Port) : (s.modPort n f).baith = s.baith := rfl
@[simp] theorem State.modPort_cds (n : Nat) (f : Port → Port) : (s.modPort n f).cds = s.cds := rfl
@[simp] theorem State.modPort_hubs (n : Nat) (f : Port → Port) : (s.modPort n f).hubs = s.hubs := rfl
@[simp] theorem State.modPort_uds (n : Nat) (f : Port → Port) : (s.modPort n f).uds = s.uds := rfl
@[simp] theorem State.modPort_les (n : Nat) (f : Port → Port) : (s.modPort n f).les = s.les := rfl
@[simp] theorem State.modPort_ports (n : Nat) (f : Port → Port) : (s.modPort n f).ports = modAt s.ports n f := rfl

/-! ## modPart -/

@[simp] theorem State.modPart_pending (p : Nat) (f : Part → Part) : (s.modPart p f).pending = s.pending := rfl
@[simp] theorem State.modPart_free (p : Nat) (f : Part → Part) : (s.modPart p f).free = s.free := rfl
@[simp] theorem State.modPart_ctrl (p : Nat) (f : Part → Part) : (s.modPart p f).ctrl = s.ctrl := rfl
@[simp] theorem State.modPart_parts (p : Nat) (f : Part → Part) : (s.modPart p f).parts = modAt s.parts p f := rfl
@[simp] theorem State.modPart_baith (p : Nat) (f : Part → Part) : (s.modPart p f).baith = s.baith := rfl
@[simp] theorem State.modPart_cds (p : Nat) (f : Part → Part) : (s.modPart p f).cds = s.cds := rfl
@[simp] theorem State.modPart_hubs (p : Nat) (f : Part → Part) : (s.modPart p f).hubs = s.hubs := rfl
@[simp] theorem State.modPart_uds (p : Nat) (f : Part → Part) : (s.modPart p f).uds = s.uds := rfl
@[simp] theorem State.modPart_les (p : Nat) (f : Part → Part) : (s.modPart p f).les = s.les := rfl
@[simp] theorem State.modPart_ports (p : Nat) (f : Part → Part) : (s.modPart p f).ports = s.ports := rfl

/-! ## modBp -/

@[simp] theorem State.modBp_pending (b : Nat) (f : Baith → Baith) : (s.modBp b f).pending = s.pending := rfl
@[simp] theorem State.modBp_free (b : Nat) (f : Baith → Baith) : (s.modBp b f).free = s.free := rfl
@[simp] theorem State.modBp_ctrl (b : Nat) (f : Baith → Baith) : (s.modBp b f).ctrl = s.ctrl := rfl
@[simp] theorem State.modBp_parts (b : Nat) (f : Baith → Baith) : (s.modBp b f).parts = s.parts := rfl
@[simp] theorem State.modBp_baith (b : Nat) (f : Baith → Baith) : (s.modBp b f).baith = modAt s.baith b f := rfl
@[simp] theorem State.modBp_cds (b : Nat) (f : Baith → Baith) : (s.modBp b f).cds = s.cds := rfl
@[simp] theorem State.modBp_hubs (b : Nat) (f : Baith → Baith) : (s.modBp b f).hubs = s.hubs := rfl
@[simp] theorem State.modBp_uds (b : Nat) (f : Baith → Baith) : (s.modBp b f).uds = s.uds := rfl
@[simp] theorem State.modBp_les (b : Nat) (f : Baith → Baith) : (s.modBp b f).les = s.les := rfl
@[simp] theorem State.modBp_ports (b : Nat) (f : Baith → Baith) : (s.modBp b f).ports = s.ports := rfl

/-! ## modCtrl and drawn -/

@[simp] theorem State.modCtrl_pending (f : Ctrl → Ctrl) : (s.modCtrl f).pending = s.pending := rfl
@[simp] theorem State.modCtrl_free (f : Ctrl → Ctrl) : (s.modCtrl f).free = s.free := rfl
@[simp] theorem State.modCtrl_ctrl (f : Ctrl → Ctrl) : (s.modCtrl f).ctrl = f s.ctrl := rfl
@[simp] theorem State.modCtrl_parts (f : Ctrl → Ctrl) : (s.modCtrl f).parts = s.parts := rfl
@[simp] theorem State.modCtrl_baith (f : Ctrl → Ctrl) : (s.modCtrl f).baith = s.baith := rfl
@[simp] theorem State.modCtrl_cds (f : Ctrl → Ctrl) : (s.modCtrl f).cds = s.cds := rfl
@[simp] theorem State.modCtrl_hubs (f : Ctrl → Ctrl) : (s.modCtrl f).hubs = s.hubs := rfl
@[simp] theorem State.modCtrl_uds (f : Ctrl → Ctrl) : (s.modCtrl f).uds = s.uds := rfl
@[simp] theorem State.modCtrl_les (f : Ctrl → Ctrl) : (s.modCtrl f).les = s.les := rfl
@[simp] theorem State.modCtrl_ports (f : Ctrl → Ctrl) : (s.modCtrl f).ports = s.ports := rfl
@[simp] theorem State.drawn_pending : s.drawn.pending = s.pending := rfl
@[simp] theorem State.drawn_free : s.drawn.free = s.free + 1 := rfl
@[simp] theorem State.drawn_ctrl : s.drawn.ctrl = s.ctrl := rfl
@[simp] theorem State.drawn_parts : s.drawn.parts = s.parts := rfl
@[simp] theorem State.drawn_baith : s.drawn.baith = s.baith := rfl
@[simp] theorem State.drawn_cds : s.drawn.cds = s.cds := rfl
@[simp] theorem State.drawn_hubs : s.drawn.hubs = s.hubs := rfl
@[simp] theorem State.drawn_uds : s.drawn.uds = s.uds := rfl
@[simp] theorem State.drawn_les : s.drawn.les = s.les := rfl
@[simp] theorem State.drawn_ports : s.drawn.ports = s.ports := rfl

/-! ## Parts of a unit -/

@[simp] theorem State.modSeq_eq (d : Nat) (f : Seq → Seq) :
    s.modSeq d f = s.modCd d fun c => { c with seq := f c.seq } := rfl
@[simp] theorem State.modEng_eq (d : Nat) (f : Engines → Engines) :
    s.modEng d f = s.modCd d fun c => { c with eng := f c.eng } := rfl
@[simp] theorem State.modScratch_eq (d : Nat) (f : Scratch → Scratch) :
    s.modScratch d f = s.modCd d fun c => { c with scratch := f c.scratch } := rfl
@[simp] theorem State.modDiePwr_eq (d : Nat) (f : DiePower → DiePower) :
    s.modDiePwr d f = s.modCd d fun c => { c with pwr := f c.pwr } := rfl
@[simp] theorem State.modRed_eq (h : Nat) (f : Reduce → Reduce) :
    s.modRed h f = s.modHub h fun b => { b with red := f b.red } := rfl
@[simp] theorem State.modMem_eq (h : Nat) (f : HubMem → HubMem) :
    s.modMem h f = s.modHub h fun b => { b with mem := f b.mem } := rfl
@[simp] theorem State.modChk_eq (h : Nat) (f : LineCheck → LineCheck) :
    s.modChk h f = s.modHub h fun b => { b with chk := f b.chk } := rfl
@[simp] theorem State.modLink_eq (n : Nat) (f : Link → Link) :
    s.modLink n f = s.modPort n fun q => { q with link := f q.link } := rfl
@[simp] theorem State.modArb_eq (n : Nat) (f : Arbiter → Arbiter) :
    s.modArb n f = s.modPort n fun q => { q with arb := f q.arb } := rfl
@[simp] theorem State.modStream_eq (p : Nat) (f : Stream → Stream) :
    s.modStream p f = s.modPart p fun q => { q with stream := f q.stream } := rfl
@[simp] theorem State.modFab_eq (p : Nat) (f : Fabric → Fabric) :
    s.modFab p f = s.modPart p fun q => { q with fab := f q.fab } := rfl
@[simp] theorem State.modDisc_eq (p : Nat) (f : Discipline → Discipline) :
    s.modDisc p f = s.modPart p fun q => { q with disc := f q.disc } := rfl
@[simp] theorem State.modVxe_eq (d : Nat) (f : Vxe → Vxe) :
    s.modVxe d f = s.modCd d fun c => { c with eng := { c.eng with vxe := f c.eng.vxe } } := rfl
@[simp] theorem State.modGxe_eq (d : Nat) (f : Gxe → Gxe) :
    s.modGxe d f = s.modCd d fun c => { c with eng := { c.eng with gxe := f c.eng.gxe } } := rfl
@[simp] theorem State.modCve_eq (d : Nat) (f : Cve → Cve) :
    s.modCve d f = s.modCd d fun c => { c with eng := { c.eng with cve := f c.eng.cve } } := rfl
@[simp] theorem State.modCoe_eq (d : Nat) (f : Coe → Coe) :
    s.modCoe d f = s.modCd d fun c => { c with eng := { c.eng with coe := f c.eng.coe } } := rfl
@[simp] theorem State.modFennel_eq (d : Nat) (f : Fennel → Fennel) :
    s.modFennel d f = s.modCd d fun c => { c with eng := { c.eng with fennel := f c.eng.fennel } } := rfl
@[simp] theorem State.modMxe_eq (d e : Nat) (f : Mxe → Mxe) :
    s.modMxe d e f = s.modCd d fun c => { c with eng := { c.eng with mxe := modAt c.eng.mxe e f } } := rfl
@[simp] theorem State.modRx_eq (n l : Nat) (f : RxLane → RxLane) :
    s.modRx n l f = s.modPort n fun q => { q with rx := modAt q.rx l f } := rfl
@[simp] theorem State.modTx_eq (n l : Nat) (f : TxLane → TxLane) :
    s.modTx n l f = s.modPort n fun q => { q with tx := modAt q.tx l f } := rfl
@[simp] theorem State.modRing_eq (n l : Nat) (f : RingRes → RingRes) :
    s.modRing n l f = s.modPort n fun q => { q with rings := modAt q.rings l f } := rfl
@[simp] theorem State.modLaser_eq (m j : Nat) (f : Laser → Laser) :
    s.modLaser m j f = s.modLe m fun e => { e with lasers := modAt e.lasers j f } := rfl
@[simp] theorem State.modMod_eq (f : Module → Module) :
    s.modMod f = s.modCtrl fun c => { c with module := f c.module } := rfl
@[simp] theorem State.modLog_eq (f : Logbook → Logbook) :
    s.modLog f = s.modCtrl fun c => { c with log := f c.log } := rfl
@[simp] theorem State.modFw_eq (f : Firmware → Firmware) :
    s.modFw f = s.modCtrl fun c => { c with fw := f c.fw } := rfl
@[simp] theorem State.modLoader_frame (f : Loader → Loader) :
    s.modLoader .frame f = s.modCtrl fun c => { c with frameLoader := f c.frameLoader } := rfl
@[simp] theorem State.modLoader_part (p : Nat) (f : Loader → Loader) :
    s.modLoader (.part p) f = s.modPart p fun q => { q with loader := f q.loader } := rfl

end Sys2Proof.Machine
end

