-- ==== Sys2Proof/Laws/Ops.lean ====
section
/-! SUPPORT. What each shared operation can do: reading a unit after a change of a unit, a command that names
units, a record's operation, and a command's place in the queue. -/

namespace Sys2Proof.Machine

variable (s : State)

/-! ## One unit read after a change -/

theorem State.modCd_cd_same (d : Nat) (f : Cd → Cd) (hlt : d < s.cds.length) :
    (s.modCd d f).cd d = f (s.cd d) := modAt_getD_same _ _ _ _ hlt

theorem State.modCd_cd_other (d k : Nat) (f : Cd → Cd) (hne : k ≠ d) :
    (s.modCd d f).cd k = s.cd k := modAt_getD_other _ _ _ _ _ hne

/-- Two changes of one unit are one. -/
theorem State.modCd_modCd (d : Nat) (f g : Cd → Cd) :
    (s.modCd d f).modCd d g = s.modCd d fun x => g (f x) := by
  simp [State.modCd, modAt_modAt]
@[simp] theorem State.modCd_hub (d h1 : Nat) (f : Cd → Cd) : (s.modCd d f).hub h1 = s.hub h1 := rfl
@[simp] theorem State.modCd_ud (d u1 : Nat) (f : Cd → Cd) : (s.modCd d f).ud u1 = s.ud u1 := rfl
@[simp] theorem State.modCd_le (d m1 : Nat) (f : Cd → Cd) : (s.modCd d f).le m1 = s.le m1 := rfl
@[simp] theorem State.modCd_port (d n1 : Nat) (f : Cd → Cd) : (s.modCd d f).port n1 = s.port n1 := rfl
@[simp] theorem State.modCd_part (d p1 : Nat) (f : Cd → Cd) : (s.modCd d f).part p1 = s.part p1 := rfl
@[simp] theorem State.modCd_bp (d b1 : Nat) (f : Cd → Cd) : (s.modCd d f).bp b1 = s.bp b1 := rfl

theorem State.modHub_hub_same (h : Nat) (f : Hub → Hub) (hlt : h < s.hubs.length) :
    (s.modHub h f).hub h = f (s.hub h) := modAt_getD_same _ _ _ _ hlt

theorem State.modHub_hub_other (h k : Nat) (f : Hub → Hub) (hne : k ≠ h) :
    (s.modHub h f).hub k = s.hub k := modAt_getD_other _ _ _ _ _ hne

/-- Two changes of one unit are one. -/
theorem State.modHub_modHub (h : Nat) (f g : Hub → Hub) :
    (s.modHub h f).modHub h g = s.modHub h fun x => g (f x) := by
  simp [State.modHub, modAt_modAt]
@[simp] theorem State.modHub_cd (h d1 : Nat) (f : Hub → Hub) : (s.modHub h f).cd d1 = s.cd d1 := rfl
@[simp] theorem State.modHub_ud (h u1 : Nat) (f : Hub → Hub) : (s.modHub h f).ud u1 = s.ud u1 := rfl
@[simp] theorem State.modHub_le (h m1 : Nat) (f : Hub → Hub) : (s.modHub h f).le m1 = s.le m1 := rfl
@[simp] theorem State.modHub_port (h n1 : Nat) (f : Hub → Hub) : (s.modHub h f).port n1 = s.port n1 := rfl
@[simp] theorem State.modHub_part (h p1 : Nat) (f : Hub → Hub) : (s.modHub h f).part p1 = s.part p1 := rfl
@[simp] theorem State.modHub_bp (h b1 : Nat) (f : Hub → Hub) : (s.modHub h f).bp b1 = s.bp b1 := rfl

theorem State.modUd_ud_same (u : Nat) (f : Ud → Ud) (hlt : u < s.uds.length) :
    (s.modUd u f).ud u = f (s.ud u) := modAt_getD_same _ _ _ _ hlt

theorem State.modUd_ud_other (u k : Nat) (f : Ud → Ud) (hne : k ≠ u) :
    (s.modUd u f).ud k = s.ud k := modAt_getD_other _ _ _ _ _ hne

/-- Two changes of one unit are one. -/
theorem State.modUd_modUd (u : Nat) (f g : Ud → Ud) :
    (s.modUd u f).modUd u g = s.modUd u fun x => g (f x) := by
  simp [State.modUd, modAt_modAt]
@[simp] theorem State.modUd_cd (u d1 : Nat) (f : Ud → Ud) : (s.modUd u f).cd d1 = s.cd d1 := rfl
@[simp] theorem State.modUd_hub (u h1 : Nat) (f : Ud → Ud) : (s.modUd u f).hub h1 = s.hub h1 := rfl
@[simp] theorem State.modUd_le (u m1 : Nat) (f : Ud → Ud) : (s.modUd u f).le m1 = s.le m1 := rfl
@[simp] theorem State.modUd_port (u n1 : Nat) (f : Ud → Ud) : (s.modUd u f).port n1 = s.port n1 := rfl
@[simp] theorem State.modUd_part (u p1 : Nat) (f : Ud → Ud) : (s.modUd u f).part p1 = s.part p1 := rfl
@[simp] theorem State.modUd_bp (u b1 : Nat) (f : Ud → Ud) : (s.modUd u f).bp b1 = s.bp b1 := rfl

theorem State.modLe_le_same (m : Nat) (f : Le → Le) (hlt : m < s.les.length) :
    (s.modLe m f).le m = f (s.le m) := modAt_getD_same _ _ _ _ hlt

theorem State.modLe_le_other (m k : Nat) (f : Le → Le) (hne : k ≠ m) :
    (s.modLe m f).le k = s.le k := modAt_getD_other _ _ _ _ _ hne

/-- Two changes of one unit are one. -/
theorem State.modLe_modLe (m : Nat) (f g : Le → Le) :
    (s.modLe m f).modLe m g = s.modLe m fun x => g (f x) := by
  simp [State.modLe, modAt_modAt]
@[simp] theorem State.modLe_cd (m d1 : Nat) (f : Le → Le) : (s.modLe m f).cd d1 = s.cd d1 := rfl
@[simp] theorem State.modLe_hub (m h1 : Nat) (f : Le → Le) : (s.modLe m f).hub h1 = s.hub h1 := rfl
@[simp] theorem State.modLe_ud (m u1 : Nat) (f : Le → Le) : (s.modLe m f).ud u1 = s.ud u1 := rfl
@[simp] theorem State.modLe_port (m n1 : Nat) (f : Le → Le) : (s.modLe m f).port n1 = s.port n1 := rfl
@[simp] theorem State.modLe_part (m p1 : Nat) (f : Le → Le) : (s.modLe m f).part p1 = s.part p1 := rfl
@[simp] theorem State.modLe_bp (m b1 : Nat) (f : Le → Le) : (s.modLe m f).bp b1 = s.bp b1 := rfl

theorem State.modPort_port_same (n : Nat) (f : Port → Port) (hlt : n < s.ports.length) :
    (s.modPort n f).port n = f (s.port n) := modAt_getD_same _ _ _ _ hlt

theorem State.modPort_port_other (n k : Nat) (f : Port → Port) (hne : k ≠ n) :
    (s.modPort n f).port k = s.port k := modAt_getD_other _ _ _ _ _ hne

/-- Two changes of one unit are one. -/
theorem State.modPort_modPort (n : Nat) (f g : Port → Port) :
    (s.modPort n f).modPort n g = s.modPort n fun x => g (f x) := by
  simp [State.modPort, modAt_modAt]
@[simp] theorem State.modPort_cd (n d1 : Nat) (f : Port → Port) : (s.modPort n f).cd d1 = s.cd d1 := rfl
@[simp] theorem State.modPort_hub (n h1 : Nat) (f : Port → Port) : (s.modPort n f).hub h1 = s.hub h1 := rfl
@[simp] theorem State.modPort_ud (n u1 : Nat) (f : Port → Port) : (s.modPort n f).ud u1 = s.ud u1 := rfl
@[simp] theorem State.modPort_le (n m1 : Nat) (f : Port → Port) : (s.modPort n f).le m1 = s.le m1 := rfl
@[simp] theorem State.modPort_part (n p1 : Nat) (f : Port → Port) : (s.modPort n f).part p1 = s.part p1 := rfl
@[simp] theorem State.modPort_bp (n b1 : Nat) (f : Port → Port) : (s.modPort n f).bp b1 = s.bp b1 := rfl

theorem State.modPart_part_same (p : Nat) (f : Part → Part) (hlt : p < s.parts.length) :
    (s.modPart p f).part p = f (s.part p) := modAt_getD_same _ _ _ _ hlt

theorem State.modPart_part_other (p k : Nat) (f : Part → Part) (hne : k ≠ p) :
    (s.modPart p f).part k = s.part k := modAt_getD_other _ _ _ _ _ hne

/-- Two changes of one unit are one. -/
theorem State.modPart_modPart (p : Nat) (f g : Part → Part) :
    (s.modPart p f).modPart p g = s.modPart p fun x => g (f x) := by
  simp [State.modPart, modAt_modAt]
@[simp] theorem State.modPart_cd (p d1 : Nat) (f : Part → Part) : (s.modPart p f).cd d1 = s.cd d1 := rfl
@[simp] theorem State.modPart_hub (p h1 : Nat) (f : Part → Part) : (s.modPart p f).hub h1 = s.hub h1 := rfl
@[simp] theorem State.modPart_ud (p u1 : Nat) (f : Part → Part) : (s.modPart p f).ud u1 = s.ud u1 := rfl
@[simp] theorem State.modPart_le (p m1 : Nat) (f : Part → Part) : (s.modPart p f).le m1 = s.le m1 := rfl
@[simp] theorem State.modPart_port (p n1 : Nat) (f : Part → Part) : (s.modPart p f).port n1 = s.port n1 := rfl
@[simp] theorem State.modPart_bp (p b1 : Nat) (f : Part → Part) : (s.modPart p f).bp b1 = s.bp b1 := rfl

theorem State.modBp_bp_same (b : Nat) (f : Baith → Baith) (hlt : b < s.baith.length) :
    (s.modBp b f).bp b = f (s.bp b) := modAt_getD_same _ _ _ _ hlt

theorem State.modBp_bp_other (b k : Nat) (f : Baith → Baith) (hne : k ≠ b) :
    (s.modBp b f).bp k = s.bp k := modAt_getD_other _ _ _ _ _ hne

/-- Two changes of one unit are one. -/
theorem State.modBp_modBp (b : Nat) (f g : Baith → Baith) :
    (s.modBp b f).modBp b g = s.modBp b fun x => g (f x) := by
  simp [State.modBp, modAt_modAt]
@[simp] theorem State.modBp_cd (b d1 : Nat) (f : Baith → Baith) : (s.modBp b f).cd d1 = s.cd d1 := rfl
@[simp] theorem State.modBp_hub (b h1 : Nat) (f : Baith → Baith) : (s.modBp b f).hub h1 = s.hub h1 := rfl
@[simp] theorem State.modBp_ud (b u1 : Nat) (f : Baith → Baith) : (s.modBp b f).ud u1 = s.ud u1 := rfl
@[simp] theorem State.modBp_le (b m1 : Nat) (f : Baith → Baith) : (s.modBp b f).le m1 = s.le m1 := rfl
@[simp] theorem State.modBp_port (b n1 : Nat) (f : Baith → Baith) : (s.modBp b f).port n1 = s.port n1 := rfl
@[simp] theorem State.modBp_part (b p1 : Nat) (f : Baith → Baith) : (s.modBp b f).part p1 = s.part p1 := rfl

/-! ## A command that names units -/

/-- A command whose units exist answers its next state. -/
theorem onlyIf_true (t : State) : onlyIf true t = .next t := rfl

/-- A command that names a unit the family lacks faults. -/
theorem onlyIf_false (t : State) : onlyIf false t = .fault .noSuchUnit := rfl

/-- A command that answers a next state names units that exist. -/
theorem onlyIf_next {ok : Bool} {t u : State} (h : onlyIf ok t = .next u) : ok = true ∧ u = t := by
  cases ok with
  | false => cases h
  | true => cases h; exact ⟨rfl, rfl⟩

/-- A command that names units is never refused. -/
theorem onlyIf_not_refused (ok : Bool) (t : State) (e : Refusal) : onlyIf ok t ≠ .refused e := by
  cases ok <;> nofun

/-! ## A record's operation -/

/-- A running record of the opcode has its operation carried out, and is marked. -/
theorem runOp_runs {s : State} {r : RecRef} {code : Nat} {x : RecState} (f : RecState → State → State)
    (h : s.runs r code x) : runOp r code f s = .next ((f x s).marked r) := by
  obtain ⟨⟨hw, hr, hp, he, hc, hs⟩, hi⟩ := h
  simp [runOp, onlyIf, hw, hr, hp, he, hc, hs, underImage, hi, State.marked]

/-- A record that started under another image has its operation carried out under that one (R55). -/
theorem runOp_under {s : State} {r : RecRef} {code : Nat} {x : RecState} {p : Nat} {i : JobImage}
    (f : RecState → State → State) (h : s.goes r code x) (hi : s.oldImage? r x = some (p, i)) :
    runOp r code f s =
      .next (((f x (s.withImage p (some i))).withImage p (s.part p).active).marked r) := by
  obtain ⟨hw, hr, hp, he, hc, hs⟩ := h
  simp [runOp, onlyIf, hw, hr, hp, he, hc, hs, underImage, hi, State.marked]

/-- What a record's operation can do: it is carried out for a running record of its opcode, under the image with which
the record started, and changes nothing otherwise. -/
theorem runOp_next {s t : State} {r : RecRef} {code : Nat} {f : RecState → State → State}
    (h : runOp r code f s = .next t) :
    (∃ x, s.goes r code x ∧ t = (underImage r x (f x) s).marked r) ∨ ((∀ x, ¬ s.goes r code x) ∧ t = s) := by
  obtain ⟨hw, rfl⟩ := onlyIf_next h
  cases hr : s.rec? r with
  | none => exact .inr ⟨fun x hx => (by simp [hx.2.1] at hr), rfl⟩
  | some x =>
    by_cases hx : s.goes r code x
    · obtain ⟨_, _, hp, he, hc, hs⟩ := id hx
      exact .inl ⟨x, hx, by simp [hp, he, hc, hs, State.marked]⟩
    · refine .inr ⟨fun y hy => hx ?_, ?_⟩
      · obtain ⟨_, hy2, _⟩ := id hy
        rw [hr] at hy2
        cases hy2
        exact hy
      · simp only [State.goes, hw, hr, true_and, not_and] at hx
        by_cases hp : x.phase = .running <;> by_cases he : x.executed = false <;>
          by_cases hc : x.record.opcode = code <;> simp_all

/-- A record whose die exists never stops a command. -/
theorem runOp_answers (s : State) {r : RecRef} (code : Nat) (f : RecState → State → State) (h : r.wf = true) :
    ∃ t, runOp r code f s = .next t := ⟨_, by simp only [runOp, h]; rfl⟩

/-- An operation that is ready is carried out as any other. -/
theorem runOpWhen_ready {s : State} {r : RecRef} {code : Nat} {x : RecState} {ready : RecState → State → Bool}
    (f : RecState → State → State) (h : s.runs r code x) (hr : ready x s = true) :
    runOpWhen r code ready f s = .next ((f x s).marked r) := by
  rw [← runOp_runs f h]
  simp [runOpWhen, h.1.2.1, State.seenBy, h.2, hr]

/-- An operation that is not ready waits. -/
theorem runOpWhen_waits {s : State} {r : RecRef} {code : Nat} {x : RecState} {ready : RecState → State → Bool}
    (f : RecState → State → State) (h : s.runs r code x) (hr : ready x s = false) :
    runOpWhen r code ready f s = .next s := by
  simp [runOpWhen, h.1.2.1, State.seenBy, h.2, hr, h.1.1, onlyIf]

/-- While a stop suspends a record, its operation waits (R414). -/
theorem runOp_suspended {s : State} {r : RecRef} {code : Nat} {x : RecState} (f : RecState → State → State)
    (hw : r.wf = true) (hr : s.rec? r = some x) (hs : s.suspended r x = true) : runOp r code f s = .next s := by
  simp [runOp, onlyIf, hw, hr, hs]

/-- A count of 0 changes nothing (R93). -/
theorem counted_zero (f : RecState → State → State) {x : RecState} (s : State) (h : x.record.count = 0) :
    counted f x s = s := by simp [counted, RecState.count, h]

/-- An operation on a count other than 0. -/
theorem counted_pos (f : RecState → State → State) {x : RecState} (s : State) (h : x.record.count ≠ 0) :
    counted f x s = f x s := by simp [counted, RecState.count, h]

/-- A mark on a record changes its die's sequencer alone. -/
theorem State.marked_eq (r : RecRef) : s.marked r = s.modSeq r.die fun q =>
    q.modStep r.step fun t => { t with recs := modAt t.recs r.cmd fun y => { y with executed := true } } := rfl

/-! ## The queue -/

/-- A step with a command in front. -/
theorem step_front {s : State} {c : Instr} {rest : List Instr} (h : s.pending = c :: rest) :
    step s = exec c { s with pending := rest } := by simp [step, h]

/-- A step on an empty queue. -/
theorem step_empty {s : State} (h : s.pending = []) : step s = .next (idle s) := by simp [step, h]

end Sys2Proof.Machine
end

