-- ==== Sys2Proof/Laws/PerInstr.lean ====
section
/-! SUPPORT. One property of every command, a lemma for each: what a well-formed command names exists in the
largest part of the family (R1, Table 00.1). -/

namespace Sys2Proof.Laws.Checks

/-- The compute die a command names, itself or by a record. -/
def die? : Instr → Option Nat
  | .recordIssue r _ => some r.die
  | .recordComplete r => some r.die
  | .replayRangeRerun d => some d
  | .nop r => some r.die
  | .smovi r => some r.die
  | .salu r => some r.die
  | .sld r => some r.die
  | .sst r => some r.die
  | .choice r => some r.die
  | .replay r => some r.die
  | .evadd r => some r.die
  | .mma r => some r.die
  | .aclr r => some r.die
  | .ast r => some r.die
  | .asv r => some r.die
  | .ald r => some r.die
  | .vadd r => some r.die
  | .vmul r => some r.die
  | .vfma r => some r.die
  | .vmin r => some r.die
  | .vmax r => some r.die
  | .vcmp r => some r.die
  | .vsel r => some r.die
  | .vred r => some r.die
  | .txp r => some r.die
  | .load r => some r.die
  | .store r => some r.die
  | .gather r => some r.die
  | .cvt r => some r.die
  | .amxout r => some r.die
  | .amxpush r => some r.die
  | .scsel r => some r.die
  | .tst r => some r.die
  | .tld r => some r.die
  | .cveTableWrite _ d _ _ => some d
  | .put r => some r.die
  | .waitin r => some r.die
  | .accum r => some r.die
  | .ringag r => some r.die
  | .stepword r => some r.die
  | .fill r => some r.die
  | .scrub r => some r.die
  | .ufold r => some r.die
  | .ushare r => some r.die
  | .update r => some r.die
  | .updateApply r => some r.die
  | .mxeFeStat _ d _ _ => some d
  | .gxeOorStat _ d _ => some d
  | .gxeBadCount _ d _ => some d
  | .segWaitMax _ d _ _ => some d
  | .becalmStallLimit r => some r.die
  | .senderStallLimit r => some r.die
  | .wakeBegin d _ => some d
  | .tokenRefill d _ => some d
  | .segmentCurrentSample d _ _ _ => some d
  | .currentStopRestart d _ => some d
  | .fennelSampleCompare d => some d
  | _ => none

/-- The Baith port a command names. -/
def baith? : Instr → Option Nat
  | .modResetWarm b => some b
  | .modResetCold b => some b
  | .partReset b _ => some b
  | .baithBlockReceive b _ => some b
  | .keepAliveReceive b _ => some b
  | .commandSegmentTransfer b => some b
  | .windroseTransfer b => some b
  | .memoryWrite b => some b
  | .memoryRead b => some b
  | .registerRead b => some b
  | .registerWrite b => some b
  | .logbookRead b => some b
  | .attestationReport b => some b
  | .attestationCertificates b => some b
  | .recoveryFirmwareTransfer b => some b
  | .keepAliveSend b => some b
  | .blockTruncateTimeout b _ => some b
  | .baithResendTimeout b => some b
  | .baithSilenceTimeout b => some b
  | .baithBlockSend b => some b
  | .wrAbort b _ _ => some b
  | .stStop b _ => some b
  | .stAbort b _ => some b
  | .cveTableWrite b _ _ _ => some b
  | .hubCacheCtrl b _ _ => some b
  | .hubNarrowDepthRead b _ => some b
  | .scrubPassStart b _ => some b
  | .scrubPassStop b _ => some b
  | .retTableWrite b _ _ _ => some b
  | .mxeFeStat b _ _ _ => some b
  | .gxeOorStat b _ _ => some b
  | .gxeBadCount b _ _ => some b
  | .redNvStat b _ _ => some b
  | .arbFlagStat b _ _ => some b
  | .segWaitMax b _ _ _ => some b
  | .stagedWrite b _ _ _ => some b
  | .closingFieldWrite b _ _ _ => some b
  | .mtAnchorSet b _ => some b
  | .lkCmd b _ _ => some b
  | .lkCtrl b _ _ => some b
  | .lkLaneHold b _ _ => some b
  | .leSwapCmd b _ _ => some b
  | .lbSnapCmd b _ => some b
  | _ => none

/-- The fabric port a command names. -/
def port? : Instr → Option Nat
  | .arbFlagStat _ n _ => some n
  | .frameSend n _ => some n
  | .frameReceive n _ _ _ _ => some n
  | .identityFrameReceive n _ _ _ _ => some n
  | .linkOnlyFrameReceive n _ _ _ _ => some n
  | .timeResponseSend n => some n
  | .linkReportSend n => some n
  | .nakTimer n => some n
  | .replayTimeout n => some n
  | .portDown n => some n
  | .laneAcquireTimeout n _ => some n
  | .laneLightLoss n _ => some n
  | .lkCmd _ n _ => some n
  | .lkCtrl _ n _ => some n
  | .lkLaneHold _ n _ => some n
  | .ringLockLoop n _ _ _ => some n
  | .ringUnlock n _ => some n
  | .toneWindowEnd n _ _ => some n
  | .ringRelock n _ => some n
  | .arbitrationPhase n => some n
  | .holderStall n => some n
  | .parkedEligible n _ => some n
  | .receiveHeldRelease n => some n
  | .laneLightReturn n _ _ => some n
  | .laneAlignmentLost n _ => some n
  | _ => none

/-- A well-formed command names dies below 16, Baith ports below 4 and fabric ports below 128. -/
def Statement (i : Instr) : Prop :=
  i.wf = true → (∀ d, die? i = some d → d < 16) ∧ (∀ b, baith? i = some b → b < 4) ∧ ∀ n, port? i = some n → n < 128

theorem none_of {o : Option Nat} {p : Nat → Prop} (h : o = none) (d : Nat) (e : o = some d) : p d := by
  cases h.symm.trans e

theorem some_of {o : Option Nat} {v : Nat} {p : Nat → Prop} (h : o = some v) (k : p v) (d : Nat) (e : o = some d) :
    p d := by
  cases h.symm.trans e
  exact k

/-- The first of two checks. -/
theorem fst {p q : Bool} (h : (p && q) = true) : p = true := ((Bool.and_eq_true p q).mp h).1

/-- The second of two checks. -/
theorem snd {p q : Bool} (h : (p && q) = true) : q = true := ((Bool.and_eq_true p q).mp h).2

theorem powerUp (held10ms : Bool) (below60For1s : Bool) : Statement (.powerUp held10ms below60For1s) := fun _ => ⟨none_of rfl, none_of rfl, none_of rfl⟩
theorem stagePowerGood (resetHigh : Bool) : Statement (.stagePowerGood resetHigh) := fun _ => ⟨none_of rfl, none_of rfl, none_of rfl⟩
theorem resetLReleaseStandby : Statement (.resetLReleaseStandby) := fun _ => ⟨none_of rfl, none_of rfl, none_of rfl⟩
theorem firmwareVerifyDone (ms : Nat) (flashReadsOk : Bool) : Statement (.firmwareVerifyDone ms flashReadsOk) := fun _ => ⟨none_of rfl, none_of rfl, none_of rfl⟩
theorem homeGroupPower : Statement (.homeGroupPower) := fun _ => ⟨none_of rfl, none_of rfl, none_of rfl⟩
theorem siteProbeResult (site : Site) (answers : Bool) (lanes : Nat) : Statement (.siteProbeResult site answers lanes) := fun _ => ⟨none_of rfl, none_of rfl, none_of rfl⟩
theorem hubTrainDone (h : Nat) (failed : Half) (ms : Nat) : Statement (.hubTrainDone h failed ms) := fun _ => ⟨none_of rfl, none_of rfl, none_of rfl⟩
theorem ringSearchPhaseEnd (le : Nat) (port : Option Nat) (obs : SearchObs) : Statement (.ringSearchPhaseEnd le port obs) := fun _ => ⟨none_of rfl, none_of rfl, none_of rfl⟩
theorem moduleReady : Statement (.moduleReady) := fun _ => ⟨none_of rfl, none_of rfl, none_of rfl⟩
theorem identityDeriveDone (ok : Bool) : Statement (.identityDeriveDone ok) := fun _ => ⟨none_of rfl, none_of rfl, none_of rfl⟩
theorem powerFail : Statement (.powerFail) := fun _ => ⟨none_of rfl, none_of rfl, none_of rfl⟩
theorem thermalTrip (site : TripSite) (t1 : Int) (t2 : Int) : Statement (.thermalTrip site t1 t2) := fun _ => ⟨none_of rfl, none_of rfl, none_of rfl⟩
theorem resetLFall (heldFor1us : Bool) : Statement (.resetLFall heldFor1us) := fun _ => ⟨none_of rfl, none_of rfl, none_of rfl⟩
theorem warmToColdTimeout : Statement (.warmToColdTimeout) := fun _ => ⟨none_of rfl, none_of rfl, none_of rfl⟩
theorem resetLRise : Statement (.resetLRise) := fun _ => ⟨none_of rfl, none_of rfl, none_of rfl⟩
theorem modResetWarm (b : Nat) : Statement (.modResetWarm b) :=
  fun h => ⟨none_of rfl, some_of rfl (of_decide_eq_true h), none_of rfl⟩
theorem modResetCold (b : Nat) : Statement (.modResetCold b) :=
  fun h => ⟨none_of rfl, some_of rfl (of_decide_eq_true h), none_of rfl⟩
theorem partReset (b : Nat) (p : Nat) : Statement (.partReset b p) :=
  fun h => ⟨none_of rfl, some_of rfl (of_decide_eq_true (fst h)), none_of rfl⟩
theorem partResetDone (p : Nat) (ms : Nat) : Statement (.partResetDone p ms) := fun _ => ⟨none_of rfl, none_of rfl, none_of rfl⟩
theorem portDarkExpiry (port : PortRef) : Statement (.portDarkExpiry port) := fun _ => ⟨none_of rfl, none_of rfl, none_of rfl⟩
theorem probePulse (port : PortRef) : Statement (.probePulse port) := fun _ => ⟨none_of rfl, none_of rfl, none_of rfl⟩
theorem lightSeen (port : PortRef) (lanes : Byte) : Statement (.lightSeen port lanes) := fun _ => ⟨none_of rfl, none_of rfl, none_of rfl⟩
theorem lossOfLight (port : PortRef) (together : Bool) : Statement (.lossOfLight port together) := fun _ => ⟨none_of rfl, none_of rfl, none_of rfl⟩
theorem baithBlockReceive (b : Nat) (bytes : List Byte) : Statement (.baithBlockReceive b bytes) :=
  fun h => ⟨none_of rfl, some_of rfl (of_decide_eq_true h), none_of rfl⟩
theorem keepAliveReceive (b : Nat) (bytes : List Byte) : Statement (.keepAliveReceive b bytes) :=
  fun h => ⟨none_of rfl, some_of rfl (of_decide_eq_true h), none_of rfl⟩
theorem commandSegmentTransfer (b : Nat) : Statement (.commandSegmentTransfer b) :=
  fun h => ⟨none_of rfl, some_of rfl (of_decide_eq_true h), none_of rfl⟩
theorem windroseTransfer (b : Nat) : Statement (.windroseTransfer b) :=
  fun h => ⟨none_of rfl, some_of rfl (of_decide_eq_true h), none_of rfl⟩
theorem memoryWrite (b : Nat) : Statement (.memoryWrite b) :=
  fun h => ⟨none_of rfl, some_of rfl (of_decide_eq_true h), none_of rfl⟩
theorem memoryRead (b : Nat) : Statement (.memoryRead b) :=
  fun h => ⟨none_of rfl, some_of rfl (of_decide_eq_true h), none_of rfl⟩
theorem registerRead (b : Nat) : Statement (.registerRead b) :=
  fun h => ⟨none_of rfl, some_of rfl (of_decide_eq_true h), none_of rfl⟩
theorem registerWrite (b : Nat) : Statement (.registerWrite b) :=
  fun h => ⟨none_of rfl, some_of rfl (of_decide_eq_true h), none_of rfl⟩
theorem logbookRead (b : Nat) : Statement (.logbookRead b) :=
  fun h => ⟨none_of rfl, some_of rfl (of_decide_eq_true h), none_of rfl⟩
theorem attestationReport (b : Nat) : Statement (.attestationReport b) :=
  fun h => ⟨none_of rfl, some_of rfl (of_decide_eq_true h), none_of rfl⟩
theorem attestationCertificates (b : Nat) : Statement (.attestationCertificates b) :=
  fun h => ⟨none_of rfl, some_of rfl (of_decide_eq_true h), none_of rfl⟩
theorem attestationSign : Statement (.attestationSign) := fun _ => ⟨none_of rfl, none_of rfl, none_of rfl⟩
theorem recoveryFirmwareTransfer (b : Nat) : Statement (.recoveryFirmwareTransfer b) :=
  fun h => ⟨none_of rfl, some_of rfl (of_decide_eq_true h), none_of rfl⟩
theorem firmwareWriteDone (readBack : List Byte) : Statement (.firmwareWriteDone readBack) := fun _ => ⟨none_of rfl, none_of rfl, none_of rfl⟩
theorem keepAliveSend (b : Nat) : Statement (.keepAliveSend b) :=
  fun h => ⟨none_of rfl, some_of rfl (of_decide_eq_true h), none_of rfl⟩
theorem blockTruncateTimeout (b : Nat) (bytes : List Byte) : Statement (.blockTruncateTimeout b bytes) :=
  fun h => ⟨none_of rfl, some_of rfl (of_decide_eq_true h), none_of rfl⟩
theorem baithResendTimeout (b : Nat) : Statement (.baithResendTimeout b) :=
  fun h => ⟨none_of rfl, some_of rfl (of_decide_eq_true h), none_of rfl⟩
theorem baithSilenceTimeout (b : Nat) : Statement (.baithSilenceTimeout b) :=
  fun h => ⟨none_of rfl, some_of rfl (of_decide_eq_true h), none_of rfl⟩
theorem baithBlockSend (b : Nat) : Statement (.baithBlockSend b) :=
  fun h => ⟨none_of rfl, some_of rfl (of_decide_eq_true h), none_of rfl⟩
theorem windroseCommit (t : WrTarget) : Statement (.windroseCommit t) := fun _ => ⟨none_of rfl, none_of rfl, none_of rfl⟩
theorem cellAreaReady (h : Nat) : Statement (.cellAreaReady h) := fun _ => ⟨none_of rfl, none_of rfl, none_of rfl⟩
theorem wrAbort (b : Nat) (t : WrTarget) (v : Word) : Statement (.wrAbort b t v) :=
  fun h => ⟨none_of rfl, some_of rfl (of_decide_eq_true (fst h)), none_of rfl⟩
theorem tickBoundary (p : Nat) : Statement (.tickBoundary p) := fun _ => ⟨none_of rfl, none_of rfl, none_of rfl⟩
theorem recordIssue (r : RecRef) (upsets : List Upset) : Statement (.recordIssue r upsets) :=
  fun h => ⟨some_of rfl (of_decide_eq_true (fst h)), none_of rfl, none_of rfl⟩
theorem recordComplete (r : RecRef) : Statement (.recordComplete r) :=
  fun h => ⟨some_of rfl (of_decide_eq_true h), none_of rfl, none_of rfl⟩
theorem replayRangeRerun (d : Nat) : Statement (.replayRangeRerun d) :=
  fun h => ⟨some_of rfl (of_decide_eq_true h), none_of rfl, none_of rfl⟩
theorem stStop (b : Nat) (p : Nat) : Statement (.stStop b p) :=
  fun h => ⟨none_of rfl, some_of rfl (of_decide_eq_true (fst h)), none_of rfl⟩
theorem stAbort (b : Nat) (p : Nat) : Statement (.stAbort b p) :=
  fun h => ⟨none_of rfl, some_of rfl (of_decide_eq_true (fst h)), none_of rfl⟩
theorem nop (r : RecRef) : Statement (.nop r) :=
  fun h => ⟨some_of rfl (of_decide_eq_true h), none_of rfl, none_of rfl⟩
theorem smovi (r : RecRef) : Statement (.smovi r) :=
  fun h => ⟨some_of rfl (of_decide_eq_true h), none_of rfl, none_of rfl⟩
theorem salu (r : RecRef) : Statement (.salu r) :=
  fun h => ⟨some_of rfl (of_decide_eq_true h), none_of rfl, none_of rfl⟩
theorem sld (r : RecRef) : Statement (.sld r) :=
  fun h => ⟨some_of rfl (of_decide_eq_true h), none_of rfl, none_of rfl⟩
theorem sst (r : RecRef) : Statement (.sst r) :=
  fun h => ⟨some_of rfl (of_decide_eq_true h), none_of rfl, none_of rfl⟩
theorem choice (r : RecRef) : Statement (.choice r) :=
  fun h => ⟨some_of rfl (of_decide_eq_true h), none_of rfl, none_of rfl⟩
theorem replay (r : RecRef) : Statement (.replay r) :=
  fun h => ⟨some_of rfl (of_decide_eq_true h), none_of rfl, none_of rfl⟩
theorem evadd (r : RecRef) : Statement (.evadd r) :=
  fun h => ⟨some_of rfl (of_decide_eq_true h), none_of rfl, none_of rfl⟩
theorem mma (r : RecRef) : Statement (.mma r) :=
  fun h => ⟨some_of rfl (of_decide_eq_true h), none_of rfl, none_of rfl⟩
theorem aclr (r : RecRef) : Statement (.aclr r) :=
  fun h => ⟨some_of rfl (of_decide_eq_true h), none_of rfl, none_of rfl⟩
theorem ast (r : RecRef) : Statement (.ast r) :=
  fun h => ⟨some_of rfl (of_decide_eq_true h), none_of rfl, none_of rfl⟩
theorem asv (r : RecRef) : Statement (.asv r) :=
  fun h => ⟨some_of rfl (of_decide_eq_true h), none_of rfl, none_of rfl⟩
theorem ald (r : RecRef) : Statement (.ald r) :=
  fun h => ⟨some_of rfl (of_decide_eq_true h), none_of rfl, none_of rfl⟩
theorem vadd (r : RecRef) : Statement (.vadd r) :=
  fun h => ⟨some_of rfl (of_decide_eq_true h), none_of rfl, none_of rfl⟩
theorem vmul (r : RecRef) : Statement (.vmul r) :=
  fun h => ⟨some_of rfl (of_decide_eq_true h), none_of rfl, none_of rfl⟩
theorem vfma (r : RecRef) : Statement (.vfma r) :=
  fun h => ⟨some_of rfl (of_decide_eq_true h), none_of rfl, none_of rfl⟩
theorem vmin (r : RecRef) : Statement (.vmin r) :=
  fun h => ⟨some_of rfl (of_decide_eq_true h), none_of rfl, none_of rfl⟩
theorem vmax (r : RecRef) : Statement (.vmax r) :=
  fun h => ⟨some_of rfl (of_decide_eq_true h), none_of rfl, none_of rfl⟩
theorem vcmp (r : RecRef) : Statement (.vcmp r) :=
  fun h => ⟨some_of rfl (of_decide_eq_true h), none_of rfl, none_of rfl⟩
theorem vsel (r : RecRef) : Statement (.vsel r) :=
  fun h => ⟨some_of rfl (of_decide_eq_true h), none_of rfl, none_of rfl⟩
theorem vred (r : RecRef) : Statement (.vred r) :=
  fun h => ⟨some_of rfl (of_decide_eq_true h), none_of rfl, none_of rfl⟩
theorem txp (r : RecRef) : Statement (.txp r) :=
  fun h => ⟨some_of rfl (of_decide_eq_true h), none_of rfl, none_of rfl⟩
theorem load (r : RecRef) : Statement (.load r) :=
  fun h => ⟨some_of rfl (of_decide_eq_true h), none_of rfl, none_of rfl⟩
theorem store (r : RecRef) : Statement (.store r) :=
  fun h => ⟨some_of rfl (of_decide_eq_true h), none_of rfl, none_of rfl⟩
theorem gather (r : RecRef) : Statement (.gather r) :=
  fun h => ⟨some_of rfl (of_decide_eq_true h), none_of rfl, none_of rfl⟩
theorem narrowQueueFree (h : Nat) : Statement (.narrowQueueFree h) := fun _ => ⟨none_of rfl, none_of rfl, none_of rfl⟩
theorem cvt (r : RecRef) : Statement (.cvt r) :=
  fun h => ⟨some_of rfl (of_decide_eq_true h), none_of rfl, none_of rfl⟩
theorem amxout (r : RecRef) : Statement (.amxout r) :=
  fun h => ⟨some_of rfl (of_decide_eq_true h), none_of rfl, none_of rfl⟩
theorem amxpush (r : RecRef) : Statement (.amxpush r) :=
  fun h => ⟨some_of rfl (of_decide_eq_true h), none_of rfl, none_of rfl⟩
theorem scsel (r : RecRef) : Statement (.scsel r) :=
  fun h => ⟨some_of rfl (of_decide_eq_true h), none_of rfl, none_of rfl⟩
theorem tst (r : RecRef) : Statement (.tst r) :=
  fun h => ⟨some_of rfl (of_decide_eq_true h), none_of rfl, none_of rfl⟩
theorem tld (r : RecRef) : Statement (.tld r) :=
  fun h => ⟨some_of rfl (of_decide_eq_true h), none_of rfl, none_of rfl⟩
theorem cveTableWrite (b : Nat) (d : Nat) (off : Nat) (v : Word) : Statement (.cveTableWrite b d off v) :=
  fun h => ⟨some_of rfl (of_decide_eq_true (snd h)), some_of rfl (of_decide_eq_true (fst h)), none_of rfl⟩
theorem put (r : RecRef) : Statement (.put r) :=
  fun h => ⟨some_of rfl (of_decide_eq_true h), none_of rfl, none_of rfl⟩
theorem waitin (r : RecRef) : Statement (.waitin r) :=
  fun h => ⟨some_of rfl (of_decide_eq_true h), none_of rfl, none_of rfl⟩
theorem accum (r : RecRef) : Statement (.accum r) :=
  fun h => ⟨some_of rfl (of_decide_eq_true h), none_of rfl, none_of rfl⟩
theorem ringag (r : RecRef) : Statement (.ringag r) :=
  fun h => ⟨some_of rfl (of_decide_eq_true h), none_of rfl, none_of rfl⟩
theorem stepword (r : RecRef) : Statement (.stepword r) :=
  fun h => ⟨some_of rfl (of_decide_eq_true h), none_of rfl, none_of rfl⟩
theorem stepwordGatherDone (p : Nat) : Statement (.stepwordGatherDone p) := fun _ => ⟨none_of rfl, none_of rfl, none_of rfl⟩
theorem verdictDelivery (p : Nat) : Statement (.verdictDelivery p) := fun _ => ⟨none_of rfl, none_of rfl, none_of rfl⟩
theorem fill (r : RecRef) : Statement (.fill r) :=
  fun h => ⟨some_of rfl (of_decide_eq_true h), none_of rfl, none_of rfl⟩
theorem scrub (r : RecRef) : Statement (.scrub r) :=
  fun h => ⟨some_of rfl (of_decide_eq_true h), none_of rfl, none_of rfl⟩
theorem ufold (r : RecRef) : Statement (.ufold r) :=
  fun h => ⟨some_of rfl (of_decide_eq_true h), none_of rfl, none_of rfl⟩
theorem ushare (r : RecRef) : Statement (.ushare r) :=
  fun h => ⟨some_of rfl (of_decide_eq_true h), none_of rfl, none_of rfl⟩
theorem update (r : RecRef) : Statement (.update r) :=
  fun h => ⟨some_of rfl (of_decide_eq_true h), none_of rfl, none_of rfl⟩
theorem updateApply (r : RecRef) : Statement (.updateApply r) :=
  fun h => ⟨some_of rfl (of_decide_eq_true h), none_of rfl, none_of rfl⟩
theorem accumArrival (h : Nat) (i : Nat) : Statement (.accumArrival h i) := fun _ => ⟨none_of rfl, none_of rfl, none_of rfl⟩
theorem heldArrivalOpen (h : Nat) : Statement (.heldArrivalOpen h) := fun _ => ⟨none_of rfl, none_of rfl, none_of rfl⟩
theorem granuleStallDiscard (h : Nat) (region : Nat) (granule : Nat) : Statement (.granuleStallDiscard h region granule) := fun _ => ⟨none_of rfl, none_of rfl, none_of rfl⟩
theorem hubCacheCtrl (b : Nat) (h : Nat) (v : Word) : Statement (.hubCacheCtrl b h v) :=
  fun h => ⟨none_of rfl, some_of rfl (of_decide_eq_true (fst h)), none_of rfl⟩
theorem hubWritebackDone (h : Nat) : Statement (.hubWritebackDone h) := fun _ => ⟨none_of rfl, none_of rfl, none_of rfl⟩
theorem hubNarrowDepthRead (b : Nat) (h : Nat) : Statement (.hubNarrowDepthRead b h) :=
  fun h => ⟨none_of rfl, some_of rfl (of_decide_eq_true (fst h)), none_of rfl⟩
theorem scrubPassStart (b : Nat) (h : Nat) : Statement (.scrubPassStart b h) :=
  fun h => ⟨none_of rfl, some_of rfl (of_decide_eq_true (fst h)), none_of rfl⟩
theorem scrubPassStop (b : Nat) (h : Nat) : Statement (.scrubPassStop b h) :=
  fun h => ⟨none_of rfl, some_of rfl (of_decide_eq_true (fst h)), none_of rfl⟩
theorem scrubPassEnd (h : Nat) : Statement (.scrubPassEnd h) := fun _ => ⟨none_of rfl, none_of rfl, none_of rfl⟩
theorem breezeRead (h : Nat) (upsets : List Upset) : Statement (.breezeRead h upsets) := fun _ => ⟨none_of rfl, none_of rfl, none_of rfl⟩
theorem breezeHeldRecheck (h : Nat) : Statement (.breezeHeldRecheck h) := fun _ => ⟨none_of rfl, none_of rfl, none_of rfl⟩
theorem retTableWrite (b : Nat) (h : Nat) (i : Nat) (v : Word) : Statement (.retTableWrite b h i v) :=
  fun h => ⟨none_of rfl, some_of rfl (of_decide_eq_true (fst (fst h))), none_of rfl⟩
theorem retireEntryInForce (h : Nat) : Statement (.retireEntryInForce h) := fun _ => ⟨none_of rfl, none_of rfl, none_of rfl⟩
theorem mxeFeStat (b : Nat) (d : Nat) (e : Nat) (v : Word) : Statement (.mxeFeStat b d e v) :=
  fun h => ⟨some_of rfl (of_decide_eq_true (snd (fst h))), some_of rfl (of_decide_eq_true (fst (fst h))), none_of rfl⟩
theorem gxeOorStat (b : Nat) (d : Nat) (v : Word) : Statement (.gxeOorStat b d v) :=
  fun h => ⟨some_of rfl (of_decide_eq_true (snd h)), some_of rfl (of_decide_eq_true (fst h)), none_of rfl⟩
theorem gxeBadCount (b : Nat) (d : Nat) (v : Word) : Statement (.gxeBadCount b d v) :=
  fun h => ⟨some_of rfl (of_decide_eq_true (snd h)), some_of rfl (of_decide_eq_true (fst h)), none_of rfl⟩
theorem redNvStat (b : Nat) (h : Nat) (v : Word) : Statement (.redNvStat b h v) :=
  fun h => ⟨none_of rfl, some_of rfl (of_decide_eq_true (fst h)), none_of rfl⟩
theorem arbFlagStat (b : Nat) (n : Nat) (v : Word) : Statement (.arbFlagStat b n v) :=
  fun h => ⟨none_of rfl, some_of rfl (of_decide_eq_true (fst h)), some_of rfl (of_decide_eq_true (snd h))⟩
theorem segWaitMax (b : Nat) (d : Nat) (g : Nat) (v : Word) : Statement (.segWaitMax b d g v) :=
  fun h => ⟨some_of rfl (of_decide_eq_true (snd (fst h))), some_of rfl (of_decide_eq_true (fst (fst h))), none_of rfl⟩
theorem stagedWrite (b : Nat) (win : Nat) (off : Nat) (v : Word) : Statement (.stagedWrite b win off v) :=
  fun h => ⟨none_of rfl, some_of rfl (of_decide_eq_true h), none_of rfl⟩
theorem closingFieldWrite (b : Nat) (win : Nat) (off : Nat) (v : Word) : Statement (.closingFieldWrite b win off v) :=
  fun h => ⟨none_of rfl, some_of rfl (of_decide_eq_true h), none_of rfl⟩
theorem mtAnchorSet (b : Nat) (v : Word) : Statement (.mtAnchorSet b v) :=
  fun h => ⟨none_of rfl, some_of rfl (of_decide_eq_true h), none_of rfl⟩
theorem frameSend (n : Nat) (lane : Nat) : Statement (.frameSend n lane) :=
  fun h => ⟨none_of rfl, none_of rfl, some_of rfl (of_decide_eq_true (fst h))⟩
theorem frameReceive (n : Nat) (lane : Nat) (bytes : List Byte) (scr : Nat) (noise : List (Nat × Byte)) :
    Statement (.frameReceive n lane bytes scr noise) :=
  fun h => ⟨none_of rfl, none_of rfl, some_of rfl (of_decide_eq_true (fst h))⟩
theorem identityFrameReceive (n : Nat) (lane : Nat) (bytes : List Byte) (scr : Nat) (noise : List (Nat × Byte)) :
    Statement (.identityFrameReceive n lane bytes scr noise) :=
  fun h => ⟨none_of rfl, none_of rfl, some_of rfl (of_decide_eq_true (fst h))⟩
theorem linkOnlyFrameReceive (n : Nat) (lane : Nat) (bytes : List Byte) (scr : Nat) (noise : List (Nat × Byte)) :
    Statement (.linkOnlyFrameReceive n lane bytes scr noise) :=
  fun h => ⟨none_of rfl, none_of rfl, some_of rfl (of_decide_eq_true (fst h))⟩
theorem timeRequestSend (p : Nat) : Statement (.timeRequestSend p) := fun _ => ⟨none_of rfl, none_of rfl, none_of rfl⟩
theorem timeResponseSend (n : Nat) : Statement (.timeResponseSend n) :=
  fun h => ⟨none_of rfl, none_of rfl, some_of rfl (of_decide_eq_true h)⟩
theorem linkReportSend (n : Nat) : Statement (.linkReportSend n) :=
  fun h => ⟨none_of rfl, none_of rfl, some_of rfl (of_decide_eq_true h)⟩
theorem nakTimer (n : Nat) : Statement (.nakTimer n) :=
  fun h => ⟨none_of rfl, none_of rfl, some_of rfl (of_decide_eq_true h)⟩
theorem replayTimeout (n : Nat) : Statement (.replayTimeout n) :=
  fun h => ⟨none_of rfl, none_of rfl, some_of rfl (of_decide_eq_true h)⟩
theorem portDown (n : Nat) : Statement (.portDown n) :=
  fun h => ⟨none_of rfl, none_of rfl, some_of rfl (of_decide_eq_true h)⟩
theorem laneAcquireTimeout (n : Nat) (lane : Nat) : Statement (.laneAcquireTimeout n lane) :=
  fun h => ⟨none_of rfl, none_of rfl, some_of rfl (of_decide_eq_true (fst h))⟩
theorem laneLightLoss (n : Nat) (lane : Nat) : Statement (.laneLightLoss n lane) :=
  fun h => ⟨none_of rfl, none_of rfl, some_of rfl (of_decide_eq_true (fst h))⟩
theorem lkCmd (b : Nat) (n : Nat) (v : Word) : Statement (.lkCmd b n v) :=
  fun h => ⟨none_of rfl, some_of rfl (of_decide_eq_true (fst h)), some_of rfl (of_decide_eq_true (snd h))⟩
theorem lkCtrl (b : Nat) (n : Nat) (v : Word) : Statement (.lkCtrl b n v) :=
  fun h => ⟨none_of rfl, some_of rfl (of_decide_eq_true (fst h)), some_of rfl (of_decide_eq_true (snd h))⟩
theorem lkLaneHold (b : Nat) (n : Nat) (v : Word) : Statement (.lkLaneHold b n v) :=
  fun h => ⟨none_of rfl, some_of rfl (of_decide_eq_true (fst h)), some_of rfl (of_decide_eq_true (snd h))⟩
theorem ringLockLoop (n : Nat) (ring : Nat) (detune : Int) (heaterStep : Int) : Statement (.ringLockLoop n ring detune heaterStep) :=
  fun h => ⟨none_of rfl, none_of rfl, some_of rfl (of_decide_eq_true (fst h))⟩
theorem ringUnlock (n : Nat) (ring : Nat) : Statement (.ringUnlock n ring) :=
  fun h => ⟨none_of rfl, none_of rfl, some_of rfl (of_decide_eq_true (fst h))⟩
theorem toneWindowEnd (n : Nat) (ring : Nat) (levels : List Int) : Statement (.toneWindowEnd n ring levels) :=
  fun h => ⟨none_of rfl, none_of rfl, some_of rfl (of_decide_eq_true (fst h))⟩
theorem ringRelock (n : Nat) (ring : Nat) : Statement (.ringRelock n ring) :=
  fun h => ⟨none_of rfl, none_of rfl, some_of rfl (of_decide_eq_true (fst h))⟩
theorem kappaFit (le : Nat) (fits : List (Nat × Nat × Int)) : Statement (.kappaFit le fits) :=
  fun _ => ⟨none_of rfl, none_of rfl, none_of rfl⟩
theorem laserBiasLoop (le : Nat) (j : Nat) (output : Int) (biasStep : Int) : Statement (.laserBiasLoop le j output biasStep) := fun _ => ⟨none_of rfl, none_of rfl, none_of rfl⟩
theorem laserThresholdJudge (le : Nat) (j : Nat) (bias : Nat) (output : Int) : Statement (.laserThresholdJudge le j bias output) := fun _ => ⟨none_of rfl, none_of rfl, none_of rfl⟩
theorem laserSwapStart (le : Nat) : Statement (.laserSwapStart le) := fun _ => ⟨none_of rfl, none_of rfl, none_of rfl⟩
theorem swapSpareTuned (le : Nat) : Statement (.swapSpareTuned le) := fun _ => ⟨none_of rfl, none_of rfl, none_of rfl⟩
theorem swapResume (le : Nat) : Statement (.swapResume le) := fun _ => ⟨none_of rfl, none_of rfl, none_of rfl⟩
theorem leSwapCmd (b : Nat) (le : Nat) (v : Word) : Statement (.leSwapCmd b le v) :=
  fun h => ⟨none_of rfl, some_of rfl (of_decide_eq_true (fst h)), none_of rfl⟩
theorem messageBind (p : Nat) (i : Nat) : Statement (.messageBind p i) := fun _ => ⟨none_of rfl, none_of rfl, none_of rfl⟩
theorem arbitrationPhase (n : Nat) : Statement (.arbitrationPhase n) :=
  fun h => ⟨none_of rfl, none_of rfl, some_of rfl (of_decide_eq_true h)⟩
theorem holderStall (n : Nat) : Statement (.holderStall n) :=
  fun h => ⟨none_of rfl, none_of rfl, some_of rfl (of_decide_eq_true h)⟩
theorem parkedEligible (n : Nat) (i : Nat) : Statement (.parkedEligible n i) :=
  fun h => ⟨none_of rfl, none_of rfl, some_of rfl (of_decide_eq_true h)⟩
theorem receiveHeldRelease (n : Nat) : Statement (.receiveHeldRelease n) :=
  fun h => ⟨none_of rfl, none_of rfl, some_of rfl (of_decide_eq_true h)⟩
theorem becalmStallLimit (r : RecRef) : Statement (.becalmStallLimit r) :=
  fun h => ⟨some_of rfl (of_decide_eq_true h), none_of rfl, none_of rfl⟩
theorem messageStallDiscard (p : Nat) (i : Nat) : Statement (.messageStallDiscard p i) := fun _ => ⟨none_of rfl, none_of rfl, none_of rfl⟩
theorem senderStallLimit (r : RecRef) : Statement (.senderStallLimit r) :=
  fun h => ⟨some_of rfl (of_decide_eq_true h), none_of rfl, none_of rfl⟩
theorem moduleOut (p : Nat) (m : Nat) : Statement (.moduleOut p m) := fun _ => ⟨none_of rfl, none_of rfl, none_of rfl⟩
theorem sitePoll (answers : List PollAnswer) : Statement (.sitePoll answers) := fun _ => ⟨none_of rfl, none_of rfl, none_of rfl⟩
theorem clockChoice (blk : BlockRef) (powerMax : Nat) (currentMax : Nat) (thermalMax : Nat) : Statement (.clockChoice blk powerMax currentMax thermalMax) := fun _ => ⟨none_of rfl, none_of rfl, none_of rfl⟩
theorem lullEnter (blk : BlockRef) : Statement (.lullEnter blk) := fun _ => ⟨none_of rfl, none_of rfl, none_of rfl⟩
theorem wakeBegin (d : Nat) (g : Nat) : Statement (.wakeBegin d g) :=
  fun h => ⟨some_of rfl (of_decide_eq_true (fst h)), none_of rfl, none_of rfl⟩
theorem wakeComplete (blk : BlockRef) : Statement (.wakeComplete blk) := fun _ => ⟨none_of rfl, none_of rfl, none_of rfl⟩
theorem tokenRefill (d : Nat) (g : Nat) : Statement (.tokenRefill d g) :=
  fun h => ⟨some_of rfl (of_decide_eq_true (fst h)), none_of rfl, none_of rfl⟩
theorem junctionSample (blk : BlockRef) (temp : Int) (powerMw : Nat) : Statement (.junctionSample blk temp powerMw) := fun _ => ⟨none_of rfl, none_of rfl, none_of rfl⟩
theorem segmentCurrentSample (d : Nat) (g : Nat) (mean : Nat) (peak : Nat) : Statement (.segmentCurrentSample d g mean peak) :=
  fun h => ⟨some_of rfl (of_decide_eq_true (fst h)), none_of rfl, none_of rfl⟩
theorem currentStopRestart (d : Nat) (g : Nat) : Statement (.currentStopRestart d g) :=
  fun h => ⟨some_of rfl (of_decide_eq_true (fst h)), none_of rfl, none_of rfl⟩
theorem fennelSampleCompare (d : Nat) : Statement (.fennelSampleCompare d) :=
  fun h => ⟨some_of rfl (of_decide_eq_true h), none_of rfl, none_of rfl⟩
theorem logbookBucketRefill : Statement (.logbookBucketRefill) := fun _ => ⟨none_of rfl, none_of rfl, none_of rfl⟩
theorem lifetimeSnapshot : Statement (.lifetimeSnapshot) := fun _ => ⟨none_of rfl, none_of rfl, none_of rfl⟩
theorem lbSnapCmd (b : Nat) (v : Word) : Statement (.lbSnapCmd b v) :=
  fun h => ⟨none_of rfl, some_of rfl (of_decide_eq_true h), none_of rfl⟩
theorem smbusReadState : Statement (.smbusReadState) := fun _ => ⟨none_of rfl, none_of rfl, none_of rfl⟩
theorem smbusReadCause : Statement (.smbusReadCause) := fun _ => ⟨none_of rfl, none_of rfl, none_of rfl⟩
theorem smbusReadTemp : Statement (.smbusReadTemp) := fun _ => ⟨none_of rfl, none_of rfl, none_of rfl⟩
theorem smbusReadPower (watts : Nat) : Statement (.smbusReadPower watts) := fun _ => ⟨none_of rfl, none_of rfl, none_of rfl⟩
theorem smbusReadAlert : Statement (.smbusReadAlert) := fun _ => ⟨none_of rfl, none_of rfl, none_of rfl⟩
theorem smbusClearAlert (v : Half) : Statement (.smbusClearAlert v) := fun _ => ⟨none_of rfl, none_of rfl, none_of rfl⟩
theorem smbusReadDescriptor (code : Nat) : Statement (.smbusReadDescriptor code) := fun _ => ⟨none_of rfl, none_of rfl, none_of rfl⟩
theorem smbusAlertResponse : Statement (.smbusAlertResponse) := fun _ => ⟨none_of rfl, none_of rfl, none_of rfl⟩
theorem modResetRelease : Statement (.modResetRelease) := fun _ => ⟨none_of rfl, none_of rfl, none_of rfl⟩
theorem laneLightReturn (n : Nat) (lane : Nat) (shortGap : Bool) : Statement (.laneLightReturn n lane shortGap) :=
  fun h => ⟨none_of rfl, none_of rfl, some_of rfl (of_decide_eq_true (fst h))⟩
theorem laneAlignmentLost (n : Nat) (lane : Nat) : Statement (.laneAlignmentLost n lane) :=
  fun h => ⟨none_of rfl, none_of rfl, some_of rfl (of_decide_eq_true (fst h))⟩
theorem lullEntryDone (blk : BlockRef) : Statement (.lullEntryDone blk) := fun _ => ⟨none_of rfl, none_of rfl, none_of rfl⟩
theorem meshMessageArrival (p : Nat) (i : Nat) : Statement (.meshMessageArrival p i) := fun _ => ⟨none_of rfl, none_of rfl, none_of rfl⟩
theorem snapshotWriteDone : Statement (.snapshotWriteDone) := fun _ => ⟨none_of rfl, none_of rfl, none_of rfl⟩
theorem logbookPageErased : Statement (.logbookPageErased) := fun _ => ⟨none_of rfl, none_of rfl, none_of rfl⟩

end Sys2Proof.Laws.Checks
end

