-- ==== Sys2Proof/Laws/Regions.lean ====
section
/-! SUPPORT. Where the bytes of a region lie (R272, R273), and when its hubs serve it. -/

namespace Sys2Proof.Machine

/-- Byte o of a region that lies in one stack. -/
theorem Part.place_single {q : Part} {i : JobImage} {rg : Region} {g : Nat} (ha : q.active = some i)
    (hr : q.region? g = some rg) (hp : rg.placement = 1) (o : Nat) :
    q.place? g o = if o ≥ rg.length then none else some (rg.stack, shareBase i.regions q.frame.stacks.length g + o) := by
  simp [Part.place?, ha, hr, hp]

/-- A region in one stack is served where its hub is orderly, its stack is there, and its share lies within the usable
capacity. -/
theorem State.served_single {s : State} {p g : Nat} {i : JobImage} {rg : Region} (ha : (s.part p).active = some i)
    (hr : (s.part p).region? g = some rg) (hp : rg.placement = 1) (hs : rg.stack < 32)
    (hc : s.isCut (.stack rg.stack) = false) (ho : (s.hub rg.stack).orderly)
    (hu : shareBase i.regions (s.part p).frame.stacks.length g + rg.length ≤ usableBytes (s.hub rg.stack).mem.chanUse) :
    s.served p g := by
  intro o h loc e
  rw [Part.place_single ha hr hp] at e
  split at e
  · cases e
  · cases e
    exact ⟨hs, hc, ho, by omega⟩

/-- Regions of one stack whose shares begin on lines and do not meet share no line. -/
theorem State.apart_single {s : State} {p : Nat} {i : JobImage} {l : List Nat} (rg : Nat → Region)
    (ha : (s.part p).active = some i) (hn : l.Nodup)
    (hr : ∀ a ∈ l, (s.part p).region? a = some (rg a) ∧ (rg a).placement = 1)
    (h64 : ∀ a ∈ l, shareBase i.regions (s.part p).frame.stacks.length a % 64 = 0 ∧ (rg a).length % 64 = 0)
    (hd : ∀ a ∈ l, ∀ b ∈ l, a ≠ b →
      shareBase i.regions (s.part p).frame.stacks.length a + (rg a).length ≤ shareBase i.regions (s.part p).frame.stacks.length b ∨
        shareBase i.regions (s.part p).frame.stacks.length b + (rg b).length ≤ shareBase i.regions (s.part p).frame.stacks.length a) :
    s.apart p l := by
  refine ⟨hn, fun a ha' b hb i j h k m e1 e2 e3 => ?_⟩
  rw [Part.place_single ha (hr a ha').1 (hr a ha').2] at e1
  rw [Part.place_single ha (hr b hb).1 (hr b hb).2] at e2
  split at e1
  · cases e1
  split at e2
  · cases e2
  cases e1
  simp only [Option.some.injEq, Prod.mk.injEq] at e2
  obtain ⟨-, rfl⟩ := e2
  have h1 := h64 a ha'
  have h2 := h64 b hb
  by_cases hab : a = b
  · subst hab
    exact ⟨rfl, by omega⟩
  · have := hd a ha' b hb hab
    omega

end Sys2Proof.Machine
end

