-- ==== Sys2Proof/Laws/Shape.lean ====
section
/-! SUPPORT. The shape of the module and its tables after a change of one unit: kept where the unit keeps its own. -/

namespace Sys2Proof.Machine

/-! ## The shape -/

/-- The shape, part by part. -/
theorem State.whole_iff (s : State) : s.whole = true ↔
    s.parts.length = 4 ∧ s.baith.length = 4 ∧ s.cds.length = 16 ∧ s.hubs.length = 32 ∧ s.uds.length = 32 ∧
      s.les.length = 8 ∧ s.ports.length = 128 ∧ s.cds.all Cd.whole = true ∧
      s.les.all (fun e => e.lasers.length == 10) = true ∧ s.ports.all Port.whole = true := by
  simp only [State.whole, Bool.and_eq_true, beq_iff_eq, and_assoc]

theorem whole_modCd {s : State} (d : Nat) {f : Cd → Cd} (hf : ∀ c, c.whole = true → (f c).whole = true)
    (h : s.whole = true) : (s.modCd d f).whole = true := by
  rw [State.whole_iff] at h ⊢
  obtain ⟨h1, h2, h3, h4, h5, h6, h7, h8, h9⟩ := h
  exact ⟨h1, h2, by simpa using h3, h4, h5, h6, h7, modAt_all _ _ _ _ hf h8, h9⟩

theorem whole_modHub {s : State} (k : Nat) (f : Hub → Hub) (h : s.whole = true) : (s.modHub k f).whole = true := by
  rw [State.whole_iff] at h ⊢
  simpa using h

theorem whole_modUd {s : State} (u : Nat) (f : Ud → Ud) (h : s.whole = true) : (s.modUd u f).whole = true := by
  rw [State.whole_iff] at h ⊢
  simpa using h

theorem whole_modPart {s : State} (p : Nat) (f : Part → Part) (h : s.whole = true) : (s.modPart p f).whole = true := by
  rw [State.whole_iff] at h ⊢
  simpa using h

theorem whole_modBp {s : State} (b : Nat) (f : Baith → Baith) (h : s.whole = true) : (s.modBp b f).whole = true := by
  rw [State.whole_iff] at h ⊢
  simpa using h

theorem whole_modCtrl {s : State} (f : Ctrl → Ctrl) (h : s.whole = true) : (s.modCtrl f).whole = true := h

theorem whole_modLe {s : State} (m : Nat) {f : Le → Le} (hf : ∀ e, e.lasers.length = 10 → (f e).lasers.length = 10)
    (h : s.whole = true) : (s.modLe m f).whole = true := by
  rw [State.whole_iff] at h ⊢
  obtain ⟨h1, h2, h3, h4, h5, h6, h7, h8, h9, h10⟩ := h
  exact ⟨h1, h2, h3, h4, h5, by simpa using h6, h7, h8, modAt_all _ _ _ _ (fun e => by simpa using hf e) h9, h10⟩

theorem whole_modPort {s : State} (n : Nat) {f : Port → Port} (hf : ∀ q, q.whole = true → (f q).whole = true)
    (h : s.whole = true) : (s.modPort n f).whole = true := by
  rw [State.whole_iff] at h ⊢
  obtain ⟨h1, h2, h3, h4, h5, h6, h7, h8, h9, h10⟩ := h
  exact ⟨h1, h2, h3, h4, h5, h6, by simpa using h7, h8, h9, modAt_all _ _ _ _ hf h10⟩

/-- A sequencer that keeps its registers and counters keeps the shape. -/
theorem whole_modSeq {s : State} (d : Nat) {f : Seq → Seq}
    (hf : ∀ q, q.sregs.length = 56 → q.ev.length = 128 → (f q).sregs.length = 56 ∧ (f q).ev.length = 128)
    (h : s.whole = true) : (s.modSeq d f).whole = true := by
  refine whole_modCd d (fun c hc => ?_) h
  simp only [Cd.whole, Bool.and_eq_true, beq_iff_eq, and_assoc] at hc ⊢
  exact ⟨(hf c.seq hc.1 hc.2.1).1, (hf c.seq hc.1 hc.2.1).2, hc.2.2⟩

/-- A record changed keeps the shape. -/
theorem whole_modRec {s : State} (r : RecRef) (f : RecState → RecState) (h : s.whole = true) :
    (s.modRec r f).whole = true := whole_modSeq r.die (fun _ h1 h2 => ⟨h1, h2⟩) h

/-- A port's link changed keeps the shape. -/
theorem whole_modLink {s : State} (n : Nat) (f : Link → Link) (h : s.whole = true) : (s.modLink n f).whole = true :=
  whole_modPort n (fun _ hq => hq) h

/-- A port's arbiter changed keeps the shape. -/
theorem whole_modArb {s : State} (n : Nat) (f : Arbiter → Arbiter) (h : s.whole = true) :
    (s.modArb n f).whole = true := whole_modPort n (fun _ hq => hq) h

/-! ## The tables -/

theorem State.tablesWf_iff (s : State) : s.tablesWf = true ↔
    s.cds.all (fun c => rising c.eng.cve.table && c.eng.mxe.all fun m => m.tiles.all fun t => rising t.pairs) = true ∧
      s.hubs.all (fun h => rising h.chk.ret) = true ∧
      s.uds.all (fun u => rising u.pendAmax && rising u.wcScale) = true := by
  simp only [State.tablesWf, Bool.and_eq_true, and_assoc]

/-- A die changed in neither its tiles nor its CVE table. -/
theorem tablesWf_modCd {s : State} (d : Nat) {f : Cd → Cd}
    (hf : ∀ c, (f c).eng.cve.table = c.eng.cve.table ∧ (f c).eng.mxe = c.eng.mxe)
    (h : s.tablesWf = true) : (s.modCd d f).tablesWf = true := by
  rw [State.tablesWf_iff] at h ⊢
  exact ⟨modAt_all _ _ _ _ (fun c hc => by rw [(hf c).1, (hf c).2]; exact hc) h.1, h.2⟩

/-- A hub whose retire table stays in canonical form. -/
theorem tablesWf_modHub {s : State} (k : Nat) {f : Hub → Hub}
    (hf : ∀ b, rising b.chk.ret = true → rising (f b).chk.ret = true) (h : s.tablesWf = true) :
    (s.modHub k f).tablesWf = true := by
  rw [State.tablesWf_iff] at h ⊢
  exact ⟨h.1, modAt_all _ _ _ _ hf h.2.1, h.2.2⟩

/-- A record changed keeps the tables. -/
theorem tablesWf_modRec {s : State} (r : RecRef) (f : RecState → RecState) (h : s.tablesWf = true) :
    (s.modRec r f).tablesWf = true := tablesWf_modCd r.die (fun _ => ⟨rfl, rfl⟩) h

end Sys2Proof.Machine
end

