-- ==== Sys2Proof/Tests/Slice0.lean ====
section
/-! SUPPORT. Tests of single commands on small states, with values from the spec: the check of commands, the state
builders, and one or two steps of each family. -/

namespace Sys2Proof.Tests
set_option Elab.async false
open Sys2Proof.Machine

/-! ## Ill-formed commands -/

/-- An operand outside each check, one past its range where it has one. -/
def illFormed : List Instr :=
  [.nop ⟨16, 0, 0⟩, .siteProbeResult (.cd 16) true 0, .siteProbeResult (.stack 32) true 0,
    .siteProbeResult (.ud 32) true 0, .siteProbeResult (.le 8) true 0, .siteProbeResult (.baith 4) true 0,
    .probePulse (.fabric 128), .probePulse (.baith 4), .lullEnter (.die 16 0), .lullEnter (.die 0 0x11),
    .lullEnter (.die 0 0x19), .lullEnter (.die 0 0x30), .lullEnter (.hub 32), .lullEnter (.ud 32), .lullEnter (.le 8),
    .windroseCommit (.part 4), .recordIssue ⟨0, 0, 0⟩ [⟨.scratch 16, 0, .glitch⟩],
    .recordIssue ⟨0, 0, 0⟩ [⟨.stack 32, 0, .hard⟩], .breezeRead 0 [⟨.cache 32, 0, .glitch⟩],
    .thermalTrip (.hub 32) 0 0, .thermalTrip (.stack 32) 0 0, .thermalTrip (.lightEngine 8) 0 0,
    .thermalTrip (.laserArray 8) 0 0, .frameSend 128 0, .frameSend 0 8, .ringUnlock 128 0, .ringUnlock 0 16,
    .hubTrainDone 32 0 0, .ringSearchPhaseEnd 8 none ⟨[], [], 0⟩, .ringSearchPhaseEnd 0 (some 128) ⟨[], [], 0⟩,
    .modResetWarm 4, .partReset 0 4, .tickBoundary 4, .replayRangeRerun 16, .gxeOorStat 0 16 0, .redNvStat 0 32 0,
    .retTableWrite 0 0 4096 0, .mxeFeStat 0 0 10 0, .arbFlagStat 0 128 0, .segWaitMax 0 0 4 0, .nakTimer 128,
    .kappaFit 0 [(16, 0, 0)], .kappaFit 0 [(0, 16, 0)], .laserBiasLoop 0 10 0 0, .laserSwapStart 8, .leSwapCmd 0 8 0,
    .sitePoll [⟨.le 8, true, false, 0⟩], .tokenRefill 0 4]

/-- Each is refused by the check. -/
theorem test_ill_formed_refused : illFormed.all (fun c => !c.wf) = true := by decide

/-- Commands at the top of each range are well formed. -/
theorem test_well_formed_at_bounds :
    [Instr.nop ⟨15, 0xFFFFFFFF, 0xFFFF⟩, .probePulse (.fabric 127), .probePulse (.baith 3), .lullEnter (.die 15 0x2F),
      .lullEnter (.die 15 0x18), .frameSend 127 7, .ringUnlock 127 15, .retTableWrite 3 31 4095 0, .mxeFeStat 3 15 9 0,
      .segWaitMax 3 15 3 0, .laserBiasLoop 7 9 0 0, .windroseCommit (.part 3)].all Instr.wf = true := by decide

/-! ## States for the tests -/

/-- A descriptor that shows every site and port present (Table 18.4). -/
def allPresent : List Byte := List.replicate 0x20 0 ++ List.replicate 0x18 0x55 ++ List.replicate 0x10 0xFF

/-- A ready module with one partition of all its sites, in step 4 of a stream, hosted at B0. -/
def ready : State :=
  { ctrl := { module := { state := 5, stage := 3, descriptor := allPresent } }
    parts := [{
      present := true
      frame := {
        cdFirst := 0, cdCount := 16, stackFirst := 0, stackCount := 32, udFirst := 0, udCount := 32, hostPort := 0
        portMask := 2 ^ 128 - 1, moduleNumber := 3 }
      stream := { state := 2, step := 4, started := true, stepTicks := 100 } }, {}, {}, {}] }

/-- A record in flight. -/
def recOf (code unit count : Nat) (ws : List Word) : RecState :=
  { record := {
      opcode := code, unit := unit, flags := 0, slot := 0, span := 10, res07 := 0, waitEv := 255, signalEv := 5
      waitValue := 0, count := count, ops := ws, subst := 0, res3e := 0 }
    cycles := 10, phase := .running, words := ws }

/-- Step 4 of die 0 with these records. -/
def stepOf (recs : List RecState) : StepRun :=
  { step := 4, startTick := 0, ticks := 100, closing := false, recs := recs }

/-- A state with these records in flight on die 0 in step 4. -/
def withRecs (s : State) (recs : List RecState) : State :=
  s.modSeq 0 fun q => { q with steps := [stepOf recs] }

/-- A state with one record running on die 0. -/
def runningRec (s : State) (code unit count : Nat) (ws : List Word) : State :=
  withRecs s [recOf code unit count ws]

/-- The only record of `runningRec`. -/
def r0 : RecRef := ⟨0, 4, 0⟩

/-- Bytes put into die 0's scratchpad. -/
def withPad (s : State) (a : Nat) (bytes : List Byte) : State :=
  s.modScratch 0 fun c => { c with store := { c.store with bytes := Memory.write c.store.bytes a bytes } }

/-- The state a command answers. -/
def after (c : Instr) (s : State) : State := match exec c s with | .next t => t | _ => s

/-- A 32-bit array as bytes. -/
def words (l : List Nat) : List Byte := l.flatMap fun v => leBytes 4 v

/-! ## The sequencer (03) -/

/-- SMOVI puts words 1 and 2 into s3, word 1 low. -/
theorem test_smovi : ((after (.smovi r0) (runningRec ready 0x0701 0x0F 0 [3, 0x89ABCDEF, 0x01234567])).cd 0).seq.sregs.getD 3 0
    = 0x0123456789ABCDEF := by decide +kernel

/-- SALU 1 subtracts modulo 2^64. -/
theorem test_salu_subtract_wraps :
    ((after (.salu r0) ((runningRec ready 0x0702 0x0F 0 [0, 1, 2, 1]).modSeq 0 fun q =>
      { q with sregs := q.sregs.set 2 1 })).cd 0).seq.sregs.getD 0 0 = 0xFFFFFFFFFFFFFFFF := by decide +kernel

/-- SALU 6 shifts right by the low 6 bits of the second source. -/
theorem test_salu_shift_low_bits :
    ((after (.salu r0) ((runningRec ready 0x0702 0x0F 0 [0, 1, 2, 6]).modSeq 0 fun q =>
      { q with sregs := (q.sregs.set 1 0x80).set 2 0x43 })).cd 0).seq.sregs.getD 0 0 = 0x10 := by decide +kernel

/-- SST stores s1 least significant byte first. -/
theorem test_sst : (after (.sst r0) ((runningRec ready 0x0704 0x0F 0 [1, 0x3C]).modSeq 0 fun q =>
    { q with sregs := q.sregs.set 1 0x0102030405060708 })).padBytes 0 0x3C 9 = [8, 7, 6, 5, 4, 3, 2, 1, 0] := by
  decide +kernel

/-- SLD loads them. -/
theorem test_sld : ((after (.sld r0) (withPad (runningRec ready 0x0703 0x0F 0 [2, 0x3C]) 0x3C
    [8, 7, 6, 5, 4, 3, 2, 1])).cd 0).seq.sregs.getD 2 0 = 0x0102030405060708 := by decide +kernel

/-- EVADD wraps at 2^16, in the bank of an even step. -/
theorem test_evadd_wraps : ((after (.evadd r0) ((runningRec ready 0x0707 0x0F 0 [63, 2]).modSeq 0 fun q =>
    { q with ev := q.ev.set 63 65535 })).cd 0).seq.ev.getD 63 7 = 1 := by decide +kernel

/-- NOP is marked as carried out and RECORD_COMPLETE then signals ev5 once (R80, R81). -/
theorem test_nop_completes : ((after (.recordComplete r0) (after (.nop r0)
    (runningRec ready 0x0700 0x0F 0 []))).cd 0).seq.ev.getD 5 0 = 1 := by decide +kernel

/-- A waiting record whose word 0 is substituted starts with the low half of s9 (R79). -/
theorem test_record_issue_substitutes :
    ((after (.recordIssue r0 []) ((withRecs ready [
      let x := recOf 0x0701 0x0F 0 [9, 7, 0]
      { x with phase := .waiting, words := [], record := { x.record with subst := 1 } }]).modSeq 0 fun q =>
        { q with sregs := q.sregs.set 9 0x500000003 })).rec? r0).map (fun y => (y.phase, y.words.take 2))
      = some (.running, [3, 7]) := by decide +kernel

/-! ## Number formats and Pepper: the worked examples of 04 and 07 -/

/-- 23.0 into E4M3: 0x5C to nearest even, 0x5B toward zero, 0x5C with r = 0x9C3B; IX each time. -/
theorem test_convert_23 :
    [convBits .fp32 .e4m3 false .rne 0 0 0x41B80000, convBits .fp32 .e4m3 false .rz 0 0 0x41B80000,
      convBits .fp32 .e4m3 false .sto 0x9C3B 0 0x41B80000]
      = [(0x5C, { ix := true }), (0x5B, { ix := true }), (0x5C, { ix := true })] := by decide +kernel

/-- 0x3854_0000 into E5M2 rounds up from r = 0xB000 on; UF and IX either way. -/
theorem test_convert_stochastic :
    [convBits .fp32 .e5m2 false .sto 0xAFFF 0 0x38540000, convBits .fp32 .e5m2 false .sto 0xB000 0 0x38540000]
      = [(3, { uf := true, ix := true }), (4, { uf := true, ix := true })] := by decide +kernel

/-- 464 into E4M3 gives 448 with IX only; above it overflows to the NaN. -/
theorem test_convert_464 :
    [convBits .fp32 .e4m3 false .rne 0 0 0x43E80000, convBits .fp32 .e4m3 false .rne 0 0 0x43E80001]
      = [(0x7E, { ix := true }), (0x7F, { ovf := true, ix := true })] := by decide +kernel

/-- The counter block of element 5 of the example of R199. -/
theorem test_pepper_block : pepperBlock 0x02000A3F 1000005 0
    = [0x48, 0xE8, 1, 0, 0, 0, 0, 0, 0x3F, 0x0A, 0, 2, 0, 0, 0, 0] := by decide +kernel

/-! ## Published sets: Table 02.11 -/

/-- At boundary 7002 the captured values are live, ARB_GRANT_MAX stays staged at 64, the others reload. -/
theorem test_published_set :
    let u := ((((PubSet.ofValues [96, 8, 1]).stage 0 48).stage 1 16).close 3).stage 0 64
    let v := u.publish id
    let w := (v.close 1).publish id
    (u.live, u.captured, v.live, v.staged, v.captured, w.live)
      = ([96, 8, 1], some [48, 16, 3], [48, 16, 3], [64, 16, 3], none, [64, 16, 1]) := by decide +kernel

/-! ## Matrix engines (05) -/

/-- A 1 × 1 MMA of E4M3 rows (1, 2) and (3, −1) leaves 1.0 and one chunk. -/
theorem test_mma_dot :
    let t := after (.mma r0) (withPad (runningRec ready 0x0100 0 2
      [0, 0, 0x40, 0, 0x100000, 0, 0x0404, 0, 0, 0, 0]) 0 ([0x38, 0x40] ++ List.replicate 62 0 ++ [0x44, 0xB8]))
    (((t.mxe 0 0).tile 0).get 0, ((t.mxe 0 0).tile 0).chunks) = (⟨0x3F800000, 0⟩, 1) := by decide +kernel

/-- ACLR with mask 2 clears tile 1 and leaves tile 0. -/
theorem test_aclr_mask :
    let t := after (.aclr r0) ((runningRec ready 0x0101 0 0 [2]).modMxe 0 0 fun m =>
      { m with tiles := m.tiles.map fun x => { x with pairs := [(7, ⟨1, 2⟩)], chunks := 3 } })
    (((t.mxe 0 0).tile 0).get 7, ((t.mxe 0 0).tile 1).get 7, ((t.mxe 0 0).tile 1).chunks) = (⟨1, 2⟩, {}, 0) := by
  decide +kernel

/-- AST stores the FP32 of element (0, 1), then clears what it read. -/
theorem test_ast_clears :
    let t := after (.ast r0) ((runningRec ready 0x0102 0 0 [0x80, 0, 0, 0x100, 0, 1]).modMxe 0 0 fun m =>
      { m with tiles := modAt m.tiles 0 fun x => { x with pairs := [(1, ⟨0x40E00000, 0⟩)] } })
    (t.padBytes 0 0x80 8, ((t.mxe 0 0).tile 0).get 1) = ([0, 0, 0, 0, 0, 0, 0xE0, 0x40], {}) := by decide +kernel

/-! ## Vector engine (06) -/

/-- VADD on INT32 wraps modulo 2^32. -/
theorem test_vadd_wraps :
    (after (.vadd r0) (withPad (runningRec ready 0x0200 0x0A 2 [0x80, 0, 0x40, 0, 0x08000808, 0, 0, 0]) 0
      (words [0x7FFFFFFF, 5] ++ List.replicate 56 0 ++ words [1, 0xFFFFFFFF]))).padBytes 0 0x80 8
      = words [0x80000000, 4] := by decide +kernel

/-- VMUL on FP32: 2 × 3 = 6; VFMA: 2 × 3 + 1 = 7, source and destination the same. -/
theorem test_vfma_in_place :
    (after (.vfma r0) (withPad (runningRec ready 0x0202 0x0A 1 [0, 0, 4, 8, 0, 0, 0, 0]) 0
      (words [0x40000000, 0x40400000, 0x3F800000]))).padBytes 0 0 4 = words [0x40E00000] := by decide +kernel

theorem test_vmul :
    (after (.vmul r0) (withPad (runningRec ready 0x0201 0x0A 1 [8, 0, 4, 0, 0, 0, 0, 0]) 0
      (words [0x40000000, 0x40400000]))).padBytes 0 8 4 = words [0x40C00000] := by decide +kernel

/-- VMIN and VMAX compare INT32 as signed. -/
theorem test_vmin_vmax_signed :
    let s := fun (code : Nat) => withPad (runningRec ready code 0x0A 1 [8, 0, 4, 0, 0x08000808, 0, 0, 0]) 0
      (words [0xFFFFFFFF, 1])
    ((after (.vmin r0) (s 0x0203)).padBytes 0 8 4, (after (.vmax r0) (s 0x0204)).padBytes 0 8 4)
      = (words [0xFFFFFFFF], words [1]) := by decide +kernel

/-- VCMP writes all ones where the relation holds; VSEL takes c where a is 0. -/
theorem test_vcmp_vsel :
    let d := words [0, 9, 5]
    let c := after (.vcmp r0) (withPad (runningRec ready 0x0205 0x0A 1 [16, 0, 4, 0, 0x08000808, 0, 0, 0]) 0 d)
    let t := after (.vsel r0) (withPad (runningRec ready 0x0206 0x0A 1 [16, 0, 4, 8, 0x08080808, 0, 0, 0]) 0 d)
    (c.padBytes 0 16 4, t.padBytes 0 16 4) = (words [0], words [5]) := by decide +kernel

/-- VRED adds groups of two INT32. -/
theorem test_vred_groups :
    (after (.vred r0) (withPad (runningRec ready 0x0207 0x0A 4 [16, 0, 0, 0, 0x08000008, 0, 0, 2]) 0
      (words [1, 2, 3, 0xFFFFFFFF]))).padBytes 0 16 8 = words [3, 2] := by decide +kernel

/-! ## Movers (07) -/

/-- TXP turns two rows of three bytes into three of two. -/
theorem test_txp :
    (after (.txp r0) (withPad (runningRec ready 0x0300 0x0B 6 [0x10, 0, 3, 2, 0x10002]) 0 [1, 2, 3, 4, 5, 6])).padBytes
      0 0x10 6 = [1, 4, 2, 5, 3, 6] := by decide +kernel

/-- A region of 64 KiB in stack 0. -/
def region64K : Region :=
  { base := 0, length := 65536, cls := 5, placement := 1, stack := 0, mode := 0, contributions := 0, source := 0 }

/-- An image with these regions. -/
def imageOf (regions : List Region) : JobImage :=
  { epoch := 0, digest := [], commitTick := 0, regions := regions, mapout := []
    upd := { rule := 0, beta1 := 0, beta2 := 0, epsilon := 0, decay := 0, bf16Copies := false, entries := [] }
    alloc := [], peers := [], rings := [], cadence := {}, policy := {}, service := {}, sections := [] }

/-- `ready` with these regions in force. -/
def stored (regions : List Region) : State := ready.modPart 0 fun q => { q with active := some (imageOf regions) }

/-- STORE writes two bytes across a line boundary; LOAD reads them back. -/
theorem test_store_load :
    let t := after (.store r0) (withPad (runningRec (stored [region64K]) 0x0401 0x0C 2 [5, 0, 63, 0, 2, 0, 0]) 5 [7, 9])
    let u := after (.load r0) (withRecs t [recOf 0x0400 0x0C 2 [0x20, 0, 63, 0, 2, 0, 0]])
    (t.regionByte 0 0 62, t.regionByte 0 0 63, t.regionByte 0 0 64, u.padBytes 0 0x20 2) = (0, 7, 9, [7, 9]) := by
  decide +kernel

/-- GATHER writes zeros for an index past the region, raises NV and latches it. -/
theorem test_gather_out_of_range :
    let t := after (.gather r0) (withPad (withRecs (stored [region64K])
      [{ recOf 0x0402 0x0C 1 [0x40, 0, 0, 64, 64] with index := [some 1024] }]) 0x40 [1, 2])
    (t.padBytes 0 0x40 2, (t.cd 0).eng.gxe.flags.nv, (t.cd 0).eng.gxe.oorIndex) = ([0, 0], true, 1024) := by
  decide +kernel

/-! ## Conversion engine (07) -/

/-- The MXFP4 block of the third worked example: elements 0x77 0x09, scale 0x7F. -/
theorem test_cvt_mxfp4 :
    let t := after (.cvt r0) (withPad (runningRec ready 0x0500 0x0D 32
      [0x100, 0, 0x0C00, 0, 0, 0, 0, 0, 0x200, 0, 0]) 0 (words [0x40E00000, 0x40B00000, 0xBF333333, 0x3E4CCCCD]))
    (t.padBytes 0 0x100 3, t.padBytes 0 0x200 1, (t.cd 0).eng.cve.flags)
      = ([0x77, 0x09, 0], [0x7F], { uf := true, ix := true }) := by decide +kernel

/-- AMXPUSH puts the amax at the head, moves the head modulo 24 and clears the step's entry. -/
theorem test_amxpush_wraps :
    let e := (((after (.amxpush r0) ((withPad (runningRec ready 0x0502 0x0D 1 [0, 0, 6]) 0 (words [0x40000000])).modCve 0
      fun c => c.setEntry 6 { head := 23, filled := 24, stepAmax := 5, nonfinite := 2 })).cd 0).eng.cve.entry 6)
    (e.head, e.filled, e.stepAmax, e.nonfinite, e.history.getD 23 0) = (0, 24, 0, 0, 0x40000000) := by decide +kernel

/-- TLD reads scale_exp, head and filled from the entry's first four bytes. -/
theorem test_tld :
    let e := ((after (.tld r0) (withPad (runningRec ready 0x0505 0x0D 1 [0, 0, 9]) 0 [0xFE, 0xFF, 3, 4])).cd 0).eng.cve.entry 9
    (e.scaleExp, e.head, e.filled) = (-2, 3, 4) := by decide +kernel

/-! ## Collectives and reductions (07, 08) -/

/-- PUT of three bytes to another die waits in the panel mesh and counts its bytes. -/
theorem test_put_mesh :
    let t := after (.put r0) (withPad (runningRec ready 0x0600 0x0E 3 [0, 0xFFFF0000, 0x80, 0xFFFF0000, 0xFFFF5007]) 0 [1, 2, 3])
    ((t.part 0).fab.mesh, (t.cd 0).eng.coe.outBytes) = ([.put r0 5 7 0xFFFF 0x80 [1, 2, 3] []], 3) := by decide +kernel

/-- It arrives in die 5's scratchpad and counts its bytes on channel 7 of its step. -/
theorem test_mesh_arrival :
    let t := after (.meshMessageArrival 0 0) (ready.modFab 0 fun f => { f with mesh := [.put r0 5 7 0xFFFF 0x80 [1, 2, 3] []] })
    (t.padBytes 5 0x80 3, ((t.cd 5).eng.coe.chans.getD 7 {}).count0 + ((t.cd 5).eng.coe.chans.getD 7 {}).count1,
      (t.part 0).fab.mesh) = ([1, 2, 3], 3, []) := by decide +kernel

/-- WAITIN takes 2 from a channel that counts 3, and waits on one that counts 1. -/
theorem test_waitin :
    let s := fun (n : Nat) => (runningRec ready 0x0601 0x0E 0 [7, 2]).modCoe 0 fun c =>
      { c with chans := modAt c.chans 7 fun _ => { step0 := 4, count0 := n } }
    ((((after (.waitin r0) (s 3)).cd 0).eng.coe.chans.getD 7 {}).count0, ((after (.waitin r0) (s 1)).rec? r0).map (·.executed))
      = (1, some false) := by decide +kernel

/-- A reducing region of INT32 cells with one contribution. -/
def reducing : Region := { region64K with cls := 4, mode := 4, contributions := 1 }

/-- An INT32 element of a granule that expects two opens it and is counted in its cell. -/
theorem test_accum_opens_granule :
    let t := after (.accumArrival 0 0) ((stored [{ reducing with contributions := 2 }]).modRed 0 fun q =>
      { q with inFlight := [{ part := 0, region := 0, offset := 8, format := 8, bits := 5, srcModule := 3, srcDie := 0
                              step := 4, ordinal := 0, pos := 2 }] })
    ((t.hub 0).red.granules.map (·.cells), (t.hub 0).red.inFlight) = ([[(2, { count := 1, value := 5 })]], []) := by
  decide +kernel

/-- An element past its cell's contributions is excess and changes no cell (R209). -/
theorem test_accum_excess :
    let t := after (.accumArrival 0 0) ((stored [{ reducing with contributions := 2 }]).modRed 0 fun q =>
      { q with
        granules := [{ part := 0, region := 0, index := 0, step := 4, format := 8, mode := 4, contributions := 2
                       cells := [(2, { count := 2, value := 5 })], space := 4096, lastTick := 0 }]
        inFlight := [{ part := 0, region := 0, offset := 8, format := 8, bits := 5, srcModule := 3, srcDie := 0
                       step := 4, ordinal := 0, pos := 2 }] })
    ((t.hub 0).red.excess, (t.hub 0).red.granules.map (·.cells)) = (1, [[(2, { count := 2, value := 5 })]]) := by
  decide +kernel

/-! ## Step control (09) -/

/-- The first row of Table 09.5 that holds decides: lost input before a mismatch, a mismatch before a vote. -/
theorem test_verdict_order :
    let w : StepWordVal :=
      { stepMin := 4, stepMax := 4, lexpMin := 0, lexpMax := 0, mismatch := false, normOvf := false, inputLost := false
        cfgMin := 0x7F800000, cfgMax := 0x7F800000, nonfinite := 0, normSq := 0, amax := [] }
    ([w, { w with nonfinite := 1 }, { w with nonfinite := 1, stepMax := 5 },
      { w with nonfinite := 1, stepMax := 5, inputLost := true }, { w with cfgMin := 0 , cfgMax := 0 }].map fun x =>
        (x.verdict.skip, x.verdict.reason)) = [(false, 0), (true, 1), (true, 2), (true, 4), (true, 3)] := by
  decide +kernel

/-- A skip verdict leaves UPDATE_APPLY with a skipped record and one more skipped step. -/
theorem test_update_apply_skip :
    let v : Verdict := { step := 4, skip := true, reason := 1, lexpUsed := 0, clip := 0, norm := 0, nonfinite := 1
                         maxNorm := 0, normSq64 := 0, clipped := false }
    let t := after (.updateApply r0) ((withRecs ready [{ recOf 0x0A02 0x13 1 [] with begun := true }]).modUd 0 fun u =>
      { u with verdicts := [(4, v)] })
    ((t.rec? r0).map (fun y => (y.skipped, y.executed)), (t.ud 0).stepSkip, (t.ud 0).lastStep) = (some (true, true), 1, 4) := by
  decide +kernel

/-! ## Memory system and line checks (11, 12) -/

/-- A stored byte that changed fails its check twice; SCRUB logs the line as bad of kind 6 (R291, R297). -/
theorem test_scrub_bad_line :
    let t := after (.scrub r0) (applyUpset ⟨.stack 0, 0, .byte 3 1⟩ (runningRec (stored [region64K]) 0x0900 0x11 1 [0, 0, 0]))
    ((t.hub 0).chk.badCount, (t.hub 0).chk.log.items.map (·.kind)) = (1, [6]) := by decide +kernel

/-- A line that fails once is recovered on its second read (R291). -/
theorem test_scrub_recovers :
    let t := after (.scrub r0) (applyUpset ⟨.stack 0, 0, .glitch⟩ (runningRec (stored [region64K]) 0x0900 0x11 1 [0, 0, 0]))
    ((t.hub 0).chk.badCount, (t.hub 0).chk.recovered) = (0, 1) := by decide +kernel

/-! ## Links and optics (13, 14) -/

/-- LANE_ACQUIRE_TIMEOUT fails an acquiring lane at the fifth try. -/
theorem test_lane_fifth_try :
    [3, 4].map (fun tries => ((after (.laneAcquireTimeout 127 7) (ready.modRx 127 7 fun x =>
      { x with state := 1, tries := tries })).port 127).rx.map (·.state)) =
      [List.replicate 7 0 ++ [1], List.replicate 7 0 ++ [5]] := by decide +kernel

/-- LIGHT_SEEN lights a probing port and starts only the lanes that see light. -/
theorem test_light_seen :
    let q := (after (.lightSeen (.fabric 0) 0x81) ((ready.modLink 0 fun k => { k with light := 1 }).modLe 0 fun e =>
      { e with optState := 4 })).port 0
    (q.link.light, q.rx.map (·.state)) = (2, [1, 0, 0, 0, 0, 0, 0, 1]) := by decide +kernel

/-- NAK_TIMER names the missing sequences below the highest held, across the wrap at 2^20. -/
theorem test_nak_wraps :
    ((after (.nakTimer 0) (ready.modLink 0 fun k =>
      { k with light := 3, rxSeq := 0xFFFFF, held := [⟨1, 0, 0, [], false⟩] })).port 0).link.naks = [0xFFFFF, 0] := by
  decide +kernel

/-- REPLAY_TIMEOUT calls again the oldest frame that has not been called. -/
theorem test_replay_timeout :
    let f : Nat → Bool → SentFrame := fun n a => { seq := n, map := 0, flits := [], msgs := [], again := a }
    ((after (.replayTimeout 0) (ready.modLink 0 fun k =>
      { k with light := 3, buffer := [f 5 true, f 6 false, f 7 false] })).port 0).link.buffer.map (·.again)
      = [true, true, false] := by decide +kernel

/-- PARKED_ELIGIBLE makes the chosen parked request eligible (R374). -/
theorem test_parked_eligible :
    ((after (.parkedEligible 0 0) (ready.modArb 0 fun a =>
      { a with requests := [⟨7, false, true⟩, ⟨9, true, false⟩] })).port 0).arb.requests.map (·.eligible)
      = [true, true] := by decide +kernel

/-- RING_UNLOCK of an unlocked ring changes nothing; LASER_SWAP_START takes the lower spare. -/
theorem test_laser_swap_takes_spare :
    let t := after (.laserSwapStart 0) (ready.modLe 0 fun e =>
      { e with
        lasers := (List.range 10).map fun j => { state := if j < 8 then 3 else 0, line := if j < 8 then j else 15 }
        queue := [(0, 3)] })
    ((t.le 0).swap, (t.le 0).spares) = (some ⟨3, 3, 8, 1⟩, 2) := by decide +kernel

/-! ## Power (16) -/

/-- TOKEN_REFILL stops at 8. -/
theorem test_token_refill :
    [7, 8].map (fun k => ((after (.tokenRefill 0 3) (ready.modSeg 0 3 fun g => { g with tokens := k })).seg 0 3).tokens)
      = [8, 8] := by decide +kernel

/-- A sample of 100 °C throttles a running block by 100 MHz; one of 110 °C stops it. -/
theorem test_junction_thresholds :
    ([1599, 1600, 1760].map fun t =>
      let b := (after (.junctionSample (.die 0 0) t 0) (ready.modBlk (.die 0 0) fun x => { x with clock := 1000 })).blk (.die 0 0)
      (b.mode, b.clock)) = [(.running, 1000), (.throttled, 900), (.stopped, 0)] := by decide +kernel

/-- Above 115 % of the limit every block of the segment stops; at it none does (R414). -/
theorem test_current_stop :
    [920, 921].map (fun peak => ((after (.segmentCurrentSample 0 0 800 peak) ready).seg 0 0).stopped) = [false, true] := by
  decide +kernel

/-- WAKE_BEGIN takes a token and serves the only request. -/
theorem test_wake_begin :
    let t := after (.wakeBegin 0 0) (ready.modBlk (.die 0 0) fun x =>
      { x with mode := .lull2, lull := 2, request := some ⟨1, 0⟩ })
    ((t.blk (.die 0 0)).mode, (t.blk (.die 0 0)).request, (t.seg 0 0).tokens) = (.waking, none, 7) := by decide +kernel

/-- CLOCK_CHOICE takes the highest multiple of 25 MHz within all limits. -/
theorem test_clock_choice :
    ((after (.clockChoice (.die 0 0) 1130 1600 1600) ready).blk (.die 0 0)).clock = 1125 := by decide +kernel

/-! ## Baith ports and registers (17, 18) -/

/-- STAGED_WRITE of ARB_GRANT_MAX of port P17 keeps its defined bits staged; CLOSING_FIELD_WRITE of ARB_CTRL then
captures the set, and the live values stay (Table 02.11). -/
theorem test_staged_and_closing :
    let t := after (.stagedWrite 0 (winLe 1) (portOff 17 0x60) 0xFFFF0030) ready
    let u := (after (.closingFieldWrite 0 (winLe 1) (portOff 17 0x68) 3) t).port 17
    ((t.port 17).arb.set.staged, u.arb.set.captured, u.arb.set.live) = ([48, 8, 1], some [48, 8, 3], [96, 8, 1]) := by
  decide +kernel

/-- A port with no partition is denied nothing and changes nothing: the module does not take its request (R419). -/
theorem test_no_partition_no_access : after (.lkCtrl 1 0 1) ready = ready := by decide +kernel

/-- A keep-alive of a lit port is counted. -/
theorem test_keep_alive : ((after (.keepAliveSend 0) (ready.modBp 0 fun q => { q with light := 3 })).bp 0).keepAlives = 1 := by
  decide +kernel

/-- SMBUS_READ_STATE answers the state; SMBUS_ALERT_RESPONSE only while an alert bit is set. -/
theorem test_smbus :
    ((after .smbusReadState ready).ctrl.smbus, (after .smbusAlertResponse ready).ctrl.smbus,
      (after .smbusAlertResponse (ready.modMod fun m => { m with alert := 1 })).ctrl.smbus.length) = ([5], [], 1) := by
  decide +kernel

/-- SMBUS_CLEAR_ALERT clears the bits written as 1 only. -/
theorem test_smbus_clear_alert :
    (after (.smbusClearAlert 5) (ready.modMod fun m => { m with alert := 0x2F })).ctrl.module.alert = 0x2A := by
  decide +kernel

/-- RESET_L low while the module is ready begins a warm reset that keeps the stacks and empties the scratchpads. -/
theorem test_warm_reset_keeps_stacks :
    let t := after (.resetLFall true) ((withPad ready 4 [1]).modHub 0 fun b => { b with mem := { b.mem with stack := { bytes := [(7, 9)] } } })
    (t.ctrl.module.state, (t.hub 0).mem.stack.bytes, (t.pad 0).bytes) = (6, [(7, 9)], []) := by decide +kernel

/-- A power failure keeps the security page and leaves the module off. -/
theorem test_power_fail :
    let t := after .powerFail (ready.modCtrl fun c => { c with sec := { versionA := 7 } })
    (t.ctrl.module.stage, t.ctrl.sec.versionA, (t.part 0).present) = (0, 7, false) := by decide +kernel

/-! ## Time, logs and the queue (03, 20) -/

/-- A refill of the record bucket stops at 1024. -/
theorem test_bucket_refill :
    [1023, 1024].map (fun n => (after .logbookBucketRefill (ready.modLog fun l => { l with bucket := n })).ctrl.log.bucket)
      = [1024, 1024] := by decide +kernel

/-- SNAPSHOT_WRITE_DONE makes the snapshot the newest of at most 32. -/
theorem test_snapshot_done :
    let w : Snapshot := { number := 40, boot := 1, time := 0, counters := {} }
    ((after .snapshotWriteDone (ready.modLog fun l =>
      { l with writing := some w, snapshots := List.replicate 32 { w with number := 9 } })).ctrl.log.snapshots.map (·.number))
      = 40 :: List.replicate 31 9 := by decide +kernel

/-- Two commands in the queue leave it in order. -/
theorem test_queue_in_order :
    (match step { ready with pending := [.nop r0, .tokenRefill 0 0] } with | .next t => t.pending | _ => [])
      = [.tokenRefill 0 0] := by decide +kernel

/-- An idle step of the powered module is 1 ns. -/
theorem test_idle_ns : (match step ready with | .next t => t.now | _ => 0) = 1 := by decide +kernel

/-- No word spells a command: the table gives its rows no bits. -/
theorem test_no_table_words : decodeTableWord 32 0 = none ∧ ready.withFetchWord 32 0 = ready := by
  exact ⟨rfl, rfl⟩

end Sys2Proof.Tests
end

