-- ==== Sys2Proof/Tests/Witness.lean ====
section
/-! SUPPORT. For every statement with hypotheses, a concrete state and operands that meet them, at the ends of
the ranges where a clause has a range. -/

namespace Sys2Proof.Tests
set_option Elab.async false
open Sys2Proof.Machine

/-! ## What the built states have -/

theorem ready_whole : ready.whole = true := by decide +kernel
theorem ready_memWf : ready.memWf = true := by decide +kernel
theorem ready_tablesWf : ready.tablesWf = true := by decide +kernel

theorem stored_whole (l : List Region) : (stored l).whole = true := whole_modPart 0 _ ready_whole
theorem stored_memWf (l : List Region) : (stored l).memWf = true := ready_memWf
theorem stored_tablesWf (l : List Region) : (stored l).tablesWf = true := ready_tablesWf

theorem withRecs_whole {s : State} (h : s.whole = true) (l : List RecState) : (withRecs s l).whole = true :=
  whole_modSeq 0 (fun _ h1 h2 => ⟨h1, h2⟩) h
theorem withRecs_memWf {s : State} (h : s.memWf = true) (l : List RecState) : (withRecs s l).memWf = true :=
  State.memWf_modCd s 0 _ h fun _ w => w
theorem withRecs_tablesWf {s : State} (h : s.tablesWf = true) (l : List RecState) : (withRecs s l).tablesWf = true :=
  tablesWf_modCd 0 (fun _ => ⟨rfl, rfl⟩) h
theorem withPad_memWf {s : State} (h : s.memWf = true) (a : Nat) (b : List Byte) : (withPad s a b).memWf = true :=
  State.memWf_modCd s 0 _ h fun _ w => Memory.write_wf _ a b w
theorem withPad_whole {s : State} (h : s.whole = true) (a : Nat) (b : List Byte) : (withPad s a b).whole = true :=
  whole_modCd 0 (fun _ hc => hc) h

/-- The records put in flight on die 0 are there. -/
theorem withRecs_rec {s : State} (h : s.whole = true) (l : List RecState) (i : Nat) :
    (withRecs s l).rec? ⟨0, 4, i⟩ = l[i]? := by
  have hc : 0 < s.cds.length := by rw [((State.whole_iff s).mp h).2.2.1]; decide
  simp only [withRecs, State.rec?, State.modSeq_eq, State.modCd_cd_same s 0 _ hc, Seq.step?]
  rfl

/-- A record that notes no image is under the image in force. -/
theorem oldImage_none {s : State} {r : RecRef} {x : RecState} (h : x.image = none) : s.oldImage? r x = none := by
  unfold State.oldImage?
  rw [h]
  cases s.partOfCd r.die <;> rfl

/-- A record that runs and has not been carried out, its block's clock running. -/
theorem withRecs_runs {s : State} (h : s.whole = true) (l : List RecState) (i : Nat) (x : RecState)
    (hx : l[i]? = some x) (hp : x.phase = .running) (he : x.executed = false) (hm : x.image = none)
    (hs : (withRecs s l).suspended ⟨0, 4, i⟩ x = false := by rfl) :
    (withRecs s l).runs ⟨0, 4, i⟩ x.record.opcode x :=
  ⟨⟨rfl, (withRecs_rec h l i).trans hx, hp, he, rfl, hs⟩, oldImage_none hm⟩

/-- The record of `runningRec` runs. -/
theorem runningRec_runs {s : State} (h : s.whole = true) (code unit count : Nat) (ws : List Word)
    (hs : (runningRec s code unit count ws).suspended r0 (recOf code unit count ws) = false := by rfl) :
    (runningRec s code unit count ws).runs r0 code (recOf code unit count ws) :=
  withRecs_runs h [recOf code unit count ws] 0 _ rfl rfl rfl rfl hs

/-! ## The queue and the invariants -/

/-- `ready` with one command waiting. -/
def waiting : State := { ready with pending := [.evadd r0, .nop r0] }

theorem waiting_steps : ∃ t, step waiting = .next t := ⟨_, rfl⟩

/-- A command waiting, and an empty queue with power and without. -/
theorem witness_StepRunsFront : waiting.pending = .evadd r0 :: [.nop r0] ∧
    (ready.pending = [] ∧ ready.ctrl.module.stage ≠ 0 ∧ ready.now + 1 < 2 ^ 64) ∧
    State.reset.pending = [] ∧ State.reset.ctrl.module.stage = 0 := ⟨rfl, by decide +kernel⟩

theorem witness_EveryCommandRuns : (Instr.nop ⟨15, 0, 0⟩).wf = true ∧ (Instr.nop ⟨16, 0, 0⟩).wf = false := by decide

theorem witness_StepKeepsShape : waiting.whole = true ∧ ∃ t, step waiting = .next t := ⟨ready_whole, waiting_steps⟩
theorem witness_StepKeepsMemory : waiting.memWf = true ∧ ∃ t, step waiting = .next t := ⟨ready_memWf, waiting_steps⟩
theorem witness_StepKeepsTables : waiting.tablesWf = true ∧ ∃ t, step waiting = .next t :=
  ⟨ready_tablesWf, waiting_steps⟩
theorem witness_SecurityNeverFalls : ∃ t, step waiting = .next t := waiting_steps
theorem witness_QueueIsFifo : ∃ t, step waiting = .next t := waiting_steps

/-! ## The sequencer -/

/-- Each opcode runs; SALU with operation codes 0 to 8; SMOVI into s55 and s56; REPLAY with 15 ranges open, and with 16. -/
theorem witness_SeqRegisters :
    (runningRec ready 0x0700 15 0 []).runs r0 0x0700 (recOf 0x0700 15 0 []) ∧
    (∀ d ∈ [0, 55, 56, 63], (runningRec ready 0x0701 15 0 [d, 1, 2]).runs r0 0x0701 (recOf 0x0701 15 0 [d, 1, 2])) ∧
    (∀ op : Word, (runningRec ready 0x0702 15 0 [0, 1, 2, op]).runs r0 0x0702 (recOf 0x0702 15 0 [0, 1, 2, op])) ∧
    (runningRec ready 0x0707 15 0 [63, 0xFFFF]).runs r0 0x0707 (recOf 0x0707 15 0 [63, 0xFFFF]) ∧
    (runningRec (stored [region64K]) 0x0706 15 0 [0, 0, 0, 64, 0, 1]).runs r0 0x0706
      (recOf 0x0706 15 0 [0, 0, 0, 64, 0, 1]) ∧
    (runningRec (stored [region64K]) 0x0706 15 0 [0, 0, 0, 64, 0, 1]).partOfCd 0 = some 0 ∧
    ((stored [region64K]).part 0).region? 0 = some region64K ∧
    ∀ k ∈ [15, 16],
      let u := { stepOf [] with ranges := (List.range k).map fun i => ⟨64 * i, 64, i + 2, 1⟩ }
      ([u].map fun u => u.ranges.length).sum = k ∧ ∀ h ∈ u.ranges, h.first ≠ 1 :=
  ⟨runningRec_runs ready_whole _ _ _ _, fun _ _ => runningRec_runs ready_whole _ _ _ _,
    fun _ => runningRec_runs ready_whole _ _ _ _, runningRec_runs ready_whole _ _ _ _,
    runningRec_runs (stored_whole _) _ _ _ _, by decide +kernel, by decide +kernel, by decide +kernel⟩

theorem witness_SregValues : ready.partOfCd 0 = some 0 ∧ ready.partOfCd 15 = some 0 := by decide +kernel

/-- A stop of MXE0's clock; a record under an image that another has followed; one that waits, one of another opcode. -/
theorem witness_RecordOperations :
    let x := recOf 0x0101 0 0 [15]
    let old := { x with image := some (imageOf []) }
    (r0.wf = true ∧ (withRecs ready [x]).rec? r0 = some x ∧ opRecord (.aclr r0) = some (r0, 0x0101)) ∧
    ((withRecs ready [x]).modBlk (.die 0 0) fun b => { b with mode := .stopped }).suspended r0 x = true ∧
    ((withRecs ready [old]).goes r0 0x0101 old ∧ (withRecs ready [old]).oldImage? r0 old = some (0, imageOf [])) ∧
    ({ x with phase := .waiting } : RecState).phase ≠ .running ∧ x.record.opcode ≠ 0x0102 :=
  ⟨⟨rfl, withRecs_rec ready_whole _ 0, rfl⟩, by decide +kernel,
    ⟨⟨rfl, withRecs_rec ready_whole _ 0, rfl, rfl, rfl, rfl⟩, by decide +kernel⟩, nofun, by decide⟩

theorem witness_SeqScratch :
    let s := fun (code : Nat) => withPad (runningRec ready code 15 0 [55, 0x7FFFFF8]) 0x7FFFFF8 [1, 2]
    (∀ code, (s code).memWf = true ∧ ((s code).pad r0.die).sound = true) ∧
      (s 0x0703).runs r0 0x0703 (recOf 0x0703 15 0 [55, 0x7FFFFF8]) ∧
      (s 0x0704).runs r0 0x0704 (recOf 0x0704 15 0 [55, 0x7FFFFF8]) :=
  ⟨fun _ => ⟨withPad_memWf (withRecs_memWf ready_memWf _) _ _, rfl⟩, runningRec_runs (withPad_whole ready_whole _ _) _ _ _ _,
    runningRec_runs (withPad_whole ready_whole _ _) _ _ _ _⟩

/-- A CHOICE of two alternates of one record each. -/
def choiceRec : RecState := recOf 0x0705 15 0 [2, 1, 0, 1, 0]

theorem witness_ChoicePicks :
    let s := withRecs ready [choiceRec, recOf 0x0700 0 0 [], recOf 0x0700 1 0 []]
    s.runs r0 0x0705 choiceRec ∧ (s.cd 0).seq.step? 4 = some (stepOf [choiceRec, recOf 0x0700 0 0 [], recOf 0x0700 1 0 []]) ∧
      s.partOfCd 0 = some 0 ∧ (choiceRec.record.alternates 0).map (fun a => (a.first, a.records)) = [(1, 1), (2, 1)] := by
  refine ⟨withRecs_runs ready_whole _ 0 _ rfl rfl rfl rfl, ?_⟩
  decide +kernel

/-- A waiting record of MXE0. -/
def waitingRec : RecState := { recOf 0x0101 0 0 [15] with phase := .waiting, words := [] }

theorem witness_RecordStarts :
    let s := withRecs ready [waitingRec]
    r0.wf = true ∧ s.partOfCd 0 = some 0 ∧ (s.cd 0).seq.step? 4 = some (stepOf [waitingRec]) ∧ s.rec? r0 = some waitingRec ∧
      startable 0 (stepOf [waitingRec]) r0 waitingRec s = true ∧
      (recBlocks r0 waitingRec).all (fun b => (s.blk b).awake) = true ∧ waitingRec.target 0 = none := by decide +kernel

/-- One that runs, one before its slot, one below its wait value, one whose unit is held, and one with a sleeping block. -/
theorem witness_RecordWaits :
    (recOf 0x0101 0 0 []).phase ≠ .waiting ∧
    (let x := { waitingRec with record := { waitingRec.record with slot := 1 } }
     (ready.part 0).disc.tick < (stepOf [x]).startTick + x.record.slot) ∧
    (let x := { waitingRec with record := { waitingRec.record with waitEv := 63, waitValue := 1 } }
     x.record.waitEv < 64 ∧ ((withRecs ready [x]).cd 0).seq.ev.getD (64 * (r0.step % 2) + 63) 0 < x.record.waitValue) ∧
    (((withRecs ready [waitingRec, recOf 0x0101 0 0 []]).dieRecs 0).any fun y =>
      y.2.record.unit == waitingRec.record.unit && y.2.phase == .running) = true ∧
    (let s := (withRecs ready [waitingRec]).modBlk (.die 0 0x2F) fun x => { x with mode := .lull3, lull := 3 }
     startable 0 (stepOf [waitingRec]) r0 waitingRec s = true ∧ s.rec? r0 = some waitingRec ∧
       (recBlocks r0 waitingRec).all (fun b => (s.blk b).awake) = false ∧ (s.blk (.die 0 0x2F)).asleep = true) := by
  decide +kernel

/-- A record that has been carried out, with each mark that decides its status and with none. -/
theorem witness_RecordCompletes :
    ∀ x ∈ [{ recOf 0x0700 15 0 [] with executed := true }, { recOf 0x0700 15 0 [] with executed := true, lost := true },
      { recOf 0x0700 15 0 [] with executed := true, skipped := true },
      { recOf 0x0700 15 0 [] with executed := true, lineBad := true },
      { recOf 0x0700 15 0 [] with executed := true, frozen := true },
      { recOf 0x0700 15 0 [] with executed := true, slipped := true }],
    let s := withRecs ready [x]
    r0.wf = true ∧ s.partOfCd 0 = some 0 ∧ (s.cd 0).seq.step? 4 = some (stepOf [x]) ∧ s.rec? r0 = some x ∧
      x.phase = .running ∧ x.executed = true ∧ settled 0 r0 x s = true ∧ x.record.opcode ≠ 0x0603 ∧
      (s.cd 0).seq.replays = [] ∧ s.suspended r0 x = false ∧ x.signalled = false ∧ (stepOf [x]).choiceOf 0 = none ∧ x.record.signalEv < 64 := by decide +kernel

/-- A replay whose next record ended, and one whose record still runs. -/
theorem witness_ReplayRuns :
    let y : ReplayRun := { step := 4, cmd := 1, addr := 0, todo := [(4, 0)], draining := true }
    let s := fun (x : RecState) => (withRecs ready [x]).modSeq 0 fun q => { q with replays := [y] }
    (ready.cd 15).seq.replays = [] ∧
    ∀ x ∈ [{ waitingRec with phase := .done }, recOf 0x0101 0 0 []],
      ((s x).cd 0).seq.replays = y :: [] ∧ y.todo = (4, 0) :: [] ∧ (s x).rec? ⟨0, 4, 0⟩ = some x ∧ x.target 0 = none ∧
        (s x).partOfCd 0 = some 0 ∧ (recBlocks ⟨0, 4, 0⟩ x).all (s x).awake = true ∧
        ((y.todo.any fun k => ((s x).rec? ⟨0, k.1, k.2⟩).elim false fun z => z.phase == .running) ||
          decide ((if x.record.unit = 0x0E then 16 else 1) ≤
            (((s x).dieRecs 0).filter fun z => z.2.record.unit == x.record.unit && z.2.phase == .running).length) ||
          !tilesFree ⟨0, 4, 0⟩ x (s x) || mxeFirst 0 0 x.tilesRead (s x)) = decide (x.phase = .running) := by decide +kernel

/-! ## Registers (02, 17) -/

theorem grants_of {s : State} {b win off : Nat} {w : Bool} (h : (s.takesRegs b win w && !s.busyWin win &&
    s.hostMay b win off w && (windowSite win).elim (win == winCtrl) s.live) = true) : s.grants b win off w := by
  simp only [Bool.and_eq_true, Bool.not_eq_true', and_assoc] at h
  exact h

/-- A running stream, and one that has ended. -/
theorem witness_StreamStops : ready.grants 0 winCtrl (0x20028 + 0x100 * 0) true ∧ (ready.part 0).stream.state = 2 ∧
    let s := ready.modStream 0 fun v => { v with state := 4 }
    s.grants 0 winCtrl (0x20028 + 0x100 * 0) true ∧ (s.part 0).stream.state = 4 :=
  ⟨grants_of (by decide +kernel), by decide +kernel, grants_of (by decide +kernel), by decide +kernel⟩

/-- The tick of a step's boundary and a later one, and a queued segment whose dies the partition holds. -/
theorem witness_StreamStops_ticks :
    let at' := fun (n : Nat) => (ready.modStream 0 fun v => { v with stepStart := 5 }).modDisc 0 fun d => { d with tick := n }
    (at' 5).grants 0 winCtrl (0x20028 + 0x100 * 0) true ∧ ((at' 5).part 0).stream.state = 2 ∧
      ((at' 5).part 0).stream.stepStart = ((at' 5).part 0).disc.tick ∧ (at' 9).grants 0 winCtrl (0x20028 + 0x100 * 0) true ∧
      ((at' 9).part 0).stream.stepStart ≠ ((at' 9).part 0).disc.tick ∧
      (15 : Nat) ∈ ((at' 9).part 0).frame.cds :=
  ⟨grants_of (by decide +kernel), by decide +kernel, by decide +kernel, grants_of (by decide +kernel), by decide +kernel,
    by decide +kernel⟩

/-- Every register of the statement may be written at the top of its range. -/
theorem witness_LatchesClear :
    ready.grants 0 (winCd 15) (0x40008 + 0x100 * 9) true ∧ ready.grants 0 (winCd 15) 0x70010 true ∧
      ready.grants 0 (winCd 15) 0x70030 true ∧ ready.grants 0 (winHub 31) 0x10024 true ∧
      ready.grants 0 (winLe (127 / 16)) (portOff 127 0x7C) true ∧
      ready.grants 0 (winCd 15) (0xC1014 + 0x40 * 3) true ∧ (1 : Word).getLsbD 0 = true ∧ (0 : Word).getLsbD 0 = false :=
  ⟨grants_of (by decide +kernel), grants_of (by decide +kernel), grants_of (by decide +kernel),
    grants_of (by decide +kernel), grants_of (by decide +kernel), grants_of (by decide +kernel), by decide, by decide⟩

/-- `ready` cut in two partitions: B1 hosts dies, stacks and ports of the upper half. -/
def split : State :=
  { ready with parts := [
      { ready.part 0 with frame := {
          cdFirst := 0, cdCount := 8, stackFirst := 0, stackCount := 16, udFirst := 0, udCount := 16, hostPort := 0
          portMask := 2 ^ 64 - 1, moduleNumber := 3 } },
      { ready.part 0 with frame := {
          cdFirst := 8, cdCount := 8, stackFirst := 16, stackCount := 16, udFirst := 16, udCount := 16, hostPort := 1
          portMask := 2 ^ 128 - 2 ^ 64, moduleNumber := 4 } }, {}, {}] }

/-- A port without a partition, a partition that is being reset, a die and a light engine of another partition. -/
theorem witness_AccessDenied :
    (Instr.gxeOorStat 3 0 1).wf = true ∧ regTarget (.gxeOorStat 3 0 1) = some (3, winCd 0, 0x70010) ∧
      ready.takesRegs 3 (winCd 0) true = false ∧ (ready.modPart 0 fun q => { q with resetting := true }).busyWin (winCd 0) = true ∧
      regTarget (.gxeOorStat 1 0 1) = some (1, winCd 0, 0x70010) ∧ split.takesRegs 1 (winCd 0) true = true ∧
      split.busyWin (winCd 0) = false ∧ split.hostMay 1 (winCd 0) 0x70010 true = false ∧
      regTarget (.leSwapCmd 1 0 0x100) = some (1, winLe 0, 0x2040C) ∧ split.takesRegs 1 (winLe 0) true = true ∧
      split.busyWin (winLe 0) = false ∧ split.hostMay 1 (winLe 0) 0x2040C true = false := by decide +kernel

theorem witness_StagedReloads :
    let u := ((PubSet.ofValues [96, 8, 1]).close 3).stage 0 64
    u.captured = some [96, 8, 3] ∧ u.staged.length = 3 ∧ u.after = [true, false, false] ∧
      (PubSet.ofValues [96, 8, 1]).staged = (PubSet.ofValues [96, 8, 1]).live ∧
      (PubSet.ofValues [96, 8, 1]).captured = none ∧ 1 + 1 < (PubSet.ofValues [96, 8, 1]).live.length := by decide

theorem witness_ShadowReads :
    portOff 127 0x60 < 0x800000 ∧ memberAt ready.ctrl.ident.part (winLe 7) (portOff 127 0x60) ≠ none ∧
      ((windowSite (winLe 7)).elim (winLe 7 == winCtrl) ready.live) = true := by decide +kernel

/-- A plain member and the closing field of the arbiter set of P127. -/
theorem witness_SetWrites :
    (ready.grants 0 (winLe 7) (portOff 127 0x60) true ∧
      (ready.memberOf (winLe 7) (portOff 127 0x60)).map (·.closing) = some false) ∧
    ready.grants 0 (winLe 7) (portOff 127 0x68) true ∧
      (ready.memberOf (winLe 7) (portOff 127 0x68)).map (·.closing) = some true :=
  ⟨⟨grants_of (by decide +kernel), by decide +kernel⟩, grants_of (by decide +kernel), by decide +kernel⟩

theorem witness_HubRegisters :
    31 < ready.hubs.length ∧ ready.grants 0 (winHub 31) 0x2001C true ∧ ready.grants 0 (winHub 31) 0x30024 true ∧
      ready.grants 0 (winHub 31) (0x38000 + 8 * 4095) true ∧ ready.grants 0 (winHub 31) 0x20048 false ∧
      (ready.hub 31).chk.retPending = none ∧ ready.partOfHub 31 = some 0 ∧ (ready.part 0).stream.state = 2 :=
  ⟨by decide +kernel, grants_of (by decide +kernel), grants_of (by decide +kernel), grants_of (by decide +kernel),
    grants_of (by decide +kernel), by decide +kernel, by decide +kernel, by decide +kernel⟩

/-- The top granule below the spare area of pseudo-channel 30, no stream running; and an entry being put in force. -/
theorem witness_RetireTakesEffect :
    let s := ready.modStream 0 fun v => { v with state := 0 }
    let v : Word := 0x80000000 + 30 * 2 ^ 26 + 1175000
    let e : RetEntry := { spare := 1179647, valid := true, q := 31, granule := 5 }
    s.grants 0 (winHub 31) (0x38000 + 8 * 4095) true ∧ s.memWf = true ∧
    (31 < s.hubs.length ∧ (s.hub 31).chk.retPending = none ∧ v.getLsbD 31 = true ∧ field v 25 21 = 0 ∧
      (s.part 0).stream.running = false ∧ field v 20 0 < 1179648 ∧
      (s.hub 31).mem.chanUse.getLsbD (field v 30 26 / 2) = true ∧
      inSpare (s.hub 31).mem.chanUse (field v 30 26) (field v 20 0) = false ∧
      (freeSpare (s.hub 31).mem.chanUse ((s.hub 31).chk.ret.filter fun e => e.1 != 4095) (field v 30 26)).isSome = true) ∧
    ((s.modChk 31 fun c => { c with retPending := some (4095, e) }).hub 31).chk.retPending = some (4095, e) :=
  ⟨grants_of (by decide +kernel), ready_memWf, by decide +kernel, by decide +kernel⟩

/-- With an image pending, and with none; with the anchor, and with a snapshot taken 60 s ago. -/
theorem witness_ControlRegisters :
    let s := ready.modPart 0 fun q => { q with pendingImg := some (imageOf []) }
    ready.whole = true ∧ ready.grants 0 winCtrl 0x10050 true ∧ s.grants 0 winCtrl 0x10050 true ∧
      (s.part 0).pendingImg ≠ none ∧ ready.grants 0 winCtrl 0x10450 true ∧ ready.grants 0 winCtrl 0x20418 true ∧
      ready.grants 0 winCtrl 0x5001C true ∧ ready.ctrl.log.lastSnapCmd = none :=
  ⟨ready_whole, grants_of (by decide +kernel), grants_of (by decide +kernel), nofun, grants_of (by decide +kernel),
    grants_of (by decide +kernel), grants_of (by decide +kernel), rfl⟩

/-- The last entry of die 15's table with the stream ended, and the same with it running. -/
theorem witness_CveTableWrites :
    let s := ready.modStream 0 fun v => { v with state := 4 }
    s.tablesWf = true ∧ 15 < s.cds.length ∧ s.partOfCd 15 = some 0 ∧
      s.grants 0 (winCd 15) (0x200000 + 0x7FFFC / 4 * 4) true ∧ (s.part 0).stream.state = 4 ∧
      ready.grants 0 (winCd 15) (0x200000 + 0x7FFFC / 4 * 4) true ∧ (ready.part 0).stream.state = 2 ∧
      ready.grants 0 (winCd 15) (0x200000 + 0x80000 / 4 * 4) true :=
  ⟨ready_tablesWf, by decide +kernel, by decide +kernel, grants_of (by decide +kernel), by decide +kernel,
    grants_of (by decide +kernel), by decide +kernel, grants_of (by decide +kernel)⟩

/-! ## Links and optics (13, 14) -/

/-- A state whose port n has this link. -/
def lit (n light : Nat) : State := ready.modLink n fun k => { k with light := light }

theorem lit_whole (n light : Nat) : (lit n light).whole = true := whole_modLink n _ ready_whole

/-- A fabric port and a Baith port in each light state. -/
theorem witness_PortLight :
    (∀ light, (lit 127 light).whole = true) ∧ (∀ light ∈ [0, 1, 2, 3], ((lit 127 light).port 127).link.light = light) ∧
      ((ready.modBp 3 fun q => { q with light := 2 }).bp 3).light = 2 ∧ (0x80 : Byte) ≠ 0 :=
  ⟨lit_whole 127, by decide +kernel, by decide +kernel, by decide⟩

/-- Lane 7 of a lit P127 in each state, acquiring with four and with five tries behind it. -/
theorem witness_LaneStates :
    let s := fun (x : RxLane) => (lit 127 3).modRx 127 7 fun _ => x
    (∀ x, (s x).whole = true) ∧
      ∀ x ∈ [{ state := 0 }, { state := 1, tries := 3 }, { state := 1, tries := 4 }, { state := 2 }, { state := 3 },
        { state := 4 }, { state := 5 }], ((s x).port 127).rx[7]? = some x ∧ ((s x).port 127).link.light = 3 := by
  refine ⟨fun x => whole_modPort 127 (fun q hq => ?_) (lit_whole 127 3), by decide +kernel⟩
  simpa [Port.whole] using hq

/-- P127 up, its lane 7 in service both ways, with its ring locked. -/
def serving : State :=
  ready.modPort 127 fun q =>
    { q with
      link := { q.link with light := 3 }
      rings := (q.rings.set 7 { state := 4, line := 2 }).set 15 { state := 4, line := 2 }
      tx := q.tx.set 7 { inService := true, frame := 1 }
      rx := q.rx.set 7 { state := 3 }
      adopted := true }

theorem serving_whole : serving.whole = true := whole_modPort 127 (fun q hq => by simpa [Port.whole] using hq) ready_whole

/-- A frame of the replay buffer. -/
def frameOf (seq : Nat) (again : Bool) : SentFrame := { seq := seq, map := 0, flits := [], msgs := [], again := again }

/-- Lane 7 of P127: dark, at an identity frame, out of service, with a frame called again, with a holder, and idle. -/
theorem witness_FramesLeave :
    let held := serving.modArb 127 fun a => { a with holder := some 9 }
    serving.whole = true ∧ serving.partOfPort 127 = some 0 ∧ ready.txLit 127 7 = false ∧ serving.txLit 127 7 = true ∧
      ((serving.modTx 127 7 fun x => { x with frame := 0 }).port 127).tx.getD 7 {} = { inService := true, frame := 0 } ∧
      ((serving.modTx 127 7 fun x => { x with inService := false }).port 127).tx.getD 7 {} = { inService := false, frame := 1 } ∧
      ((serving.modLink 127 fun k => { k with buffer := [frameOf 0xFFFFF true] }).port 127).link.buffer.find? (·.again)
        = some (frameOf 0xFFFFF true) ∧
      (held.port 127).link.buffer.find? (·.again) = none ∧ (held.port 127).link.buffer.length < 256 ∧
      (held.port 127).arb.holder.isSome = true ∧ (serving.port 127).arb.holder = none ∧
      256 ≤ ((serving.modLink 127 fun k => { k with buffer := List.replicate 256 (frameOf 3 false) }).port 127).link.buffer.length := by
  refine ⟨serving_whole, ?_⟩
  decide +kernel

/-- A frame held two ahead of its turn, called frames and uncalled ones, a time source, a request to answer, and a port
with no lane in service, with a frame resent eight times, and with neither. -/
theorem witness_ReportsAndTimers :
    let held := serving.modLink 127 fun k => { k with rxSeq := 0xFFFFF, held := [⟨1, 0, 0, [], false⟩] }
    let timed := serving.modPart 0 fun q => { q with active := some { imageOf [] with cadence := { timeSource := 127 } } }
    serving.whole = true ∧ (ready.port 127).link.light < 2 ∧ (serving.port 127).link.light = 3 ∧
      (held.port 127).link.held ≠ [] ∧ (held.port 127).link.rxSeq < 2 ^ 20 ∧
      (∀ x ∈ (held.port 127).link.held, 0 < (x.seq + 2 ^ 20 - (held.port 127).link.rxSeq) % 2 ^ 20) ∧
      (serving.port 127).link.held = [] ∧ ((serving.port 127).link.buffer.all (·.again)) = true ∧
      ((serving.modLink 127 fun k => { k with buffer := [frameOf 1 true, frameOf 2 false] }).port 127).link.buffer.find?
        (fun y => !y.again) = some (frameOf 2 false) ∧
      (timed.part 0).timePort = some 127 ∧ (serving.port 127).link.time.toAnswer = [] ∧
      ((serving.modLink 127 fun k => { k with time := { k.time with toAnswer := [(7, 8, 9)] } }).port 127).link.time.toAnswer
        = (7, 8, 9) :: [] ∧
      ¬ ((serving.port 127).txService = 0 ∨ (serving.port 127).rxService = 0) ∧ ((lit 127 3).port 127).txService = 0 ∧
      (∃ f ∈ ((serving.modLink 127 fun k => { k with buffer := [{ frameOf 1 false with resends := 8 }] }).port 127).link.buffer,
        8 ≤ f.resends) := by
  refine ⟨serving_whole, ?_⟩
  decide +kernel

/-- A frame of a header, a CRC field and flits. -/
def frameWith (head : List Byte) (crc : Nat) (rest : List Byte) : List Byte := head ++ leBytes 4 crc ++ rest

theorem frameWith_parts (head : List Byte) (crc : Nat) (rest : List Byte) (h : head.length = 6) (hr : rest.length = 2560) :
    (frameWith head crc rest).length = 2570 ∧
      slice (frameWith head crc rest) 0 6 ++ (frameWith head crc rest).drop 10 = head ++ rest ∧
      leAt (frameWith head crc rest) 6 4 = crc % 256 ^ 4 := by
  have h1 : slice (frameWith head crc rest) 0 6 = head := by
    simp [frameWith, slice, List.append_assoc, ← h]
  have h2 : (frameWith head crc rest).drop 10 = rest := List.drop_left' (by simp [h])
  have h3 : slice (frameWith head crc rest) 6 4 = leBytes 4 crc := by
    have := slice_middle head (leBytes 4 crc) rest
    rwa [h, leBytes_length] at this
  exact ⟨by simp [frameWith, h, hr], by rw [h1, h2], by rw [leAt, h3, leNat_leBytes]⟩

/-- A frame of a header and flits with the CRC that goes with them. -/
def goodFrame (head rest : List Byte) : List Byte := frameWith head (crc32c (head ++ rest)).toNat rest

theorem goodFrame_good (head rest : List Byte) (h : head.length = 6) (hr : rest.length = 2560) :
    (goodFrame head rest).length = 2570 ∧
      (crc32c (slice (goodFrame head rest) 0 6 ++ (goodFrame head rest).drop 10)).toNat = leAt (goodFrame head rest) 6 4 := by
  obtain ⟨h1, h2, h3⟩ := frameWith_parts head (crc32c (head ++ rest)).toNat rest h hr
  refine ⟨h1, ?_⟩
  rw [goodFrame, h2, h3]
  exact (Nat.mod_eq_of_lt (show _ < 256 ^ 4 from (crc32c (head ++ rest)).isLt)).symm

/-- Such a frame with another CRC. -/
def badFrame (head rest : List Byte) : List Byte := frameWith head ((crc32c (head ++ rest)).toNat + 1) rest

theorem badFrame_bad (head rest : List Byte) (h : head.length = 6) (hr : rest.length = 2560) :
    (badFrame head rest).length = 2570 ∧
      (crc32c (slice (badFrame head rest) 0 6 ++ (badFrame head rest).drop 10)).toNat ≠ leAt (badFrame head rest) 6 4 := by
  obtain ⟨h1, h2, h3⟩ := frameWith_parts head ((crc32c (head ++ rest)).toNat + 1) rest h hr
  refine ⟨h1, ?_⟩
  rw [badFrame, h2, h3]
  have := (crc32c (head ++ rest)).isLt
  omega

/-- 2560 bytes of flits that are not control flits, but for the given first ones. -/
def flits (first : List Byte) : List Byte := (first ++ List.replicate 2560 0).take 2560

theorem flits_length (first : List Byte) : (flits first).length = 2560 := by
  simp only [flits, List.length_take, List.length_append, List.length_replicate]
  omega

/-- A frame that arrives as it was sent at a descrambler in the scrambler's state. -/
theorem line_of (identity : Bool) (b : List Byte) (h : b.length = 2570) :
    (arriving identity b 0 []).length = 2720 ∧ (decodeFrame identity 0 (arriving identity b 0 [])).bytes = b ∧
      (decodeFrame identity 0 (arriving identity b 0 [])).uncorrectable = 0 := by
  rw [arriving_quiet, decodeFrame_encodeFrame identity 0 b h]
  exact ⟨encodeFrame_length identity 0 b h, rfl, rfl⟩

/-- A frame of a header and flits with the CRC that goes with them, on the line. -/
def lineOf (head rest : List Byte) : List Byte := arriving false (goodFrame head rest) 0 []

/-- Such a frame is undamaged. -/
theorem lineOf_good (head rest : List Byte) (h : head.length = 6) (hr : rest.length = 2560) :
    let y := decodeFrame false 0 (lineOf head rest)
    (lineOf head rest).length = 2720 ∧ y.bytes = goodFrame head rest ∧ y.uncorrectable = 0 ∧
      (crc32c (slice y.bytes 0 6 ++ y.bytes.drop 10)).toNat = leAt y.bytes 6 4 := by
  obtain ⟨hl, hc⟩ := goodFrame_good head rest h hr
  obtain ⟨h1, h2, h3⟩ := line_of false _ hl
  exact ⟨h1, h2, h3, by rw [show lineOf head rest = arriving false (goodFrame head rest) 0 [] from rfl, h2]; exact hc⟩

/-- Frames one ahead of their turn, outside the window, and link-only with a LINK flit first; a wrong CRC; a serving lane. -/
theorem witness_FramesArrive :
    serving.whole = true ∧ serving.partOfPort 127 = some 0 ∧ 2 ≤ (serving.port 127).link.light ∧
      ((serving.port 127).rx.getD 7 {}).reads = true ∧ ((serving.port 127).rx.getD 7 {}).state = 3 ∧
      ((serving.port 127).rx.getD 7 {}).descr = 0 ∧
      ((serving.port 127).rx.getD 7 {}).uncorrMs ≤ 16 ∧ (serving.port 127).link.rxSeq = 0 ∧
      (∀ v ∈ [1, 255, 256],
        let y := decodeFrame false 0 (lineOf (leBytes 6 v) (flits []))
        (lineOf (leBytes 6 v) (flits [])).length = 2720 ∧ y.uncorrectable = 0 ∧
          (crc32c (slice y.bytes 0 6 ++ y.bytes.drop 10)).toNat = leAt y.bytes 6 4 ∧ leAt y.bytes 0 4 = v) ∧
      (let line := arriving false (badFrame (leBytes 6 0) (flits [])) 0 []
       let y := decodeFrame false 0 line
       line.length = 2720 ∧ (crc32c (slice y.bytes 0 6 ++ y.bytes.drop 10)).toNat ≠ leAt y.bytes 6 4) ∧
      (let y := decodeFrame false 0 (lineOf (leBytes 6 (2 * 2 ^ 30 + 2 ^ 20)) (flits [2, 0x80]))
       y.uncorrectable = 0 ∧ (crc32c (slice y.bytes 0 6 ++ y.bytes.drop 10)).toNat = leAt y.bytes 6 4 ∧
         leAt y.bytes 0 4 / 2 ^ 30 = 2 ∧ leAt y.bytes 0 4 / 2 ^ 20 % 1024 = 1 ∧ leAt y.bytes 10 1 = 2) := by
  refine ⟨serving_whole, by decide +kernel, by decide +kernel, by decide +kernel, by decide +kernel, by decide +kernel,
    by decide +kernel, by decide +kernel, fun v hv => ?_, ?_, ?_⟩
  · obtain ⟨h1, h2, h3, h4⟩ := lineOf_good (leBytes 6 v) (flits []) (leBytes_length 6 v) (flits_length _)
    refine ⟨h1, h3, h4, ?_⟩
    rw [h2]
    clear h1 h2 h3 h4
    revert v
    simp only [List.mem_cons, List.mem_nil_iff, or_false, forall_eq_or_imp, forall_eq]
    exact ⟨rfl, rfl, rfl⟩
  · obtain ⟨hl, hc⟩ := badFrame_bad (leBytes 6 0) (flits []) (leBytes_length 6 _) (flits_length _)
    obtain ⟨h1, h2, _⟩ := line_of false _ hl
    exact ⟨h1, by rw [h2]; exact hc⟩
  · obtain ⟨_, h2, h3, h4⟩ := lineOf_good (leBytes 6 (2 * 2 ^ 30 + 2 ^ 20)) (flits [2, 0x80]) (leBytes_length 6 _) (flits_length _)
    refine ⟨h3, h4, ?_⟩
    rw [h2]
    exact ⟨rfl, rfl, rfl⟩

/-- A CHOICE whose alternate's block is awake; a link-only frame without flits and one whose turn has come; samples below
their limits; a stopped segment. -/
theorem witness_UndisturbedEvents :
    let c := { choiceRec with pick := some 1 }
    let s := withRecs ready [c, recOf 0x0700 0 0 [], recOf 0x0700 1 0 []]
    let u := serving.modArb 127 fun a => { a with peer := 1 }
    s.whole = true ∧ u.whole = true ∧ s.runs r0 0x0705 c ∧
    ((s.cd 0).seq.step? 4 = some (stepOf [c, recOf 0x0700 0 0 [], recOf 0x0700 1 0 []]) ∧ s.partOfCd 0 = some 0 ∧
      ((c.record.alternates 0)[1]?.map fun a => (a.first, a.records)) = some (2, 1) ∧
      ((c.record.alternates 0)[1]?.elim false fun a =>
        (alternateBlocks 0 [c, recOf 0x0700 0 0 [], recOf 0x0700 1 0 []] a).all fun b => !(s.blk b).asleep) = true) ∧
    (u.partOfPort 127 = some 0 ∧ (u.port 127).link.light = 3 ∧ (u.port 127).arb.peer = 1 ∧
      ((u.port 127).rx.getD 7 {}).reads = true ∧ ((u.port 127).rx.getD 7 {}).state = 3 ∧
      ((u.port 127).rx.getD 7 {}).uncorrMs ≤ 16 ∧ ((u.port 127).rx.getD 7 {}).descr = 0 ∧
      (u.port 127).link.held = [] ∧ (u.port 127).link.current = none) ∧
    (let y := decodeFrame false 0 (lineOf (leBytes 6 (2 * 2 ^ 30)) (flits []))
     y.uncorrectable = 0 ∧ (crc32c (slice y.bytes 0 6 ++ y.bytes.drop 10)).toNat = leAt y.bytes 6 4 ∧
       leAt y.bytes 0 4 = 2 * 2 ^ 30) ∧
    (let y := decodeFrame false 0 (lineOf (leBytes 6 0) (flits []))
     y.uncorrectable = 0 ∧ (crc32c (slice y.bytes 0 6 ++ y.bytes.drop 10)).toNat = leAt y.bytes 6 4 ∧
       leAt y.bytes 0 4 = (u.port 127).link.rxSeq ∧ leAt y.bytes 4 2 = (u.part 0).epoch16) ∧
    ((ready.blk (.die 15 0x2F)).squall = none ∧ (ready.blk (.die 15 0x2F)).halted = false ∧ (1599 : Int) < 1600) ∧
    ((ready.seg 15 3).stopped = false ∧ (ready.seg 15 3).squall = none ∧ (0 : Nat) * 100 ≤ (ready.seg 15 3).limit * 115) ∧
    ((ready.modSeg 15 3 fun z => { z with stopped := true }).seg 15 3).stopped = true := by
  refine ⟨withRecs_whole ready_whole _, whole_modArb 127 _ serving_whole, withRecs_runs ready_whole _ 0 _ rfl rfl rfl rfl,
    by decide +kernel, by decide +kernel, ?_, ?_, by decide +kernel, by decide +kernel, by decide +kernel⟩
  · obtain ⟨_, h2, h3, h4⟩ := lineOf_good (leBytes 6 (2 * 2 ^ 30)) (flits []) (leBytes_length 6 _) (flits_length _)
    refine ⟨h3, h4, ?_⟩
    rw [h2]
    rfl
  · obtain ⟨_, h2, h3, h4⟩ := lineOf_good (leBytes 6 0) (flits []) (leBytes_length 6 _) (flits_length _)
    refine ⟨h3, h4, ?_⟩
    rw [h2]
    exact ⟨by decide +kernel, by decide +kernel⟩

/-- The body of an identity frame of module 5, port 9, lane 7, on line 2. -/
def identBody : List Byte := (([5, 0, 9, 7, 2] : List Byte) ++ List.replicate 2544 0).take 2544

theorem identBody_length : identBody.length = 2544 := by
  simp only [identBody, List.length_take, List.length_append, List.length_replicate, List.length_cons, List.length_nil]
  omega

/-- An identity frame with a right CRC and epoch 0. -/
def identFrame (k : Nat) (rest : List Byte) : List Byte :=
  alignPattern ++ (leBytes 6 (k * 2 ^ 30) ++ leBytes 4 (crc32c (leBytes 6 (k * 2 ^ 30) ++ rest)).toNat ++ rest)

theorem identFrame_good (k : Nat) (rest : List Byte) (hr : rest.length = 2544) :
    (identFrame k rest).length = 2570 ∧ (identFrame k rest).take 16 = alignPattern ∧
      (crc32c (slice (identFrame k rest) 16 6 ++ (identFrame k rest).drop 26)).toNat = leAt (identFrame k rest) 22 4 := by
  have h1 : slice (identFrame k rest) 16 6 = leBytes 6 (k * 2 ^ 30) := by
    rw [identFrame, show (16 : Nat) = alignPattern.length + 0 from rfl, slice_past]
    rfl
  have h2 : (identFrame k rest).drop 26 = rest := by
    rw [identFrame, ← List.append_assoc]
    exact List.drop_left' (by simp only [List.length_append, leBytes_length]; rfl)
  have h3 : slice (identFrame k rest) 22 4 = leBytes 4 (crc32c (leBytes 6 (k * 2 ^ 30) ++ rest)).toNat := by
    rw [identFrame, show (22 : Nat) = alignPattern.length + 6 from rfl, slice_past]
    have := slice_middle (leBytes 6 (k * 2 ^ 30)) (leBytes 4 (crc32c (leBytes 6 (k * 2 ^ 30) ++ rest)).toNat) rest
    rwa [leBytes_length, leBytes_length] at this
  refine ⟨?_, List.take_left' rfl, ?_⟩
  · simp only [identFrame, List.length_append, leBytes_length, hr]
    rfl
  · rw [h1, h2, leAt, h3, leNat_leBytes]
    exact (Nat.mod_eq_of_lt (show _ < 256 ^ 4 from (crc32c (leBytes 6 (k * 2 ^ 30) ++ rest)).isLt)).symm

theorem identFrame_field (k : Nat) (rest : List Byte) (o : Nat) : leAt (identFrame k rest) (26 + o) 1 = leAt rest o 1 := by
  have e : identFrame k rest = alignPattern ++ leBytes 6 (k * 2 ^ 30) ++ leBytes 4 (crc32c (leBytes 6 (k * 2 ^ 30) ++ rest)).toNat ++ rest := by
    simp only [identFrame, List.append_assoc]
  have l : (alignPattern ++ leBytes 6 (k * 2 ^ 30) ++ leBytes 4 (crc32c (leBytes 6 (k * 2 ^ 30) ++ rest)).toNat).length = 26 := by
    simp only [List.length_append, leBytes_length]
    rfl
  rw [e, ← l, leAt_past]

/-- The field that holds an identity frame's kind. -/
theorem identFrame_kind (k : Nat) (rest : List Byte) : leAt (identFrame k rest) 16 4 = k * 2 ^ 30 % 256 ^ 4 := by
  have h : slice (identFrame k rest) 16 4 = leBytes 4 (k * 2 ^ 30) := by
    rw [identFrame, show (16 : Nat) = alignPattern.length + 0 from rfl, slice_past]
    rfl
  rw [leAt, h, leNat_leBytes]

/-- Lane 7 acquiring, dark, aligned and withdrawn, at the 63rd and 64th frame of its run, with and without a cause; a
frame that names lane 7 and line 2, as the line carries it, one of another kind, and one that is no identity frame. -/
theorem witness_IdentityFrames :
    let s := fun (x : RxLane) => serving.modRx 127 7 fun _ => x
    let line := arriving true (identFrame 1 identBody) 0 []
    let y := decodeFrame true 0 line
    (∀ x, (s x).whole = true) ∧ (serving.port 127).adopted = true ∧
      (∀ x ∈ [{ state := 0 }, { state := 1 }, { state := 2, hist := List.replicate 62 0 }, { state := 2, hist := List.replicate 63 0 },
        { state := 4, hist := List.replicate 63 0, causes := 2, runCorrected := 65537 }, { state := 5 }],
        ((s x).port 127).rx[7]? = some x ∧ 2 ≤ ((s x).port 127).link.light ∧ x.descr = 0) ∧
      line.length = 2720 ∧ y.uncorrectable = 0 ∧ y.bytes.take 16 = alignPattern ∧
      (crc32c (slice y.bytes 16 6 ++ y.bytes.drop 26)).toNat = leAt y.bytes 22 4 ∧ leAt y.bytes 16 4 / 2 ^ 30 = 1 ∧
      leAt y.bytes (26 + 3) 1 = 7 ∧ leAt y.bytes (26 + 4) 1 = ((serving.port 127).rings.getD (8 + 7) {}).line ∧
      (let z := decodeFrame true 0 (arriving true (identFrame 2 identBody) 0 [])
       z.uncorrectable = 0 ∧ z.bytes.take 16 = alignPattern ∧
         (crc32c (slice z.bytes 16 6 ++ z.bytes.drop 26)).toNat = leAt z.bytes 22 4 ∧ leAt z.bytes 16 4 / 2 ^ 30 = 2) ∧
      (let l := arriving true (List.replicate 2570 0) 0 []
       l.length = 2720 ∧ (decodeFrame true 0 l).bytes.take 16 ≠ alignPattern) := by
  intro s line y
  obtain ⟨hl2, ht2, hc2⟩ := identFrame_good 2 _ identBody_length
  obtain ⟨_, g2, g3⟩ := line_of true _ hl2
  obtain ⟨z1, z2, _⟩ := line_of true (List.replicate 2570 0) List.length_replicate
  obtain ⟨hl, ht, hc⟩ := identFrame_good 1 _ identBody_length
  obtain ⟨h1, h2, h3⟩ := line_of true _ hl
  refine ⟨fun x => whole_modPort 127 (fun q hq => by simpa [Port.whole, s] using hq) serving_whole, by decide +kernel,
    by decide +kernel, h1, h3, ?_⟩
  rw [show y.bytes = identFrame 1 identBody from h2]
  refine ⟨ht, hc, by rw [identFrame_kind]; rfl, ?_, ?_,
    ⟨g3, by rw [g2]; exact ht2, by rw [g2]; exact hc2, by rw [g2, identFrame_kind]; rfl⟩,
    z1, by rw [z2]; decide +kernel⟩
  · rw [identFrame_field]
    rfl
  · rw [identFrame_field]
    rfl

/-- A light engine whose lasers 0 to 7 serve lines 0 to 7, laser 3 at 140 % of its start of life. -/
def lased : State :=
  (ready.modCtrl fun c => { c with ident := { c.ident with sol := [(73, 100)], kappa := [(2047, 8)] } }).modLe 7 fun e =>
    { e with lasers := (List.range 10).map fun j => { state := if j < 8 then 3 else 0, line := if j < 8 then j else 15 } }

theorem lased_whole : lased.whole = true :=
  whole_modLe 7 (fun _ _ => by simp) (whole_modCtrl _ ready_whole)

/-- The four registers may be written; line 3 is served and line 8 is not. -/
theorem witness_PortControl :
    lased.whole = true ∧ lased.grants 0 (winLe (127 / 16)) (portOff 127 0x08) true ∧
      lased.grants 0 (winLe (127 / 16)) (portOff 127 0x04) true ∧ lased.grants 0 (winLe (127 / 16)) (portOff 127 0x0C) true ∧
      lased.grants 0 (winLe 7) 0x2040C true ∧ (lased.le 7).serving 7 = some 7 ∧ (lased.le 7).queue = [] ∧
      field 0x107 3 0 = 7 ∧ (0x107 : Word).getLsbD 8 = true ∧ 8 ≤ field 0x108 3 0 :=
  ⟨lased_whole, grants_of (by decide +kernel), grants_of (by decide +kernel), grants_of (by decide +kernel),
    grants_of (by decide +kernel), by decide +kernel, by decide +kernel, by decide, by decide, by decide⟩

/-- A ring in each state, with a heater at both ends of its range, and one that may be put back. -/
theorem witness_RingsLock :
    let s := fun (k : Nat) (r : RingRes) => ready.modRing 127 k fun _ => r
    (∀ k r, (s k r).whole = true) ∧
      (∀ k ∈ [7, 15], ∀ r ∈ [{ state := 2, line := 7, dips := [(7, 2000)] }, { state := 3 }, { state := 4, heater := 511 },
        { state := 4, heater := 512 }, { state := 5, heater := 14848, expect := 3, nameless := 1 }],
        ((s k r).port 127).rings[k]? = some r) ∧
      (lased.le 7).removed.getLsbD 7 = false ∧
      (({ state := 2, line := 7, dips := [(7, 2000)] } : RingRes).settingFor 7).isSome = true := by
  refine ⟨fun k r => whole_modPort 127 (fun q hq => by simpa [Port.whole] using hq) ready_whole, ?_⟩
  decide +kernel

/-- A laser below and at 120 and 140 %, each stage of a swap, and a ring with a calibration. -/
theorem witness_LaserCare :
    let swap := fun (stage : Nat) => lased.modLe 7 fun e => { e with swap := some ⟨3, 3, 9, stage⟩ }
    lased.whole = true ∧ (lased.le 7).lasers[3]? = some { state := 3, line := 3 } ∧ lased.solBias 7 3 = 100 ∧
      140 * lased.solBias 7 3 ≤ 100 * 140 ∧ 100 * 139 < 140 * lased.solBias 7 3 ∧ (lased.le 7).spares ≠ 0 ∧
      (lased.le 7).serving 3 = some 3 ∧ (lased.le 7).swap = none ∧
      ((lased.modLe 7 fun e => { e with queue := [(0, 3)] }).le 7).queue = (0, 3) :: [] ∧
      ((swap 1).le 7).swap = some ⟨3, 3, 9, 1⟩ ∧ ((swap 2).le 7).swap = some ⟨3, 3, 9, 2⟩ ∧
      127 / 16 = 7 ∧ (lased.port 127).rings[15]? = some ({} : RingRes) ∧ 0 ≤ look lased.ctrl.ident.kappa (16 * 127 + 15) 0 := by
  refine ⟨lased_whole, ?_⟩
  decide +kernel

/-- P127 usable to module 9, with a message to it. -/
def usable : State :=
  ((serving.modArb 127 fun a => { a with peer := 1 }).modPart 0 fun q =>
    { q with
      active := some { imageOf [] with peers := List.replicate 127 {} ++ [{ module := 9, port := 3, inUse := true }] }
      fab := { q.fab with
        msgs := [{ ident := 5, kind := 1, ref := r0, dstModule := 9, dstDie := 2, channel := 0, format := 0, number := 0
                   ordinal := 0, ring := 0, region := 0xFFFF, offset := 0, data := [1] }]
        nextMsg := 6 } })

theorem usable_whole : usable.whole = true := whole_modPart 0 _ (whole_modArb 127 _ serving_whole)

/-- An unbound message with a usable port and without one, an eligible request, a holder, a parked request and a frame
whose turn has come. -/
theorem witness_EgressArbiter :
    usable.whole = true ∧ ((usable.part 0).fab.msgs.filter fun m => m.port.isNone)[0]?.isSome = true ∧
      ((usable.part 0).fab.msgs.filter fun m => m.port.isNone)[1]? = none ∧ usable.usableTo 0 9 = [127] ∧
      usable.usableTo 0 8 = [] ∧ usable.partOfPort 127 = some 0 ∧ (usable.port 127).arb.holder = none ∧
      (let s := usable.modArb 127 fun a => { a with requests := [⟨5, false, true⟩] }
       (((s.port 127).arb.requests.filter (·.eligible)).filterMap fun r => (s.part 0).outMsg r.msg) ≠ [] ∧
         ∀ m ∈ (s.part 0).fab.msgs, m.ident < 2 ^ 64) ∧
      (let s := usable.modArb 127 fun a => { a with holder := some 5 }
       (s.port 127).arb.holder = some 5 ∧ ((s.part 0).outMsg 5).isSome = true ∧ (s.port 127).link.buffer.length < 256 ∧
         (s.port 127).txLanes ≠ 0) ∧
      ((usable.port 127).arb.requests.filter (·.parked))[0]? = none ∧
      (((usable.modArb 127 fun a => { a with requests := [⟨5, true, false⟩] }).port 127).arb.requests.filter (·.parked))[0]?
        = some ⟨5, true, false⟩ ∧
      (let x : HeldFrame := ⟨0xFFFFF, 0, 0, [], false⟩
       let s := usable.modLink 127 fun k => { k with rxSeq := 0xFFFFF, held := [x] }
       (s.port 127).link.held = [x] ∧ x.seq = (s.port 127).link.rxSeq ∧ frameHeld 0 127 x s = false) := by
  refine ⟨usable_whole, ?_⟩
  decide +kernel

/-- A becalmed WAITIN, and a PUT whose message stands still, at their limits. -/
def stalled : State :=
  (withRecs usable [{ recOf 0x0601 14 0 [7, 2] with becalmed := some 0, idle := 250000 }]).modFab 0 fun f =>
    { f with
      msgs := f.msgs.map fun m => { m with idle := 500000 }
      table := [{ head := ⟨1, 9, 0, 0, 3, 7, 0, 4, 1, 2, 0, 0, 0, 0xFFFF, 0⟩, idle := 250000 }] }

theorem witness_FabricLosses :
    stalled.whole = true ∧ r0.wf = true ∧ stalled.partOfCd 0 = some 0 ∧
      (let x := { recOf 0x0601 14 0 [7, 2] with becalmed := some 0, idle := 250000 }
       stalled.rec? r0 = some x ∧ stalled.waitsInput 0 r0 x = true ∧ x.becalmed ≠ none ∧
         (stalled.part 0).cadence.stallLimit ≤ x.idle ∧ x.phase = .running) ∧
      (∃ m ∈ (stalled.part 0).fab.msgs, m.ref = r0 ∧ 2 * (stalled.part 0).cadence.stallLimit ≤ m.idle) ∧
      ((stalled.part 0).fab.table.filter fun m => (stalled.part 0).cadence.stallLimit ≤ m.idle)[0]?.isSome = true ∧
      ((stalled.part 0).fab.table.filter fun m => (stalled.part 0).cadence.stallLimit ≤ m.idle)[1]? = none ∧
      (stalled.part 0).stream.running = true ∧ stalled.usableTo 0 8 = [] ∧ stalled.usableTo 0 9 ≠ [] ∧
      8 ≠ (stalled.part 0).frame.moduleNumber ∧ 8 ∉ (stalled.part 0).fab.modulesOut ∧
      (stalled.ctrl.module.state = 5 ∧ State.reset.ctrl.module.state ≠ 5) ∧
      (Site.stack 31).wf = true ∧ stalled.live (.stack 31) = true ∧ State.reset.live (.stack 31) = false ∧
      stalled.missed (.stack 31) < 9 ∧
      9 ≤ (stalled.modMod fun m => { m with misses := [(.stack 31, 9)] }).missed (.stack 31) := by
  refine ⟨whole_modPart 0 _ (withRecs_whole usable_whole _), ?_⟩
  decide +kernel

/-! ## Power, time and the control die (16, 18, 19, 20) -/

/-- `ready` at its reset clock, with its stream idle. -/
def calm : State := ready.modStream 0 fun v => { v with state := 0 }

/-- A slice and a hub of a partition, held at the ceiling and not, free and busy. -/
theorem witness_ClocksAndLulls :
    (BlockRef.die 15 0x2F).wf = true ∧ ((ready.blk (.die 15 0x2F)).set.live.getD 2 0).testBit 4 = false ∧
      (((ready.modBlk (.die 15 0x2F) fun x => { x with set := PubSet.ofValues [400, 1600, 19] }).blk (.die 15 0x2F)).set.live.getD 2 0).testBit 4
        = true ∧
      (∃ k, k % 25 = 0 ∧ ready.floorOf (.die 15 0x2F) ≤ k ∧ k ≤ ready.ceilOf (.die 15 0x2F) ∧ k ≤ 1130 ∧ k ≤ 1600) ∧
      ¬ (∃ k, ready.floorOf (.die 15 0x2F) ≤ k ∧ k ≤ ready.ceilOf (.die 15 0x2F) ∧ k ≤ 399) ∧
      calm.blockPart (.die 15 0x2F) = some 0 ∧ (calm.blk (.die 15 0x2F)).mode = .running ∧
      calm.live (blockSite (.die 15 0x2F)) = true ∧ calm.segWaits (.die 15 0x2F) = false ∧
      calm.blockBusy 0 (.die 15 0x2F) = false ∧ (runningRec ready 0x0101 0 0 [0]).blockBusy 0 (.die 0 0) = true ∧
      ((calm.modBlk (.die 15 0) fun x => { x with mode := .entering, lull := 3 }).blk (.die 15 0)).mode = .entering := by
  refine ⟨by decide +kernel, by decide +kernel, by decide +kernel, ⟨1125, by decide +kernel⟩, fun ⟨k, h1, _, h3⟩ => ?_, ?_⟩
  · have : ready.floorOf (.die 15 0x2F) = 400 := by decide +kernel
    omega
  · decide +kernel

/-- A segment with a request and enough tokens, with too few, with none waiting; and a block waking from each lull. -/
theorem witness_WakesAndTokens :
    let asks := ready.modBlk (.die 15 0) fun x => { x with mode := .lull3, lull := 3, request := some ⟨1, 0⟩ }
    ready.whole = true ∧ ready.memWf = true ∧ asks.whole = true ∧ asks.memWf = true ∧
      (∀ b ∈ segBlocks 15 0, (ready.blk b).request = none) ∧ BlockRef.die 15 0 ∈ segBlocks 15 0 ∧
      (asks.blk (.die 15 0)).request = some ⟨1, 0⟩ ∧ (asks.seg 15 0).squall = none ∧
      (∀ b ∈ segBlocks 15 0, ∀ q ∈ (asks.blk b).request, q.time < 2 ^ 64) ∧ blockTokens 0 ≤ (asks.seg 15 0).tokens ∧
      ((asks.modSeg 15 0 fun g => { g with tokens := 0 }).seg 15 0).tokens < blockTokens 0 ∧
      (∀ b ∈ [BlockRef.die 15 9, .die 15 0x18, .die 15 0x2F, .die 15 0x10], ∀ k ∈ [2, 3],
        let w := (ready.modBlk b fun x => { x with mode := .waking, lull := k }).blk b
        w.mode = .waking ∧ w.lull = k) := by
  refine ⟨ready_whole, ready_memWf, by decide +kernel, by decide +kernel, ?_⟩
  decide +kernel

/-- A block at work in and out of a squall, thermally stopped, and idle; a segment stopped and not. -/
theorem witness_Squalls :
    let sq : SquallRec := { start := 0, block := 0, kind := 1, clockMin := 400, tempMax := 1600, currentMax := 0, step := 0, segment := 0 }
    ready.whole = true ∧ (ready.blk (.die 15 0)).atWork = true ∧ (ready.blk (.die 15 0)).squall = none ∧
      (ready.blk (.die 15 0)).halted = false ∧ ready.segStopped (.die 15 0) = false ∧
      ((ready.modBlk (.die 15 0) fun x => { x with mode := .lull2 }).blk (.die 15 0)).atWork = false ∧
      (let b := (ready.modBlk (.die 15 0) fun x => { x with mode := .stopped, halted := true, squall := some sq }).blk (.die 15 0)
       b.atWork = true ∧ b.halted = true) ∧
      (let b := (ready.modBlk (.die 15 0) fun x =>
        { x with mode := .throttled, clock := 400, choice := 1600, climb := 8, squall := some sq }).blk (.die 15 0)
       b.atWork = true ∧ b.squall ≠ none ∧ b.climb + 1 < 10 ∧ b.clock < b.choice) ∧
      (let b := (ready.modBlk (.die 15 0) fun x =>
        { x with mode := .throttled, clock := 1575, choice := 1600, climb := 9, squall := some sq }).blk (.die 15 0)
       10 ≤ b.climb + 1 ∧ b.choice ≤ b.clock + 25) ∧
      (let g := ready.seg 15 3
       g.stopped = false ∧ g.squall = none ∧ 461 * 100 > g.limit * 115 ∧ 460 * 100 ≤ g.limit * 115 ∧ 401 > g.limit) ∧
      ((ready.modSeg 15 3 fun g => { g with stopped := true }).seg 15 3).stopped = true := by
  refine ⟨ready_whole, ?_⟩
  decide +kernel

/-- A Fennel sample of one column. -/
def sample : FennelSample :=
  { ref := r0, engine := 8, tile := 0, row := 0, k := 1, before := [{}], after := [⟨0x3F800000, 0⟩]
    products := [some [⟨1, 0⟩]], chunksBefore := 0, chunksAfter := 1 }

/-- Powered and not, with records kept out at 62 and 63 in the bucket, a snapshot being written, and samples. -/
theorem witness_LogbookTimers :
    let kept := ready.modLog fun l => { l with bucket := 63, span := some (9, 1, 2) }
    let sampled := fun (m : FennelSample) => ready.modFennel 15 fun f => { f with sample := some m }
    ready.whole = true ∧ State.reset.powered = false ∧ ready.powered = true ∧ ready.ctrl.log.span = none ∧
      kept.ctrl.log.span = some (9, 1, 2) ∧ 63 ≤ kept.ctrl.log.bucket ∧ ready.ctrl.log.flashFault = false ∧
      ready.ctrl.log.writing = none ∧
      (ready.modLog fun l => { l with writing := some ⟨1, 1, 0, {}, []⟩ }).ctrl.log.writing = some ⟨1, 1, 0, {}, []⟩ ∧
      (ready.cd 15).eng.fennel.sample = none ∧ ((sampled sample).cd 15).eng.fennel.sample = some sample ∧
      (sampled sample).rec? sample.ref = none ∧ sample.isExempt = false ∧
      ({ sample with products := [none] } : FennelSample).isExempt = true ∧
      (runningRec ready 0x0100 8 1 []).rec? sample.ref = some (recOf 0x0100 8 1 []) := by
  refine ⟨ready_whole, ?_⟩
  decide +kernel

/-- With the standby rail and without it; every block at 0 °C; an alert bit set and none. -/
theorem witness_Sideband :
    ready.powered = true ∧ State.reset.powered = false ∧ (∀ x ∈ ready.allBlocks, (ready.blk x).temp ≤ 0) ∧
      (∃ x ∈ ready.allBlocks, (ready.blk x).temp = 0) ∧ ready.ctrl.module.alert = 0 ∧
      (ready.modMod fun m => { m with alert := 0x8000 }).ctrl.module.alert ≠ 0 := by
  refine ⟨rfl, rfl, by decide +kernel, ⟨.die 0 0, by decide +kernel⟩, rfl, by decide⟩

/-- Ready, before ready, in recovery, in each reset with RESET_L high and low, with a flash write under way, and off. -/
theorem witness_ModuleResets :
    let at' := fun (f : Module → Module) => (ready.modMod f).ctrl.module
    ready.whole = true ∧ ready.grants 0 winCtrl 0x00004 true ∧
      (ready.ctrl.module.state = 5 ∧ 3 ≤ ready.ctrl.module.stage ∧ ready.ctrl.module.resetL = true) ∧
      ready.ctrl.fw.writing = none ∧ (ready.modFw fun f => { f with writing := some [] }).ctrl.fw.writing ≠ none ∧
      ready.ctrl.module.resetPending = none ∧
      (ready.modMod fun m => { m with state := 4 }).grants 0 winCtrl 0x00004 true ∧
      (at' fun m => { m with state := 4 }).level ≠ 1 ∧ (at' fun m => { m with state := 6, resetL := false }).resetL = false ∧
      (at' fun m => { m with state := 7, level := 2, byPin := true }).byPin = true ∧
      (at' fun m => { m with state := 7, level := 2 }).counted = false ∧
      State.reset.ctrl.module.stage = 0 ∧ (TripSite.laserArray 7).wf = true ∧ tripAt (.laserArray 7) ≤ 1040 :=
  ⟨ready_whole, grants_of (by decide +kernel), by decide +kernel, rfl, nofun, rfl, grants_of (by decide +kernel),
    by decide, rfl, rfl, rfl, rfl, by decide, by decide⟩

/-- Each stage of the start-up, a hub that trains, an engine in each phase of its search, and a probe that has ended. -/
theorem witness_BringUp :
    State.reset.whole = true ∧ State.reset.ctrl.module.stage = 0 ∧
      (∀ k ∈ [1, 2, 3], (ready.modMod fun m => { m with stage := k }).ctrl.module.stage = k) ∧
      (∀ k ∈ [2, 4], (ready.modMod fun m => { m with state := k }).ctrl.module.state = k) ∧
      (let m := (ready.modMod fun m => { m with state := 4, groups := 23 }).ctrl.module
       m.state = 4 ∧ m.groups < 24 ∧ 16 ≤ m.groups ∧ siteGroup (.le 6) < m.groups) ∧
      inPopulation ready.ctrl.ident.part (.cd 15) = true ∧ inPopulation ready.ctrl.ident.part (.le 7) = true ∧
      ((ready.modMem 31 fun m => { m with state := 1 }).hub 31).mem.state = 1 ∧ (ready.hub 31).mem.state ≠ 1 ∧
      (∀ k ∈ [0, 1, 4, 5, 6], ((ready.modLe 7 fun e => { e with phase := k }).le 7).phase = k) ∧
      (Instr.ringSearchPhaseEnd 7 (some 127) ⟨[], [], 0⟩).wf = true ∧
      ((ready.modLink 127 fun k => { k with searching := true }).port 127).link.searching = true ∧
      (ready.modMod fun m => { m with state := 4, groups := 24 }).probeEnded = true ∧
      (ready.modMod fun m => { m with state := 4, groups := 23 }).probeEnded = false := by
  refine ⟨by decide +kernel, ?_⟩
  decide +kernel

/-- A block that waits at a port. -/
def asked (b kind : Nat) (payload : List Byte) : State :=
  ready.modBp b fun q => { q with inbound := [{ kind := kind, more := false, seq := 5, tag := 9, payload := payload }] }

theorem asked_whole (b kind : Nat) (payload : List Byte) : (asked b kind payload).whole = true := whole_modBp b _ ready_whole

/-- Requests of each kind at a port, none, an image that fails a check, a write under way, keys derived and failed. -/
theorem witness_FirmwareAndIdentity :
    let derived := ready.modFw fun f => { f with derived := true, queue := [⟨3, 9, 5, []⟩] }
    (∀ b kind payload, (asked b kind payload).whole = true) ∧
      (ready.bp 3).inbound.find? (fun x => x.kind == 0x0E) = none ∧
      (asked 3 0x0E []).asks 3 (fun y => y.kind == 0x0E) ⟨0x0E, false, 5, 9, []⟩ ∧
      (asked 0 0x0E []).asks 0 (fun y => y.kind == 0x0E) ⟨0x0E, false, 5, 9, []⟩ ∧
      (asked 0 0x0E []).ctrl.module.state = 5 ∧ (asked 0 0x0E []).partOfBaith 0 ≠ none ∧
      fwCheck (asked 0 0x0E []).ctrl.sec [] true ≠ 0 ∧ ready.ctrl.fw.writing = none ∧
      (ready.modFw fun f => { f with writing := some [1] }).ctrl.fw.writing = some [1] ∧
      ready.ctrl.module.resetPending = none ∧
      (ready.modMod fun m => { m with resetPending := some (1, 3) }).ctrl.module.resetPending = some (1, 3) ∧
      ready.powered = true ∧ ready.ctrl.fw.derived = false ∧ derived.ctrl.fw.derived = true ∧
      (asked 3 0x0C (List.replicate 36 0)).asks 3 (asksCerts false) ⟨0x0C, false, 5, 9, List.replicate 36 0⟩ ∧
      (asked 3 0x0C (1 :: List.replicate 35 0)).asks 3 (asksCerts true) ⟨0x0C, false, 5, 9, 1 :: List.replicate 35 0⟩ ∧
      derived.ctrl.fw.queue = ⟨3, 9, 5, []⟩ :: [] ∧ derived.ctrl.fw.idFailed = false ∧
      derived.ctrl.module.inReset = false := by
  refine ⟨asked_whole, by decide +kernel, ⟨by decide, by decide +kernel, by decide +kernel⟩,
    ⟨by decide, by decide +kernel, by decide +kernel⟩, by decide +kernel, by decide +kernel, by decide +kernel, rfl, rfl, rfl,
    rfl, rfl, rfl, rfl, ⟨by decide, by decide +kernel, by decide +kernel⟩, ⟨by decide, by decide +kernel, by decide +kernel⟩,
    rfl, rfl, by decide +kernel⟩

/-! ## Engines and movers (05 to 07) -/

/-- Hub h of a fresh state is orderly. -/
theorem ready_orderly {h : Nat} (hm : ready.hub h = {}) : (ready.hub h).orderly := by
  rw [hm]
  exact Hub.orderly_fresh {} rfl rfl rfl rfl rfl

/-- The regions of `stored [region64K]` are served. -/
theorem stored_served {s : State} {i : JobImage} (ha : (s.part 0).active = some i) (hi : i.regions = [region64K])
    (hf : (s.part 0).frame = (ready.part 0).frame) (hc : s.isCut (.stack 0) = false) (hh : s.hub 0 = {}) : s.served 0 0 := by
  refine State.served_single (rg := region64K) ha ?_ rfl (by decide) hc ?_ ?_
  · simp only [Part.region?, Part.regions, ha, hi]
    rfl
  · have : s.hub region64K.stack = {} := hh
    rw [this]
    exact Hub.orderly_fresh {} rfl rfl rfl rfl rfl
  · have : s.hub region64K.stack = {} := hh
    rw [this, hf, hi]
    decide +kernel

/-- Die 0 lies in partition 0. -/
theorem partOfCd_zero {s : State} (hp : (s.part 0).present = true) (hf : (s.part 0).frame = (ready.part 0).frame) :
    s.partOfCd 0 = some 0 := by
  unfold State.partOfCd State.partWith partNums
  rw [List.find?_cons_of_pos]
  simp only [hp, hf]
  decide +kernel

/-- Every MXE operation runs on MXE9; MMA of E4M3 rows with a count and with a count of 0; AST of one row. -/
theorem witness_MatrixTiles :
    let s := fun (code count : Nat) (ws : List Word) => runningRec ready code 9 count ws
    (∀ code count ws, (s code count ws).whole = true ∧ (s code count ws).memWf = true ∧ (s code count ws).tablesWf = true ∧
      ((s code count ws).pad 0).sound = true ∧ (s code count ws).runs r0 code (recOf code 9 count ws)) ∧
      (recOf 0x0100 9 33 [0, 0, 0, 0, 0x1FF7F, 0, 0x0404, 0, 0, 0, 0]).record.unit < 10 ∧
      (let f := MmaOp.of (recOf 0x0100 9 33 [0, 0, 0, 0, 0x1FF7F, 0, 0x0404, 0, 0, 0, 0]).w
       f.m = 128 ∧ f.n = 256 ∧ f.strict = false ∧ f.transA = false ∧ f.transB = false ∧
         fmtOf f.aFmt = some (.e4m3, false) ∧ fmtOf f.bFmt = some (.e4m3, false) ∧ Elem.bits .e4m3 = 8) ∧
      (AstOp.of (recOf 0x0102 9 0 [0, 0, 0, 0xFF00, 0, 1]).w).m = 1 :=
  ⟨fun _ _ _ => ⟨withRecs_whole ready_whole _, withRecs_memWf ready_memWf _, withRecs_tablesWf ready_tablesWf _, rfl,
    runningRec_runs ready_whole _ _ _ _⟩, by decide, by decide +kernel, by decide +kernel⟩

/-- Every VXE operation runs with a count of 0 and of 2, on plain INT32 arrays. -/
theorem witness_VectorOps :
    let ws : List Word := [0x80, 0, 0x40, 0x60, 0x08080808, 0, 0, 1]
    (∀ code count, (runningRec ready code 10 count ws).whole = true ∧ (runningRec ready code 10 count ws).memWf = true ∧
      ((runningRec ready code 10 count ws).pad 0).sound = true ∧
      (runningRec ready code 10 count ws).runs r0 code (recOf code 10 count ws)) ∧
      (let f := VxeOp.of (recOf 0x0202 10 2 ws).w
       ∀ o ∈ [f.a, f.b, f.c], o.kind = 0 ∧ o.fmt = 8 ∧ o.neg = false) ∧
      (VxeOp.of (recOf 0x0202 10 2 ws).w).dFmt = 8 ∧ 0 < (VxeOp.of (recOf 0x0207 10 2 ws).w).group ∧
      (VxeOp.of (recOf 0x0207 10 2 ws).w).sub = 0 :=
  ⟨fun _ _ => ⟨withRecs_whole ready_whole _, withRecs_memWf ready_memWf _, rfl, runningRec_runs ready_whole _ _ _ _⟩,
    by decide, by decide, by decide, by decide⟩

/-- A move of two rows into and out of a served region, one that meets an open granule, a gather with an index in range and
one past the region; and a narrow queue with a die waiting. -/
theorem witness_Moves :
    let ws : List Word := [0, 0, 0, 0, 64, 65472, 64]
    let s := fun (code : Nat) => runningRec (stored [region64K]) code 12 128 ws
    let g := runningRec (stored [region64K]) 0x0402 12 2 [0x100, 0, 0, 64, 64]
    (∀ code, (s code).whole = true ∧ (s code).memWf = true ∧ ((s code).pad 0).sound = true ∧
      (s code).runs r0 code (recOf code 12 128 ws) ∧ (s code).served 0 0) ∧
      ((s 0x0400).partOfCd 0 = some 0 ∧ ((s 0x0400).part 0).region? 0 = some region64K ∧
        (∀ j < 2, spanOpen 0 0 (j * 65472) 64 (s 0x0400) = false ∧ j * 65472 + 64 ≤ region64K.length)) ∧
      (let o := (s 0x0400).modRed 0 fun q => { q with granules := [{
          part := 0, region := 0, index := 15, step := 4, format := 8, mode := 4, contributions := 2, space := 0, lastTick := 0 }] }
       spanOpen 0 0 65472 64 o = true) ∧
      (g.runs r0 0x0402 (recOf 0x0402 12 2 [0x100, 0, 0, 64, 64]) ∧ g.served 0 0 ∧
        decide (2 ^ 31 ≤ 1024 ∨ region64K.length < 1024 * 64 + 64) = true ∧
        decide (2 ^ 31 ≤ 1023 ∨ region64K.length < 1023 * 64 + 64) = false) ∧
      (TxpOp.of (recOf 0x0300 11 6 [0x10, 0, 3, 2, 0x10002]).w).cols = 3 ∧
      ((ready.modMem 31 fun m => { m with queue := [3], waiting := [2, 15] }).hub 31).mem.queue = 3 :: [] := by
  refine ⟨fun _ => ⟨withRecs_whole (stored_whole _) _, withRecs_memWf (stored_memWf _) _, rfl,
    runningRec_runs (stored_whole _) _ _ _ _, stored_served (i := imageOf [region64K]) rfl rfl rfl (Nat.zero_testBit 0) rfl⟩,
    by decide +kernel, by decide +kernel, ⟨runningRec_runs (stored_whole _) _ _ _ _,
      stored_served (i := imageOf [region64K]) rfl rfl rfl rfl rfl, by decide, by decide⟩, by decide, by decide +kernel⟩

/-- Every conversion engine operation runs with a count of 0 and of 32, the last tensor of the table included. -/
theorem witness_Conversions :
    (∀ code count ws, (runningRec ready code 13 count ws).whole = true ∧ (runningRec ready code 13 count ws).memWf = true ∧
      (runningRec ready code 13 count ws).tablesWf = true ∧ ((runningRec ready code 13 count ws).pad 0).sound = true ∧
      (runningRec ready code 13 count ws).runs r0 code (recOf code 13 count ws)) ∧
      field (0xFFF : Word) 11 0 = 4095 ∧
      (let f := CvtOp.of (recOf 0x0500 13 32 [0, 0, 0x0C00, 0x10000FFF, 0, 0, 0, 0, 0x8000, 0, 0]).w
       f.amax = true ∧ f.tensor = 4095 ∧ f.dAddr + 16 ≤ f.mxScales) ∧
      (let f := CvtOp.of (recOf 0x0500 13 32768 [0, 0, 0x0400, 0x80000000, 0, 0, 0, 0, 0xFFFFFFFF, 0, 0x9AFF0000]).w
       f.acc = true ∧ f.clear = true ∧ f.engine = 9) ∧
      ((0 : Nat) + 4 * 32 ≤ 0x80) ∧ (ready.cd 0).eng.cve.entry 4095 = {} ∧ ({} : CveEntry).history.length = 24 :=
  ⟨fun _ _ _ => ⟨withRecs_whole ready_whole _, withRecs_memWf ready_memWf _, withRecs_tablesWf ready_tablesWf _, rfl,
    runningRec_runs ready_whole _ _ _ _⟩, by decide, by decide +kernel, by decide +kernel, by decide, by decide +kernel,
    by decide⟩

/-- A ring of two dies of this module over a served region. -/
def ringed : State :=
  ready.modPart 0 fun q => { q with active := some { imageOf [region64K] with rings := [⟨7, 0, [(3, 0), (3, 15)]⟩] } }

/-- PUT from scratchpad and from a region, here and to module 9; WAITIN at and below its count; ACCUM into a reducing
region; RINGAG of two members; a PUT that ends at the end of scratchpad and one past it; an empty shard; a share. -/
theorem witness_Collectives :
    let put : List Word := [0, 0xFFFF0000, 0x80, 0xFFFF0000, 0xFFFFF03F]
    let far : List Word := [0, 0, 0x80, 0xFFFF0000, 0x0009F03F]
    let s := fun (code count : Nat) (ws : List Word) => runningRec ringed code 14 count ws
    (∀ code count ws, (s code count ws).whole = true ∧ (s code count ws).memWf = true ∧ ((s code count ws).pad 0).sound = true ∧
      (s code count ws).runs r0 code (recOf code 14 count ws) ∧ (s code count ws).served 0 0) ∧
      ((s 0x0600 3 put).partOfCd 0 = some 0 ∧ (PutOp.of (recOf 0x0600 14 3 put).w).src.region = none ∧
        (PutOp.of (recOf 0x0600 14 3 put).w).module = 0xFFFF ∧ (PutOp.of (recOf 0x0600 14 3 far).w).src.region = some 0 ∧
        (PutOp.of (recOf 0x0600 14 3 far).w).module = 9 ∧ ((s 0x0600 3 far).part 0).region? 0 = some region64K) ∧
      (reducing.reduces 8 = true ∧ ((stored [reducing]).part 0).region? 0 = some reducing ∧
        ∃ loc, ((stored [reducing]).part 0).place? 0 65532 = some (0, loc)) ∧
      (let ms := ((s 0x0603 64 [7, 0, 0, 0]).part 0).members 7
       ms.length = 2 ∧ ms[0]? = some (3, 0) ∧ ms[1]? = some (3, 15) ∧
         ((s 0x0603 64 [7, 0, 0, 0]).part 0).frame.moduleNumber = 3 ∧
         (∀ q ∈ ms, (s 0x0603 64 [7, 0, 0, 0]).memberOut 0 q = false) ∧
         ((s 0x0603 64 [7, 0, 0, 0]).part 0).fab.early = [] ∧ ((s 0x0603 64 [7, 0, 0, 0]).part 0).fab.rings = [] ∧
         spanOpen 0 0 0 64 (s 0x0603 64 [7, 0, 0, 0]) = false ∧ 0 + (0 + 1) * 64 ≤ region64K.length) ∧
      (spanOpen 0 0 0 3 (s 0x0600 3 far) = false ∧
        spanOpen 0 0 0 3 ((s 0x0600 3 far).modRed 0 fun q => { q with granules := [{
          part := 0, region := 0, index := 0, step := 4, format := 8, mode := 4, contributions := 2, space := 0, lastTick := 0 }] }) = true) ∧
      ((MeshMsg.put r0 15 63 0xFFFF (2 ^ 27 - 1) [7] []).inside (ready.part 0).frame = true ∧
        (MeshMsg.put r0 16 63 0xFFFF 0 [7] []).inside (ready.part 0).frame = false ∧
        (MeshMsg.share 31 4 {}).inside (ready.part 0).frame = true ∧
        (MeshMsg.put r0 15 63 0xFFFF (2 ^ 27 - 1) [7] []).waits 0 ready = false ∧
        ready.shardCame 0 15 4 7 0 0 = false ∧ spanOpen 0 0 0 0 ready = false) ∧
      ready.isCut (.cd 15) = false ∧ (ready.modMod fun m => { m with cutCd := 0x8000 }).isCut (.cd 15) = true ∧
      2 ^ 27 - 1 + [(7 : Byte)].length ≤ 2 ^ 27 ∧ 2 ^ 27 < 2 ^ 27 + [(7 : Byte)].length ∧ ready.partOfCd 15 = some 0 ∧
      (∀ g ∈ (ready.part 0).fab.rings, g.ref.die ≠ 15) := by
  refine ⟨fun _ _ _ => ⟨withRecs_whole (whole_modPart 0 _ ready_whole) _, withRecs_memWf ready_memWf _, rfl,
    runningRec_runs (whole_modPart 0 _ ready_whole) _ _ _ _, ?_⟩, by decide +kernel, ⟨by decide +kernel, by decide +kernel,
      ⟨65532, by decide +kernel⟩⟩, by decide +kernel, by decide +kernel, by decide +kernel, by decide +kernel, by decide +kernel,
      by decide, by decide,
      by decide +kernel, by decide +kernel⟩
  exact stored_served (i := { imageOf [region64K] with rings := [⟨7, 0, [(3, 0), (3, 15)]⟩] }) rfl rfl rfl (Nat.zero_testBit 0) rfl

/-! ## Step words and updates (09, 10) -/

/-- A die's word. -/
def word : StepWordVal :=
  { stepMin := 4, stepMax := 4, lexpMin := 0, lexpMax := 0, mismatch := false, normOvf := false, inputLost := false
    cfgMin := 0x3F800000, cfgMax := 0x3F800000, nonfinite := 0, normSq := 2 ^ 200, amax := [] }

/-- The record of a STEPWORD of two entries with its array, its verdict block and its ring 0xFF. -/
def stepwordRec : RecState := recOf 0x0604 14 3 [0, 0x100, 0x200, 0x300, 0xFFFFFFFF, 0xFF, 0, 0x3F800000]

/-- A step whose every contribution has come, on a ring or not, with its word formed or not. -/
def gathered (ring : Nat) (done : Option StepWordVal) : State :=
  (withRecs (ringed.modPart 0 fun q =>
    { q with gathers := [{
        step := 4, ring := ring, lead := some 0, mask := 1, dies := [(0, 0, word)], members := if ring = 0xFF then [] else [(3, 0), (3, 15)]
        shares := (List.range 32).map fun u => (u, {}), moduleWord := done, combined := done }] }) [stepwordRec])

theorem gathered_whole (ring : Nat) (done : Option StepWordVal) : (gathered ring done).whole = true :=
  withRecs_whole (whole_modPart 0 _ (whole_modPart 0 _ ready_whole)) _

/-- A STEPWORD that has not begun; a gathering that is due, alone and on a ring of two; none due; a word to deliver; and
words that meet each row of Table 09.5. -/
theorem witness_StepWords :
    (∀ ring done, (gathered ring done).whole = true ∧ (gathered ring done).memWf = true ∧
      (gathered ring done).runs r0 0x0604 stepwordRec ∧ ((gathered ring done).pad 0).sound = true) ∧
      stepwordRec.begun = false ∧ (gathered 7 none).partOfCd 0 = some 0 ∧
      (gatherDue 0 (gathered 0xFF none)).map (·.step) = some 4 ∧ gatherDue 0 ready = none ∧
      (word.normSq ≤ normCap ∧ word.nonfinite < 2 ^ 64 ∧ word.normOvf = false) ∧
      (let s := gathered 7 none
       let ms := ((s.part 0).gather 4).members
       ringPos ms ((s.part 0).moduleNo, 0) = some 0 ∧ s.ringStart 0 ms = some 0 ∧ s.successor 0 ms 0 = (some 1, []) ∧
         s.brokenAt 0 (ms.getD 1 (0, 0)) [] = false ∧
         (s.modMod fun m => { m with cutCd := 0x8000 }).successor 0 ms 0 = (none, [1])) ∧
      (∀ g ∈ (ready.part 0).gathers, g.combined = none) ∧
      (((gathered 0xFF (some word)).part 0).gathers.find? fun q => q.combined.isSome).map (·.combined) = some (some word) ∧
      ((stepwordRec.w 2).toNat + 8 ≤ (stepwordRec.w 3).toNat) ∧
      (({ word with inputLost := true } : StepWordVal).inputLost = true ∧ ({ word with lexpMax := 1 } : StepWordVal).lexpMin ≠ 1 ∧
        word.cfgMin % 2 ^ 32 % 2 ^ 31 ≠ 0) := by
  refine ⟨fun ring done => ⟨gathered_whole ring done, withRecs_memWf ready_memWf _,
    withRecs_runs (whole_modPart 0 _ (whole_modPart 0 _ ready_whole)) _ 0 _ rfl rfl rfl rfl, rfl⟩, ?_⟩
  have : word.normSq ≤ normCap := by
    unfold normCap
    exact Nat.le_sub_one_of_lt (Nat.pow_lt_pow_right (show 1 < 2 by decide) (show 200 < 640 by decide))
  refine ⟨rfl, by decide +kernel, by decide +kernel, by decide +kernel, ⟨this, by decide, rfl⟩, ?_⟩
  decide +kernel

/-- Five regions of 64 KiB in stack 0: master, moments, gradient and working copy. -/
def five : List Region :=
  (List.range 5).map fun k => { region64K with base := 65536 * k, cls := if k < 3 then k + 1 else 4 }

/-- The verdict APPLY of step 4. -/
def applies : Verdict :=
  { step := 4, skip := false, reason := 0, lexpUsed := 0, clip := 0x3F800000, norm := 0, nonfinite := 0, maxNorm := 0
    normSq64 := 0, clipped := false }

/-- One update entry of 100 elements over them, and the verdict APPLY held by update die 0. -/
def updating (code count : Nat) (ws : List Word) : State :=
  withRecs ((ready.modPart 0 fun q =>
    { q with active := some { imageOf five with upd := {
        rule := 0, beta1 := 0, beta2 := 0, epsilon := 0, decay := 0, bf16Copies := false
        entries := [{ elements := 100, offset := 0, master := 0, moment1 := 1, moment2 := 2, gradient := 3, fp8 := 4
                      bf16 := 0, tensor := 0, frozen := false }] } } }).modUd 0 fun u =>
    { u with verdicts := [(4, applies)] })
    [{ recOf code 0x13 count ws with begun := code == 0x0A02 }]

theorem updating_whole (code count : Nat) (ws : List Word) : (updating code count ws).whole = true :=
  withRecs_whole (whole_modUd 0 _ (whole_modPart 0 _ ready_whole)) _

/-- Each of its regions is served, and no two share a line. -/
theorem updating_served (code count : Nat) (ws : List Word) :
    (∀ k ∈ [0, 1, 2, 3, 4], (updating code count ws).served 0 k) ∧ (updating code count ws).apart 0 [0, 3, 4, 1, 2] := by
  have hr : ∀ k ∈ [0, 1, 2, 3, 4], ((updating code count ws).part 0).region? k =
      some { region64K with base := 65536 * k, cls := if k < 3 then k + 1 else 4 } := by
    intro k hk
    simp only [List.mem_cons, List.mem_nil_iff, or_false] at hk
    rcases hk with rfl | rfl | rfl | rfl | rfl <;> rfl
  have hb : ∀ k ∈ [0, 1, 2, 3, 4], shareBase five 32 k = 65536 * k := by decide +kernel
  refine ⟨fun k hk => State.served_single rfl (hr k hk) rfl (show (0 : Nat) < 32 by decide) (Nat.zero_testBit 0)
    (Hub.orderly_fresh {} rfl rfl rfl rfl rfl) ?_, ?_⟩
  · show shareBase five 32 k + 65536 ≤ usableBytes 0xFFFF
    have hu : usableBytes 0xFFFF = 77040975872 := by decide
    rw [hb k hk, hu]
    simp only [List.mem_cons, List.mem_nil_iff, or_false] at hk
    omega
  · have hm : ∀ k ∈ [0, 3, 4, 1, 2], k ∈ [0, 1, 2, 3, 4] := by decide
    refine State.apart_single (i := { imageOf five with upd := _ })
      (fun k => { region64K with base := 65536 * k, cls := if k < 3 then k + 1 else 4 }) rfl (by decide)
      (fun a ha => ⟨hr a (hm a ha), rfl⟩) (fun a ha => ?_) (fun a ha b hb' hab => ?_)
    · show shareBase five 32 a % 64 = 0 ∧ 65536 % 64 = 0
      rw [hb a (hm a ha)]
      omega
    · show shareBase five 32 a + 65536 ≤ shareBase five 32 b ∨ shareBase five 32 b + 65536 ≤ shareBase five 32 a
      rw [hb a (hm a ha), hb b (hm b hb')]
      omega

/-- Every update operation runs on U0 with a run of 100 owned elements whose gradient is ready; a skip and an apply verdict,
one of another step, and none. -/
theorem witness_Updates :
    let ws : List Word := [0, 0, 0, 0]
    (∀ code count ws, (updating code count ws).whole = true ∧ (updating code count ws).memWf = true ∧
      (updating code count ws).tablesWf = true ∧ (updating code count ws).partOfCd 0 = some 0 ∧
      (updating code count ws).runs r0 code { recOf code 0x13 count ws with begun := code == 0x0A02 }) ∧
      ((recRuns ((updating 0x0A00 1 ws).part 0) 0 (recOf 0x0A00 0x13 1 ws)).map fun k => (k.2.2.first, k.2.2.count)) = [(0, 100)] ∧
      granulesReady r0 (recOf 0x0A00 0x13 1 ws) 0 (updating 0x0A00 1 ws) = true ∧ gradWidth 0 = 4 ∧
      (((updating 0x0A02 1 ws).ud 0).verdicts.find? fun k => k.1 == 4).isSome = true ∧ (ready.ud 0).verdicts = [] ∧
      (∀ k ∈ [0, 1, 2, 3, 4], gradStride ((updating 0x0A02 1 ws).part 0) 3 0 = 4 ∧
        ownSpan ((updating 0x0A02 1 ws).part 0) k 0 (100 * (if k = 4 then 1 else 4)) 0 = true) ∧
      ((updating 0x0A02 1 ws).part 0).active.isSome = true ∧ (∀ k ∈ [0, 1, 2, 3, 4], (updating 0x0A02 1 ws).served 0 k) ∧
      (updating 0x0A02 1 ws).apart 0 [0, 3, 4, 1, 2] ∧ (recOf 0x0A00 0x13 0 ws).record.count = 0 := by
  refine ⟨fun code count ws => ⟨updating_whole code count ws, withRecs_memWf ready_memWf _, withRecs_tablesWf (by decide +kernel) _,
    partOfCd_zero rfl rfl, withRecs_runs (whole_modUd 0 _ (whole_modPart 0 _ ready_whole)) _ 0 _ rfl rfl rfl rfl⟩,
    by decide +kernel, by decide +kernel, by decide, by decide +kernel, by decide +kernel, by decide +kernel,
    by decide +kernel, (updating_served _ _ _).1,
    (updating_served _ _ _).2, rfl⟩

/-! ## A hub's own work (11, 12) -/

/-- Whether the line l of hub h fails its check when it is read twice. -/
def lineFails (s : State) (h l : Nat) : Bool :=
  let b := s.hub h
  let a := b.place (64 * l)
  b.unreachable a || b.mem.stack.hard.contains (physLine a) ||
    b.mem.stack.stored (physLine a) (stackSeal a) != lineCheck (b.mem.stack.data (physLine a)) (stackSeal a)

/-- A Breeze part with line 1 of stack 0 next on the walk at a rate of 1. -/
def breezing (f : LineCheck → LineCheck) : State :=
  ((stored [region64K]).modCtrl fun c => { c with ident := { c.ident with part := 1 } }).modChk 0 fun c =>
    f { c with brz := PubSet.ofValues [0, 64, 1, 1], brzPos := 64 }

theorem breezing_whole (f : LineCheck → LineCheck) : (breezing f).whole = true :=
  whole_modHub 0 _ (stored_whole [region64K])

/-- An UPDATE of update die 0 that runs. -/
def updateRec : RecState := { recOf 0x0A02 0x13 0 [] with begun := true }

/-- Breeze with its rate used up and with one read left; a good line, a hard one, one dirty in the cache; an UPDATE that
runs and none; a failing line in a region and one in no region; a held line; a scrub pass of no and of some lines; a
SCRUB of one failing line and of none; ways 16 to 31 being cleared. -/
theorem witness_HubUpkeep :
    let on := fun (s : State) => hasBreeze s.ctrl.ident.part && s.live (.stack 0) &&
      ((s.hub 0).chk.brz.live.getD 3 0).testBit 0 &&
      decide ((if (s.hub 0).chk.brzUs = s.now / 1000 then (s.hub 0).chk.brzInUs else 0) < (s.hub 0).chk.brz.live.getD 2 0 % 2 ^ 13)
    let s := breezing id
    let hard := applyUpset ⟨.stack 0, 1, .hard⟩ s
    let scrub := runningRec (stored [region64K]) 0x0900 0x11 1 [0, 0, 0]
    let untrained := s.modMem 0 fun m => { m with trainFail := 0xFFFF }
    (s.whole = true ∧ s.memWf = true ∧ s.tablesWf = true ∧ (s.hub 0).orderly ∧ lineFails s 0 1 = false ∧
      (s.hub 0).mem.stack.glitch = [] ∧ on s = true ∧ on (breezing fun c => { c with brzInUs := 1 }) = false) ∧
      (lineFails hard 0 1 = true ∧ on hard = true ∧ updateRuns 0 hard = false ∧
        updateRuns 0 (withRecs hard [updateRec]) = true ∧ hard.partOfHub 0 = some 0 ∧
        (hard.part 0).regionAt 0 64 = some (0, 64) ∧
        (hard.hub 0).unreachable ((hard.hub 0).place 64) = false ∧ lineFails untrained 0 1 = true ∧ on untrained = true ∧
        (untrained.hub 0).unreachable ((untrained.hub 0).place 64) = true ∧ updateRuns 0 untrained = false ∧
        ((hard.partOfHub 0).bind fun p => ((hard.modPart 0 fun q => { q with active := none }).part p).regionAt 0 64) = none) ∧
      ((((s.modMem 0 fun m => { m with cache := [
          { way := 16, line := 1, data := [], check := 0, dirty := true, glitch := false }] }).hub 0).cached 1).elim false (·.dirty) = true) ∧
      (∀ l, ((breezing fun c => { c with brzHeld := l }).hub 0).chk.brzHeld = l) ∧
      (∀ n, let c := ((breezing fun c => { c with scrRunning := true, scrSpan := (64, n) }).hub 0).chk
        c.scrRunning = true ∧ c.scrSpan = (64, n)) ∧
      (((s.modMem 31 fun m => { m with clearing := true }).hub 31).mem.clearing = true ∧ (s.hub 31).mem.clearing = false) ∧
      (scrub.runs r0 0x0900 (recOf 0x0900 0x11 1 [0, 0, 0]) ∧ scrub.partOfCd 0 = some 0 ∧
        (scrub.part 0).place? 0 0 = some (0, 0) ∧ lineFails (applyUpset ⟨.stack 0, 0, .byte 3 1⟩ scrub) 0 0 = true) := by
  refine ⟨⟨breezing_whole _, by decide +kernel, by decide +kernel, Hub.orderly_fresh _ rfl rfl rfl rfl rfl, ?_⟩, ?_, ?_,
    fun _ => rfl, fun _ => ⟨rfl, rfl⟩, ?_, runningRec_runs (stored_whole _) _ _ _ _, ?_⟩
  all_goals decide +kernel

/-! ## Boundaries (01, 03) -/

/-- A segment with no records that opens or goes on a stream at a step. -/
def segmentOf (opening : Bool) (step : Nat) : SegmentImg :=
  { step := step, opening := opening, closing := false, startTick := 1, ticks := 100, dies := []
    dieMask := 0, lead := none }

/-- A stream in state st with one segment queued. -/
def waitingFor (st : Nat) (g : SegmentImg) : State :=
  ready.modStream 0 fun x => { x with state := st, stepStart := 0, stepTicks := 1, queued := [g] }

/-- An absent partition; a quiet boundary; a job and a frame image due and not due; an opening and a further step that
begin; a granted PART_RESET of partition 0; resets that can end and that cannot. -/
theorem witness_Boundaries :
    let job := fun (n : Nat) => ready.modPart 0 fun q =>
      { q with active := some (imageOf []), pendingImg := some (imageOf []), loader := { q.loader with pendingTick := n } }
    let frame := fun (n : Nat) => ready.modCtrl fun c => { c with
      pendingFrame := some { digest := [1], commitTick := 0, entries := [{ cdCount := 1 }] }
      frameLoader := { c.frameLoader with pendingTick := n } }
    (ready.whole = true ∧ ready.memWf = true ∧ (ready.part 3).present = false ∧ (ready.part 0).present = true ∧
      ready.ctrl.module.stage ≠ 0 ∧ ready.frameDue (ready.boundaryTime 0 1 / 4000) = false ∧ ready.boundaryTime 0 1 < 2 ^ 64 ∧
      ready.jobDue 0 1 = false) ∧
      ((job 1).jobDue 0 1 = true ∧ ((job 1).part 0).pendingImg = some (imageOf []) ∧ (job 2).jobDue 0 1 = false) ∧
      ((frame 0).frameDue 0 = true ∧ (frame 0).ctrl.pendingFrame.isSome = true ∧ ready.frameDue 0 = false) ∧
      ((waitingFor 1 (segmentOf true 0)).stepBegins 0 1 = true ∧ (waitingFor 2 (segmentOf false 5)).stepBegins 0 1 = true ∧
        ((waitingFor 2 (segmentOf false 5)).part 0).stream.queued.head? = some (segmentOf false 5) ∧
        ((waitingFor 1 (segmentOf true 0)).part 0).stream.abortReq = false ∧ ready.isCut (.cd 15) = false) ∧
      (ready.grants 0 winCtrl 0x22000 true ∧ (ready.part 0).resetting = false) ∧
      (let s := ready.modPart 0 fun q => { q with resetting := true }
       let busy := s.modMem 31 fun m => { m with state := 1 }
       (s.part 0).resetting = true ∧ ((s.part 0).frame.stacks.all fun h => !(s.live (.stack h)) || (s.hub h).mem.state != 1) = true ∧
         ((busy.part 0).frame.stacks.all fun h => !(busy.live (.stack h)) || (busy.hub h).mem.state != 1) = false) := by
  refine ⟨⟨ready_whole, ready_memWf, ?_⟩, ?_, ?_, ?_, ⟨⟨?_, ?_, ?_, ?_⟩, ?_⟩, ?_⟩
  all_goals decide +kernel

/-! ## Baith blocks and host requests (17) -/

/-- A block with no payload, or a payload and its trailer. -/
def blockOf (kind seq tag : Nat) (payload : List Byte) : List Byte :=
  blockHead kind false seq payload.length 0 0x400 tag ++
    if payload.isEmpty then [] else payload ++ leBytes 4 (crc32c payload).toNat

/-- Port B0 lit, after a change. -/
def litPort (f : Baith → Baith) : State := ready.modBp 0 fun q => f { q with light := 2 }

/-- A block to send of n payload bytes. -/
def outOf (n : Nat) : Block := { kind := 8, more := false, seq := 0, tag := 0, payload := List.replicate n 0 }

/-- A dark and a lit port; a keep-alive; a request, a transfer of one block and an unknown type that are expected, one out
of sequence, one past the credit, one with a bad trailer, one cut short; the end of a transfer that stands open; blocks and
telemetry to send with and without credit; sent blocks that can be sent again and that cannot. -/
theorem witness_BaithBlocks :
    let whole := fun (bytes : List Byte) (n : Nat) => headOk bytes = true ∧ leAt bytes 0x0C 4 = n ∧
      bytes.length = (if n = 0 then 32 else 36 + n) ∧ leAt bytes 0x18 4 = 0 ∧ leAt bytes 0x08 4 = 0 ∧
      (0 < n → leAt bytes (32 + n) 4 = (crc32c ((bytes.drop 32).take n)).toNat)
    let may := fun (q : Baith) (n : Nat) => decide (2 ≤ q.light) && q.creditFor n && decide (q.buffered + n ≤ 4194304)
    (ready.whole = true ∧ (ready.bp 0).light < 2 ∧ (litPort id).whole = true ∧ 2 ≤ ((litPort id).bp 0).light ∧
      ((litPort id).bp 0).hunt ≤ 0xFFFFFFFF ∧ ((litPort id).bp 0).resent ≤ 0xFFFFFFFF ∧ (litPort id).ctrl.module.inReset = false) ∧
      (whole (blockOf 0 0 0 []) 0 ∧ whole (blockOf 3 0 0 [1, 2, 3, 4]) 4 ∧ whole (blockOf 1 0 0 [1, 2, 3, 4]) 4 ∧
        whole (blockOf 0x0F 0 0 [1, 2, 3, 4]) 4) ∧
      (((litPort id).bp 0).rxNext = 0 ∧ leAt (blockOf 3 1 0 [1, 2, 3, 4]) 0x08 4 = 1 ∧ ((litPort id).bp 0).part = [] ∧ ((litPort id).bp 0).transfers = [] ∧
        notPast (((litPort id).bp 0).unitsIn + 1) ((litPort id).bp 0).creditOut = true ∧
        notPast (((litPort fun q => { q with unitsIn := 0x400 }).bp 0).unitsIn + 1) ((litPort id).bp 0).creditOut = false) ∧
      (let bad := patch (blockOf 3 0 0 [1, 2, 3, 4]) 32 [9]
       headOk bad = true ∧ leAt bad 36 4 ≠ (crc32c ((bad.drop 32).take 4)).toNat) ∧
      (let cut := (blockOf 3 0 0 [1, 2, 3, 4]).take 39
       headOk cut = true ∧ cut.length < 36 + leAt cut 0x0C 4) ∧
      (may ((litPort fun q => { q with creditIn := 1, outQueue := [outOf 32] }).bp 0) 32 = true ∧
        may ((litPort fun q => { q with outQueue := [outOf 32] }).bp 0) 32 = false ∧
        may ((litPort fun q => { q with creditIn := 1, telemetry := [.partitionResetDone 0] }).bp 0) 4 = true ∧
        may ((litPort fun q => { q with creditIn := 1, heldTelem := [.partitionResetDone 0] }).bp 0) 4 = true ∧
        may (ready.bp 0) 4 = false) ∧
      (let q := (litPort fun q => { q with transfers := [⟨1, [9, 9, 9, 9], 0, 0⟩] }).bp 0
       (q.transfers.find? fun k => k.kind == 1) = some ⟨1, [9, 9, 9, 9], 0, 0⟩ ∧ leAt (blockOf 1 0 4 [1, 2, 3, 4]) 0x18 4 = 4 ∧
         headOk (blockOf 1 0 4 [1, 2, 3, 4]) = true ∧ q.rxNext = 0 ∧ (blockOf 1 0 4 [1, 2, 3, 4]).length = 40) ∧
      (let s := litPort fun q => { q with creditIn := 2, unacked := [outOf 1024, outOf 1025] }
       notPast ((s.bp 0).unitsOut + blockUnits 1024) (s.bp 0).creditIn = true ∧
         notPast ((s.bp 0).unitsOut + 1 + blockUnits 1025) (s.bp 0).creditIn = false) := by
  refine ⟨⟨ready_whole, ?_⟩, ?_, ?_, ?_, ?_, ?_, ?_, ?_⟩
  all_goals decide +kernel

/-- A request with an address, a count, an operation and data. -/
def reqOf (kind addr count op : Nat) (data : List Byte) : Block :=
  { kind := kind, more := false, seq := 7, tag := 9
    payload := leBytes 8 addr ++ leBytes 4 count ++ leBytes 1 op ++ leBytes 3 0 ++ data }

/-- The module with one request waiting at a port. -/
def askedOf (s : State) (b : Nat) (x : Block) : State := s.modBp b fun q => { q with inbound := [x] }

theorem asked_asks {s : State} (b : Nat) (x : Block) (f : Block → Bool) (hb : b < 4) (hl : s.baith.length = 4)
    (hf : f x = true) (ht : (askedOf s b x).turnOf = some b) (hr : s.ctrl.module.inReset = false) :
    (askedOf s b x).asks b f x := by
  refine ⟨hb, ?_, ht, hr⟩
  simp only [askedOf, State.bp, State.modBp]
  rw [modAt_getD_same _ _ _ _ (by omega)]
  simp [hf]

/-- An image or segment with its digest (R31). -/
def sealed (b : List Byte) : List Byte := patch b 0x20 (sha384 b)

/-- An opening segment of step 0 that holds no records, for partition p. -/
def emptySegment (p : Nat) : List Byte :=
  sealed ([0x43, 0x4D, 0x44, 0x53] ++ leBytes 2 1 ++ leBytes 1 1 ++ leBytes 1 p ++ leBytes 4 0x250 ++ leBytes 4 0 ++
    leBytes 8 0 ++ leBytes 2 100 ++ leBytes 2 0 ++ leBytes 4 0 ++ List.replicate 0x230 0)

/-- A frame image of one partition of one die and its two stacks, hosted at B0. -/
def smallFrame : List Byte :=
  sealed ([0x57, 0x52, 0x4F, 0x53] ++ leBytes 2 1 ++ leBytes 1 1 ++ leBytes 1 0xFF ++ leBytes 4 256 ++ leBytes 2 1 ++
    leBytes 2 0 ++ List.replicate 64 0 ++ leBytes 2 1 ++ leBytes 2 4 ++ leBytes 4 0x80 ++ leBytes 4 128 ++ leBytes 4 0 ++
    List.replicate 32 0 ++ ([0, 1, 0, 2] ++ List.replicate 124 0))

/-- The stream of partition 0 at rest, with an image in force. -/
def resting : State := ready.modPart 0 fun q => { q with active := some (imageOf []), stream := {} }

/-- Every request is askedOf of a port; a write and a read of a served region, at its first and last bytes; each fault of a
memory request; one that meets an open granule; registers that may be read and written, and that may not; a logbook
read; an accepted and a refused segment and image. -/
theorem witness_HostRequests :
    (∀ x, (askedOf (stored [region64K]) 0 x).asks 0 (fun y => y.kind == x.kind) x ∧ (askedOf (stored [region64K]) 0 x).whole = true ∧
      (askedOf (stored [region64K]) 0 x).memWf = true ∧ (askedOf (stored [region64K]) 0 x).served 0 0) ∧
      (let fits := fun (h : ReqHead) (n : Nat) => h.ok = true ∧ h.op = 0 ∧ h.count = n ∧ n ≤ 2 ^ 24 ∧ h.addr / 2 ^ 44 = 0 ∧
         h.addr / 2 ^ 42 % 4 = 0 ∧ ((stored [region64K]).part 0).regionFor (h.addr % 2 ^ 42) n = some 0 ∧
         spanOpen 0 0 (h.addr % 2 ^ 42) n (stored [region64K]) = false
       fits (ReqHead.of (reqOf 3 0 4 0 [1, 2, 3, 4]).payload) 4 ∧ fits (ReqHead.of (reqOf 4 65532 4 0 []).payload) 4 ∧
         (stored [region64K]).partOfBaith 0 = some 0 ∧ (stored [region64K]).partOfBaith 1 = none ∧
         (stored [region64K]).ctrl.module.state = 5 ∧ ((stored [region64K]).part 0).resetting = false ∧
         (ready.modMod fun m => { m with state := 4 }).ctrl.module.state ≠ 5) ∧
      ((ReqHead.of (reqOf 3 0 4 1 []).payload).op ≠ 0 ∧ 2 ^ 46 ≤ (ReqHead.of (reqOf 3 (2 ^ 46) 4 0 []).payload).addr ∧
        (ReqHead.of (reqOf 3 (2 ^ 44) 4 0 []).payload).addr / 2 ^ 44 ≠ 0 ∧
        ((stored [region64K]).part 0).regionFor 65533 4 = none ∧
        spanOpen 0 0 0 4 ((stored [region64K]).modRed 0 fun q => { q with granules := [{
          part := 0, region := 0, index := 0, step := 4, format := 8, mode := 4, contributions := 2, space := 0, lastTick := 0 }] }) = true) ∧
      (let h := ReqHead.of (reqOf 6 (3 * 2 ^ 46 + winCtrl * 2 ^ 24) 16384 0 []).payload
       h.ok = true ∧ h.count = 16384 ∧ h.addr / 2 ^ 31 = 3 * 2 ^ 15 ∧ h.addr / 2 ^ 24 % 128 = winCtrl ∧ h.addr % 2 ^ 24 = 0 ∧
         ready.takesRegs 0 winCtrl false = true ∧ ready.busyWin winCtrl = false ∧ regOp false (reqOf 6 0 4 0 []) = true ∧
         (∀ i < 2, ready.hostMay 0 winCtrl (0 + 4 * i) false = true) ∧ ready.hostMay 0 winCtrl 4 true = true ∧
         regOp true (reqOf 6 0 4 1 [0, 0, 0, 0]) = true ∧ regOp true (reqOf 6 0 4 2 []) = true ∧
         split.takesRegs 1 (winCd 0) true = true ∧ split.busyWin (winCd 0) = false ∧
         split.hostMay 1 (winCd 0) 0x70010 true = false ∧ split.hostMay 1 (winCd 0) 0x70010 false = false) ∧
      (let h := ReqHead.of (reqOf 0x0A (3 * 2 ^ 46 + winCtrl * 2 ^ 24 + errorBase) 64 0 []).payload
       h.ok = true ∧ h.op = 0 ∧ h.addr / 2 ^ 24 = 3 * 2 ^ 22 + winCtrl ∧ logRangeOk (h.addr % 2 ^ 24) h.count = true ∧
         logRangeOk 0 64 = false) ∧
      (checkSegment 0 (emptySegment 0) resting = none ∧ leAt (emptySegment 0) 8 4 = (emptySegment 0).length ∧
        leAt (emptySegment 0) 7 1 = 0 ∧ (checkSegment 0 (emptySegment 0) ready).map (·.code) = some 0x0C) ∧
      (checkImage 0 smallFrame ready = none ∧ leAt smallFrame 8 4 = smallFrame.length ∧ leAt smallFrame 6 1 = 1 ∧
        imageTarget 0 smallFrame ready = .frame ∧ ready.imageBusy .frame = false ∧
        (checkImage 0 smallFrame resting).map (·.code) = some 9) := by
  refine ⟨fun x => ⟨asked_asks 0 x _ (by decide) rfl (by simp) rfl rfl, whole_modBp 0 _ (stored_whole _), stored_memWf [region64K],
    stored_served (i := imageOf [region64K]) rfl rfl rfl (Nat.zero_testBit 0) rfl⟩, ?_, ?_, ?_, ?_, ?_, ?_⟩
  all_goals decide +kernel

/-! ## Reductions (08) -/

/-- An INT32 element of step n for cell 2 of granule 0. -/
def arriving (n : Nat) : Arrival :=
  { part := 0, region := 0, offset := 8, format := 8, bits := 5, srcModule := 3, srcDie := 0, step := n, ordinal := 0, pos := 2 }

/-- Its open granule in step 4 with these cells and c contributions. -/
def openGranule (c : Nat) (cells : List (Nat × RedCell)) : Granule :=
  { part := 0, region := 0, index := 0, step := 4, format := 8, mode := 4, contributions := c, cells := cells, space := 8192
    lastTick := 0 }

/-- Region 0 reducing with one contribution, and a change of hub 0's reduction state. -/
def landing (f : Reduce → Reduce) : State := (stored [reducing]).modRed 0 f

theorem landing_partOfHub (f : Reduce → Reduce) : (landing f).partOfHub 0 = some 0 := by
  have hp : ((landing f).part 0).present = true := rfl
  have hf : ((landing f).part 0).frame = (ready.part 0).frame := rfl
  unfold State.partOfHub State.partWith partNums
  rw [List.find?_cons_of_pos]
  simp only [hp, hf]
  decide +kernel

theorem stored_reducing_served : (landing id).served 0 0 :=
  State.served_single (rg := reducing) (i := imageOf [reducing]) rfl rfl rfl (show (0 : Nat) < 32 by decide) (Nat.zero_testBit 0)
    (Hub.orderly_fresh {} rfl rfl rfl rfl rfl) (by decide +kernel)

/-- The granule with every other cell counted: the element's cell is the last. -/
def almostFull : Granule :=
  openGranule 1 (((List.range 1024).filter fun k => k != 2).map fun k => (k, { count := 1 }))

/-- No element and one on its way; its granule open with room in the cell, and with none; of an earlier and of a later
step; closed whole, closed early, closed in an earlier and in a later step; room in the cell area and none; the last cell
of a granule that is then full; held elements that cannot land and that can; a granule past the stall limit and not. -/
theorem witness_Reductions :
    let cells : List (Nat × RedCell) := [(2, { count := 1 })]
    let full := fun (g : Granule) => ({ g with cells := place g.cells 2 {} { look g.cells 2 {} with count := 1 } } : Granule).full
    (∀ f, (landing f).whole = true ∧ ((landing f).hub 0).red = f {} ∧ (landing f).partOfHub 0 = some 0) ∧
      ((landing id).memWf = true ∧ (landing id).served 0 0 ∧ ((landing id).part 0).region? 0 = some reducing ∧
        4096 * (0 + 1) ≤ reducing.length ∧ (elemOf 8).bits / 8 ∣ 4) ∧
      (Num.read (elemOf 0) (0x3F800000 : Word).toNat = .fin false 8388608 (-23)) ∧
      (arriving 4).cell = 2 ∧ (look (openGranule 2 cells).cells 2 {}).count < (openGranule 2 cells).contributions ∧
      (openGranule 1 cells).contributions ≤ (look (openGranule 1 cells).cells 2 {}).count ∧
      ((openGranule 1 cells).step < (arriving 5).step ∧ (arriving 3).step < (openGranule 1 cells).step) ∧
      (∀ done, (⟨0, 0, 0, 4, done⟩ : Closed).step = (arriving 4).step ∧ (arriving 3).step < (⟨0, 0, 0, 4, done⟩ : Closed).step ∧
        (⟨0, 0, 0, 3, done⟩ : Closed).step < (arriving 4).step) ∧
      granuleSpace 4 8 1 = 8192 ∧ granuleSpace 4 8 1 ≤ ({} : Reduce).cellFree ∧
      full almostFull = true ∧ full (openGranule 2 cells) = false ∧
      arrivalFate 0 (arriving 5) (landing fun q => { q with granules := [openGranule 1 []], held := [arriving 5] }) = .hold ∧
      (let s := landing fun q => { q with granules := [openGranule 1 []], held := [arriving 4] }
       arrivalFate 0 (arriving 4) s ≠ .hold ∧ heldReady 0 s false (s.hub 0).red.held 0 = some 0) ∧
      (((landing id).part 0).disc.tick ≤ (openGranule 1 []).lastTick + ((landing id).part 0).cadence.stallLimit) ∧
      (let s := (landing fun q => { q with granules := [openGranule 1 []] }).modDisc 0 fun d => { d with tick := 2 ^ 30 }
       (openGranule 1 []).lastTick + (s.part 0).cadence.stallLimit < (s.part 0).disc.tick) := by
  refine ⟨fun f => ⟨whole_modHub 0 _ (stored_whole _), rfl, landing_partOfHub f⟩, ⟨stored_memWf _, stored_reducing_served, ?_⟩, ?_, ?_⟩
  all_goals decide +kernel

end Sys2Proof.Tests
end

section
/-! PROOF. Which commands answer a next state (00_scope.md Names, R1): every meaning is a next state behind the check of
the units that its command names. -/

namespace Sys2Proof.Machine

/-- An operation that may wait names its record's die, whether it is ready or not. -/
theorem runOpWhen_eq_onlyIf (r : RecRef) (code : Nat) (ready : RecState → State → Bool) (f : RecState → State → State)
    (s : State) : ∃ t, runOpWhen r code ready f s = onlyIf r.wf t := by
  unfold runOpWhen
  split
  · split <;> exact ⟨_, rfl⟩
  · exact ⟨_, rfl⟩

theorem execWaitin_eq_onlyIf (r : RecRef) (s : State) : ∃ t, execWaitin r s = onlyIf r.wf t := by
  unfold execWaitin
  split
  · split
    · exact ⟨_, rfl⟩
    · split <;> exact ⟨_, rfl⟩
  · exact ⟨_, rfl⟩

/-- The meaning of a command checks exactly the units that the command names. -/
theorem exec_eq_onlyIf (c : Instr) (s : State) : ∃ t, exec c s = onlyIf c.wf t := by
  cases c
  case put r => exact runOpWhen_eq_onlyIf ..
  case waitin r => exact execWaitin_eq_onlyIf ..
  case ringag r => exact runOpWhen_eq_onlyIf ..
  case ufold r => exact runOpWhen_eq_onlyIf ..
  case load r => exact runOpWhen_eq_onlyIf ..
  case store r => exact runOpWhen_eq_onlyIf ..
  case gather r => exact runOpWhen_eq_onlyIf ..
  all_goals exact ⟨_, rfl⟩

end Sys2Proof.Machine

open Sys2Proof.Machine in
/-- Settles O2: a meaning is a next state behind the check of the units that its command names (`exec_eq_onlyIf`). That
the model has the fault `noSuchUnit` at all is its own choice (log entries 1 and 6). -/
theorem everyCommandRuns : Obligations.EveryCommandRuns := by
  intro c s
  obtain ⟨t, ht⟩ := exec_eq_onlyIf c s
  rw [ht]
  exact ⟨fun h => ⟨t, h ▸ onlyIf_true t⟩, fun h => h ▸ onlyIf_false t⟩
end

section
/-! PROOF. The shape of the module (00_scope.md Names): which changes of one unit leave the value of `State.whole`. A unit
is changed in place, never added to or taken from its list, so what counts is what the change does to the lists inside
the unit; a fold of such changes leaves the value as well. -/

namespace Sys2Proof.Machine

/-! ## Lists of units -/

/-- A predicate of every entry holds after a change of one entry as before, where the change leaves its value. -/
@[simp] theorem modAt_all_eq {α : Type} (l : List α) (i : Nat) {f : α → α} {p : α → Bool} (hf : ∀ a, p (f a) = p a) :
    (modAt l i f).all p = l.all p := by
  induction l generalizing i with
  | nil => rfl
  | cons a as ih => cases i with
    | zero => simp [modAt, hf]
    | succ i => simp [modAt, ih]

@[simp] theorem modKey_keys {α : Type} (t : List (Nat × α)) (i : Nat) (f : α → α) :
    (modKey t i f).map (·.1) = t.map (·.1) := by
  simp only [modKey, List.map_map]
  exact List.map_congr_left fun x _ => by simp only [Function.comp]; split <;> rfl

/-! ## One unit changed -/

@[simp] theorem State.ite_whole (c : Prop) [Decidable c] (s t : State) :
    (if c then s else t).whole = if c then s.whole else t.whole := apply_ite ..

/-- Either branch keeps the shape. -/
theorem State.ite_whole_of {c : Prop} [Decidable c] {s a b : State} (ha : a.whole = s.whole) (hb : b.whole = s.whole) :
    (if c then a else b).whole = s.whole := by rw [State.ite_whole, ha, hb, ite_self]

theorem State.whole_ite {c : Prop} [Decidable c] {a b : State} (ha : a.whole = true) (hb : b.whole = true) :
    (if c then a else b).whole = true := by rw [State.ite_whole, ha, hb, ite_self]

@[simp] theorem State.modCd_whole (s : State) (d : Nat) {f : Cd → Cd}
    (hs : ∀ c, (f c).seq.sregs.length = c.seq.sregs.length) (he : ∀ c, (f c).seq.ev.length = c.seq.ev.length)
    (hm : ∀ c, (f c).eng.mxe.length = c.eng.mxe.length)
    (ht : ∀ c, (f c).eng.mxe.all (fun m => m.tiles.length == 4) = c.eng.mxe.all fun m => m.tiles.length == 4)
    (hc : ∀ c, (f c).eng.coe.chans.length = c.eng.coe.chans.length)
    (hb : ∀ c, (f c).pwr.blocks.map (·.1) = c.pwr.blocks.map (·.1))
    (hg : ∀ c, (f c).pwr.segs.length = c.pwr.segs.length) : (s.modCd d f).whole = s.whole := by
  have hf : ∀ c, (f c).whole = c.whole := fun c => by simp only [Cd.whole, hs, he, hm, ht, hc, hb, hg]
  simp [State.whole, State.modCd, hf]

@[simp] theorem State.modLe_whole (s : State) (m : Nat) {f : Le → Le}
    (hf : ∀ e, (f e).lasers.length = e.lasers.length) : (s.modLe m f).whole = s.whole := by
  simp [State.whole, State.modLe, hf]

@[simp] theorem State.modPort_whole (s : State) (n : Nat) {f : Port → Port}
    (hr : ∀ q, (f q).rx.length = q.rx.length) (ht : ∀ q, (f q).tx.length = q.tx.length)
    (hg : ∀ q, (f q).rings.length = q.rings.length) : (s.modPort n f).whole = s.whole := by
  have hf : ∀ q, (f q).whole = q.whole := fun q => by simp only [Port.whole, hr, ht, hg]
  simp [State.whole, State.modPort, hf]

@[simp] theorem State.modHub_whole (s : State) (h : Nat) (f : Hub → Hub) : (s.modHub h f).whole = s.whole := by
  simp [State.whole]

@[simp] theorem State.modUd_whole (s : State) (u : Nat) (f : Ud → Ud) : (s.modUd u f).whole = s.whole := by
  simp [State.whole]

@[simp] theorem State.modPart_whole (s : State) (p : Nat) (f : Part → Part) : (s.modPart p f).whole = s.whole := by
  simp [State.whole]

@[simp] theorem State.modBp_whole (s : State) (b : Nat) (f : Baith → Baith) : (s.modBp b f).whole = s.whole := by
  simp [State.whole]

@[simp] theorem State.modCtrl_whole (s : State) (f : Ctrl → Ctrl) : (s.modCtrl f).whole = s.whole := rfl

@[simp] theorem State.drawn_whole (s : State) : s.drawn.whole = s.whole := rfl

@[simp] theorem State.modLoader_whole (s : State) (t : WrTarget) (f : Loader → Loader) :
    (s.modLoader t f).whole = s.whole := by cases t <;> simp

@[simp] theorem State.modBlk_whole (s : State) (b : BlockRef) (f : PwrBlock → PwrBlock) :
    (s.modBlk b f).whole = s.whole := by cases b <;> simp [State.modBlk]

/-! ## A result that holds a state -/

/-- A fold of a result that holds a state keeps the shape where each of its steps does. -/
theorem foldl_state_whole {α β : Type} (σ : β → State) (l : List α) {f : β → α → β}
    (hf : ∀ r a, (σ (f r a)).whole = (σ r).whole) (r : β) : (σ (l.foldl f r)).whole = (σ r).whole := by
  induction l generalizing r with
  | nil => rfl
  | cons a l ih => rw [List.foldl_cons, ih, hf]

@[simp] theorem foldl_whole {α : Type} (l : List α) {f : State → α → State} (hf : ∀ t a, (f t a).whole = t.whole)
    (s : State) : (l.foldl f s).whole = s.whole := foldl_state_whole (fun t => t) l hf s

@[simp] theorem foldl_fst_whole {α β : Type} (l : List α) {f : State × β → α → State × β}
    (hf : ∀ r a, (f r a).1.whole = r.1.whole) (r : State × β) : (l.foldl f r).1.whole = r.1.whole :=
  foldl_state_whole Prod.fst l hf r

@[simp] theorem foldl_span_whole {α : Type} (l : List α) {f : SpanRes → α → SpanRes}
    (hf : ∀ r a, (f r a).state.whole = r.state.whole) (r : SpanRes) : (l.foldl f r).state.whole = r.state.whole :=
  foldl_state_whole SpanRes.state l hf r

@[simp] theorem foldl_fst_span_whole {α β : Type} (l : List α) {f : SpanRes × β → α → SpanRes × β}
    (hf : ∀ r a, (f r a).1.state.whole = r.1.state.whole) (r : SpanRes × β) :
    (l.foldl f r).1.state.whole = r.1.state.whole := foldl_state_whole (fun r : SpanRes × β => r.1.state) l hf r

@[simp] theorem foldl_dma_whole {α : Type} (l : List α) {f : DmaRes → α → DmaRes}
    (hf : ∀ r a, (f r a).state.whole = r.state.whole) (r : DmaRes) : (l.foldl f r).state.whole = r.state.whole :=
  foldl_state_whole DmaRes.state l hf r

@[simp] theorem forAll_whole {α : Type} (l : List α) {f : α → State → State} (hf : ∀ a t, (f a t).whole = t.whole)
    (s : State) : (forAll l f s).whole = s.whole := foldl_whole l (fun _ _ => hf _ _) s

@[simp] theorem forRange_whole (n : Nat) {f : Nat → State → State} (hf : ∀ i t, (f i t).whole = t.whole) (s : State) :
    (forRange n f s).whole = s.whole := foldl_whole _ (fun _ _ => hf _ _) s

theorem whole_forAll {α : Type} (l : List α) {f : α → State → State}
    (hf : ∀ a t, t.whole = true → (f a t).whole = true) {s : State} (h : s.whole = true) :
    (forAll l f s).whole = true := by
  unfold forAll
  induction l generalizing s with
  | nil => exact h
  | cons a l ih => exact ih (hf a s h)

theorem whole_forRange (n : Nat) {f : Nat → State → State}
    (hf : ∀ i t, t.whole = true → (f i t).whole = true) {s : State} (h : s.whole = true) :
    (forRange n f s).whole = true := whole_forAll _ hf h

/-! ## Parts of a die -/

@[simp] theorem Seq.modStep_sregs_length (q : Seq) (n : Nat) (f : StepRun → StepRun) :
    (q.modStep n f).sregs.length = q.sregs.length := by simp only [Seq.modStep]
@[simp] theorem Seq.modStep_ev_length (q : Seq) (n : Nat) (f : StepRun → StepRun) :
    (q.modStep n f).ev.length = q.ev.length := by simp only [Seq.modStep]
@[simp] theorem Seq.raise_sregs_length (q : Seq) (step e n : Nat) :
    (q.raise step e n).sregs.length = q.sregs.length := by simp only [Seq.raise]
@[simp] theorem Seq.raise_ev_length (q : Seq) (step e n : Nat) : (q.raise step e n).ev.length = q.ev.length :=
  modAt_length ..
@[simp] theorem Mxe.modTile_tiles_length (m : Mxe) (t : Nat) (f : Tile → Tile) :
    (m.modTile t f).tiles.length = m.tiles.length := modAt_length ..
@[simp] theorem Mxe.latch_tiles (m : Mxe) (r : RecRef) (tile : Nat) (scale : NvEvent → Nat) (evs : List NvEvent) :
    (m.latch r tile scale evs).tiles = m.tiles := by
  unfold Mxe.latch
  repeat' split
  all_goals rfl
@[simp] theorem Coe.takeVerdict_chans_length (c : Coe) (v : Verdict) (next : Int) :
    (c.takeVerdict v next).chans.length = c.chans.length := by simp only [Coe.takeVerdict]

end Sys2Proof.Machine
end

section
/-! PROOF. What each operation of the model does to `State.whole`, in the model's order. `X_whole` says that `X` leaves its
value: `X` is made of changes of single units and of operations before it. `whole_X` says of an `X` that replaces a unit
or a list inside one that it gives the same parts again. -/

namespace Sys2Proof.Machine

/-! ## Logs and telemetry (20) -/

@[simp] theorem logEvent_whole (kind site part : Nat) (payload : List Byte) (s : State) :
    (logEvent kind site part payload s).whole = s.whole := by simp [logEvent]
@[simp] theorem errorOnly_whole (site part : Nat) (names : List Nat) (s : State) :
    (errorOnly site part names s).whole = s.whole := by simp [errorOnly]
@[simp] theorem telem_whole (p : Nat) (t : Telem) (s : State) : (telem p t s).whole = s.whole := by simp [telem]

@[simp] theorem telemTo_whole (p : Option Nat) (t : Telem) (s : State) : (telemTo p t s).whole = s.whole := by
  unfold telemTo
  split <;> simp

@[simp] theorem raiseAlert_whole (i : Nat) (s : State) : (raiseAlert i s).whole = s.whole := by simp [raiseAlert]
@[simp] theorem sendFault_whole (site : Nat) (p : Option Nat) (f : FaultRec) (s : State) :
    (sendFault site p f s).whole = s.whole := by simp [sendFault]

/-! ## Lines and their checks (12) -/

@[simp] theorem hubFault_whole (h : Nat) (f : RawFault) (s : State) : (hubFault h f s).whole = s.whole := by
  simp [hubFault]
@[simp] theorem State.setHub_whole (s : State) (h : Nat) (r : HubRes) : (s.setHub h r).whole = s.whole := by
  simp [State.setHub]
@[simp] theorem scratchFault_whole (d kind src line : Nat) (stored computed : Half) (s : State) :
    (scratchFault d kind src line stored computed s).whole = s.whole := by simp [scratchFault]

@[simp] theorem readScratchLine_fst_whole (d src line : Nat) (s : State) :
    (readScratchLine d src line s).1.whole = s.whole := by
  simp only [readScratchLine]
  split <;> simp

@[simp] theorem readScratch_state_whole (d src a n : Nat) (s : State) :
    (readScratch d src a n s).state.whole = s.whole := by simp [readScratch]

@[simp] theorem writeScratchPiece_fst_whole (d src : Nat) (p : Piece) (bs : List Byte) (s : State) :
    (writeScratchPiece d src p bs s).1.whole = s.whole := by
  simp only [writeScratchPiece]
  repeat' split
  all_goals simp

@[simp] theorem writeScratch_state_whole (d src a : Nat) (bs : List Byte) (s : State) :
    (writeScratch d src a bs s).state.whole = s.whole := by simp [writeScratch]

@[simp] theorem readRegionLine_fst_whole (p r o src : Nat) (path : Path) (s : State) :
    (readRegionLine p r o src path s).1.whole = s.whole := by
  unfold readRegionLine
  repeat' split
  all_goals simp

@[simp] theorem readRegion_state_whole (p r o n src : Nat) (path : Path) (s : State) :
    (readRegion p r o n src path s).state.whole = s.whole := by simp [readRegion]

@[simp] theorem writeRegionPiece_fst_whole (p r src : Nat) (path : Path) (q : Piece) (bs : List Byte) (s : State) :
    (writeRegionPiece p r src path q bs s).1.whole = s.whole := by
  simp only [writeRegionPiece]
  repeat' split
  all_goals simp

@[simp] theorem writeRegion_state_whole (p r o src : Nat) (path : Path) (bs : List Byte) (s : State) :
    (writeRegion p r o src path bs s).state.whole = s.whole := by simp [writeRegion]

@[simp] theorem applyUpset_whole (u : Upset) (s : State) : (applyUpset u s).whole = s.whole := by
  unfold applyUpset
  split <;> simp

/-! ## Reductions at a hub (08) -/

@[simp] theorem completeGranule_whole (h : Nat) (g : Granule) (s : State) :
    (completeGranule h g s).whole = s.whole := by simp [completeGranule]
@[simp] theorem excessArrival_whole (h : Nat) (a : Arrival) (s : State) : (excessArrival h a s).whole = s.whole := by
  simp [excessArrival]

@[simp] theorem landArrival_whole (h : Nat) (a : Arrival) (s : State) : (landArrival h a s).whole = s.whole := by
  unfold landArrival
  split <;> simp

@[simp] theorem takeArrival_whole (h : Nat) (a : Arrival) (s : State) : (takeArrival h a s).whole = s.whole := by
  unfold takeArrival
  split <;> simp

@[simp] theorem discardGranule_whole (h : Nat) (g : Granule) (s : State) :
    (discardGranule h g s).whole = s.whole := by simp [discardGranule]

/-! ## Blocks and rail segments (16) -/

@[simp] theorem State.modSeg_whole (s : State) (d g : Nat) (f : Segment → Segment) :
    (s.modSeg d g f).whole = s.whole := by simp [State.modSeg]

@[simp] theorem clearShares_whole (s : State) : (clearShares s).whole = s.whole := by
  have hc : ∀ c : Cd, Cd.whole { c with pwr := { c.pwr with
      blocks := c.pwr.blocks.map fun e => (e.1, { e.2 with share := 0 }) } } = c.whole := fun c => by
    simp [Cd.whole, Function.comp_def]
  simp [clearShares, State.whole, Function.comp_def, hc]

@[simp] theorem setShares_whole (p : Nat) (s : State) : (setShares p s).whole = s.whole := by simp [setShares]
@[simp] theorem requestWake_whole (b : BlockRef) (cls : Nat) (s : State) : (requestWake b cls s).whole = s.whole := by
  simp [requestWake]
@[simp] theorem clearSlice_whole (d j : Nat) (s : State) : (clearSlice d j s).whole = s.whole := by simp [clearSlice]

@[simp] theorem writeSquall_whole (home : Option Nat) (win : Nat) (hosts : List Nat) (q : SquallRec) (s : State) :
    (writeSquall home win hosts q s).whole = s.whole := by
  unfold writeSquall
  split <;> simp

@[simp] theorem touchSquall_whole (b : BlockRef) (kind : Nat) (s : State) :
    (touchSquall b kind s).whole = s.whole := by simp [touchSquall]

@[simp] theorem endSquall_whole (b : BlockRef) (s : State) : (endSquall b s).whole = s.whole := by
  unfold endSquall
  split <;> simp

@[simp] theorem thermal_whole (b : BlockRef) (temp : Int) (s : State) : (thermal b temp s).whole = s.whole := by
  simp [thermal]
@[simp] theorem touchSegSquall_whole (d g kind amps : Nat) (s : State) :
    (touchSegSquall d g kind amps s).whole = s.whole := by simp [touchSegSquall]

@[simp] theorem endSegSquall_whole (d g : Nat) (s : State) : (endSegSquall d g s).whole = s.whole := by
  unfold endSegSquall
  split <;> simp

@[simp] theorem publishHead_whole (b : BlockRef) (s : State) : (publishHead b s).whole = s.whole := by
  simp [publishHead]
@[simp] theorem publishHeads_whole (p : Nat) (s : State) : (publishHeads p s).whole = s.whole := by
  simp [publishHeads]

/-! ## Records in flight (03) -/

@[simp] theorem State.modRec_whole (s : State) (r : RecRef) (f : RecState → RecState) :
    (s.modRec r f).whole = s.whole := by simp [State.modRec]
@[simp] theorem State.withImage_whole (s : State) (p : Nat) (i : Option JobImage) :
    (s.withImage p i).whole = s.whole := by simp [State.withImage]

@[simp] theorem underImage_whole (r : RecRef) (x : RecState) {f : State → State} (hf : ∀ t, (f t).whole = t.whole)
    (s : State) : (underImage r x f s).whole = s.whole := by
  unfold underImage
  split <;> simp [hf]

@[simp] theorem counted_whole {f : RecState → State → State} (hf : ∀ y t, (f y t).whole = t.whole) (x : RecState)
    (s : State) : (counted f x s).whole = s.whole := by simp [counted, hf]

@[simp] theorem noteBad_whole (r : RecRef) (bad : Option Nat) (s : State) : (noteBad r bad s).whole = s.whole := by
  unfold noteBad
  split <;> simp

@[simp] theorem noteBadScratch_whole (r : RecRef) (bad : Option Nat) (s : State) :
    (noteBadScratch r bad s).whole = s.whole := by simp [noteBadScratch]
@[simp] theorem State.setSreg_whole (s : State) (d i : Nat) (v : DWord) : (s.setSreg d i v).whole = s.whole := by
  simp [State.setSreg]
@[simp] theorem signal_whole (d step e : Nat) (s : State) : (signal d step e s).whole = s.whole := by simp [signal]
@[simp] theorem pickChoices_whole (n d : Nat) (s : State) : (pickChoices n d s).whole = s.whole := by
  simp [pickChoices]

/-! ## Messages between collective engines (15) -/

@[simp] theorem countLost_whole (p step : Nat) (s : State) : (countLost p step s).whole = s.whole := by
  simp [countLost]
@[simp] theorem markLost_whole (p : Nat) (r : RecRef) (s : State) : (markLost p r s).whole = s.whole := by
  simp [markLost]
@[simp] theorem sendMessage_whole (p : Nat) (m : OutMsg) (s : State) : (sendMessage p m s).whole = s.whole := by
  simp [sendMessage]
@[simp] theorem sendMesh_whole (p : Nat) (m : MeshMsg) (s : State) : (sendMesh p m s).whole = s.whole := by
  simp [sendMesh]
@[simp] theorem countOut_whole (d n : Nat) (s : State) : (countOut d n s).whole = s.whole := by simp [countOut]

@[simp] theorem writeInbound_state_whole (p d region offset : Nat) (data : List Byte) (skip : List Nat) (s : State) :
    (writeInbound p d region offset data skip s).state.whole = s.whole := by
  unfold writeInbound
  split <;> simp

@[simp] theorem rejectInbound_whole (d : Nat) (s : State) : (rejectInbound d s).whole = s.whole := by
  simp [rejectInbound]
@[simp] theorem countPut_whole (d channel step n : Nat) (s : State) :
    (countPut d channel step n s).whole = s.whole := by simp [countPut]

@[simp] theorem sendShard_whole (p : Nat) (g : RingProgress) (m : Nat × Nat) (offset : Nat) (empty : Bool)
    (s : State) : (sendShard p g m offset empty s).whole = s.whole := by
  unfold sendShard
  split <;> simp

@[simp] theorem State.modRingag_whole (s : State) (p : Nat) (r : RecRef) (f : RingProgress → RingProgress) :
    (s.modRingag p r f).whole = s.whole := by simp [State.modRingag]
@[simp] theorem noteBroken_whole (p ring : Nat) (s : State) : (noteBroken p ring s).whole = s.whole := by
  simp [noteBroken]
@[simp] theorem breakRing_whole (p : Nat) (g : RingProgress) (s : State) : (breakRing p g s).whole = s.whole := by
  simp [breakRing]

@[simp] theorem sendOn_whole (p : Nat) (g : RingProgress) (pos : Nat) (empty fwd : Bool) (s : State) :
    (sendOn p g pos empty fwd s).whole = s.whole := by
  unfold sendOn
  split <;> simp

@[simp] theorem closeRing_whole (p : Nat) (r : RecRef) (s : State) : (closeRing p r s).whole = s.whole := by
  unfold closeRing
  split <;> simp

@[simp] theorem passShard_whole (p : Nat) (g : RingProgress) (pos : Nat) (empty : Bool) (s : State) :
    (passShard p g pos empty s).whole = s.whole := by simp [passShard]
@[simp] theorem takeShard_whole (p : Nat) (g : RingProgress) (pos : Nat) (empty : Bool) (s : State) :
    (takeShard p g pos empty s).whole = s.whole := by simp [takeShard]

@[simp] theorem shardArrived_whole (p d step ring region offset : Nat) (empty : Bool) (s : State) :
    (shardArrived p d step ring region offset empty s).whole = s.whole := by
  unfold shardArrived
  repeat' split
  all_goals simp

@[simp] theorem takeEarly_whole (p : Nat) (r : RecRef) (s : State) : (takeEarly p r s).whole = s.whole := by
  unfold takeEarly
  split <;> simp

@[simp] theorem sendElement_fst_whole (a : Arrival) (s : State) : (sendElement a s).1.whole = s.whole := by
  simp only [sendElement]
  repeat' split
  all_goals simp

@[simp] theorem sendElements_fst_whole (a : Arrival) (first : Nat) (data : List Byte) (s : State) :
    (sendElements a first data s).1.whole = s.whole := by simp [sendElements]

/-! ## Lanes, rings and sites (13, 14, 15) -/

@[simp] theorem holdover_whole (p : Nat) (s : State) : (holdover p s).whole = s.whole := by simp [holdover]

@[simp] theorem holdoverOn_whole (n : Nat) (s : State) : (holdoverOn n s).whole = s.whole := by
  unfold holdoverOn
  split <;> simp

@[simp] theorem reacquireOn_whole (n : Nat) (s : State) : (reacquireOn n s).whole = s.whole := by
  unfold reacquireOn
  split <;> simp

@[simp] theorem miswiredOut_whole (p m : Nat) (s : State) : (miswiredOut p m s).whole = s.whole := by
  simp [miswiredOut]
@[simp] theorem peerAlert_whole (p n old new : Nat) (s : State) : (peerAlert p n old new s).whole = s.whole := by
  simp [peerAlert]

@[simp] theorem decidePeer_whole (n : Nat) (s : State) : (decidePeer n s).whole = s.whole := by
  unfold decidePeer
  split <;> simp

@[simp] theorem countWithdraw_whole (n : Nat) (s : State) : (countWithdraw n s).whole = s.whole := by
  simp [countWithdraw]
@[simp] theorem txWithdraw_whole (n l c : Nat) (s : State) : (txWithdraw n l c s).whole = s.whole := by
  simp [txWithdraw]
@[simp] theorem rxWithdraw_whole (n l c : Nat) (held : Bool) (s : State) :
    (rxWithdraw n l c held s).whole = s.whole := by simp [rxWithdraw]
@[simp] theorem tryPortUp_whole (n : Nat) (s : State) : (tryPortUp n s).whole = s.whole := by simp [tryPortUp]
@[simp] theorem admitTx_whole (n : Nat) (s : State) : (admitTx n s).whole = s.whole := by simp [admitTx]
@[simp] theorem txClear_whole (n l c : Nat) (s : State) : (txClear n l c s).whole = s.whole := by simp [txClear]

@[simp] theorem whole_forgetShift (n : Nat) {s : State} (h : s.whole = true) : (forgetShift n s).whole = true := by
  refine whole_modPort n (fun q hq => ?_) h
  simp only [Port.whole, Bool.and_eq_true, beq_iff_eq] at hq ⊢
  split <;> simp [hq]

@[simp] theorem dropRequest_whole (m : OutMsg) (s : State) : (dropRequest m s).whole = s.whole := by
  unfold dropRequest
  split <;> simp

@[simp] theorem unbindAll_whole (n : Nat) (s : State) : (unbindAll n s).whole = s.whole := by
  unfold unbindAll
  split <;> simp

@[simp] theorem downPort_whole (n cause : Nat) (s : State) : (downPort n cause s).whole = s.whole := by
  simp [downPort]
@[simp] theorem whole_darkPort (n cause : Nat) {s : State} (h : s.whole = true) :
    (darkPort n cause s).whole = true := by simp [darkPort, h]
@[simp] theorem engineAlert_whole (m : Nat) (t : Telem) (s : State) : (engineAlert m t s).whole = s.whole := by
  simp [engineAlert]

/-! ## Operand arrays (03) -/

@[simp] theorem readRows_fst_whole (d src addr stride rows n : Nat) (s : State) :
    (readRows d src addr stride rows n s).1.whole = s.whole := by simp [readRows]

@[simp] theorem readOperand_fst_whole (d src addr stride : Nat) (trans : Bool) (fmt outer k scaleAddr : Nat)
    (entry : Option CtlWord) (s : State) :
    (readOperand d src addr stride trans fmt outer k scaleAddr entry s).1.whole = s.whole := by
  unfold readOperand
  repeat' split
  all_goals simp

/-! ## The collective engine (07) -/

@[simp] theorem readPlace_fst_whole (r : RecRef) (c : CoePlace) (n : Nat) (s : State) :
    (readPlace r c n s).1.whole = s.whole := by
  unfold readPlace
  split <;> simp

@[simp] theorem putRun_whole (r : RecRef) (x : RecState) (s : State) : (putRun r x s).whole = s.whole := by
  simp [putRun]
@[simp] theorem touchChan_whole (r : RecRef) (x : RecState) (s : State) : (touchChan r x s).whole = s.whole := by
  simp [touchChan]
@[simp] theorem waitRun_whole (r : RecRef) (x : RecState) (s : State) : (waitRun r x s).whole = s.whole := by
  simp [waitRun]
@[simp] theorem accumRun_whole (r : RecRef) (x : RecState) (s : State) : (accumRun r x s).whole = s.whole := by
  simp [accumRun]

@[simp] theorem ringRun_whole (r : RecRef) (x : RecState) (s : State) : (ringRun r x s).whole = s.whole := by
  simp only [ringRun]
  split <;> simp

/-! ## The matrix engines (05) -/

@[simp] theorem fennelSelect_whole (r : RecRef) (e : Nat) (f : MmaOp) (k : Nat) (before after : Tile)
    (es : List (Nat × ElemRes)) (s : State) : (fennelSelect r e f k before after es s).whole = s.whole := by
  simp only [fennelSelect]
  repeat' split
  all_goals simp

@[simp] theorem mmaRun_whole (r : RecRef) (x : RecState) (s : State) : (mmaRun r x s).whole = s.whole := by
  simp [mmaRun]
@[simp] theorem astRun_whole (r : RecRef) (x : RecState) (s : State) : (astRun r x s).whole = s.whole := by
  simp [astRun, apply_ite Mxe.tiles, apply_ite List.length]

/-! ## The conversion engine (07) -/

@[simp] theorem fillRun_whole (r : RecRef) (x : RecState) (s : State) : (fillRun r x s).whole = s.whole := by
  simp [fillRun]

@[simp] theorem cvtSource_fst_whole (d : Nat) (f : CvtOp) (n : Nat) (s : State) :
    (cvtSource d f n s).1.whole = s.whole := by
  unfold cvtSource
  repeat' split
  all_goals simp

@[simp] theorem cvtRun_whole (r : RecRef) (x : RecState) (s : State) : (cvtRun r x s).whole = s.whole := by
  simp [cvtRun]
@[simp] theorem amxoutRun_whole (r : RecRef) (x : RecState) (s : State) : (amxoutRun r x s).whole = s.whole := by
  simp [amxoutRun]
@[simp] theorem amxpushRun_whole (r : RecRef) (x : RecState) (s : State) : (amxpushRun r x s).whole = s.whole := by
  simp [amxpushRun]
@[simp] theorem scselRun_whole (r : RecRef) (x : RecState) (s : State) : (scselRun r x s).whole = s.whole := by
  simp [scselRun]
@[simp] theorem tstRun_whole (r : RecRef) (x : RecState) (s : State) : (tstRun r x s).whole = s.whole := by
  simp [tstRun]
@[simp] theorem tldRun_whole (r : RecRef) (x : RecState) (s : State) : (tldRun r x s).whole = s.whole := by
  simp [tldRun]

/-! ## The step control word (09) -/

@[simp] theorem State.modGather_whole (s : State) (p step : Nat) (f : Gather → Gather) :
    (s.modGather p step f).whole = s.whole := by simp [State.modGather]
@[simp] theorem restartWord_whole (p step : Nat) (s : State) : (restartWord p step s).whole = s.whole := by
  simp [restartWord]
@[simp] theorem contribution_fst_whole (r : RecRef) (x : RecState) (s : State) :
    (contribution r x s).1.whole = s.whole := by simp [contribution]
@[simp] theorem passVerdict_whole (us : List Nat) (step : Nat) (v : Verdict) (s : State) :
    (passVerdict us step v s).whole = s.whole := by simp [passVerdict]
@[simp] theorem endStepword_whole (r : RecRef) (x : RecState) (v : Verdict) (block : List Byte) (amax : List Word)
    (next : Int) (fields : Nat) (s : State) : (endStepword r x v block amax next fields s).whole = s.whole := by
  simp [endStepword]
@[simp] theorem lostStepword_whole (r : RecRef) (x : RecState) (s : State) :
    (lostStepword r x s).whole = s.whole := by simp [lostStepword]

@[simp] theorem lostWord_whole (p step : Nat) (s : State) : (lostWord p step s).whole = s.whole := by
  refine forAll_whole _ (fun e t => ?_) s
  dsimp only
  split
  · split <;> simp
  · rfl

@[simp] theorem sendWord_whole (p : Nat) (g : Gather) (k : Nat) (skipped : List Nat) (w : StepWordVal) (s : State) :
    (sendWord p g k skipped w s).whole = s.whole := by simp [sendWord]

@[simp] theorem ringAdvance_whole (p step : Nat) (s : State) : (ringAdvance p step s).whole = s.whole := by
  simp only [ringAdvance]
  repeat' split
  all_goals simp

@[simp] theorem wordArrived_whole (p step : Nat) (data : List Byte) (s : State) :
    (wordArrived p step data s).whole = s.whole := by simp [wordArrived]

@[simp] theorem deliverDie_whole (step : Nat) (w : StepWordVal) (d cmd : Nat) (s : State) :
    (deliverDie step w d cmd s).whole = s.whole := by
  simp only [deliverDie]
  split <;> simp

/-! ## The panel mesh (07) -/

@[simp] theorem shareArrived_whole (p ud step : Nat) (sh : Share) (s : State) :
    (shareArrived p ud step sh s).whole = s.whole := by simp [shareArrived]
@[simp] theorem restartIdle_whole (p : Nat) (f : RecRef → RecState → Bool) (s : State) :
    (restartIdle p f s).whole = s.whole := by simp [restartIdle]
@[simp] theorem inputCame_whole (p d step : Nat) (f : RecState → Bool) (s : State) :
    (inputCame p d step f s).whole = s.whole := by simp [inputCame]

@[simp] theorem meshArrive_whole (p : Nat) (m : MeshMsg) (s : State) : (meshArrive p m s).whole = s.whole := by
  unfold meshArrive
  repeat' split
  all_goals simp

@[simp] theorem dropMesh_whole (p : Nat) (m : MeshMsg) (s : State) : (dropMesh p m s).whole = s.whole := by
  simp [dropMesh]

@[simp] theorem forwardRing_whole (p kind step ring region offset : Nat) (src : Nat × Nat) (d : Nat) (close : Bool)
    (data : List Byte) (s : State) :
    (forwardRing p kind step ring region offset src d close data s).whole = s.whole := by
  simp only [forwardRing]
  repeat' split
  all_goals simp

/-! ## Update dies (10) -/

@[simp] theorem readOwn_state_whole (p region o n src u : Nat) (s : State) :
    (readOwn p region o n src u s).state.whole = s.whole := by
  unfold readOwn
  split <;> simp

@[simp] theorem writeOwn_state_whole (p region o src u : Nat) (bs : List Byte) (s : State) :
    (writeOwn p region o src u bs s).state.whole = s.whole := by
  unfold writeOwn
  split <;> simp

@[simp] theorem foldRun_whole (r : RecRef) (x : RecState) (s : State) (t : Nat × UpdEntry × OwnedRun) :
    (foldRun r x s t).whole = s.whole := by simp [foldRun]
@[simp] theorem noteFrozen_whole (r : RecRef) (x : RecState) (s : State) : (noteFrozen r x s).whole = s.whole := by
  simp [noteFrozen]
@[simp] theorem ufoldRun_whole (r : RecRef) (x : RecState) (s : State) : (ufoldRun r x s).whole = s.whole := by
  simp [ufoldRun]

@[simp] theorem updateRun_whole (r : RecRef) (x : RecState) (c : UpdCtx) (s : State) (t : Nat × UpdEntry × OwnedRun) :
    (updateRun r x c s t).whole = s.whole := by
  simp only [updateRun]
  repeat' split
  all_goals simp

@[simp] theorem applyUpdate_whole (r : RecRef) (x : RecState) (v : Verdict) (s : State) :
    (applyUpdate r x v s).whole = s.whole := by
  simp only [applyUpdate]
  split <;> simp

@[simp] theorem finishUpdate_whole (r : RecRef) (x : RecState) (v : Verdict) (s : State) :
    (finishUpdate r x v s).whole = s.whole := by simp [finishUpdate]

/-! ## A hub's own work on its stack (12) -/

@[simp] theorem checkStack_state_whole (h line src kind : Nat) (s : State) :
    (checkStack h line src kind s).state.whole = s.whole := by simp [checkStack]

@[simp] theorem checkLine_state_whole (h line src kind : Nat) (s : State) :
    (checkLine h line src kind s).state.whole = s.whole := by
  simp only [checkLine]
  repeat' split
  all_goals simp

@[simp] theorem scrubRun_whole (r : RecRef) (x : RecState) (s : State) : (scrubRun r x s).whole = s.whole := by
  refine foldl_whole _ (fun t i => ?_) s
  split
  · split <;> simp
  · rfl

@[simp] theorem startPass_whole (h : Nat) (s : State) : (startPass h s).whole = s.whole := by simp [startPass]
@[simp] theorem stopPass_whole (h : Nat) (s : State) : (stopPass h s).whole = s.whole := by simp [stopPass]
@[simp] theorem passLine_whole (h line : Nat) (s : State) : (passLine h line s).whole = s.whole := by simp [passLine]
@[simp] theorem startWriteback_whole (h : Nat) (s : State) : (startWriteback h s).whole = s.whole := by
  simp [startWriteback]

@[simp] theorem rebuildElem_fst_whole (p h region el : Nat) (s : State) :
    (rebuildElem p h region el s).1.whole = s.whole := by
  simp only [rebuildElem]
  repeat' split
  all_goals simp

@[simp] theorem rebuildLine_fst_whole (p h region o : Nat) (s : State) :
    (rebuildLine p h region o s).1.whole = s.whole := by
  unfold rebuildLine
  split
  · rfl
  · dsimp only
    split
    · rfl
    · refine foldl_fst_whole _ (fun a k => ?_) _
      split <;> simp

@[simp] theorem breezeFault_whole (h line kind : Nat) (r : LineCheckRes) (s : State) :
    (breezeFault h line kind r s).whole = s.whole := by simp [breezeFault]

@[simp] theorem breezeRepair_whole (h line : Nat) (r : LineCheckRes) (s : State) :
    (breezeRepair h line r s).whole = s.whole := by
  unfold breezeRepair
  split
  · simp
  · split
    · simp
    · split
      · simp
      · next p _ _ region o _ _ =>
        have ht := rebuildLine_fst_whole p h region o s
        split <;> next e => rw [e] at ht; simpa using ht

@[simp] theorem breezeLine_whole (h : Nat) (s : State) : (breezeLine h s).whole = s.whole := by
  simp only [breezeLine]
  repeat' split
  all_goals simp

@[simp] theorem retireNow_whole (h : Nat) (s : State) : (retireNow h s).whole = s.whole := by
  unfold retireNow
  split <;> simp

@[simp] theorem retireRefuse_whole (h : Nat) (s : State) : (retireRefuse h s).whole = s.whole := by
  simp [retireRefuse]

@[simp] theorem writeRetire_whole (h i : Nat) (v : Word) (s : State) : (writeRetire h i v s).whole = s.whole := by
  rw [writeRetire]
  refine State.ite_whole_of (by simp) (State.ite_whole_of (by simp) ?_)
  split <;> simp

/-! ## Fabric messages (15) -/

@[simp] theorem State.modMsg_whole (s : State) (p id : Nat) (f : OutMsg → OutMsg) :
    (s.modMsg p id f).whole = s.whole := by simp [State.modMsg]
@[simp] theorem afterFlit_whole (p n id : Nat) (last : Bool) (s : State) :
    (afterFlit p n id last s).whole = s.whole := by simp [afterFlit]

theorem holderFlit_whole {p n : Nat} {s : State} {x : Sent} (h : holderFlit p n s = some x) :
    x.state.whole = s.whole := by
  simp only [holderFlit] at h
  split at h
  · cases h
  · split at h <;> cases h <;> simp

@[simp] theorem holderFlits_fst_whole (p n k : Nat) (s : State) : (holderFlits p n k s).1.whole = s.whole := by
  induction k generalizing s with
  | zero => rfl
  | succ k ih =>
    unfold holderFlits
    split
    · rfl
    · next h => exact (ih _).trans (holderFlit_whole h)

@[simp] theorem parkRest_whole (p n : Nat) (m : OutMsg) (s : State) : (parkRest p n m s).whole = s.whole := by
  simp [parkRest]
@[simp] theorem loseRecord_whole (p : Nat) (r : RecRef) (x : RecState) (s : State) :
    (loseRecord p r x s).whole = s.whole := by simp [loseRecord]
@[simp] theorem discardMsg_whole (p : Nat) (waited : Bool) (m : InMsg) (s : State) :
    (discardMsg p waited m s).whole = s.whole := by simp [discardMsg]

@[simp] theorem completeMsg_whole (p : Nat) (m : InMsg) (s : State) : (completeMsg p m s).whole = s.whole := by
  simp only [completeMsg]
  repeat' split
  all_goals simp

@[simp] theorem takeBytes_whole (p : Nat) (h : Head) (off : Nat) (data : List Byte) (s : State) :
    (takeBytes p h off data s).whole = s.whole := by
  simp only [takeBytes]
  repeat' split
  all_goals simp

@[simp] theorem countStale_whole (p : Nat) (s : State) : (countStale p s).whole = s.whole := by simp [countStale]
@[simp] theorem noCurrent_whole (n : Nat) (s : State) : (noCurrent n s).whole = s.whole := by simp [noCurrent]

@[simp] theorem deliverHead_whole (p n : Nat) (h : Head) (s : State) : (deliverHead p n h s).whole = s.whole := by
  simp only [deliverHead]
  repeat' split
  all_goals simp

@[simp] theorem deliverData_whole (p n : Nat) (b : List Byte) (s : State) :
    (deliverData p n b s).whole = s.whole := by
  simp only [deliverData]
  repeat' split
  all_goals simp

@[simp] theorem deliverFlit_whole (p n : Nat) (epochOk ctl : Bool) (b : List Byte) (s : State) :
    (deliverFlit p n epochOk ctl b s).whole = s.whole := by simp [deliverFlit]
@[simp] theorem deliverFrame_whole (p n : Nat) (x : HeldFrame) (s : State) :
    (deliverFrame p n x s).whole = s.whole := by simp [deliverFrame]

@[simp] theorem deliverHeld_whole (p n k : Nat) (s : State) : (deliverHeld p n k s).whole = s.whole := by
  induction k generalizing s with
  | zero => rfl
  | succ k ih =>
    unfold deliverHeld
    dsimp only
    split
    · rfl
    · split
      · split <;> simp
      · simp [ih]

@[simp] theorem endUpdateWait_whole (r : RecRef) (x : RecState) (s : State) :
    (endUpdateWait r x s).whole = s.whole := by
  unfold endUpdateWait
  repeat' split
  all_goals simp

@[simp] theorem dropMessages_whole (p : Nat) (f : OutMsg → Bool) (s : State) :
    (dropMessages p f s).whole = s.whole := by simp [dropMessages]
@[simp] theorem loseTargets_whole (site : Site) (s : State) : (loseTargets site s).whole = s.whole := by
  simp [loseTargets]

@[simp] theorem whole_cutCd (d : Nat) {s : State} (h : s.whole = true) : (cutCd d s).whole = true := by
  refine whole_modCd d (fun c hc => ?_) (by simp [h])
  simp only [Cd.whole, Bool.and_eq_true] at hc ⊢
  obtain ⟨⟨_, hb⟩, hg⟩ := hc
  exact ⟨⟨by simp, hb⟩, hg⟩

@[simp] theorem cutUd_whole (u : Nat) (s : State) : (cutUd u s).whole = s.whole := by simp [cutUd]

@[simp] theorem cutStack_whole (h : Nat) (s : State) : (cutStack h s).whole = s.whole := by
  have hm : ∀ (r : RecRef) (t : State), ((t.partOfCd r.die).elim t fun p => markLost p r t).whole = t.whole :=
    fun r t => by cases t.partOfCd r.die <;> simp
  simp [cutStack, hm]

@[simp] theorem whole_cutLe (m : Nat) {s : State} (h : s.whole = true) : (cutLe m s).whole = true :=
  whole_forAll _ (fun n _ => whole_darkPort n 3) (by simp [h])

@[simp] theorem whole_cutOut (site : Site) (cause : Nat) {s : State} (h : s.whole = true) :
    (cutOut site cause s).whole = true := by cases site <;> simp [cutOut, h]

@[simp] theorem whole_takePoll (a : PollAnswer) {s : State} (h : s.whole = true) : (takePoll a s).whole = true := by
  simp [takePoll, h]

/-! ## The transposer and the gather engine (07) -/

@[simp] theorem txpRun_whole (r : RecRef) (x : RecState) (s : State) : (txpRun r x s).whole = s.whole := by
  simp [txpRun]

@[simp] theorem writeChunks_state_whole (d src a : Nat) (cs : List Chunk) (s : State) :
    (writeChunks d src a cs s).state.whole = s.whole :=
  foldl_span_whole cs (fun t c => by split <;> simp) { state := s }

@[simp] theorem loadRun_whole (r : RecRef) (x : RecState) (s : State) : (loadRun r x s).whole = s.whole := by
  simp [loadRun]

@[simp] theorem storeRun_whole (r : RecRef) (x : RecState) (s : State) : (storeRun r x s).whole = s.whole := by
  unfold storeRun
  extract_lets f p y s1
  have hy : y.1.state.whole = s.whole := by
    refine foldl_fst_span_whole _ (fun a j => ?_) _
    refine (foldl_span_whole _ (fun t c => ?_) _).trans (by simp)
    split <;> simp
  simp [s1, hy]

@[simp] theorem askLine_whole (d h : Nat) (s : State) : (askLine d h s).whole = s.whole := by simp [askLine]

@[simp] theorem askNext_whole (d : Nat) (s : State) : (askNext d s).whole = s.whole := by
  unfold askNext
  split <;> simp

@[simp] theorem readIndices_whole (r : RecRef) (x : RecState) (s : State) : (readIndices r x s).whole = s.whole := by
  simp [readIndices]

@[simp] theorem gatherRow_fst_state_whole (r : RecRef) (f : GatherOp) (p len : Nat) (z : SpanRes × Option Nat)
    (i : Nat × Option Nat) : (gatherRow r f p len z i).1.state.whole = z.1.state.whole := by
  unfold gatherRow
  split
  · rfl
  · dsimp only
    split
    · simp
    · refine (foldl_whole _ (fun u k => ?_) _).trans (by simp)
      split <;> simp

@[simp] theorem gatherRun_whole (r : RecRef) (x : RecState) (s : State) : (gatherRun r x s).whole = s.whole := by
  simp [gatherRun]

/-! ## The vector engine (06) -/

@[simp] theorem readSource_fst_whole (d : Nat) (f : VxeOp) (o : VxeSrc) (n : Nat) (s : State) :
    (readSource d f o n s).1.whole = s.whole := by
  unfold readSource
  split <;> simp

@[simp] theorem vxeFinish_whole (r : RecRef) (f : VxeOp) (count : Nat) (red : Bool) (out : List (Nat × Flags))
    (bad : Option Nat) (s : State) : (vxeFinish r f count red out bad s).whole = s.whole := by simp [vxeFinish]
@[simp] theorem vxeRun_whole (r : RecRef) (x : RecState) (s : State) : (vxeRun r x s).whole = s.whole := by
  simp [vxeRun]
@[simp] theorem vredRun_whole (r : RecRef) (x : RecState) (s : State) : (vredRun r x s).whole = s.whole := by
  simp [vredRun]

/-! ## A record's start and end (03) -/

@[simp] theorem startRecord_whole (r : RecRef) (x : RecState) (s : State) : (startRecord r x s).whole = s.whole := by
  unfold startRecord
  dsimp only
  split
  · cases (s.modRec r fun _ => x.started r s).partOfCd r.die <;> simp
  · simp

@[simp] theorem wakeLull1_whole (bs : List BlockRef) (s : State) : (wakeLull1 bs s).whole = s.whole := by
  simp [wakeLull1]
@[simp] theorem startOrWake_whole (r : RecRef) (x : RecState) (upsets : List Upset) (s : State) :
    (startOrWake r x upsets s).whole = s.whole := by simp [startOrWake]
@[simp] theorem stopStarts_whole (p : Nat) (s : State) : (stopStarts p s).whole = s.whole := by simp [stopStarts]

@[simp] theorem dropQueued_whole (p : Nat) (s : State) : (dropQueued p s).whole = s.whole := by
  have hg : ∀ (g : SegmentImg) t, (forAll g.dies (fun e v => v.modSeq e.die fun q =>
    { q with free := q.free + e.records.length }) t).whole = t.whole := fun g t => by simp
  simp only [dropQueued, State.modStream_eq, State.modPart_whole, forAll_whole _ hg]

@[simp] theorem closeStream_whole (p state : Nat) (s : State) : (closeStream p state s).whole = s.whole := by
  simp [closeStream]
@[simp] theorem abandonStep_whole (p : Nat) (r : RecRef) (unit addr : Nat) (s : State) :
    (abandonStep p r unit addr s).whole = s.whole := by simp [abandonStep]
@[simp] theorem endIfDone_whole (p : Nat) (s : State) : (endIfDone p s).whole = s.whole := by simp [endIfDone]
@[simp] theorem retireSteps_whole (p d : Nat) (s : State) : (retireSteps p d s).whole = s.whole := by
  simp [retireSteps]
@[simp] theorem abortNow_whole (p : Nat) (s : State) : (abortNow p s).whole = s.whole := by simp [abortNow]
@[simp] theorem streamControl_whole (p : Nat) (v : Word) (s : State) : (streamControl p v s).whole = s.whole := by
  simp [streamControl]

@[simp] theorem countRecord_whole (r : RecRef) (x : RecState) (s : State) : (countRecord r x s).whole = s.whole := by
  simp only [countRecord]
  repeat' split
  all_goals simp

@[simp] theorem postStatus_whole (p : Nat) (u : StepRun) (r : RecRef) (x : RecState) (s : State) :
    (postStatus p u r x s).whole = s.whole := by simp [postStatus]
@[simp] theorem tidy_whole (p : Nat) (r : RecRef) (x : RecState) (s : State) : (tidy p r x s).whole = s.whole := by
  simp [tidy]

@[simp] theorem choiceSignal_whole (d : Nat) (u : StepRun) (cmd : Nat) (s : State) :
    (choiceSignal d u cmd s).whole = s.whole := by
  unfold choiceSignal
  split <;> simp

@[simp] theorem postSignals_whole (r : RecRef) (x : RecState) (s : State) : (postSignals r x s).whole = s.whole := by
  simp only [postSignals]
  repeat' split
  all_goals simp

@[simp] theorem openReplay_whole (r : RecRef) (a : Nat) (u : StepRun) (g : ReplayRange) (s : State) :
    (openReplay r a u g s).whole = s.whole := by simp [openReplay]

@[simp] theorem advanceReplay_whole (p : Nat) (y : ReplayRun) (r : RecRef) (x : RecState) (s : State) :
    (advanceReplay p y r x s).whole = s.whole := by
  unfold advanceReplay
  split <;> simp

@[simp] theorem lineBadEnds_whole (p : Nat) (r : RecRef) (x : RecState) (s : State) :
    (lineBadEnds p r x s).whole = s.whole := by
  simp only [lineBadEnds]
  split <;> simp

@[simp] theorem afterCompletion_whole (p : Nat) (r : RecRef) (x : RecState) (s : State) :
    (afterCompletion p r x s).whole = s.whole := by
  unfold afterCompletion
  repeat' split
  all_goals simp

/-! ## Stream segments (03) -/

@[simp] theorem acceptSegment_whole (bytes : List Byte) (s : State) : (acceptSegment bytes s).whole = s.whole := by
  simp [acceptSegment]
@[simp] theorem refuseSegment_whole (p : Nat) (r : SegRefusal) (s : State) :
    (refuseSegment p r s).whole = s.whole := by simp [refuseSegment]

/-! ## Windrose images (02) -/

@[simp] theorem refuseImage_whole (t : WrTarget) (r : ImgRefusal) (s : State) :
    (refuseImage t r s).whole = s.whole := by simp [refuseImage]
@[simp] theorem acceptImage_whole (b : List Byte) (s : State) : (acceptImage b s).whole = s.whole := by
  simp [acceptImage]

@[simp] theorem withdrawImage_whole (t : WrTarget) (s : State) : (withdrawImage t s).whole = s.whole := by
  unfold withdrawImage
  repeat' split
  all_goals simp

/-! ## Published sets (02) -/

@[simp] theorem publishArb_whole (n : Nat) (s : State) : (publishArb n s).whole = s.whole := by simp [publishArb]
@[simp] theorem publishPwr_whole (b : BlockRef) (s : State) : (publishPwr b s).whole = s.whole := by simp [publishPwr]
@[simp] theorem publishBrz_whole (h : Nat) (s : State) : (publishBrz h s).whole = s.whole := by simp [publishBrz]
@[simp] theorem publishUd_whole (u : Nat) (s : State) : (publishUd u s).whole = s.whole := by simp [publishUd]
@[simp] theorem publishTick_whole (p : Nat) (s : State) : (publishTick p s).whole = s.whole := by simp [publishTick]
@[simp] theorem publishStep_whole (p step : Nat) (s : State) : (publishStep p step s).whole = s.whole := by
  simp [publishStep]

/-! ## The commit of an image (02) -/

@[simp] theorem cellArea_whole (h : Nat) (on : Bool) (s : State) : (cellArea h on s).whole = s.whole := by
  simp [cellArea]
@[simp] theorem commitHub_whole (i : JobImage) (n : Nat) (newMap : Bool) (h : Nat) (s : State) :
    (commitHub i n newMap h s).whole = s.whole := by simp [commitHub]
@[simp] theorem commitPwr_whole (y : Policy) (lull : Bool) (b : BlockRef) (s : State) :
    (commitPwr y lull b s).whole = s.whole := by simp [commitPwr]
@[simp] theorem commitFennel_whole (k d : Nat) (s : State) : (commitFennel k d s).whole = s.whole := by
  simp [commitFennel, Function.comp_def]

@[simp] theorem commitJob_whole (p n : Nat) (s : State) : (commitJob p n s).whole = s.whole := by
  simp only [commitJob]
  split <;> simp

@[simp] theorem whole_commitFrame (n : Nat) {s : State} (h : s.whole = true) : (commitFrame n s).whole = true := by
  unfold commitFrame
  split
  · exact h
  · have hd : ∀ l, (forAll l (fun n t => darkPort n 3 t) s).whole = true := fun l =>
      whole_forAll l (fun n _ => whole_darkPort n 3) h
    simp [hd]

/-! ## Lulls and wakes (16) -/

@[simp] theorem wakePoints_whole (p : Nat) (s : State) : (wakePoints p s).whole = s.whole := by
  refine forAll_whole _ (fun b t => ?_) s
  dsimp only
  split
  · split
    · split <;> simp
    · rfl
  · rfl

/-! ## Rings and lasers (14) -/

@[simp] theorem whole_assignPort (n : Nat) {s : State} (h : s.whole = true) : (assignPort n s).whole = true := by
  refine whole_modPort n (fun q hq => ?_) h
  simp only [Port.whole, Bool.and_eq_true, beq_iff_eq] at hq ⊢
  split <;> simp [hq]

@[simp] theorem identifyPort_whole (n : Nat) (obs : SearchObs) (s : State) :
    (identifyPort n obs s).whole = s.whole := by simp [identifyPort]
@[simp] theorem parkRing_whole (n k : Nat) (s : State) : (parkRing n k s).whole = s.whole := by simp [parkRing]
@[simp] theorem confirmRing_whole (n k named : Nat) (s : State) : (confirmRing n k named s).whole = s.whole := by
  simp [confirmRing]
@[simp] theorem confirmPort_whole (n : Nat) (obs : SearchObs) (s : State) :
    (confirmPort n obs s).whole = s.whole := by simp [confirmPort]

@[simp] theorem whole_lightLasers (m : Nat) {s : State} (h : s.whole = true) : (lightLasers m s).whole = true := by
  refine whole_forAll _ (fun n t ht => whole_modPort n (fun q hq => ?_) ht) (by simp [h])
  simp only [Port.whole, Bool.and_eq_true, beq_iff_eq] at hq ⊢
  simp [hq]

@[simp] theorem endSearch_whole (m : Nat) (s : State) : (endSearch m s).whole = s.whole := by simp [endSearch]

@[simp] theorem whole_searchPhase (m : Nat) (obs : SearchObs) {s : State} (h : s.whole = true) :
    (searchPhase m obs s).whole = true := by
  have ha : ∀ l, (forAll l (fun n t => assignPort n t) s).whole = true := fun l =>
    whole_forAll l (fun n _ => whole_assignPort n) h
  unfold searchPhase
  split <;> simp [h, ha, whole_lightLasers]

@[simp] theorem hopRing_whole (n k : Nat) (up : Bool) (s : State) : (hopRing n k up s).whole = s.whole := by
  simp [hopRing]

@[simp] theorem whole_adoptShift (n σ : Nat) {s : State} (h : s.whole = true) : (adoptShift n σ s).whole = true := by
  refine whole_modPort n (fun q hq => ?_) h
  simp only [Port.whole, Bool.and_eq_true, beq_iff_eq] at hq ⊢
  simp [hq]

@[simp] theorem takeForecast_whole (d f : Nat) (s : State) : (takeForecast d f s).whole = s.whole := by
  unfold takeForecast
  repeat' split
  all_goals simp

@[simp] theorem feedForward_whole (d : Nat) (s : State) : (feedForward d s).whole = s.whole := by
  unfold feedForward
  split <;> simp

@[simp] theorem withdrawLine_whole (m line : Nat) (s : State) : (withdrawLine m line s).whole = s.whole := by
  simp [withdrawLine]
@[simp] theorem writeMap_whole (m line old new : Nat) (s : State) : (writeMap m line old new s).whole = s.whole := by
  simp [writeMap]

@[simp] theorem queueSwap_whole (m line : Nat) (s : State) : (queueSwap m line s).whole = s.whole := by
  unfold queueSwap
  split <;> simp

@[simp] theorem removeLine_whole (m line j : Nat) (s : State) : (removeLine m line j s).whole = s.whole := by
  simp [removeLine]
@[simp] theorem wantSpare_whole (m line j : Nat) (s : State) : (wantSpare m line j s).whole = s.whole := by
  simp [wantSpare]
@[simp] theorem warnLaser_whole (m j bias : Nat) (s : State) : (warnLaser m j bias s).whole = s.whole := by
  simp [warnLaser]

/-! ## Published registers (02, 11) -/

@[simp] theorem State.modSet_whole (s : State) (r : SetRef) (f : PubSet → PubSet) :
    (s.modSet r f).whole = s.whole := by
  unfold State.modSet
  split <;> simp

@[simp] theorem afterRead_whole (win off : Nat) (s : State) : (afterRead win off s).whole = s.whole := by
  simp [afterRead]

/-! ## The passage of time (03) -/

@[simp] theorem countSeconds_whole (n : Nat) (s : State) : (countSeconds n s).whole = s.whole := by
  simp [countSeconds]
@[simp] theorem advanceTo_whole (t : Nat) (s : State) : (advanceTo t s).whole = s.whole := by simp [advanceTo]
@[simp] theorem idle_whole (s : State) : (idle s).whole = s.whole := by simp [idle]

/-! ## The logbook (20) -/

@[simp] theorem takeSnapshot_whole (s : State) : (takeSnapshot s).whole = s.whole := by simp [takeSnapshot]
@[simp] theorem snapCommand_whole (v : Word) (s : State) : (snapCommand v s).whole = s.whole := by simp [snapCommand]

/-! ## Firmware (19) -/

@[simp] theorem raiseSecurity_whole (s : State) : (raiseSecurity s).whole = s.whole := by
  unfold raiseSecurity
  split <;> simp

@[simp] theorem beginWrite_whole (b : List Byte) (s : State) : (beginWrite b s).whole = s.whole := by
  simp [beginWrite]

/-! ## Nurok links (13) -/

@[simp] theorem rxLight_whole (n l : Nat) (s : State) : (rxLight n l s).whole = s.whole := by simp [rxLight]
@[simp] theorem peerGone_whole (n : Nat) (s : State) : (peerGone n s).whole = s.whole := by simp [peerGone]
@[simp] theorem forgiveLosses_whole (n : Nat) (s : State) : (forgiveLosses n s).whole = s.whole := by
  simp [forgiveLosses]

@[simp] theorem noteDeparture_whole (n : Nat) (flits : List (List Byte)) (s : State) :
    (noteDeparture n flits s).whole = s.whole := by
  unfold noteDeparture
  split <;> simp

@[simp] theorem takeControl_fst_whole (n k : Nat) (s : State) : (takeControl n k s).1.whole = s.whole := by
  simp [takeControl]
@[simp] theorem emit_whole (n l : Nat) (identity : Bool) (bytes : List Byte) (s : State) :
    (emit n l identity bytes s).whole = s.whole := by simp [emit]
@[simp] theorem resend_whole (n l : Nat) (f : SentFrame) (s : State) : (resend n l f s).whole = s.whole := by
  simp [resend]
@[simp] theorem sendSequenced_whole (p n l : Nat) (s : State) : (sendSequenced p n l s).whole = s.whole := by
  simp [sendSequenced]
@[simp] theorem sendLinkOnly_whole (n l : Nat) (s : State) : (sendLinkOnly n l s).whole = s.whole := by
  simp [sendLinkOnly]
@[simp] theorem ackMessage_whole (p : Nat) (m : Nat × Nat) (s : State) : (ackMessage p m s).whole = s.whole := by
  simp [ackMessage]

@[simp] theorem takeAck_whole (n a : Nat) (s : State) : (takeAck n a s).whole = s.whole := by
  simp only [takeAck]
  repeat' split
  all_goals simp

@[simp] theorem takeRequest_whole (n : Nat) (req : Byte) (s : State) : (takeRequest n req s).whole = s.whole := by
  simp [takeRequest]
@[simp] theorem takeMasks_whole (n : Nat) (service request done : Byte) (s : State) :
    (takeMasks n service request done s).whole = s.whole := by simp [takeMasks]
@[simp] theorem takeLink_whole (n : Nat) (b : List Byte) (s : State) : (takeLink n b s).whole = s.whole := by
  simp [takeLink]
@[simp] theorem takeMeasure_whole (p : Nat) (θ : Int) (s : State) : (takeMeasure p θ s).whole = s.whole := by
  simp [takeMeasure]

@[simp] theorem takeTime_whole (n : Nat) (b : List Byte) (s : State) : (takeTime n b s).whole = s.whole := by
  unfold takeTime
  split <;> simp

@[simp] theorem idBad_whole (n l : Nat) (s : State) : (idBad n l s).whole = s.whole := by simp [idBad]
@[simp] theorem mislockedLane_whole (n l wave : Nat) (s : State) : (mislockedLane n l wave s).whole = s.whole := by
  simp [mislockedLane]

@[simp] theorem whole_readIdentity (n l : Nat) (b : List Byte) {s : State} (h : s.whole = true) :
    (readIdentity n l b s).1.whole = true := by
  simp only [readIdentity]
  repeat' split
  all_goals simp [h]

@[simp] theorem countErrors_whole (n l corrected uncorr : Nat) (s : State) :
    (countErrors n l corrected uncorr s).whole = s.whole := by simp [countErrors]
@[simp] theorem qualify_whole (n l : Nat) (s : State) : (qualify n l s).whole = s.whole := by simp [qualify]
@[simp] theorem crcDrop_whole (n : Nat) (s : State) : (crcDrop n s).whole = s.whole := by simp [crcDrop]
@[simp] theorem descrambled_whole (n lane : Nat) (y : LineFrame) (s : State) :
    (descrambled n lane y s).whole = s.whole := by simp [descrambled]

@[simp] theorem whole_takeIdentity (n lane : Nat) (y : LineFrame) {s : State} (h : s.whole = true) :
    (takeIdentity n lane y s).whole = true := by
  simp only [takeIdentity]
  repeat' split
  all_goals simp [h]

@[simp] theorem whole_arriveFlit (n l : Nat) (ctl : Bool) (b : List Byte) {s : State} (h : s.whole = true) :
    (arriveFlit n l ctl b s).whole = true := by
  unfold arriveFlit
  repeat' split
  all_goals simp [h]

@[simp] theorem takeSequenced_whole (p n : Nat) (x : HeldFrame) (s : State) :
    (takeSequenced p n x s).whole = s.whole := by simp [takeSequenced]

@[simp] theorem whole_takeFrame (n lane : Nat) (y : LineFrame) (sequenced : Bool) {s : State} (h : s.whole = true) :
    (takeFrame n lane y sequenced s).whole = true := by
  have ha : ∀ (map : Nat) (l : List (Nat × List Byte)) {t : State}, t.whole = true →
      (forAll l (fun f u => arriveFlit n lane (bit map f.1) f.2 u) t).whole = true := fun map l _ ht =>
    whole_forAll l (fun f _ => whole_arriveFlit n lane _ f.2) ht
  unfold takeFrame
  split <;> simp [h, ha]

@[simp] theorem whole_hearFrame (n lane : Nat) (line : List Byte) (sequenced : Bool) {s : State}
    (h : s.whole = true) : (hearFrame n lane line sequenced s).whole = true := by simp [hearFrame, h]
@[simp] theorem whole_retrainPort (n : Nat) {s : State} (h : s.whole = true) : (retrainPort n s).whole = true := by
  simp [retrainPort, h]
@[simp] theorem whole_holdPort (n : Nat) (v : Word) {s : State} (h : s.whole = true) :
    (holdPort n v s).whole = true := by simp [holdPort, h]
@[simp] theorem holdLanes_whole (n : Nat) (v : Word) (s : State) : (holdLanes n v s).whole = s.whole := by
  simp [holdLanes]

/-! ## Start-up and resets (17, 18) -/

theorem Cd.fresh_whole (c : Cd) : c.fresh.whole = true := by simp [Cd.fresh, Cd.whole, dieBlocks, Function.comp_def]
theorem freshLe_lasers_length (warm : Bool) (m : Nat) {s : State} (h : (s.le m).lasers.length = 10) :
    (freshLe warm m s).lasers.length = 10 := by simp [freshLe, h]

theorem freshPort_whole (warm : Bool) (n : Nat) {s : State} (h : (s.port n).whole = true) :
    (freshPort warm n s).whole = true := by
  simp only [Port.whole, Bool.and_eq_true, beq_iff_eq] at h
  unfold freshPort
  split
  · simp [Port.whole, h]
  · rfl

theorem State.le_lasers_length {s : State} (h : s.whole = true) {m : Nat} (hm : m < 8) :
    (s.le m).lasers.length = 10 := by
  obtain ⟨_, _, _, _, _, hl, _, _, ha, _⟩ := (State.whole_iff s).1 h
  have := List.all_eq_true.1 ha _ (List.getElem_mem (hl.symm ▸ hm))
  simpa [State.le, List.getD_eq_getElem?_getD, hl, hm] using this

theorem State.port_whole {s : State} (h : s.whole = true) {n : Nat} (hn : n < 128) : (s.port n).whole = true := by
  obtain ⟨_, _, _, _, _, _, hl, _, _, ha⟩ := (State.whole_iff s).1 h
  have := List.all_eq_true.1 ha _ (List.getElem_mem (hl.symm ▸ hn))
  simpa [State.port, List.getD_eq_getElem?_getD, hl, hn] using this

/-- The light engines of a reset or of a power-up have all their lasers. -/
theorem freshLes_whole (warm : Bool) {s : State} (h : s.whole = true) :
    ((List.range 8).map fun m => freshLe warm m s).all (fun e => e.lasers.length == 10) = true := by
  simp only [List.all_map, List.all_eq_true, List.mem_range, Function.comp, beq_iff_eq]
  exact fun m hm => freshLe_lasers_length warm m (s.le_lasers_length h hm)

@[simp] theorem whole_resetUnits (keep : Bool) {s : State} (h : s.whole = true) :
    (resetUnits keep s).whole = true := by
  have hp := fun n (hn : n < 128) => freshPort_whole keep n (s.port_whole h hn)
  have hl := freshLes_whole keep h
  rw [State.whole_iff] at h ⊢
  obtain ⟨h1, h2, h3, h4, h5, _⟩ := h
  simp only [resetUnits, List.length_map, List.length_range]
  exact ⟨h1, h2, h3, h4, h5, trivial, trivial, by simp [Cd.fresh_whole], hl, by simpa using hp⟩

@[simp] theorem whole_beginReset (level cause : Nat) {s : State} (h : s.whole = true) :
    (beginReset level cause s).whole = true := by simp [beginReset, h]
@[simp] theorem whole_requestReset (level cause : Nat) {s : State} (h : s.whole = true) :
    (requestReset level cause s).whole = true := by simp [requestReset, h]
@[simp] theorem releaseReset_whole (s : State) : (releaseReset s).whole = s.whole := by simp [releaseReset]
@[simp] theorem whole_modReset (v : Nat) {s : State} (h : s.whole = true) : (modReset v s).whole = true := by
  simp [modReset, h]

@[simp] theorem whole_unpowered (tripped : Bool) {s : State} (h : s.whole = true) :
    (unpowered tripped s).whole = true := by
  rw [State.whole_iff] at h ⊢
  obtain ⟨_, _, h3, h4, _⟩ := h
  simp only [unpowered, List.length_map]
  exact ⟨rfl, rfl, h3, h4, rfl, rfl, rfl, by simp [Cd.fresh_whole], rfl, rfl⟩

@[simp] theorem beginVerify_whole (s : State) : (beginVerify s).whole = s.whole := by simp [beginVerify]
@[simp] theorem whole_enterRecovery (check : Nat) {s : State} (h : s.whole = true) :
    (enterRecovery check s).whole = true := by simp [enterRecovery, h]

@[simp] theorem whole_keepBaith {old s : State} (ho : old.whole = true) (h : s.whole = true) :
    (keepBaith old s).whole = true := by
  rw [State.whole_iff] at ho h ⊢
  obtain ⟨_, hbp, _⟩ := ho
  obtain ⟨hcds, _, hrest⟩ := h
  exact ⟨hcds, hbp, hrest⟩

@[simp] theorem powerGroup_whole (g : Nat) (s : State) : (powerGroup g s).whole = s.whole := by
  simp only [powerGroup]
  repeat' split
  all_goals simp

@[simp] theorem powerEngine_whole (m : Nat) (s : State) : (powerEngine m s).whole = s.whole := by simp [powerEngine]
@[simp] theorem applyDefaultFrame_whole (s : State) : (applyDefaultFrame s).whole = s.whole := by
  simp [applyDefaultFrame]
@[simp] theorem logFailed_whole (site : Site) (s : State) : (logFailed site s).whole = s.whole := by simp [logFailed]
@[simp] theorem startProbing_whole (s : State) : (startProbing s).whole = s.whole := by simp [startProbing]
@[simp] theorem whole_resetPort (n : Nat) {s : State} (h : s.whole = true) : (resetPort n s).whole = true := by
  simp [resetPort, h]

@[simp] theorem whole_startPartReset (p : Nat) {s : State} (h : s.whole = true) :
    (startPartReset p s).whole = true := by
  have hp : ∀ l, (forAll l resetPort s).whole = true := fun l => whole_forAll l (fun n _ => whole_resetPort n) h
  have hc : ∀ (l : List Nat) {t : State}, t.whole = true →
      (forAll l (fun d t => t.modCd d fun c => { c.fresh with pwr := c.pwr.sharesOnly }) t).whole = true :=
    fun l _ ht =>
    whole_forAll l (fun d _ => whole_modCd d fun c _ => by
      simp [Cd.whole, Cd.fresh, DiePower.sharesOnly, dieBlocks, Function.comp_def]) ht
  simp [startPartReset, h, hp, hc]

/-! ## Baith ports (17) -/

@[simp] theorem postBlock_whole (b kind tag : Nat) (payload : List Byte) (s : State) :
    (postBlock b kind tag payload s).whole = s.whole := by simp [postBlock]
@[simp] theorem postData_whole (b kind tag : Nat) (data : List Byte) (s : State) :
    (postData b kind tag data s).whole = s.whole := by simp [postData]
@[simp] theorem complete_whole (b : Nat) (r : ReqId) (status reason done address : Nat) (s : State) :
    (complete b r status reason done address s).whole = s.whole := by simp [complete]
@[simp] theorem refuse_whole (b : Nat) (r : ReqId) (code address : Nat) (s : State) :
    (refuse b r code address s).whole = s.whole := by simp [refuse]
@[simp] theorem sendKeepAlive_whole (b : Nat) (s : State) : (sendKeepAlive b s).whole = s.whole := by
  simp [sendKeepAlive]
@[simp] theorem returnUnits_whole (b n : Nat) (s : State) : (returnUnits b n s).whole = s.whole := by
  simp [returnUnits]
@[simp] theorem discardUnits_whole (b n : Nat) (s : State) : (discardUnits b n s).whole = s.whole := by
  simp [discardUnits]
@[simp] theorem showLoad_whole (b kind st : Nat) (bytes : List Byte) (s : State) :
    (showLoad b kind st bytes s).whole = s.whole := by simp [showLoad]

@[simp] theorem dropTransfer_whole (b kind : Nat) (s : State) : (dropTransfer b kind s).whole = s.whole := by
  unfold dropTransfer
  split <;> simp

@[simp] theorem takeTransfer_whole (b : Nat) (x : Block) (s : State) : (takeTransfer b x s).whole = s.whole := by
  simp only [takeTransfer]
  split <;> simp

@[simp] theorem takeHead_whole (b : Nat) (h : List Byte) (s : State) : (takeHead b h s).whole = s.whole := by
  simp [takeHead]
@[simp] theorem acceptBlock_whole (b : Nat) (x : Block) (s : State) : (acceptBlock b x s).whole = s.whole := by
  simp [acceptBlock]
@[simp] theorem takeBlock_whole (b : Nat) (bytes : List Byte) (s : State) :
    (takeBlock b bytes s).whole = s.whole := by simp [takeBlock]
@[simp] theorem countHunt_whole (b n : Nat) (s : State) : (countHunt b n s).whole = s.whole := by simp [countHunt]
@[simp] theorem keepPart_whole (b : Nat) (part : List Byte) (s : State) : (keepPart b part s).whole = s.whole := by
  simp [keepPart]

@[simp] theorem receiveBytes_whole (b fuel : Nat) (bytes : List Byte) (s : State) :
    (receiveBytes b fuel bytes s).whole = s.whole := by
  induction fuel generalizing bytes s with
  | zero => simp [receiveBytes]
  | succ fuel ih => simp [receiveBytes, ih]

/-! ## Tick boundaries (03) -/

@[simp] theorem whole_openDie (d : Nat) {s : State} (h : s.whole = true) : (openDie d s).whole = true := by
  refine whole_modCd d (fun c hc => ?_) h
  simp only [Cd.whole, Bool.and_eq_true] at hc ⊢
  simp_all

@[simp] theorem whole_beginDie (g : SegmentImg) (n d : Nat) {s : State} (h : s.whole = true) :
    (beginDie g n d s).whole = true := by
  refine whole_modSeq d (fun q hs _ => ?_) h
  dsimp only
  split <;> exact ⟨hs, by simp [Seq.clearBank]⟩

@[simp] theorem beginGather_whole (p : Nat) (g : SegmentImg) (s : State) : (beginGather p g s).whole = s.whole := by
  simp only [beginGather]
  split <;> simp

@[simp] theorem whole_beginStep (p n : Nat) (g : SegmentImg) {s : State} (h : s.whole = true) :
    (beginStep p n g s).whole = true := by
  have ho : ∀ (l : List Nat) {t : State}, t.whole = true → (forAll l openDie t).whole = true := fun l _ =>
    whole_forAll l fun d _ => whole_openDie d
  have hb : ∀ (l : List Nat) {t : State}, t.whole = true → (forAll l (beginDie g n) t).whole = true := fun l _ =>
    whole_forAll l fun d _ => whole_beginDie g n d
  simp [beginStep, h, ho, hb]

@[simp] theorem countWait_whole (p n : Nat) (s : State) : (countWait p n s).whole = s.whole := by simp [countWait]
@[simp] theorem endSteps_whole (p n : Nat) (s : State) : (endSteps p n s).whole = s.whole := by simp [endSteps]
@[simp] theorem slipDie_whole (p n d : Nat) (s : State) : (slipDie p n d s).whole = s.whole := by
  simp [slipDie, apply_ite Seq.sregs, apply_ite Seq.ev]

@[simp] theorem becalmAt_whole (p n : Nat) (r : RecRef) (x : RecState) (s : State) :
    (becalmAt p n r x s).whole = s.whole := by
  unfold becalmAt
  split <;> simp

@[simp] theorem stallCounts_whole (p n : Nat) (s : State) : (stallCounts p n s).whole = s.whole := by
  simp [stallCounts]
@[simp] theorem sendForecast_whole (p n d : Nat) (s : State) : (sendForecast p n d s).whole = s.whole := by
  simp [sendForecast]
@[simp] theorem hubTiming_whole (h : Nat) (s : State) : (hubTiming h s).whole = s.whole := by simp [hubTiming]
@[simp] theorem dieTiming_whole (d : Nat) (s : State) : (dieTiming d s).whole = s.whole := by simp [dieTiming]

@[simp] theorem whole_atBoundary (p n : Nat) {s : State} (h : s.whole = true) : (atBoundary p n s).whole = true := by
  unfold atBoundary
  extract_lets old s1 m begins s2 next w s3 s4 s5 s6 s7 s8 s9 s10
  have h2 : s2.whole = true := by simp [s2, s1, h]
  have hw : w.whole = true := by simp [w, h2]
  have h3 : s3.whole = true := by
    clear_value begins next w
    simp only [s3]
    split
    · simp [h2]
    · exact State.whole_ite hw (by simp [hw])
  simp [s10, s9, s8, s7, s6, s5, s4, h3]

@[simp] theorem whole_passBoundary (p : Nat) {s : State} (h : s.whole = true) : (passBoundary p s).whole = true := by
  simp [passBoundary, h]

@[simp] theorem whole_frameBoundary (m : Nat) {s : State} (h : s.whole = true) : (frameBoundary m s).whole = true :=
  whole_forAll _ (fun p _ => whole_passBoundary p) (by simp [h])

/-! ## Fennel's comparison (21) -/

@[simp] theorem compareSample_whole (d : Nat) (m : FennelSample) (s : State) :
    (compareSample d m s).whole = s.whole := by
  simp only [compareSample]
  repeat' split
  all_goals simp

/-! ## Register writes (11) -/

@[simp] theorem writeMember_whole (m : Member) (v : Word) (s : State) : (writeMember m v s).whole = s.whole := by
  simp [writeMember]
@[simp] theorem writeFe_whole (d e : Nat) (v : Word) (s : State) : (writeFe d e v s).whole = s.whole := by
  simp [writeFe]
@[simp] theorem writeOor_whole (d : Nat) (v : Word) (s : State) : (writeOor d v s).whole = s.whole := by
  simp [writeOor]
@[simp] theorem writeBad_whole (d : Nat) (v : Word) (s : State) : (writeBad d v s).whole = s.whole := by
  simp [writeBad]
@[simp] theorem writeCveTable_whole (d off : Nat) (v : Word) (s : State) :
    (writeCveTable d off v s).whole = s.whole := by simp [writeCveTable]
@[simp] theorem clearWaitMax_whole (d g : Nat) (s : State) : (clearWaitMax d g s).whole = s.whole := by
  simp [clearWaitMax]

@[simp] theorem writeCd_whole (d off : Nat) (v : Word) (s : State) : (writeCd d off v s).whole = s.whole := by
  simp only [writeCd]
  repeat' split
  all_goals simp

@[simp] theorem writeNv_whole (h : Nat) (v : Word) (s : State) : (writeNv h v s).whole = s.whole := by simp [writeNv]
@[simp] theorem writeCacheCtrl_whole (h : Nat) (v : Word) (s : State) : (writeCacheCtrl h v s).whole = s.whole := by
  simp [writeCacheCtrl]
@[simp] theorem writeScrub_whole (h : Nat) (v : Word) (s : State) : (writeScrub h v s).whole = s.whole := by
  simp [writeScrub]

@[simp] theorem writeHub_whole (h off : Nat) (v : Word) (s : State) : (writeHub h off v s).whole = s.whole := by
  unfold writeHub
  split <;> simp

@[simp] theorem writeUd_whole (u off : Nat) (v : Word) (s : State) : (writeUd u off v s).whole = s.whole := by
  simp [writeUd]
@[simp] theorem writeArbFlag_whole (n : Nat) (v : Word) (s : State) : (writeArbFlag n v s).whole = s.whole := by
  simp [writeArbFlag]
@[simp] theorem whole_writeLkCmd (n : Nat) (v : Word) {s : State} (h : s.whole = true) :
    (writeLkCmd n v s).whole = true := by simp [writeLkCmd, h]

@[simp] theorem whole_writePort (n off : Nat) (v : Word) {s : State} (h : s.whole = true) :
    (writePort n off v s).whole = true := by
  unfold writePort
  split <;> simp [h]

@[simp] theorem writeSwapCmd_whole (m : Nat) (v : Word) (s : State) : (writeSwapCmd m v s).whole = s.whole := by
  simp [writeSwapCmd]

@[simp] theorem whole_writeLe (m off : Nat) (v : Word) {s : State} (h : s.whole = true) :
    (writeLe m off v s).whole = true := by
  refine State.whole_ite (by simp [h]) ?_
  split <;> simp [h]

@[simp] theorem setAnchor_whole (v : Word) (s : State) : (setAnchor v s).whole = s.whole := by simp [setAnchor]
@[simp] theorem abortImage_whole (t : WrTarget) (v : Word) (s : State) : (abortImage t v s).whole = s.whole := by
  simp [abortImage]
@[simp] theorem clearAlert_whole (v : Nat) (s : State) : (clearAlert v s).whole = s.whole := by simp [clearAlert]

@[simp] theorem whole_writeCtrl (off : Nat) (v : Word) {s : State} (h : s.whole = true) :
    (writeCtrl off v s).whole = true := by
  rw [writeCtrl]
  refine State.whole_ite (State.whole_ite (by simp [h]) h) <| State.whole_ite (State.whole_ite (by simp [h]) h) <|
    State.whole_ite (State.whole_ite (by simp [h]) h) ?_
  extract_lets clk
  have hc : ∀ f, (clk f).whole = true := fun _ => h
  split <;> simp [hc, h]

@[simp] theorem whole_regWrite (win off : Nat) (v : Word) {s : State} (h : s.whole = true) :
    (regWrite win off v s).whole = true := by
  refine State.whole_ite h ?_
  split
  · simp [h]
  · refine State.whole_ite h ?_
    split <;> simp [h]

@[simp] theorem denyAccess_whole (b win off n : Nat) (write : Bool) (s : State) :
    (denyAccess b win off n write s).whole = s.whole := by
  unfold denyAccess
  split <;> simp

@[simp] theorem whole_hostWrite (b win off : Nat) (v : Word) {s : State} (h : s.whole = true) :
    (hostWrite b win off v s).whole = true := by simp [hostWrite, h]
@[simp] theorem hostRead_whole (b win off : Nat) (s : State) : (hostRead b win off s).whole = s.whole := by
  simp [hostRead]

/-! ## Requests of a host (17) -/

@[simp] theorem passTurn_whole (b : Nat) (s : State) : (passTurn b s).whole = s.whole := by simp [passTurn]

@[simp] theorem serve_whole (b : Nat) (f : Block → Bool) {k : Block → State → State}
    (hk : ∀ x t, (k x t).whole = t.whole) (s : State) : (serve b f k s).whole = s.whole := by
  unfold serve
  split <;> simp [hk]

theorem whole_serve (b : Nat) (f : Block → Bool) {k : Block → State → State}
    (hk : ∀ x t, t.whole = true → (k x t).whole = true) {s : State} (h : s.whole = true) :
    (serve b f k s).whole = true := by
  unfold serve
  split
  · exact h
  · exact State.whole_ite (hk _ _ (by simp [h])) h

@[simp] theorem takeOut_whole (b : Nat) (f : Block → Bool) (s : State) : (takeOut b f s).whole = s.whole := by
  unfold takeOut
  split <;> simp

@[simp] theorem takeSegment_whole (b : Nat) (x : Block) (s : State) : (takeSegment b x s).whole = s.whole := by
  unfold takeSegment
  repeat' split
  all_goals simp

@[simp] theorem endLoad_whole (t : WrTarget) (s : State) : (endLoad t s).whole = s.whole := by simp [endLoad]

@[simp] theorem takeImage_whole (b : Nat) (x : Block) (s : State) : (takeImage b x s).whole = s.whole := by
  unfold takeImage
  repeat' split
  all_goals simp

@[simp] theorem takeFirmware_whole (b : Nat) (x : Block) (s : State) : (takeFirmware b x s).whole = s.whole := by
  unfold takeFirmware
  repeat' split
  all_goals simp

@[simp] theorem dmaWrite_state_whole (p r o : Nat) (bs : List Byte) (s : State) :
    (dmaWrite p r o bs s).state.whole = s.whole := by simp [dmaWrite]

@[simp] theorem completeMem_whole (b p : Nat) (r : ReqId) (done : Nat) (bad : Option Nat) (s : State) :
    (completeMem b p r done bad s).whole = s.whole := by
  unfold completeMem
  split <;> simp

@[simp] theorem takeWrite_whole (b : Nat) (x : Block) (s : State) : (takeWrite b x s).whole = s.whole := by
  unfold takeWrite
  split <;> simp

@[simp] theorem takeRead_whole (b : Nat) (x : Block) (s : State) : (takeRead b x s).whole = s.whole := by
  simp only [takeRead]
  split <;> simp

@[simp] theorem takeRegRead_whole (b : Nat) (x : Block) (s : State) : (takeRegRead b x s).whole = s.whole := by
  simp only [takeRegRead]
  split <;> simp

@[simp] theorem whole_takeRegWrite (b : Nat) (x : Block) {s : State} (h : s.whole = true) :
    (takeRegWrite b x s).whole = true := by
  refine State.whole_ite (by simp [h]) ?_
  split
  · simp [h]
  · simp [h]
  · have hw : ∀ (n win off : Nat) {t : State}, t.whole = true → (forRange n (fun i t =>
        regWrite win (off + 4 * i) (wordAt x.payload (16 + 4 * i)) t) t).whole = true := fun n _ _ _ =>
      whole_forRange n fun i _ => whole_regWrite _ _ _
    simp [h, hw]

@[simp] theorem takeLogRead_whole (b : Nat) (x : Block) (s : State) : (takeLogRead b x s).whole = s.whole := by
  simp [takeLogRead]
@[simp] theorem takeReport_whole (b : Nat) (x : Block) (s : State) : (takeReport b x s).whole = s.whole := by
  simp [takeReport]
@[simp] theorem takeCerts_whole (b : Nat) (x : Block) (s : State) : (takeCerts b x s).whole = s.whole := by
  simp [takeCerts]

/-! ## The SMBus target (18) -/

@[simp] theorem smbusAnswer_whole (data : List Byte) (s : State) : (smbusAnswer data s).whole = s.whole := by
  simp [smbusAnswer]

end Sys2Proof.Machine
end

section
/-! PROOF. What each command does to `State.whole`: it is an operation, or a choice between operations, behind the check of
the units that the command names. -/

namespace Sys2Proof.Machine

/-- The next state, where one is answered, has every unit of the family with all its parts. -/
def KeepsShape (o : Host.Outcome State Fault Refusal) : Prop := ∀ t, o = .next t → t.whole = true

@[simp] theorem onlyIf_keepsShape {ok : Bool} {t : State} (h : t.whole = true) : KeepsShape (onlyIf ok t) :=
  fun _ e => (onlyIf_next e).2 ▸ h

@[simp] theorem next_keepsShape {t : State} (h : t.whole = true) : KeepsShape (.next t) := by
  rintro _ ⟨⟩
  exact h

@[simp] theorem State.marked_whole (s : State) (r : RecRef) : (s.marked r).whole = s.whole := by simp [State.marked]

@[simp] theorem runOp_keepsShape (r : RecRef) (code : Nat) {f : RecState → State → State}
    (hf : ∀ x t, (f x t).whole = t.whole) {s : State} (h : s.whole = true) : KeepsShape (runOp r code f s) := by
  intro t e
  rcases runOp_next e with ⟨x, _, rfl⟩ | ⟨_, rfl⟩
  · simp [hf, h]
  · exact h

@[simp] theorem runOpWhen_keepsShape (r : RecRef) (code : Nat) (ready : RecState → State → Bool)
    {f : RecState → State → State} (hf : ∀ x t, (f x t).whole = t.whole) {s : State} (h : s.whole = true) :
    KeepsShape (runOpWhen r code ready f s) := by
  unfold runOpWhen
  split
  · split <;> simp [hf, h]
  · simp [h]

@[simp] theorem execAccumArrival_keepsShape (h i : Nat) {s : State} (hs : s.whole = true) :
    KeepsShape (execAccumArrival h i s) := by
  refine onlyIf_keepsShape ?_
  split <;> simp [hs]

@[simp] theorem execHeldArrivalOpen_keepsShape (h : Nat) {s : State} (hs : s.whole = true) :
    KeepsShape (execHeldArrivalOpen h s) := by
  refine onlyIf_keepsShape ?_
  dsimp only
  repeat' split
  all_goals simp [hs]

@[simp] theorem execGranuleStallDiscard_keepsShape (h region granule : Nat) {s : State} (hs : s.whole = true) :
    KeepsShape (execGranuleStallDiscard h region granule s) := by
  refine onlyIf_keepsShape ?_
  repeat' split
  all_goals simp [hs]

@[simp] theorem execClockChoice_keepsShape (blk : BlockRef) (powerMax currentMax thermalMax : Nat) {s : State}
    (hs : s.whole = true) : KeepsShape (execClockChoice blk powerMax currentMax thermalMax s) := by
  simp [execClockChoice, hs]

@[simp] theorem execWakeBegin_keepsShape (d g : Nat) {s : State} (hs : s.whole = true) :
    KeepsShape (execWakeBegin d g s) := by
  refine onlyIf_keepsShape ?_
  split <;> simp [hs]

/-- The tiles of an engine that wakes from lull-3, cleared (R132). -/
theorem whole_clearTiles (d e : Nat) {s : State} (h : s.whole = true) :
    (s.modMxe d e fun m => { m with tiles := List.replicate 4 {} }).whole = true := by
  refine whole_modCd d (fun c hc => ?_) h
  simp only [Cd.whole, Bool.and_eq_true, modAt_length] at hc ⊢
  obtain ⟨⟨⟨⟨hq, hm⟩, hc⟩, hp⟩, hg⟩ := hc
  exact ⟨⟨⟨⟨hq, modAt_all _ _ _ _ (fun _ _ => rfl) hm⟩, hc⟩, hp⟩, hg⟩

@[simp] theorem execWakeComplete_keepsShape (blk : BlockRef) {s : State} (hs : s.whole = true) :
    KeepsShape (execWakeComplete blk s) := by
  refine onlyIf_keepsShape (State.whole_ite ?_ hs)
  have hb : ∀ f, (s.modBlk blk f).whole = true := fun f => by simp [hs]
  split
  · refine State.whole_ite (hb _) (State.whole_ite ?_ (State.whole_ite ?_ (State.whole_ite ?_ (hb _))))
    · simp [hs]
    · exact whole_clearTiles _ _ (hb _)
    · simp [hs]
  · exact hb _

@[simp] theorem execTokenRefill_keepsShape (d g : Nat) {s : State} (hs : s.whole = true) :
    KeepsShape (execTokenRefill d g s) := by simp [execTokenRefill, hs]
@[simp] theorem execLullEntryDone_keepsShape (blk : BlockRef) {s : State} (hs : s.whole = true) :
    KeepsShape (execLullEntryDone blk s) := by simp [execLullEntryDone, hs]
@[simp] theorem execJunctionSample_keepsShape (blk : BlockRef) (temp : Int) (powerMw : Nat) {s : State}
    (hs : s.whole = true) : KeepsShape (execJunctionSample blk temp powerMw s) := by simp [execJunctionSample, hs]
@[simp] theorem execSegmentCurrentSample_keepsShape (d g mean peak : Nat) {s : State} (hs : s.whole = true) :
    KeepsShape (execSegmentCurrentSample d g mean peak s) := by simp [execSegmentCurrentSample, hs]
@[simp] theorem execCurrentStopRestart_keepsShape (d g : Nat) {s : State} (hs : s.whole = true) :
    KeepsShape (execCurrentStopRestart d g s) := by simp [execCurrentStopRestart, hs]
@[simp] theorem execNop_keepsShape (r : RecRef) {s : State} (hs : s.whole = true) : KeepsShape (execNop r s) := by
  simp [execNop, hs]
@[simp] theorem execSmovi_keepsShape (r : RecRef) {s : State} (hs : s.whole = true) : KeepsShape (execSmovi r s) := by
  simp [execSmovi, hs]
@[simp] theorem execSalu_keepsShape (r : RecRef) {s : State} (hs : s.whole = true) : KeepsShape (execSalu r s) := by
  simp [execSalu, hs]
@[simp] theorem execSld_keepsShape (r : RecRef) {s : State} (hs : s.whole = true) : KeepsShape (execSld r s) := by
  simp [execSld, hs]
@[simp] theorem execSst_keepsShape (r : RecRef) {s : State} (hs : s.whole = true) : KeepsShape (execSst r s) := by
  simp [execSst, hs]
@[simp] theorem execEvadd_keepsShape (r : RecRef) {s : State} (hs : s.whole = true) : KeepsShape (execEvadd r s) := by
  simp [execEvadd, hs]

@[simp] theorem execReplay_keepsShape (r : RecRef) {s : State} (hs : s.whole = true) :
    KeepsShape (execReplay r s) := by
  refine runOp_keepsShape r _ (fun x t => ?_) hs
  simp [apply_ite Seq.sregs, apply_ite Seq.ev, apply_ite List.length]

@[simp] theorem execChoice_keepsShape (r : RecRef) {s : State} (hs : s.whole = true) :
    KeepsShape (execChoice r s) := by
  refine runOp_keepsShape r _ (fun x t => ?_) hs
  split
  · rfl
  · dsimp only
    repeat' split
    all_goals simp

@[simp] theorem execPut_keepsShape (r : RecRef) {s : State} (hs : s.whole = true) : KeepsShape (execPut r s) := by
  simp [execPut, hs]

@[simp] theorem execWaitin_keepsShape (r : RecRef) {s : State} (hs : s.whole = true) :
    KeepsShape (execWaitin r s) := by
  unfold execWaitin
  repeat' split
  all_goals simp [hs]

@[simp] theorem execAccum_keepsShape (r : RecRef) {s : State} (hs : s.whole = true) : KeepsShape (execAccum r s) := by
  simp [execAccum, hs]
@[simp] theorem execRingag_keepsShape (r : RecRef) {s : State} (hs : s.whole = true) :
    KeepsShape (execRingag r s) := by simp [execRingag, hs]
@[simp] theorem execMma_keepsShape (r : RecRef) {s : State} (hs : s.whole = true) : KeepsShape (execMma r s) := by
  simp [execMma, hs]

@[simp] theorem execAclr_keepsShape (r : RecRef) {s : State} (hs : s.whole = true) : KeepsShape (execAclr r s) := by
  refine runOp_keepsShape r _ (fun x t => forRange_whole 4 (fun i u => ?_) t) hs
  simp

@[simp] theorem execAst_keepsShape (r : RecRef) {s : State} (hs : s.whole = true) : KeepsShape (execAst r s) := by
  simp [execAst, hs]
@[simp] theorem execAsv_keepsShape (r : RecRef) {s : State} (hs : s.whole = true) : KeepsShape (execAsv r s) := by
  simp [execAsv, hs]

@[simp] theorem execAld_keepsShape (r : RecRef) {s : State} (hs : s.whole = true) : KeepsShape (execAld r s) := by
  refine runOp_keepsShape r _ (fun x t => ?_) hs
  simp

@[simp] theorem execFill_keepsShape (r : RecRef) {s : State} (hs : s.whole = true) : KeepsShape (execFill r s) := by
  simp [execFill, hs]
@[simp] theorem execCvt_keepsShape (r : RecRef) {s : State} (hs : s.whole = true) : KeepsShape (execCvt r s) := by
  simp [execCvt, hs]
@[simp] theorem execAmxout_keepsShape (r : RecRef) {s : State} (hs : s.whole = true) :
    KeepsShape (execAmxout r s) := by simp [execAmxout, hs]
@[simp] theorem execAmxpush_keepsShape (r : RecRef) {s : State} (hs : s.whole = true) :
    KeepsShape (execAmxpush r s) := by simp [execAmxpush, hs]
@[simp] theorem execScsel_keepsShape (r : RecRef) {s : State} (hs : s.whole = true) : KeepsShape (execScsel r s) := by
  simp [execScsel, hs]
@[simp] theorem execTst_keepsShape (r : RecRef) {s : State} (hs : s.whole = true) : KeepsShape (execTst r s) := by
  simp [execTst, hs]
@[simp] theorem execTld_keepsShape (r : RecRef) {s : State} (hs : s.whole = true) : KeepsShape (execTld r s) := by
  simp [execTld, hs]

@[simp] theorem execStepword_keepsShape (r : RecRef) {s : State} (hs : s.whole = true) :
    KeepsShape (execStepword r s) := by
  refine onlyIf_keepsShape ?_
  split <;> simp [hs]

@[simp] theorem execStepwordGatherDone_keepsShape (p : Nat) {s : State} (hs : s.whole = true) :
    KeepsShape (execStepwordGatherDone p s) := by
  refine onlyIf_keepsShape ?_
  repeat' split
  all_goals simp [hs]

@[simp] theorem execVerdictDelivery_keepsShape (p : Nat) {s : State} (hs : s.whole = true) :
    KeepsShape (execVerdictDelivery p s) := by
  refine onlyIf_keepsShape ?_
  repeat' split
  all_goals simp [hs]

@[simp] theorem execMeshMessageArrival_keepsShape (p i : Nat) {s : State} (hs : s.whole = true) :
    KeepsShape (execMeshMessageArrival p i s) := by
  refine onlyIf_keepsShape ?_
  repeat' split
  all_goals simp [hs]

@[simp] theorem execUfold_keepsShape (r : RecRef) {s : State} (hs : s.whole = true) : KeepsShape (execUfold r s) := by
  simp [execUfold, hs]
@[simp] theorem execUshare_keepsShape (r : RecRef) {s : State} (hs : s.whole = true) :
    KeepsShape (execUshare r s) := by simp [execUshare, hs]

@[simp] theorem execUpdate_keepsShape (r : RecRef) {s : State} (hs : s.whole = true) :
    KeepsShape (execUpdate r s) := by
  refine onlyIf_keepsShape ?_
  split <;> simp [hs]

@[simp] theorem execUpdateApply_keepsShape (r : RecRef) {s : State} (hs : s.whole = true) :
    KeepsShape (execUpdateApply r s) := by
  refine onlyIf_keepsShape ?_
  repeat' split
  all_goals simp [hs]

@[simp] theorem execScrub_keepsShape (r : RecRef) {s : State} (hs : s.whole = true) : KeepsShape (execScrub r s) := by
  simp [execScrub, hs]
@[simp] theorem execScrubPassEnd_keepsShape (h : Nat) {s : State} (hs : s.whole = true) :
    KeepsShape (execScrubPassEnd h s) := by simp [execScrubPassEnd, hs]
@[simp] theorem execHubWritebackDone_keepsShape (h : Nat) {s : State} (hs : s.whole = true) :
    KeepsShape (execHubWritebackDone h s) := by simp [execHubWritebackDone, hs]
@[simp] theorem execCellAreaReady_keepsShape (h : Nat) {s : State} (hs : s.whole = true) :
    KeepsShape (execCellAreaReady h s) := by simp [execCellAreaReady, hs]
@[simp] theorem execBreezeRead_keepsShape (h : Nat) (upsets : List Upset) {s : State} (hs : s.whole = true) :
    KeepsShape (execBreezeRead h upsets s) := by simp [execBreezeRead, hs]

@[simp] theorem execBreezeHeldRecheck_keepsShape (h : Nat) {s : State} (hs : s.whole = true) :
    KeepsShape (execBreezeHeldRecheck h s) := by
  refine onlyIf_keepsShape ?_
  split <;> simp [hs]

@[simp] theorem execRetireEntryInForce_keepsShape (h : Nat) {s : State} (hs : s.whole = true) :
    KeepsShape (execRetireEntryInForce h s) := by simp [execRetireEntryInForce, hs]

@[simp] theorem execMessageBind_keepsShape (p i : Nat) {s : State} (hs : s.whole = true) :
    KeepsShape (execMessageBind p i s) := by
  refine onlyIf_keepsShape ?_
  repeat' split
  all_goals simp [hs]

@[simp] theorem execArbitrationPhase_keepsShape (n : Nat) {s : State} (hs : s.whole = true) :
    KeepsShape (execArbitrationPhase n s) := by
  refine onlyIf_keepsShape ?_
  repeat' split
  all_goals simp [hs]

@[simp] theorem execHolderStall_keepsShape (n : Nat) {s : State} (hs : s.whole = true) :
    KeepsShape (execHolderStall n s) := by
  refine onlyIf_keepsShape ?_
  dsimp only
  repeat' split
  all_goals simp [hs]

@[simp] theorem execParkedEligible_keepsShape (n i : Nat) {s : State} (hs : s.whole = true) :
    KeepsShape (execParkedEligible n i s) := by
  refine onlyIf_keepsShape ?_
  split <;> simp [hs]

@[simp] theorem execReceiveHeldRelease_keepsShape (n : Nat) {s : State} (hs : s.whole = true) :
    KeepsShape (execReceiveHeldRelease n s) := by
  refine onlyIf_keepsShape ?_
  split <;> simp [hs]

@[simp] theorem execBecalmStallLimit_keepsShape (r : RecRef) {s : State} (hs : s.whole = true) :
    KeepsShape (execBecalmStallLimit r s) := by
  refine onlyIf_keepsShape ?_
  split <;> simp [hs]

@[simp] theorem execMessageStallDiscard_keepsShape (p i : Nat) {s : State} (hs : s.whole = true) :
    KeepsShape (execMessageStallDiscard p i s) := by
  refine onlyIf_keepsShape ?_
  split <;> simp [hs]

@[simp] theorem execSenderStallLimit_keepsShape (r : RecRef) {s : State} (hs : s.whole = true) :
    KeepsShape (execSenderStallLimit r s) := by
  refine onlyIf_keepsShape ?_
  split <;> simp [hs]

@[simp] theorem execModuleOut_keepsShape (p m : Nat) {s : State} (hs : s.whole = true) :
    KeepsShape (execModuleOut p m s) := by simp [execModuleOut, hs]

@[simp] theorem execSitePoll_keepsShape (answers : List PollAnswer) {s : State} (hs : s.whole = true) :
    KeepsShape (execSitePoll answers s) := by
  refine onlyIf_keepsShape (State.whole_ite ?_ hs)
  exact whole_forAll answers (fun a _ => whole_takePoll a) hs

@[simp] theorem execTxp_keepsShape (r : RecRef) {s : State} (hs : s.whole = true) : KeepsShape (execTxp r s) := by
  simp [execTxp, hs]
@[simp] theorem execLoad_keepsShape (r : RecRef) {s : State} (hs : s.whole = true) : KeepsShape (execLoad r s) := by
  simp [execLoad, hs]
@[simp] theorem execStore_keepsShape (r : RecRef) {s : State} (hs : s.whole = true) : KeepsShape (execStore r s) := by
  simp [execStore, hs]

@[simp] theorem execNarrowQueueFree_keepsShape (h : Nat) {s : State} (hs : s.whole = true) :
    KeepsShape (execNarrowQueueFree h s) := by
  refine onlyIf_keepsShape ?_
  split <;> simp [hs]

@[simp] theorem execGather_keepsShape (r : RecRef) {s : State} (hs : s.whole = true) :
    KeepsShape (execGather r s) := by simp [execGather, hs]
@[simp] theorem execVadd_keepsShape (r : RecRef) {s : State} (hs : s.whole = true) : KeepsShape (execVadd r s) := by
  simp [execVadd, hs]
@[simp] theorem execVmul_keepsShape (r : RecRef) {s : State} (hs : s.whole = true) : KeepsShape (execVmul r s) := by
  simp [execVmul, hs]
@[simp] theorem execVfma_keepsShape (r : RecRef) {s : State} (hs : s.whole = true) : KeepsShape (execVfma r s) := by
  simp [execVfma, hs]
@[simp] theorem execVmin_keepsShape (r : RecRef) {s : State} (hs : s.whole = true) : KeepsShape (execVmin r s) := by
  simp [execVmin, hs]
@[simp] theorem execVmax_keepsShape (r : RecRef) {s : State} (hs : s.whole = true) : KeepsShape (execVmax r s) := by
  simp [execVmax, hs]
@[simp] theorem execVcmp_keepsShape (r : RecRef) {s : State} (hs : s.whole = true) : KeepsShape (execVcmp r s) := by
  simp [execVcmp, hs]
@[simp] theorem execVsel_keepsShape (r : RecRef) {s : State} (hs : s.whole = true) : KeepsShape (execVsel r s) := by
  simp [execVsel, hs]
@[simp] theorem execVred_keepsShape (r : RecRef) {s : State} (hs : s.whole = true) : KeepsShape (execVred r s) := by
  simp [execVred, hs]

@[simp] theorem execRecordIssue_keepsShape (r : RecRef) (upsets : List Upset) {s : State} (hs : s.whole = true) :
    KeepsShape (execRecordIssue r upsets s) := by
  refine onlyIf_keepsShape ?_
  split <;> simp [hs]

@[simp] theorem execRecordComplete_keepsShape (r : RecRef) {s : State} (hs : s.whole = true) :
    KeepsShape (execRecordComplete r s) := by
  refine onlyIf_keepsShape ?_
  split <;> simp [hs]

@[simp] theorem execReplayRangeRerun_keepsShape (d : Nat) {s : State} (hs : s.whole = true) :
    KeepsShape (execReplayRangeRerun d s) := by
  refine onlyIf_keepsShape ?_
  split <;> simp [hs]

@[simp] theorem execLullEnter_keepsShape (blk : BlockRef) {s : State} (hs : s.whole = true) :
    KeepsShape (execLullEnter blk s) := by
  refine onlyIf_keepsShape ?_
  repeat' split
  all_goals simp [hs]

@[simp] theorem execRingSearchPhaseEnd_keepsShape (le : Nat) (port : Option Nat) (obs : SearchObs) {s : State}
    (hs : s.whole = true) : KeepsShape (execRingSearchPhaseEnd le port obs s) := by
  refine onlyIf_keepsShape ?_
  split <;> simp [hs]

@[simp] theorem execRingLockLoop_keepsShape (n ring : Nat) (detune heaterStep : Int) {s : State}
    (hs : s.whole = true) : KeepsShape (execRingLockLoop n ring detune heaterStep s) := by simp [execRingLockLoop, hs]
@[simp] theorem execRingUnlock_keepsShape (n ring : Nat) {s : State} (hs : s.whole = true) :
    KeepsShape (execRingUnlock n ring s) := by simp [execRingUnlock, hs]
@[simp] theorem execToneWindowEnd_keepsShape (n ring : Nat) (levels : List Int) {s : State} (hs : s.whole = true) :
    KeepsShape (execToneWindowEnd n ring levels s) := by simp [execToneWindowEnd, hs]
@[simp] theorem execRingRelock_keepsShape (n ring : Nat) {s : State} (hs : s.whole = true) :
    KeepsShape (execRingRelock n ring s) := by simp [execRingRelock, hs]

@[simp] theorem execKappaFit_keepsShape (le : Nat) (fits : List (Nat × Nat × Int)) {s : State} (hs : s.whole = true) :
    KeepsShape (execKappaFit le fits s) := by
  refine onlyIf_keepsShape ?_
  simp [hs]

@[simp] theorem execLaserBiasLoop_keepsShape (le j : Nat) (output biasStep : Int) {s : State} (hs : s.whole = true) :
    KeepsShape (execLaserBiasLoop le j output biasStep s) := by simp [execLaserBiasLoop, hs]
@[simp] theorem execLaserThresholdJudge_keepsShape (le j bias : Nat) (output : Int) {s : State}
    (hs : s.whole = true) : KeepsShape (execLaserThresholdJudge le j bias output s) := by
  simp [execLaserThresholdJudge, hs]

@[simp] theorem execLaserSwapStart_keepsShape (le : Nat) {s : State} (hs : s.whole = true) :
    KeepsShape (execLaserSwapStart le s) := by
  refine onlyIf_keepsShape ?_
  dsimp only
  repeat' split
  all_goals simp [hs]

@[simp] theorem execSwapSpareTuned_keepsShape (le : Nat) {s : State} (hs : s.whole = true) :
    KeepsShape (execSwapSpareTuned le s) := by
  refine onlyIf_keepsShape ?_
  split <;> simp [hs]

@[simp] theorem execSwapResume_keepsShape (le : Nat) {s : State} (hs : s.whole = true) :
    KeepsShape (execSwapResume le s) := by
  refine onlyIf_keepsShape ?_
  split <;> simp [hs]

@[simp] theorem execLifetimeSnapshot_keepsShape {s : State} (hs : s.whole = true) :
    KeepsShape (execLifetimeSnapshot s) := by simp [execLifetimeSnapshot, hs]
@[simp] theorem execSnapshotWriteDone_keepsShape {s : State} (hs : s.whole = true) :
    KeepsShape (execSnapshotWriteDone s) := by simp [execSnapshotWriteDone, hs]
@[simp] theorem execLogbookPageErased_keepsShape {s : State} (hs : s.whole = true) :
    KeepsShape (execLogbookPageErased s) := by simp [execLogbookPageErased, hs]

@[simp] theorem execLogbookBucketRefill_keepsShape {s : State} (hs : s.whole = true) :
    KeepsShape (execLogbookBucketRefill s) := by
  refine next_keepsShape (State.whole_ite hs ?_)
  dsimp only
  split
  · simp [hs]
  · exact State.whole_ite (by simp [hs]) (by simp [hs])

@[simp] theorem execIdentityDeriveDone_keepsShape (ok : Bool) {s : State} (hs : s.whole = true) :
    KeepsShape (execIdentityDeriveDone ok s) := by simp [execIdentityDeriveDone, hs]

@[simp] theorem execPortDarkExpiry_keepsShape (port : PortRef) {s : State} (hs : s.whole = true) :
    KeepsShape (execPortDarkExpiry port s) := by
  refine onlyIf_keepsShape ?_
  split <;> simp [hs]

@[simp] theorem execProbePulse_keepsShape (port : PortRef) {s : State} (hs : s.whole = true) :
    KeepsShape (execProbePulse port s) := by
  refine onlyIf_keepsShape ?_
  split <;> simp [hs]

@[simp] theorem execLightSeen_keepsShape (port : PortRef) (lanes : Byte) {s : State} (hs : s.whole = true) :
    KeepsShape (execLightSeen port lanes s) := by
  refine onlyIf_keepsShape ?_
  split <;> simp [hs]

@[simp] theorem execLossOfLight_keepsShape (port : PortRef) (together : Bool) {s : State} (hs : s.whole = true) :
    KeepsShape (execLossOfLight port together s) := by
  refine onlyIf_keepsShape ?_
  split <;> simp [hs]

@[simp] theorem execFrameSend_keepsShape (n lane : Nat) {s : State} (hs : s.whole = true) :
    KeepsShape (execFrameSend n lane s) := by
  refine onlyIf_keepsShape ?_
  dsimp only
  repeat' split
  all_goals simp [hs]

@[simp] theorem execLinkReportSend_keepsShape (n : Nat) {s : State} (hs : s.whole = true) :
    KeepsShape (execLinkReportSend n s) := by simp [execLinkReportSend, hs]
@[simp] theorem execNakTimer_keepsShape (n : Nat) {s : State} (hs : s.whole = true) :
    KeepsShape (execNakTimer n s) := by simp [execNakTimer, hs]

@[simp] theorem execReplayTimeout_keepsShape (n : Nat) {s : State} (hs : s.whole = true) :
    KeepsShape (execReplayTimeout n s) := by
  refine onlyIf_keepsShape ?_
  split <;> simp [hs]

@[simp] theorem execPortDown_keepsShape (n : Nat) {s : State} (hs : s.whole = true) :
    KeepsShape (execPortDown n s) := by simp [execPortDown, hs]

@[simp] theorem execTimeRequestSend_keepsShape (p : Nat) {s : State} (hs : s.whole = true) :
    KeepsShape (execTimeRequestSend p s) := by
  refine onlyIf_keepsShape ?_
  split <;> simp [hs]

@[simp] theorem execTimeResponseSend_keepsShape (n : Nat) {s : State} (hs : s.whole = true) :
    KeepsShape (execTimeResponseSend n s) := by
  refine onlyIf_keepsShape ?_
  split <;> simp [hs]

@[simp] theorem execIdentityFrameReceive_keepsShape (n lane : Nat) (bytes : List Byte) (scr : Nat)
    (noise : List (Nat × Byte)) {s : State} (hs : s.whole = true) :
    KeepsShape (execIdentityFrameReceive n lane bytes scr noise s) := by simp [execIdentityFrameReceive, hs]
@[simp] theorem execFrameReceive_keepsShape (n lane : Nat) (bytes : List Byte) (scr : Nat)
    (noise : List (Nat × Byte)) {s : State} (hs : s.whole = true) :
    KeepsShape (execFrameReceive n lane bytes scr noise s) := by simp [execFrameReceive, hs]
@[simp] theorem execLinkOnlyFrameReceive_keepsShape (n lane : Nat) (bytes : List Byte) (scr : Nat)
    (noise : List (Nat × Byte)) {s : State} (hs : s.whole = true) :
    KeepsShape (execLinkOnlyFrameReceive n lane bytes scr noise s) := by simp [execLinkOnlyFrameReceive, hs]
@[simp] theorem execLaneAcquireTimeout_keepsShape (n lane : Nat) {s : State} (hs : s.whole = true) :
    KeepsShape (execLaneAcquireTimeout n lane s) := by simp [execLaneAcquireTimeout, hs]
@[simp] theorem execLaneLightLoss_keepsShape (n lane : Nat) {s : State} (hs : s.whole = true) :
    KeepsShape (execLaneLightLoss n lane s) := by simp [execLaneLightLoss, hs]
@[simp] theorem execLaneLightReturn_keepsShape (n lane : Nat) (shortGap : Bool) {s : State} (hs : s.whole = true) :
    KeepsShape (execLaneLightReturn n lane shortGap s) := by simp [execLaneLightReturn, hs]
@[simp] theorem execLaneAlignmentLost_keepsShape (n lane : Nat) {s : State} (hs : s.whole = true) :
    KeepsShape (execLaneAlignmentLost n lane s) := by simp [execLaneAlignmentLost, hs]

@[simp] theorem execResetLFall_keepsShape (heldFor1us : Bool) {s : State} (hs : s.whole = true) :
    KeepsShape (execResetLFall heldFor1us s) := by
  refine next_keepsShape (State.whole_ite hs ?_)
  dsimp only
  repeat' split
  all_goals simp [hs]

@[simp] theorem execWarmToColdTimeout_keepsShape {s : State} (hs : s.whole = true) :
    KeepsShape (execWarmToColdTimeout s) := by simp [execWarmToColdTimeout, hs]
@[simp] theorem execResetLRise_keepsShape {s : State} (hs : s.whole = true) : KeepsShape (execResetLRise s) := by
  simp [execResetLRise, hs]
@[simp] theorem execModResetRelease_keepsShape {s : State} (hs : s.whole = true) :
    KeepsShape (execModResetRelease s) := by simp [execModResetRelease, hs]
@[simp] theorem execPowerFail_keepsShape {s : State} (hs : s.whole = true) : KeepsShape (execPowerFail s) := by
  simp [execPowerFail, hs]
@[simp] theorem execThermalTrip_keepsShape (site : TripSite) (t1 t2 : Int) {s : State} (hs : s.whole = true) :
    KeepsShape (execThermalTrip site t1 t2 s) := by simp [execThermalTrip, hs]

theorem whole_les {s : State} (h : s.whole = true) {l : List Le} (hl : l.length = 8)
    (ha : l.all (fun e => e.lasers.length == 10) = true) : State.whole { s with les := l } = true := by
  rw [State.whole_iff] at h ⊢
  obtain ⟨h1, h2, h3, h4, h5, _, h7, h8, _, h10⟩ := h
  exact ⟨h1, h2, h3, h4, h5, hl, h7, h8, ha, h10⟩

@[simp] theorem execPowerUp_keepsShape (held10ms below60For1s : Bool) {s : State} (hs : s.whole = true) :
    KeepsShape (execPowerUp held10ms below60For1s s) := by
  refine next_keepsShape (State.whole_ite hs ?_)
  extract_lets s1 s2 s3
  have h2 : s2.whole = true := by simp [s2, s1, hs]
  have h3 : s3.whole = true := whole_les h2 (by simp) (freshLes_whole false h2)
  simp [h3]

@[simp] theorem execStagePowerGood_keepsShape (resetHigh : Bool) {s : State} (hs : s.whole = true) :
    KeepsShape (execStagePowerGood resetHigh s) := by simp [execStagePowerGood, hs]
@[simp] theorem execResetLReleaseStandby_keepsShape {s : State} (hs : s.whole = true) :
    KeepsShape (execResetLReleaseStandby s) := by simp [execResetLReleaseStandby, hs]

@[simp] theorem execFirmwareVerifyDone_keepsShape (ms : Nat) (flashReadsOk : Bool) {s : State} (hs : s.whole = true) :
    KeepsShape (execFirmwareVerifyDone ms flashReadsOk s) := by
  refine next_keepsShape (State.whole_ite hs ?_)
  dsimp only
  repeat' split
  all_goals simp [hs]

@[simp] theorem execFirmwareWriteDone_keepsShape (readBack : List Byte) {s : State} (hs : s.whole = true) :
    KeepsShape (execFirmwareWriteDone readBack s) := by
  refine next_keepsShape ?_
  split
  · exact hs
  · dsimp only
    split <;> simp [hs]

@[simp] theorem execHomeGroupPower_keepsShape {s : State} (hs : s.whole = true) :
    KeepsShape (execHomeGroupPower s) := by simp [execHomeGroupPower, hs]
@[simp] theorem execSiteProbeResult_keepsShape (site : Site) (answers : Bool) (lanes : Nat) {s : State}
    (hs : s.whole = true) : KeepsShape (execSiteProbeResult site answers lanes s) := by simp [execSiteProbeResult, hs]

@[simp] theorem execHubTrainDone_keepsShape (h : Nat) (failed : Half) (ms : Nat) {s : State} (hs : s.whole = true) :
    KeepsShape (execHubTrainDone h failed ms s) := by
  refine onlyIf_keepsShape (State.whole_ite ?_ hs)
  dsimp only
  repeat' split
  all_goals simp [hs]

@[simp] theorem execModuleReady_keepsShape {s : State} (hs : s.whole = true) : KeepsShape (execModuleReady s) := by
  simp [execModuleReady, hs]
@[simp] theorem execPartResetDone_keepsShape (p ms : Nat) {s : State} (hs : s.whole = true) :
    KeepsShape (execPartResetDone p ms s) := by simp [execPartResetDone, hs]
@[simp] theorem execBaithBlockReceive_keepsShape (b : Nat) (bytes : List Byte) {s : State} (hs : s.whole = true) :
    KeepsShape (execBaithBlockReceive b bytes s) := by simp [execBaithBlockReceive, hs]
@[simp] theorem execKeepAliveReceive_keepsShape (b : Nat) (bytes : List Byte) {s : State} (hs : s.whole = true) :
    KeepsShape (execKeepAliveReceive b bytes s) := by simp [execKeepAliveReceive, hs]
@[simp] theorem execBlockTruncateTimeout_keepsShape (b : Nat) (bytes : List Byte) {s : State} (hs : s.whole = true) :
    KeepsShape (execBlockTruncateTimeout b bytes s) := by simp [execBlockTruncateTimeout, hs]
@[simp] theorem execBaithBlockSend_keepsShape (b : Nat) {s : State} (hs : s.whole = true) :
    KeepsShape (execBaithBlockSend b s) := by simp [execBaithBlockSend, hs]
@[simp] theorem execBaithResendTimeout_keepsShape (b : Nat) {s : State} (hs : s.whole = true) :
    KeepsShape (execBaithResendTimeout b s) := by simp [execBaithResendTimeout, hs]
@[simp] theorem execKeepAliveSend_keepsShape (b : Nat) {s : State} (hs : s.whole = true) :
    KeepsShape (execKeepAliveSend b s) := by simp [execKeepAliveSend, hs]
@[simp] theorem execBaithSilenceTimeout_keepsShape (b : Nat) {s : State} (hs : s.whole = true) :
    KeepsShape (execBaithSilenceTimeout b s) := by simp [execBaithSilenceTimeout, hs]
@[simp] theorem execTickBoundary_keepsShape (p : Nat) {s : State} (hs : s.whole = true) :
    KeepsShape (execTickBoundary p s) := by simp [execTickBoundary, hs]

@[simp] theorem execWindroseCommit_keepsShape (t : WrTarget) {s : State} (hs : s.whole = true) :
    KeepsShape (execWindroseCommit t s) := by
  refine onlyIf_keepsShape ?_
  split <;> simp [hs]

@[simp] theorem execFennelSampleCompare_keepsShape (d : Nat) {s : State} (hs : s.whole = true) :
    KeepsShape (execFennelSampleCompare d s) := by
  refine onlyIf_keepsShape ?_
  repeat' split
  all_goals simp [hs]

@[simp] theorem execModResetWarm_keepsShape (b : Nat) {s : State} (hs : s.whole = true) :
    KeepsShape (execModResetWarm b s) := by simp [execModResetWarm, hs]
@[simp] theorem execModResetCold_keepsShape (b : Nat) {s : State} (hs : s.whole = true) :
    KeepsShape (execModResetCold b s) := by simp [execModResetCold, hs]
@[simp] theorem execPartReset_keepsShape (b p : Nat) {s : State} (hs : s.whole = true) :
    KeepsShape (execPartReset b p s) := by simp [execPartReset, hs]
@[simp] theorem execWrAbort_keepsShape (b : Nat) (t : WrTarget) (v : Word) {s : State} (hs : s.whole = true) :
    KeepsShape (execWrAbort b t v s) := by simp [execWrAbort, hs]
@[simp] theorem execStStop_keepsShape (b p : Nat) {s : State} (hs : s.whole = true) :
    KeepsShape (execStStop b p s) := by simp [execStStop, hs]
@[simp] theorem execStAbort_keepsShape (b p : Nat) {s : State} (hs : s.whole = true) :
    KeepsShape (execStAbort b p s) := by simp [execStAbort, hs]
@[simp] theorem execCveTableWrite_keepsShape (b d off : Nat) (v : Word) {s : State} (hs : s.whole = true) :
    KeepsShape (execCveTableWrite b d off v s) := by simp [execCveTableWrite, hs]
@[simp] theorem execHubCacheCtrl_keepsShape (b h : Nat) (v : Word) {s : State} (hs : s.whole = true) :
    KeepsShape (execHubCacheCtrl b h v s) := by simp [execHubCacheCtrl, hs]
@[simp] theorem execHubNarrowDepthRead_keepsShape (b h : Nat) {s : State} (hs : s.whole = true) :
    KeepsShape (execHubNarrowDepthRead b h s) := by simp [execHubNarrowDepthRead, hs]
@[simp] theorem execScrubPassStart_keepsShape (b h : Nat) {s : State} (hs : s.whole = true) :
    KeepsShape (execScrubPassStart b h s) := by simp [execScrubPassStart, hs]
@[simp] theorem execScrubPassStop_keepsShape (b h : Nat) {s : State} (hs : s.whole = true) :
    KeepsShape (execScrubPassStop b h s) := by simp [execScrubPassStop, hs]
@[simp] theorem execRetTableWrite_keepsShape (b h i : Nat) (v : Word) {s : State} (hs : s.whole = true) :
    KeepsShape (execRetTableWrite b h i v s) := by simp [execRetTableWrite, hs]
@[simp] theorem execMxeFeStat_keepsShape (b d e : Nat) (v : Word) {s : State} (hs : s.whole = true) :
    KeepsShape (execMxeFeStat b d e v s) := by simp [execMxeFeStat, hs]
@[simp] theorem execGxeOorStat_keepsShape (b d : Nat) (v : Word) {s : State} (hs : s.whole = true) :
    KeepsShape (execGxeOorStat b d v s) := by simp [execGxeOorStat, hs]
@[simp] theorem execGxeBadCount_keepsShape (b d : Nat) (v : Word) {s : State} (hs : s.whole = true) :
    KeepsShape (execGxeBadCount b d v s) := by simp [execGxeBadCount, hs]
@[simp] theorem execRedNvStat_keepsShape (b h : Nat) (v : Word) {s : State} (hs : s.whole = true) :
    KeepsShape (execRedNvStat b h v s) := by simp [execRedNvStat, hs]
@[simp] theorem execArbFlagStat_keepsShape (b n : Nat) (v : Word) {s : State} (hs : s.whole = true) :
    KeepsShape (execArbFlagStat b n v s) := by simp [execArbFlagStat, hs]
@[simp] theorem execSegWaitMax_keepsShape (b d g : Nat) (v : Word) {s : State} (hs : s.whole = true) :
    KeepsShape (execSegWaitMax b d g v s) := by simp [execSegWaitMax, hs]

@[simp] theorem execStagedWrite_keepsShape (b win off : Nat) (v : Word) {s : State} (hs : s.whole = true) :
    KeepsShape (execStagedWrite b win off v s) := by
  refine onlyIf_keepsShape ?_
  split <;> simp [hs]

@[simp] theorem execClosingFieldWrite_keepsShape (b win off : Nat) (v : Word) {s : State} (hs : s.whole = true) :
    KeepsShape (execClosingFieldWrite b win off v s) := by
  refine onlyIf_keepsShape ?_
  split <;> simp [hs]

@[simp] theorem execMtAnchorSet_keepsShape (b : Nat) (v : Word) {s : State} (hs : s.whole = true) :
    KeepsShape (execMtAnchorSet b v s) := by simp [execMtAnchorSet, hs]
@[simp] theorem execLkCmd_keepsShape (b n : Nat) (v : Word) {s : State} (hs : s.whole = true) :
    KeepsShape (execLkCmd b n v s) := by simp [execLkCmd, hs]
@[simp] theorem execLkCtrl_keepsShape (b n : Nat) (v : Word) {s : State} (hs : s.whole = true) :
    KeepsShape (execLkCtrl b n v s) := by simp [execLkCtrl, hs]
@[simp] theorem execLkLaneHold_keepsShape (b n : Nat) (v : Word) {s : State} (hs : s.whole = true) :
    KeepsShape (execLkLaneHold b n v s) := by simp [execLkLaneHold, hs]
@[simp] theorem execLeSwapCmd_keepsShape (b le : Nat) (v : Word) {s : State} (hs : s.whole = true) :
    KeepsShape (execLeSwapCmd b le v s) := by simp [execLeSwapCmd, hs]
@[simp] theorem execLbSnapCmd_keepsShape (b : Nat) (v : Word) {s : State} (hs : s.whole = true) :
    KeepsShape (execLbSnapCmd b v s) := by simp [execLbSnapCmd, hs]
@[simp] theorem execCommandSegmentTransfer_keepsShape (b : Nat) {s : State} (hs : s.whole = true) :
    KeepsShape (execCommandSegmentTransfer b s) := by simp [execCommandSegmentTransfer, hs]
@[simp] theorem execWindroseTransfer_keepsShape (b : Nat) {s : State} (hs : s.whole = true) :
    KeepsShape (execWindroseTransfer b s) := by simp [execWindroseTransfer, hs]
@[simp] theorem execRecoveryFirmwareTransfer_keepsShape (b : Nat) {s : State} (hs : s.whole = true) :
    KeepsShape (execRecoveryFirmwareTransfer b s) := by simp [execRecoveryFirmwareTransfer, hs]
@[simp] theorem execMemoryWrite_keepsShape (b : Nat) {s : State} (hs : s.whole = true) :
    KeepsShape (execMemoryWrite b s) := by simp [execMemoryWrite, hs]
@[simp] theorem execMemoryRead_keepsShape (b : Nat) {s : State} (hs : s.whole = true) :
    KeepsShape (execMemoryRead b s) := by simp [execMemoryRead, hs]
@[simp] theorem execRegisterRead_keepsShape (b : Nat) {s : State} (hs : s.whole = true) :
    KeepsShape (execRegisterRead b s) := by simp [execRegisterRead, hs]

@[simp] theorem execRegisterWrite_keepsShape (b : Nat) {s : State} (hs : s.whole = true) :
    KeepsShape (execRegisterWrite b s) := onlyIf_keepsShape (whole_serve b _ (fun x _ => whole_takeRegWrite b x) hs)

@[simp] theorem execLogbookRead_keepsShape (b : Nat) {s : State} (hs : s.whole = true) :
    KeepsShape (execLogbookRead b s) := by simp [execLogbookRead, hs]
@[simp] theorem execAttestationReport_keepsShape (b : Nat) {s : State} (hs : s.whole = true) :
    KeepsShape (execAttestationReport b s) := by simp [execAttestationReport, hs]
@[simp] theorem execAttestationCertificates_keepsShape (b : Nat) {s : State} (hs : s.whole = true) :
    KeepsShape (execAttestationCertificates b s) := by simp [execAttestationCertificates, hs]

@[simp] theorem execAttestationSign_keepsShape {s : State} (hs : s.whole = true) :
    KeepsShape (execAttestationSign s) := by
  unfold execAttestationSign
  split <;> simp [hs]

@[simp] theorem execSmbusReadState_keepsShape {s : State} (hs : s.whole = true) :
    KeepsShape (execSmbusReadState s) := by simp [execSmbusReadState, hs]
@[simp] theorem execSmbusReadCause_keepsShape {s : State} (hs : s.whole = true) :
    KeepsShape (execSmbusReadCause s) := by simp [execSmbusReadCause, hs]
@[simp] theorem execSmbusReadTemp_keepsShape {s : State} (hs : s.whole = true) :
    KeepsShape (execSmbusReadTemp s) := by simp [execSmbusReadTemp, hs]
@[simp] theorem execSmbusReadPower_keepsShape (watts : Nat) {s : State} (hs : s.whole = true) :
    KeepsShape (execSmbusReadPower watts s) := by simp [execSmbusReadPower, hs]
@[simp] theorem execSmbusReadAlert_keepsShape {s : State} (hs : s.whole = true) :
    KeepsShape (execSmbusReadAlert s) := by simp [execSmbusReadAlert, hs]
@[simp] theorem execSmbusClearAlert_keepsShape (v : Half) {s : State} (hs : s.whole = true) :
    KeepsShape (execSmbusClearAlert v s) := by simp [execSmbusClearAlert, hs]
@[simp] theorem execSmbusReadDescriptor_keepsShape (code : Nat) {s : State} (hs : s.whole = true) :
    KeepsShape (execSmbusReadDescriptor code s) := by simp [execSmbusReadDescriptor, hs]
@[simp] theorem execSmbusAlertResponse_keepsShape {s : State} (hs : s.whole = true) :
    KeepsShape (execSmbusAlertResponse s) := by simp [execSmbusAlertResponse, hs]

end Sys2Proof.Machine
end

section
/-! PROOF. Every step keeps the shape of the module (00_scope.md Names, R1). -/

namespace Sys2Proof.Machine

/-- Every command keeps the shape: `exec` gives a command the meaning for which the lemma of its name says so. -/
theorem exec_keepsShape (c : Instr) {s : State} (hs : s.whole = true) : KeepsShape (exec c s) := by
  cases c <;> simp [exec, hs]

theorem step_keepsShape {s : State} (hs : s.whole = true) : KeepsShape (step s) := by
  cases h : s.pending with
  | nil =>
    rw [step_empty h]
    exact next_keepsShape (by rw [idle_whole, hs])
  | cons c rest =>
    rw [step_front h]
    exact exec_keepsShape c hs

end Sys2Proof.Machine

open Sys2Proof.Machine in
/-- Settles O5: a step is the passage of time or one command, and both keep every unit with all its parts
(`step_keepsShape`). -/
theorem stepKeepsShape : Obligations.StepKeepsShape := fun _ t hs ht => step_keepsShape hs t ht
end

section
/-! PROOF. Spans of bytes (11 R279, R285): what a part of a list of bytes holds, and how the pieces of a span make up the
span. -/

namespace Sys2Proof.Machine

/-! ## Parts of a list of bytes -/

/-- A part of a list, byte by byte. -/
theorem slice_eq_map (bs : List Byte) (o n : Nat) : slice bs o n = (List.range n).map fun i => bs.getD (o + i) 0 := by
  apply List.ext_getElem (by simp)
  intro i hi _
  rw [slice_length] at hi
  simp only [slice, List.getElem_map, List.getElem_range, List.getElem_append, List.getElem_take, List.getElem_drop,
    List.getElem_replicate, List.length_take, List.length_drop]
  split
  · next h => simp [show o + i < bs.length by omega]
  · next h => simp [show bs.length ≤ o + i by omega]

/-- A part of a list that lists what a function gives. -/
theorem slice_map_range (f : Nat → Byte) {a n m : Nat} (h : a + n ≤ m) :
    slice ((List.range m).map f) a n = (List.range n).map fun j => f (a + j) := by
  rw [slice_eq_map]
  refine List.map_congr_left fun j hj => ?_
  have := List.mem_range.1 hj
  simp [List.getD_eq_getElem?_getD, show a + j < m by omega]

theorem slice_whole {bs : List Byte} {n : Nat} (h : bs.length = n) : slice bs 0 n = bs := by
  simp [slice, ← h]

theorem patch_length {bs new : List Byte} {o : Nat} (h : o + new.length ≤ bs.length) :
    (patch bs o new).length = bs.length := by
  simp [patch]; omega

/-- A list of bytes with a part replaced holds the new bytes there, and the old ones elsewhere. -/
theorem patch_getD {bs new : List Byte} {o : Nat} (h : o ≤ bs.length) (i : Nat) :
    (patch bs o new).getD i 0 = if o ≤ i ∧ i < o + new.length then new.getD (i - o) 0 else bs.getD i 0 := by
  have ho : (bs.take o).length = o := by simp [h]
  simp only [patch, List.append_assoc, List.getD_eq_getElem?_getD, List.getElem?_append, ho]
  by_cases h1 : i < o
  · simp [h1, show ¬ o ≤ i by omega]
  · by_cases h2 : i < o + new.length
    · simp [h1, show i - o < new.length by omega, show o ≤ i by omega, h2]
    · simp [h1, show ¬ i - o < new.length by omega, h2, show o + new.length + (i - o - new.length) = i by omega]

/-- A number written in n bytes lies byte by byte in a list of such numbers. -/
theorem getD_flatMap_leBytes {α : Type} (n : Nat) (f : α → Nat) (l : List α) {i j : Nat} (hi : i < l.length) (hj : j < n) :
    (l.flatMap fun a => leBytes n (f a)).getD (n * i + j) 0 = (leBytes n (f l[i])).getD j 0 := by
  induction l generalizing i with
  | nil => simp at hi
  | cons a l ih =>
    rw [List.flatMap_cons]
    cases i with
    | zero => simp [List.getD_eq_getElem?_getD, List.getElem?_append, hj]
    | succ i =>
      have hi : i < l.length := by simpa using hi
      have e : n * (i + 1) + j = n + (n * i + j) := by rw [Nat.mul_succ]; omega
      rw [e, List.getElem_cons_succ, ← ih hi, List.getD_eq_getElem?_getD, List.getD_eq_getElem?_getD,
        List.getElem?_append_right (by simp)]
      simp

theorem length_flatMap_leBytes {α : Type} (n : Nat) (f : α → Nat) (l : List α) :
    (l.flatMap fun a => leBytes n (f a)).length = n * l.length := by
  induction l with
  | nil => rfl
  | cons a l ih => rw [List.flatMap_cons, List.length_append, leBytes_length, ih, List.length_cons, Nat.mul_succ, Nat.add_comm]

/-! ## The pieces of a span -/

/-- The bounds of a piece: its place in the span and in its line. -/
structure Piece.Of (a n : Nat) (q : Piece) : Prop where
  start : a + q.off = 64 * q.line + q.from'
  fits : q.from' + q.count ≤ 64
  pos : 0 < q.count
  stays : q.off + q.count ≤ n
  begins : q.off = 0 ∨ q.from' = 0

theorem pieces_of {a n : Nat} {q : Piece} (hq : q ∈ pieces a n) : q.Of a n := by
  unfold pieces at hq
  split at hq
  · cases hq
  · obtain ⟨i, hi, rfl⟩ := List.mem_map.1 hq
    have hi := List.mem_range.1 hi
    constructor <;> dsimp only <;> omega

/-- The line of a piece begins before the span ends. -/
theorem Piece.Of.line_lt {a n : Nat} {q : Piece} (h : q.Of a n) : 64 * q.line < a + n := by
  obtain ⟨h1, h2, h3, h4, -⟩ := h
  omega

/-- Every byte of a span lies in a piece. -/
theorem pieces_cover {a n i : Nat} (hi : i < n) : ∃ q ∈ pieces a n, q.off ≤ i ∧ i < q.off + q.count := by
  have hn : n ≠ 0 := by omega
  simp only [pieces, hn, if_false, List.mem_map, List.mem_range]
  refine ⟨_, ⟨(a + i) / 64 - a / 64, by omega, rfl⟩, ?_⟩
  dsimp only
  omega

/-- What the first k lines of a span of elements of st bytes list. -/
theorem pieces_upTo {α : Type} (f : Nat → α) {st a n : Nat} (hst : st = 1 ∨ st = 2 ∨ st = 4) (ha : a % st = 0)
    (hn : n % st = 0) (k : Nat) (hk : k ≤ (a + n - 1) / 64 + 1 - a / 64) :
  ((List.range k).map fun i =>
        let l := a / 64 + i
        let lo := max a (64 * l)
        let hi := min (a + n) (64 * l + 64)
        (⟨lo - a, l, lo - 64 * l, hi - lo⟩ : Piece)).flatMap
      (fun q => (List.range (q.count / st)).map fun i => f (q.off / st + i)) =
        (List.range (min n (64 * (a / 64 + k) - a) / st)).map f := by
  induction k with
  | zero => simp [show 64 * (a / 64) - a = 0 by omega]
  | succ k ih =>
    rw [List.range_succ, List.map_append, List.flatMap_append, ih (by omega)]
    simp only [List.map_cons, List.map_nil, List.flatMap_cons, List.flatMap_nil, List.append_nil]
    generalize hc : min (a + n) (64 * (a / 64 + k) + 64) - max a (64 * (a / 64 + k)) = c
    generalize hb : max a (64 * (a / 64 + k)) - a = b
    have e : min n (64 * (a / 64 + (k + 1)) - a) / st = b / st + c / st := by
      rcases hst with rfl | rfl | rfl <;> omega
    have e' : min n (64 * (a / 64 + k) - a) = b := by omega
    rw [e, e', List.range_add, List.map_append, List.map_map]
    rfl

/-- The elements of a span, piece by piece. -/
theorem pieces_flatMap {α : Type} (f : Nat → α) {st a n : Nat} (hst : st = 1 ∨ st = 2 ∨ st = 4) (ha : a % st = 0)
    (hn : n % st = 0) :
    (pieces a n).flatMap (fun q => (List.range (q.count / st)).map fun i => f (q.off / st + i)) =
      (List.range (n / st)).map f := by
  by_cases h0 : n = 0
  · simp [pieces, h0]
  · simp only [pieces, h0, if_false]
    rw [pieces_upTo f hst ha hn _ (Nat.le_refl _)]
    congr 3
    omega

/-! ## What a span read without a fault gives -/

/-- The first bytes of a number are the number modulo their width. -/
theorem leNat_take (w : Nat) (l : List Byte) : leNat (l.take w) = leNat l % 256 ^ w := by
  induction w generalizing l with
  | zero => simp [leNat, Nat.mod_one]
  | succ w ih =>
    cases l with
    | nil => simp [leNat]
    | cons b l =>
      have hb := b.isLt
      rw [List.take_succ_cons, leNat, leNat, ih, Nat.pow_succ, Nat.mul_comm (256 ^ w), Nat.mod_mul,
        show (b.toNat + 256 * leNat l) / 256 = leNat l by omega]
      omega

/-- The chunk of a piece of a span from a on of which every byte came, f of its address. -/
def cleanChunk (f : Nat → Byte) (a : Nat) (q : Piece) : Chunk :=
  ⟨q.off, q.count, some ((List.range q.count).map fun i => f (a + q.off + i))⟩

/-- The chunks of such a span of n bytes. -/
def cleanChunks (f : Nat → Byte) (a n : Nat) : List Chunk := (pieces a n).map (cleanChunk f a)

theorem chunkBytes_cleanChunks (f : Nat → Byte) (a n : Nat) :
    chunkBytes (cleanChunks f a n) = (List.range n).map fun i => f (a + i) := by
  have := pieces_flatMap (fun i => f (a + i)) (.inl rfl) (Nat.mod_one a) (Nat.mod_one n)
  simp only [Nat.div_one, ← Nat.add_assoc] at this
  rw [← this, chunkBytes, cleanChunks, List.flatMap_map]
  rfl

theorem chunkElems_cleanChunks (f : Nat → Byte) {w a n : Nat} (hw : w = 1 ∨ w = 2 ∨ w = 4) (ha : a % w = 0) (hn : n % w = 0) :
    chunkElems (cleanChunks f a n) w =
      (List.range (n / w)).map fun i => some (leNat ((List.range w).map fun j => f (a + w * i + j))) := by
  rw [← pieces_flatMap _ hw ha hn, chunkElems, cleanChunks, List.flatMap_map]
  refine List.flatMap_congr fun q hq => List.map_congr_left fun i hi => ?_
  obtain ⟨h1, h2, h3, h4, h5⟩ := pieces_of hq
  have hi : i < q.count / w := List.mem_range.1 hi
  have hoff : q.off % w = 0 := by rcases hw with rfl | rfl | rfl <;> omega
  have hfit : i * w + w ≤ q.count := by rcases hw with rfl | rfl | rfl <;> omega
  have hat : a + q.off + i * w = a + w * (q.off / w + i) := by rcases hw with rfl | rfl | rfl <;> omega
  simp only [cleanChunk, Option.map_some, leAt, slice_map_range (fun i => f (a + q.off + i)) hfit, ← Nat.add_assoc, hat]

/-- The elements of such a span, of w bytes at every st bytes. -/
theorem strided_cleanChunks (f : Nat → Byte) {st w a n : Nat} (hst : st = 1 ∨ st = 2 ∨ st = 4) (hw : w ≤ st) (ha : a % st = 0)
    (hn : n % st = 0) :
    strided (cleanChunks f a n) st w =
      (List.range (n / st)).map fun i => some (leNat ((List.range w).map fun j => f (a + st * i + j))) := by
  rw [strided]
  split
  · next e => rw [← e, chunkElems_cleanChunks f hst ha hn]
  · rw [chunkElems_cleanChunks f hst ha hn, List.map_map]
    refine List.map_congr_left fun i _ => ?_
    simp only [Function.comp_apply, Option.map_some, Option.some.injEq]
    rw [show (2 : Nat) ^ (8 * w) = 256 ^ w by rw [Nat.pow_mul], ← leNat_take, ← List.map_take, List.take_range,
      Nat.min_eq_left hw]

theorem chunkWords_cleanChunks (f : Nat → Byte) {a n : Nat} :
    chunkWords (cleanChunks f a n) =
      some ((List.range (n / 4)).map fun i => BitVec.ofNat 32 (leNat ((List.range 4).map fun j => f (a + 4 * i + j)))) := by
  have hany : (cleanChunks f a n).any (fun c => c.data.isNone) = false := by simp [cleanChunks, cleanChunk]
  simp only [chunkWords, hany, chunkBytes_cleanChunks, List.length_map, List.length_range, Bool.false_eq_true, if_false]
  congr 1
  refine List.map_congr_left fun i hi => ?_
  have hi := List.mem_range.1 hi
  rw [wordAt, leAt, slice_map_range (fun i => f (a + i)) (by omega)]
  simp only [Nat.add_assoc]

end Sys2Proof.Machine
end

section
/-! PROOF. An orderly hub (11 R277 to R280, 12 R288 to R293): it reads and writes each line of its usable capacity without
a fault, and no other line of it changes. -/

namespace Sys2Proof.Machine

/-! ## One line written to a stack -/

@[simp] theorem LineStore.data_length (st : LineStore) (l : Nat) : (st.data l).length = 64 := Memory.read_length ..

/-- A line written reads back, and every other line reads as before. -/
theorem LineStore.write_data {st : LineStore} (hw : st.bytes.wf = true) (l sl : Nat) (d : List Byte) (k : Nat) :
    (st.write l sl d).data k = if k = l then slice d 0 64 else st.data k := by
  show (st.bytes.write (64 * l) (slice d 0 64)).read (64 * k) 64 = _
  split
  · next h =>
    subst h
    have := Memory.read_write st.bytes (64 * k) (slice d 0 64) hw
    rwa [slice_length] at this
  · next h =>
    refine List.map_congr_left fun i hi => Memory.write_other _ _ _ _ ?_
    have := List.mem_range.1 hi
    rw [slice_length]
    omega

/-! ## Copies in the cache -/

/-- A cached copy of a hub as it should be: it checks, its line lies within the usable capacity, and a clean one is what
the stack holds. -/
def Hub.copyOk (h : Hub) (c : CacheLine) : Prop :=
  c.check = lineCheck c.data (stackSeal (h.place (64 * c.line))) ∧ c.glitch = false ∧ c.data.length = 64 ∧
    64 * c.line < usableBytes h.mem.chanUse ∧
    (c.dirty = false → c.data = h.mem.stack.data (physLine (h.place (64 * c.line))))

theorem Hub.orderly_reachable {h : Hub} (ho : h.orderly) (a : Nat × Nat) : h.unreachable a = false := by
  obtain ⟨-, ht, -⟩ := ho
  simp [Hub.unreachable, ht, bit]

theorem Hub.cached_mem {h : Hub} {l : Nat} {c : CacheLine} (hc : h.cached l = some c) : c ∈ h.mem.cache ∧ c.line = l :=
  ⟨List.mem_of_find?_eq_some hc, by simpa using List.find?_some hc⟩

theorem Hub.cached_none {h : Hub} {l : Nat} (hc : h.cached l = none) : ∀ c ∈ h.mem.cache, c.line ≠ l := fun c hm => by
  simpa using List.find?_eq_none.1 hc c hm

theorem Hub.line_of_cached {h : Hub} {l : Nat} {c : CacheLine} (hc : h.cached l = some c) : h.line l = c.data := by
  simp [Hub.line, hc]

theorem Hub.line_of_uncached {h : Hub} {l : Nat} (hc : h.cached l = none) :
    h.line l = h.mem.stack.data (physLine (h.place (64 * l))) := by simp [Hub.line, hc]

/-- Every line of an orderly hub has 64 bytes. -/
theorem Hub.line_length {h : Hub} (ho : h.orderly) (l : Nat) : (h.line l).length = 64 := by
  obtain ⟨-, -, hcs, -⟩ := ho
  cases hc : h.cached l with
  | none => simp [Hub.line_of_uncached hc]
  | some c =>
    obtain ⟨-, -, hlen, -⟩ := hcs c (Hub.cached_mem hc).1
    rw [Hub.line_of_cached hc, hlen]

/-- After a change of the cache a line is cached as its new first copy says. -/
theorem Hub.cached_setCache_cons (h : Hub) (c : CacheLine) (cs : List CacheLine) (k : Nat) :
    (h.setCache (c :: cs)).cached k = if k = c.line then some c else (h.setCache cs).cached k := by
  by_cases e : k = c.line
  · simp [Hub.cached, Hub.setCache, e]
  · simp [Hub.cached, Hub.setCache, e, Ne.symm e]

theorem Hub.line_setCache_cons (h : Hub) (c : CacheLine) (cs : List CacheLine) (k : Nat) :
    (h.setCache (c :: cs)).line k = if k = c.line then c.data else (h.setCache cs).line k := by
  by_cases e : k = c.line
  · simp [Hub.line, Hub.cached_setCache_cons, e]
  · simp [Hub.line, Hub.cached_setCache_cons, e]

/-- The other lines stay cached as they were when the copies of one line go. -/
theorem Hub.cached_without (h : Hub) {l k : Nat} (e : k ≠ l) :
    (h.setCache (h.mem.cache.filter fun c => c.line != l)).cached k = h.cached k := by
  simp only [Hub.cached, Hub.setCache, List.find?_filter]
  congr 1
  funext c
  by_cases hc : c.line = k <;> simp [hc, e]

/-- Copies taken from a cache leave no line cached twice. -/
theorem nodup_without {cs : List CacheLine} (h : (cs.map (·.line)).Nodup) (f : CacheLine → Bool) :
    ((cs.filter f).map (·.line)).Nodup := h.sublist (List.filter_sublist.map _)

/-- A cache with one more copy at its front, of a line that it does not list. -/
theorem nodup_front {cs : List CacheLine} (c : CacheLine) (h : (cs.map (·.line)).Nodup) (hc : ∀ x ∈ cs, x.line ≠ c.line) :
    ((c :: cs).map (·.line)).Nodup := by
  rw [List.map_cons, List.nodup_cons]
  exact ⟨fun hm => by obtain ⟨x, hx, e⟩ := List.mem_map.1 hm; exact hc x hx e, h⟩

/-- Another cache, all of whose copies are as they should be, leaves a hub orderly. -/
theorem Hub.setCache_orderly {h : Hub} (ho : h.orderly) {cs : List CacheLine} (hn : (cs.map (·.line)).Nodup)
    (hc : ∀ c ∈ cs, h.copyOk c) : (h.setCache cs).orderly := by
  obtain ⟨hs, ht, -, -, h1⟩ := ho
  exact ⟨hs, ht, hc, hn, h1⟩

/-! ## Reads and writes without a fault -/

/-- b is hub a after reads and writes: its stack, its cache and its traffic counters alone may differ, and it is orderly
and in canonical form as a was. -/
structure Hub.Serves (a b : Hub) : Prop where
  rest : ∃ st ca hi mi wb nr, b = { a with mem := { a.mem with
    stack := st, cache := ca, hits := hi, misses := mi, wideBytes := wb, narrowReads := nr } }
  orderly : a.orderly → b.orderly
  wf : a.wf → b.wf

theorem Hub.Serves.refl (a : Hub) : a.Serves a := ⟨⟨_, _, _, _, _, _, rfl⟩, id, id⟩

theorem Hub.Serves.trans {a b c : Hub} (h : a.Serves b) (g : b.Serves c) : a.Serves c := by
  refine ⟨?_, g.orderly ∘ h.orderly, g.wf ∘ h.wf⟩
  obtain ⟨_, _, _, _, _, _, rfl⟩ := h.rest
  obtain ⟨_, _, _, _, _, _, rfl⟩ := g.rest
  exact ⟨_, _, _, _, _, _, rfl⟩

theorem Hub.Serves.place {a b : Hub} (h : a.Serves b) (l : Nat) : b.place l = a.place l := by
  obtain ⟨_, _, _, _, _, _, rfl⟩ := h.rest
  rfl

theorem Hub.Serves.chanUse {a b : Hub} (h : a.Serves b) : b.mem.chanUse = a.mem.chanUse := by
  obtain ⟨_, _, _, _, _, _, rfl⟩ := h.rest
  rfl

theorem Hub.Serves.red {a b : Hub} (h : a.Serves b) : b.red = a.red := by
  obtain ⟨_, _, _, _, _, _, rfl⟩ := h.rest
  rfl

/-- What the traffic counters count changes no line. -/
theorem Hub.count_serves (h : Hub) (path : Path) (n : Nat) : h.Serves { h with mem := h.mem.count path n } := by
  cases path <;> exact ⟨⟨_, _, _, _, _, _, rfl⟩, id, id⟩

theorem Hub.count_line (h : Hub) (path : Path) (n l : Nat) : ({ h with mem := h.mem.count path n } : Hub).line l = h.line l := by
  cases path <;> rfl

/-- Between orderly hubs a and b every line of the usable capacity but l holds what it held, and l holds d. -/
def Hub.sets (a b : Hub) (l : Nat) (d : List Byte) : Prop :=
  ∀ k, 64 * k < usableBytes a.mem.chanUse → b.line k = if k = l then d else a.line k

/-- A line of the usable capacity written to the stack of an orderly hub, with copies of that line alone put into its
cache or taken from it, all of them what was written. -/
theorem Hub.stored_orderly {h : Hub} (ho : h.orderly) (hw : h.wf) {l : Nat} {d : List Byte} (hd : d.length = 64)
    (hl : 64 * l < usableBytes h.mem.chanUse) {cs : List CacheLine} (hn : (cs.map (·.line)).Nodup)
    (hc : ∀ c ∈ cs, (c ∈ h.mem.cache ∧ c.line ≠ l) ∨ (c.line = l ∧ c.data = d ∧ c.glitch = false ∧
      c.check = lineCheck d (stackSeal (h.place (64 * l))))) :
    ((h.setStack (h.mem.stack.write (physLine (h.place (64 * l))) (stackSeal (h.place (64 * l))) d)).setCache cs).orderly := by
  obtain ⟨hs, ht, hcs, -, h1⟩ := ho
  refine ⟨LineStore.write_sound _ _ _ _ hs, ht, fun c hm => ?_, hn, h1⟩
  have hdata := LineStore.write_data hw (physLine (h.place (64 * l))) (stackSeal (h.place (64 * l))) d
  rw [slice_whole hd] at hdata
  rcases hc c hm with ⟨hm, hne⟩ | ⟨rfl, hcd, hg, hck⟩
  · obtain ⟨k1, k2, k3, k4, k5⟩ := hcs c hm
    refine ⟨k1, k2, k3, k4, fun hcl => (k5 hcl).trans ?_⟩
    exact ((hdata _).trans (if_neg fun e => hne (h1 _ _ k4 hl e))).symm
  · refine ⟨by rw [hck, hcd]; rfl, hg, by rw [hcd, hd], hl, fun _ => ?_⟩
    exact hcd.trans ((hdata _).trans (if_pos rfl)).symm

/-- Of the lines of such a hub the one written holds what was written, and every other what it held. -/
theorem Hub.stored_sets {h : Hub} (ho : h.orderly) (hw : h.wf) {l : Nat} {d : List Byte} (hd : d.length = 64)
    (hl : 64 * l < usableBytes h.mem.chanUse) {cs : List CacheLine} (hk : ∀ k, k ≠ l → (h.setCache cs).cached k = h.cached k)
    (hc : ∀ c ∈ cs, c.line = l → c.data = d) :
    h.sets ((h.setStack (h.mem.stack.write (physLine (h.place (64 * l))) (stackSeal (h.place (64 * l))) d)).setCache cs)
      l d := by
  obtain ⟨-, -, -, -, h1⟩ := ho
  have hdata := LineStore.write_data hw (physLine (h.place (64 * l))) (stackSeal (h.place (64 * l))) d
  rw [slice_whole hd] at hdata
  intro k hku
  generalize hg : (h.setStack (h.mem.stack.write (physLine (h.place (64 * l))) (stackSeal (h.place (64 * l))) d)).setCache cs = g
  have hgp : g.place (64 * k) = h.place (64 * k) := by rw [← hg]; rfl
  have hgs : g.mem.stack = h.mem.stack.write (physLine (h.place (64 * l))) (stackSeal (h.place (64 * l))) d := by rw [← hg]; rfl
  have hgc : g.cached k = (h.setCache cs).cached k := by rw [← hg]; rfl
  split
  · next e =>
    subst e
    cases hcd : g.cached k with
    | none => rw [Hub.line_of_uncached hcd, hgp, hgs, hdata, if_pos rfl]
    | some c =>
      rw [Hub.line_of_cached hcd]
      obtain ⟨hm, he⟩ := Hub.cached_mem hcd
      exact hc c (by rw [← hg] at hm; exact hm) he
  · next e =>
    rw [hk k e] at hgc
    cases hcd : h.cached k with
    | none => rw [Hub.line_of_uncached (hgc.trans hcd), Hub.line_of_uncached hcd, hgp, hgs, hdata,
        if_neg fun e' => e (h1 _ _ hku hl e')]
    | some c => rw [Hub.line_of_cached (hgc.trans hcd), Hub.line_of_cached hcd]

/-- A cached copy written back is a line written to the stack. -/
theorem Hub.flush_eq {h : Hub} (ho : h.orderly) {c : CacheLine} (hc : h.copyOk c) :
    h.flush c = { hub := h.setStack (h.mem.stack.write (physLine (h.place (64 * c.line))) (stackSeal (h.place (64 * c.line))) c.data) } := by
  obtain ⟨hck, hg, hlen, -⟩ := hc
  simp [Hub.flush, Hub.orderly_reachable ho, hck, hg, LineStore.write, slice_whole hlen]

/-- Between orderly hubs a and b every line of the usable capacity holds what it held. -/
def Hub.keeps (a b : Hub) : Prop := ∀ k, 64 * k < usableBytes a.mem.chanUse → b.line k = a.line k

/-- The copy of a line in an orderly hub's cache is the one that the hub answers with. -/
theorem Hub.cached_of_mem {h : Hub} (ho : h.orderly) {c : CacheLine} (hc : c ∈ h.mem.cache) : h.cached c.line = some c := by
  obtain ⟨-, -, -, hn, -⟩ := ho
  cases hx : h.cached c.line with
  | none => exact absurd rfl (Hub.cached_none hx c hc)
  | some x =>
    obtain ⟨hm, he⟩ := Hub.cached_mem hx
    rw [List.inj_on_of_nodup_map hn hm hc he]

/-- A copy that goes from an orderly hub's cache, written back first where it is dirty, takes no line with it. -/
theorem Hub.evict_orderly {h : Hub} (ho : h.orderly) (hw : h.wf) {v : CacheLine} (hv : v ∈ h.mem.cache) :
    let h1 := h.setCache (h.mem.cache.filter fun c => c.line != v.line)
    ∃ b, (if v.dirty then h1.flush v else { hub := h1 }) = { hub := b } ∧ h.Serves b ∧
      b.mem.cache = h.mem.cache.filter (fun c => c.line != v.line) ∧ h.keeps b := by
  intro h1
  obtain ⟨-, -, hcs, hn, -⟩ := id ho
  have hline : h.line v.line = v.data := Hub.line_of_cached (Hub.cached_of_mem ho hv)
  have hsub : ∀ c ∈ h.mem.cache.filter (fun c => c.line != v.line), c ∈ h.mem.cache ∧ c.line ≠ v.line := fun c hc => by
    simpa using hc
  have ho1 : h1.orderly := Hub.setCache_orderly ho (nodup_without hn _) fun c hc => hcs c (hsub c hc).1
  obtain ⟨-, -, hlen, hus, hclean⟩ := id (hcs v hv)
  split
  · next hd =>
    refine ⟨_, Hub.flush_eq ho1 (hcs v hv), ⟨⟨_, _, _, _, _, _, rfl⟩, fun _ => ?_, LineStore.put_wf _ _ _ _ _⟩, rfl, fun k hk => ?_⟩
    · exact Hub.stored_orderly ho hw hlen hus (nodup_without hn _) fun c hc => .inl (hsub c hc)
    · have := Hub.stored_sets ho hw hlen hus (fun k e => Hub.cached_without h e)
        (fun c hc e => absurd e (hsub c hc).2) k hk
      refine this.trans ?_
      split
      · next e => rw [e, hline]
      · rfl
  · next hd =>
    refine ⟨h1, rfl, ⟨⟨_, _, _, _, _, _, rfl⟩, fun _ => ho1, id⟩, rfl, fun k hk => ?_⟩
    by_cases e : k = v.line
    · have hnone : h1.cached k = none := List.find?_eq_none.2 fun c hc => by
        rw [e]
        simpa using (hsub c hc).2
      rw [Hub.line_of_uncached hnone, e, hline, hclean (by simpa using hd)]
      rfl
    · simp only [Hub.line, h1, Hub.cached_without h e, Hub.setCache_stack, Hub.place_setCache]

/-- Room made in a set costs no line: at most a copy goes. -/
theorem Hub.makeRoom_orderly {h : Hub} (ho : h.orderly) (hw : h.wf) (l : Nat) :
    ∃ b w, h.makeRoom l = ({ hub := b }, w) ∧ h.Serves b ∧ (∀ c ∈ b.mem.cache, c ∈ h.mem.cache) ∧ h.keeps b := by
  have same : h.Serves h ∧ (∀ c ∈ h.mem.cache, c ∈ h.mem.cache) ∧ h.keeps h := ⟨.refl h, fun _ => id, fun _ _ => rfl⟩
  simp only [Hub.makeRoom]
  split
  · exact ⟨h, _, rfl, same⟩
  · split
    · exact ⟨h, _, rfl, same⟩
    · next v hv =>
      have hv : v ∈ h.mem.cache := (List.mem_filter.1 (List.mem_of_getLast? hv)).1
      obtain ⟨b, hb, hs, hc, hk⟩ := Hub.evict_orderly ho hw hv
      refine ⟨b, v.way, ?_, hs, fun c hm => (List.mem_filter.1 (hc ▸ hm)).1, hk⟩
      rw [← hb]
      split <;> rfl

/-- A line that was not cached put into the cache. -/
theorem Hub.fillLine_orderly {h : Hub} (ho : h.orderly) (hw : h.wf) {l : Nat} (hl : 64 * l < usableBytes h.mem.chanUse)
    (hc : h.cached l = none) {d : List Byte} (hd : d.length = 64) {dirty : Bool} (hcl : dirty = false → d = h.line l) :
    ∃ b, h.fillLine l d (lineCheck d (stackSeal (h.place (64 * l)))) dirty = { hub := b } ∧ h.Serves b ∧ h.sets b l d := by
  obtain ⟨g, w, hg, hs, hsub, hk⟩ := Hub.makeRoom_orderly ho hw l
  have hnone : g.cached l = none := List.find?_eq_none.2 fun c hm => by simpa using Hub.cached_none hc c (hsub c hm)
  obtain ⟨-, -, hcs, hn, -⟩ := id (hs.orderly ho)
  simp only [Hub.fillLine, hg]
  refine ⟨_, rfl, hs.trans ⟨⟨_, _, _, _, _, _, rfl⟩, fun hog => ?_, id⟩, fun k hku => ?_⟩
  · refine Hub.setCache_orderly hog (nodup_front _ hn fun c hm => Hub.cached_none hnone c hm) fun c hm => ?_
    rcases List.mem_cons.1 hm with rfl | hm
    · refine ⟨by rw [hs.place], rfl, hd, by rw [hs.chanUse]; exact hl, fun e => ?_⟩
      rw [← Hub.line_of_uncached hnone, hk l hl]
      exact hcl e
    · exact hcs c hm
  · rw [← hk k hku]
    exact Hub.line_setCache_cons g _ _ k

/-- A cached copy made the most recently used. -/
theorem Hub.touch_orderly {h : Hub} (ho : h.orderly) {c : CacheLine} (hc : h.copyOk c) : (h.touch c).orderly := by
  obtain ⟨-, -, hcs, hn, -⟩ := id ho
  refine Hub.setCache_orderly ho (nodup_front c (nodup_without hn _) fun x hx => by simpa using (List.mem_filter.1 hx).2)
    fun x hx => ?_
  rcases List.mem_cons.1 hx with rfl | hx
  · exact hc
  · exact hcs x (List.mem_filter.1 hx).1

theorem Hub.touch_cached (h : Hub) (c : CacheLine) (k : Nat) :
    (h.touch c).cached k = if k = c.line then some c else h.cached k := by
  rw [Hub.touch, Hub.cached_setCache_cons]
  split
  · rfl
  · next e => exact Hub.cached_without h e

theorem Hub.touch_line (h : Hub) (c : CacheLine) (k : Nat) : (h.touch c).line k = if k = c.line then c.data else h.line k := by
  rw [Hub.touch, Hub.line_setCache_cons]
  split
  · rfl
  · next e => simp only [Hub.line, Hub.cached_without h e, Hub.setCache_stack, Hub.place_setCache]

/-- A stack read of an orderly hub is good. -/
theorem Hub.readStack_orderly {h : Hub} (ho : h.orderly) (l src salt : Nat) :
    h.readStack l src salt = { hub := h, data := some (h.mem.stack.data (physLine (h.place (64 * l)))) } := by
  obtain ⟨hs, -⟩ := id ho
  simp only [Hub.readStack, Hub.orderly_reachable ho, LineStore.readTwice_sound _ _ _ _ hs]
  rfl

/-- An orderly hub answers a read with the line that it holds, whether or not a miss allocates. -/
theorem Hub.read_orderly {h : Hub} (ho : h.orderly) (hw : h.wf) {l : Nat} (hl : 64 * l < usableBytes h.mem.chanUse)
    (alloc : Bool) (src salt : Nat) :
    ∃ b, h.read alloc l src salt = { hub := b, data := some (h.line l) } ∧ h.Serves b ∧ h.keeps b := by
  obtain ⟨-, -, hcs, -⟩ := id ho
  cases hc : h.cached l with
  | some c =>
    obtain ⟨hm, rfl⟩ := Hub.cached_mem hc
    obtain ⟨hck, hg, -⟩ := id (hcs c hm)
    refine ⟨h.hit.touch c, ?_, ⟨⟨_, _, _, _, _, _, rfl⟩, fun _ => Hub.touch_orderly (h := h.hit) ho (hcs c hm), id⟩, fun k _ => ?_⟩
    · have e : ({ c with glitch := false } : CacheLine) = c := by rw [← hg]
      simp only [Hub.read, hc, ← hck, hg, e, Hub.line_of_cached hc, beq_self_eq_true, Bool.not_false, Bool.and_self, if_true]
    · rw [Hub.touch_line]
      split
      · next e => rw [e, Hub.line_of_cached hc]
      · rfl
  | none =>
    have hr : h.miss.readStack l src salt = { hub := h.miss, data := some (h.line l) } := by
      rw [Hub.readStack_orderly (h := h.miss) ho, Hub.line_of_uncached hc]
      rfl
    have hmiss : h.Serves h.miss := ⟨⟨_, _, _, _, _, _, rfl⟩, id, id⟩
    cases alloc with
    | false => exact ⟨h.miss, by simp only [Hub.read, hc, hr], hmiss, fun _ _ => rfl⟩
    | true =>
      obtain ⟨b, hb, hs, hk⟩ := Hub.fillLine_orderly (h := h.miss) ho hw hl hc (d := h.line l) (Hub.line_length ho l)
        (dirty := false) fun _ => rfl
      refine ⟨b, ?_, hmiss.trans hs, fun k hku => ?_⟩
      · simp only [Hub.read, hc, hr]
        rw [show h.place (64 * l) = h.miss.place (64 * l) from rfl, hb]
        rfl
      · rw [hk k hku]
        split
        · next e => rw [e]
        · rfl

/-- An orderly hub takes a write of a line, written back or written through. -/
theorem Hub.write_orderly {h : Hub} (ho : h.orderly) (hw : h.wf) {l : Nat} (hl : 64 * l < usableBytes h.mem.chanUse)
    (wb : Bool) {d : List Byte} (hd : d.length = 64) :
    ∃ b, h.write wb l d = { hub := b, data := some d } ∧ h.Serves b ∧ h.sets b l d := by
  obtain ⟨-, -, hcs, hn, -⟩ := id ho
  have hsl : slice d 0 64 = d := slice_whole hd
  have hmiss : h.Serves h.miss := ⟨⟨_, _, _, _, _, _, rfl⟩, id, id⟩
  cases hc : h.cached l with
  | some c =>
    obtain ⟨hm, rfl⟩ := Hub.cached_mem hc
    cases wb with
    | true =>
      simp only [Hub.write, Hub.orderly_reachable ho, hc, hsl, if_true, Bool.false_eq_true, if_false]
      refine ⟨_, rfl, ⟨⟨_, _, _, _, _, _, rfl⟩, fun _ => Hub.touch_orderly (h := h.hit) ho ⟨rfl, rfl, hd, hl, nofun⟩, id⟩, fun k _ => ?_⟩
      rw [Hub.touch_line]
      rfl
    | false =>
      simp only [Hub.write, Hub.orderly_reachable ho, hc, hsl, Bool.false_eq_true, if_false]
      have hsub : ∀ x ∈ (h.mem.cache.filter fun x => x.line != c.line), x ∈ h.mem.cache ∧ x.line ≠ c.line := fun x hx => by
        simpa using hx
      refine ⟨_, rfl, ⟨⟨_, _, _, _, _, _, rfl⟩, fun _ => ?_, LineStore.put_wf _ _ _ _ _⟩, ?_⟩
      · refine Hub.stored_orderly (h := h.hit) ho hw hd hl (nodup_front _ (nodup_without hn _) fun x hx => (hsub x hx).2) fun x hx => ?_
        rcases List.mem_cons.1 hx with rfl | hx
        · exact .inr ⟨rfl, rfl, rfl, rfl⟩
        · exact .inl (hsub x hx)
      · refine Hub.stored_sets (h := h.hit) ho hw hd hl (fun k e => (Hub.touch_cached h.hit _ k).trans (if_neg e)) fun x hx e => ?_
        rcases List.mem_cons.1 hx with rfl | hx
        · rfl
        · exact absurd e (hsub x hx).2
  | none =>
    cases wb with
    | true =>
      obtain ⟨b, hb, hs, hk⟩ := Hub.fillLine_orderly (h := h.miss) ho hw hl hc hd (dirty := true) nofun
      refine ⟨b, ?_, hmiss.trans hs, hk⟩
      simp only [Hub.write, Hub.orderly_reachable ho, hc, hsl, if_true, Bool.false_eq_true, if_false]
      rw [show h.place (64 * l) = h.miss.place (64 * l) from rfl, hb]
    | false =>
      simp only [Hub.write, Hub.orderly_reachable ho, hc, hsl, Bool.false_eq_true, if_false]
      refine ⟨_, rfl, ⟨⟨_, _, _, _, _, _, rfl⟩, fun _ => ?_, LineStore.put_wf _ _ _ _ _⟩, ?_⟩
      · exact Hub.stored_orderly (h := h.miss) ho hw hd hl hn fun c hm => .inl ⟨hm, Hub.cached_none hc c hm⟩
      · exact Hub.stored_sets (h := h.miss) ho hw hd hl (fun _ _ => rfl) fun c hm e => absurd e (Hub.cached_none hc c hm)

end Sys2Proof.Machine
end

section
/-! PROOF. Regions through orderly hubs (11 R279, R281): a span of a region that its hubs serve reads as its bytes and
changes no line; a span written holds the bytes written, and every other byte of regions that lie apart stays. -/

namespace Sys2Proof.Machine

/-! ## A state whose hubs have read and written -/

/-- Every hub is there, with its stack in canonical form. -/
def State.stacksFit (s : State) : Prop := s.hubs.length = 32 ∧ ∀ h, (s.hub h).wf

theorem State.stacksFit_of {s : State} (hw : s.whole = true) (hm : s.memWf = true) : s.stacksFit := by
  have hlen : s.hubs.length = 32 := by
    obtain ⟨-, -, -, hlen, -⟩ := (State.whole_iff s).1 hw
    exact hlen
  simp only [State.memWf, Bool.and_eq_true, List.all_eq_true] at hm
  refine ⟨hlen, fun h => ?_⟩
  by_cases hh : h < s.hubs.length
  · rw [show s.hub h = s.hubs[h] by simp [State.hub, hh]]
    exact hm.2 _ (List.getElem_mem hh)
  · rw [show s.hub h = {} by simp [State.hub, Nat.le_of_not_lt hh]]
    rfl

/-- Since s the hubs have read and written lines without a fault; dies and update dies may have changed as well. -/
structure State.Serves (s t : State) : Prop where
  rest : t = { s with cds := t.cds, hubs := t.hubs, uds := t.uds }
  length : t.hubs.length = s.hubs.length
  hubs : ∀ h, (s.hub h).Serves (t.hub h)

/-- Since s the hubs have read and written lines without a fault, and nothing else has happened. -/
structure State.Accesses (s t : State) : Prop extends State.Serves s t where
  cds : t.cds = s.cds
  uds : t.uds = s.uds

/-- No line of the usable capacity of a hub holds in t anything but what it held in s. -/
def State.keepsLines (s t : State) : Prop := ∀ h, (s.hub h).keeps (t.hub h)

theorem State.Serves.refl (s : State) : s.Serves s := ⟨rfl, rfl, fun _ => .refl _⟩

theorem State.Serves.trans {s t v : State} (a : s.Serves t) (b : t.Serves v) : s.Serves v :=
  ⟨by rw [b.rest, a.rest], b.length.trans a.length, fun h => (a.hubs h).trans (b.hubs h)⟩

theorem State.Accesses.refl (s : State) : s.Accesses s := ⟨.refl s, rfl, rfl⟩

theorem State.Accesses.trans {s t v : State} (a : s.Accesses t) (b : t.Accesses v) : s.Accesses v :=
  ⟨a.toServes.trans b.toServes, b.cds.trans a.cds, b.uds.trans a.uds⟩

theorem State.keepsLines_refl (s : State) : s.keepsLines s := fun _ _ _ => rfl

theorem State.keepsLines_trans {s t v : State} (h : s.Serves t) (a : s.keepsLines t) (b : t.keepsLines v) :
    s.keepsLines v := fun k l hl => (b k l (by rwa [(h.hubs k).chanUse])).trans (a k l hl)

/-- A change of an update die is none of a hub. -/
theorem State.Serves.modUd (s : State) (u : Nat) (f : Ud → Ud) : s.Serves (s.modUd u f) := ⟨rfl, rfl, fun _ => .refl _⟩

/-- A change of a record is none of a hub. -/
theorem State.Serves.modRec (s : State) (r : RecRef) (f : RecState → RecState) : s.Serves (s.modRec r f) :=
  ⟨rfl, rfl, fun _ => .refl _⟩

section
variable {s t : State} (h : s.Serves t)
include h

theorem State.Serves.parts : t.parts = s.parts := by rw [h.rest]

theorem State.Serves.part (p : Nat) : t.part p = s.part p := by simp only [State.part, h.parts]

theorem State.Serves.isCut (x : Site) : t.isCut x = s.isCut x := by
  rw [h.rest]
  cases x <;> rfl

theorem State.Serves.served {p g : Nat} (hs : s.served p g) : t.served p g := by
  intro o k loc e
  rw [h.part] at e
  obtain ⟨h1, h2, h3, h4⟩ := hs o k loc e
  exact ⟨h1, by rw [h.isCut, h2], (h.hubs k).orderly h3, by rwa [(h.hubs k).chanUse]⟩

theorem State.Serves.stacksFit (hf : s.stacksFit) : t.stacksFit :=
  ⟨h.length.trans hf.1, fun k => (h.hubs k).wf (hf.2 k)⟩

theorem State.Serves.memTraffic : memTraffic s t := by
  intro k
  obtain ⟨st, ca, hi, mi, wb, nr, e⟩ := (h.hubs k).rest
  exact ⟨st, ca, hi, mi, wb, nr, _, _, _, _, e⟩

/-- A region that is served reads the same where no line changes. -/
theorem State.Serves.regionByte {p g : Nat} (hs : s.served p g) (hk : s.keepsLines t) (o : Nat) :
    t.regionByte p g o = s.regionByte p g o := by
  simp only [State.regionByte, h.part]
  split
  · next k loc e => rw [hk k _ (hs _ _ _ e).2.2.2]
  · rfl

end

/-- A hub that has served a read or a write put back into the state. -/
theorem State.Accesses.modHub {s : State} (hf : s.stacksFit) {h : Nat} (hh : h < 32) {b : Hub} (hb : (s.hub h).Serves b) :
    s.Accesses (s.modHub h fun _ => b) := by
  refine ⟨⟨rfl, modAt_length .., fun k => ?_⟩, rfl, rfl⟩
  by_cases e : k = h
  · subst e
    rw [State.modHub_hub_same _ _ _ (by rw [hf.1]; exact hh)]
    exact hb
  · rw [State.modHub_hub_other _ _ _ _ e]
    exact .refl _

/-- Without line events a hub's result is the hub alone. -/
theorem State.setHub_quiet (s : State) (h : Nat) (b : Hub) (d : Option (List Byte)) :
    s.setHub h { hub := b, data := d } = s.modHub h fun _ => b := rfl

/-- Every line that a span within a region touches has a place. -/
theorem Part.place_isSome {q : Part} {g o n : Nat} (hl : o + n ≤ (q.region? g).elim 0 (·.length)) {k : Piece}
    (hk : k ∈ pieces o n) : ∃ h loc, q.place? g (64 * k.line) = some (h, loc) := by
  have hlt := (pieces_of hk).line_lt
  cases hr : q.region? g with
  | none => simp [hr] at hl; omega
  | some rg =>
    rw [hr, Option.elim_some] at hl
    cases ha : q.active with
    | none => simp [Part.region?, Part.regions, ha] at hr
    | some i =>
      simp only [Part.place?, ha, hr, ge_iff_le, show ¬ rg.length ≤ 64 * k.line by omega, if_false]
      split <;> exact ⟨_, _, rfl⟩

/-- A fold whose every step carries a claim about the items done so far on to one more. -/
theorem foldl_done {α β : Type} {f : β → α → β} {l : List α} {P : List α → β → Prop} {b : β} (h0 : P [] b)
    (hs : ∀ done a b, a ∈ l → P done b → P (done ++ [a]) (f b a)) : P l (l.foldl f b) := by
  suffices ∀ done rest b, done ++ rest = l → P done b → P l (rest.foldl f b) from this [] l b rfl h0
  intro done rest b e hp
  induction rest generalizing done b with
  | nil => simpa [← e] using hp
  | cons a rest ih => exact ih (done ++ [a]) (f b a) (by simp [← e]) (hs done a b (by simp [← e]) hp)

/-! ## A span read -/

theorem readRegionLine_served {s : State} (hf : s.stacksFit) {p g o h loc : Nat} (hs : s.served p g)
    (hp : (s.part p).place? g (64 * o) = some (h, loc)) (src : Nat) (path : Path) :
    ∃ t, readRegionLine p g (64 * o) src path s = (t, some ((s.hub h).line (loc / 64))) ∧ s.Accesses t ∧ s.keepsLines t := by
  obtain ⟨hh, hcut, ho, hl⟩ := hs o h loc hp
  obtain ⟨b, hb, hsv, hk⟩ := Hub.read_orderly ho (hf.2 h) hl
    (readAllocates path (((s.part p).region? g).elim 0 (·.cls))) src s.free
  refine ⟨s.modHub h fun _ => { b with mem := b.mem.count path 64 }, ?_, .modHub hf hh (hsv.trans (Hub.count_serves b path 64)),
    fun k l hl' => ?_⟩
  · simp only [readRegionLine, hp, hcut, hb, State.setHub_quiet, State.modMem_eq, State.modHub_modHub, Bool.false_eq_true,
      if_false]
  · by_cases e : k = h
    · subst e
      rw [State.modHub_hub_same _ _ _ (by rw [hf.1]; exact hh), Hub.count_line]
      exact hk l hl'
    · rw [State.modHub_hub_other _ _ _ _ e]

/-- A piece of a line, byte by byte. -/
theorem slice_line (s : State) {p g h loc o a n : Nat} {q : Piece} (hq : q.Of a n)
    (hp : (s.part p).place? g (64 * q.line) = some (h, loc)) (ho : o < q.count) :
    ((s.hub h).line (loc / 64)).getD (q.from' + o) 0 = s.regionByte p g (a + q.off + o) := by
  obtain ⟨h1, h2, -⟩ := hq
  rw [State.regionByte, show (a + q.off + o) / 64 = q.line by omega, hp, show (a + q.off + o) % 64 = q.from' + o by omega]

/-- A span of a region that its hubs serve reads as its bytes, and changes no line. -/
theorem readRegion_served {s : State} (hf : s.stacksFit) {p g o n : Nat} (hs : s.served p g)
    (hl : o + n ≤ ((s.part p).region? g).elim 0 (·.length)) (src : Nat) (path : Path) :
    ∃ t, readRegion p g o n src path s = { state := t, chunks := cleanChunks (s.regionByte p g) o n } ∧
      s.Accesses t ∧ s.keepsLines t := by
  refine foldl_done (P := fun done (x : SpanRes) => 
      ∃ t, x = { state := t, chunks := done.map (cleanChunk (s.regionByte p g) o) } ∧ s.Accesses t ∧ s.keepsLines t) ⟨s, rfl, .refl s, s.keepsLines_refl⟩ ?_
  rintro done q _ hq ⟨t, rfl, ha, hk⟩
  obtain ⟨h, loc, hp⟩ := Part.place_isSome hl hq
  have hp' := hp
  rw [← ha.part] at hp'
  obtain ⟨v, hv, hav, hkv⟩ := readRegionLine_served (ha.stacksFit hf) (ha.served hs) hp' src path
  refine ⟨v, ?_, ha.trans hav, State.keepsLines_trans ha.toServes hk hkv⟩
  have hdata : slice ((t.hub h).line (loc / 64)) q.from' q.count =
      (List.range q.count).map fun i => s.regionByte p g (o + q.off + i) := by
    rw [slice_eq_map]
    refine List.map_congr_left fun i hi => ?_
    rw [slice_line t (pieces_of hq) hp' (List.mem_range.1 hi), ha.regionByte hs hk]
  simp only [hv, Option.map_some, hdata, List.map_append, List.map_cons, List.map_nil, Option.isSome_some, if_true]
  rfl

/-! ## A span written -/

/-- A hub after a write has been counted: the narrow path counts reads alone (Table 11.7). -/
def Hub.countWrite (b : Hub) (path : Path) (n : Nat) : Hub :=
  { b with mem := if path = .narrow then b.mem else b.mem.count path n }

theorem Hub.countWrite_serves (b : Hub) (path : Path) (n : Nat) : b.Serves (b.countWrite path n) := by
  unfold Hub.countWrite
  split
  · exact .refl b
  · exact Hub.count_serves b path n

theorem Hub.countWrite_line (b : Hub) (path : Path) (n l : Nat) : (b.countWrite path n).line l = b.line l := by
  unfold Hub.countWrite
  split
  · rfl
  · exact Hub.count_line b path n l

/-- From s to t hub h alone has been accessed, and of its usable capacity line l alone has changed: it holds d. -/
structure State.SetsLine (s t : State) (h l : Nat) (d : List Byte) : Prop extends State.Accesses s t where
  sets : (s.hub h).sets (t.hub h) l d
  other : ∀ k, k ≠ h → t.hub k = s.hub k

theorem State.SetsLine.modHub {s : State} (hf : s.stacksFit) {h l : Nat} (hh : h < 32) {d : List Byte} {b : Hub}
    (hb : (s.hub h).Serves b) (hset : (s.hub h).sets b l d) (path : Path) (n : Nat) :
    s.SetsLine (s.modHub h fun _ => b.countWrite path n) h l d := by
  refine ⟨.modHub hf hh (hb.trans (b.countWrite_serves path n)), fun k hk => ?_, fun k hk => State.modHub_hub_other _ _ _ _ hk⟩
  rw [State.modHub_hub_same _ _ _ (by rw [hf.1]; exact hh), Hub.countWrite_line, hset k hk]

/-- One line of a served region written, whole or in part: that line is patched. -/
theorem writeRegionPiece_served {s : State} (hf : s.stacksFit) {p g h loc : Nat} (hs : s.served p g) {q : Piece}
    (hp : (s.part p).place? g (64 * q.line) = some (h, loc)) (hq : q.from' + q.count ≤ 64) {bs : List Byte}
    (hb : bs.length = q.count) (src : Nat) (path : Path) :
    ∃ t, writeRegionPiece p g src path q bs s = (t, true) ∧
      s.SetsLine t h (loc / 64) (patch ((s.hub h).line (loc / 64)) q.from' bs) := by
  obtain ⟨hh, hcut, ho, hl⟩ := hs _ h loc hp
  have hline := Hub.line_length ho (loc / 64)
  generalize hwb : writesBack (((s.part p).region? g).elim 0 (·.cls)) = wb
  simp only [writeRegionPiece, hp, hcut, hwb, Bool.false_eq_true, if_false]
  split
  · next e =>
    have hpatch : patch ((s.hub h).line (loc / 64)) q.from' bs = bs := by
      simp [patch, show q.from' = 0 by omega, hline, hb, e]
    obtain ⟨b, hw, hsv, hset⟩ := Hub.write_orderly ho (hf.2 h) hl wb (hb.trans e)
    rw [hpatch]
    refine ⟨_, ?_, .modHub hf hh hsv hset path 64⟩
    simp only [hw, State.setHub_quiet, State.modMem_eq, State.modHub_modHub, Option.isSome_some]
    rfl
  · obtain ⟨b, hr, hsv, hk⟩ := Hub.read_orderly ho (hf.2 h) hl false src s.free
    have hplen : (patch ((s.hub h).line (loc / 64)) q.from' bs).length = 64 := by
      rw [patch_length (by omega), hline]
    obtain ⟨b', hw, hsv', hset⟩ := Hub.write_orderly (hsv.orderly ho) (hsv.wf (hf.2 h)) (by rwa [hsv.chanUse]) wb hplen
    refine ⟨_, ?_, .modHub hf hh (hsv.trans hsv') (fun k hku => ?_) path q.count⟩
    · simp only [hr, State.setHub_quiet, State.modHub_hub_same s h _ (by rw [hf.1]; exact hh), hw, State.modMem_eq,
        State.modHub_modHub, Option.isSome_some]
      rfl
    · rw [hset k (by rwa [hsv.chanUse]), hk k hku]

/-- Regions of partition p that its hubs serve and no two of whose lines meet. -/
def State.readable (s : State) (p : Nat) (regions : List Nat) : Prop :=
  s.stacksFit ∧ s.apart p regions ∧ ∀ g ∈ regions, s.served p g

theorem State.Serves.readable {s t : State} (h : s.Serves t) {p : Nat} {regions : List Nat} (hr : s.readable p regions) :
    t.readable p regions := by
  obtain ⟨hf, ⟨hn, ha⟩, hs⟩ := hr
  refine ⟨h.stacksFit hf, ⟨hn, ?_⟩, fun g hg => h.served (hs g hg)⟩
  rw [h.part]
  exact ha

/-- From s to t, of the bytes of these regions of partition p, those of region g from byte o on have become bs. -/
def State.wrote (s t : State) (p : Nat) (regions : List Nat) (g o : Nat) (bs : List Byte) : Prop :=
  ∀ b ∈ regions, ∀ x, t.regionByte p b x =
    if b = g ∧ o ≤ x ∧ x < o + bs.length then bs.getD (x - o) 0 else s.regionByte p b x

/-- A line of region g patched is bytes of region g written. -/
theorem State.SetsLine.wrote {s t : State} {p g h loc : Nat} {regions : List Nat} (hr : s.readable p regions)
    (hg : g ∈ regions) {l from' : Nat} (hp : (s.part p).place? g (64 * l) = some (h, loc)) {bs : List Byte}
    (hb : from' + bs.length ≤ 64) (hst : s.SetsLine t h (loc / 64) (patch ((s.hub h).line (loc / 64)) from' bs)) :
    s.wrote t p regions g (64 * l + from') bs := by
  obtain ⟨hf, ⟨-, hap⟩, hs⟩ := hr
  obtain ⟨-, -, ho, -⟩ := hs g hg _ _ _ hp
  have hfrom : from' ≤ ((s.hub h).line (loc / 64)).length := by rw [Hub.line_length ho]; omega
  intro b hbm x
  by_cases hhere : b = g ∧ x / 64 = l
  · obtain ⟨rfl, rfl⟩ := hhere
    simp only [State.regionByte, hst.part, hp, hst.sets _ (hs _ hg _ _ _ hp).2.2.2, if_true, patch_getD hfrom, true_and]
    by_cases hx : from' ≤ x % 64 ∧ x % 64 < from' + bs.length
    · rw [if_pos hx, if_pos (by omega), show x - (64 * (x / 64) + from') = x % 64 - from' by omega]
    · rw [if_neg hx, if_neg (by omega)]
  · rw [if_neg fun ⟨h1, h2, h3⟩ => hhere ⟨h1, by omega⟩]
    simp only [State.regionByte, hst.part]
    split
    · next k m e =>
      by_cases hk : k = h
      · subst hk
        rw [hst.sets _ (hs b hbm _ _ _ e).2.2.2, if_neg fun hml => hhere (hap b hbm g hg _ _ _ _ _ e hp hml)]
      · rw [hst.other k hk]
    · rfl

/-- Of a span of region g from byte o on that becomes bs, these pieces have been written. -/
structure WrotePieces (s t : State) (p : Nat) (regions : List Nat) (g o : Nat) (bs : List Byte) (done : List Piece) : Prop
    extends State.Accesses s t where
  wrote : ∀ q ∈ done, ∀ x, o + q.off ≤ x → x < o + q.off + q.count → t.regionByte p g x = bs.getD (x - o) 0
  kept : ∀ b ∈ regions, ∀ x, (b = g → ∀ q ∈ done, x < o + q.off ∨ o + q.off + q.count ≤ x) →
    t.regionByte p b x = s.regionByte p b x

theorem WrotePieces.snoc {s t v : State} {p g o : Nat} {regions : List Nat} {bs : List Byte} {done : List Piece} {q : Piece}
    (h : WrotePieces s t p regions g o bs done) (hg : g ∈ regions) (ha : t.Accesses v)
    (hw : t.wrote v p regions g (o + q.off) (slice bs q.off q.count)) :
    WrotePieces s v p regions g o bs (done ++ [q]) := by
  unfold State.wrote at hw
  rw [slice_length] at hw
  refine ⟨h.toAccesses.trans ha, fun k hk x hkl hkr => ?_, fun b hb x hno => ?_⟩
  · rw [hw g hg x]
    split
    · rw [slice_eq_map]
      simp [List.getD_eq_getElem?_getD, show x - (o + q.off) < q.count by omega,
        show q.off + (x - (o + q.off)) = x - o by omega]
    · next hx =>
      rcases List.mem_append.1 hk with hk | hk
      · exact h.wrote k hk x hkl hkr
      · rw [List.mem_singleton.1 hk] at hkl hkr
        exact absurd ⟨rfl, hkl, hkr⟩ hx
  · rw [hw b hb x, if_neg fun ⟨h1, h2, h3⟩ => by have := hno h1 q (by simp); omega]
    exact h.kept b hb x fun hbg k hk => hno hbg k (by simp [hk])

/-- A span of a region written by its hubs: the span holds the bytes written, and every other byte of regions that lie
apart is what it was. -/
theorem writeRegion_served {s : State} {p g o : Nat} {regions : List Nat} {bs : List Byte} (hr : s.readable p regions)
    (hg : g ∈ regions) (hl : o + bs.length ≤ ((s.part p).region? g).elim 0 (·.length)) (src : Nat) (path : Path) :
    ∃ t, writeRegion p g o src path bs s = { state := t } ∧ s.Accesses t ∧ s.wrote t p regions g o bs := by
  have key : ∃ t, writeRegion p g o src path bs s = { state := t } ∧
      WrotePieces s t p regions g o bs (pieces o bs.length) := by
    refine foldl_done (P := fun done (x : SpanRes) => ∃ t, x = { state := t } ∧ WrotePieces s t p regions g o bs done)
      ⟨s, rfl, .refl s, (fun _ h => nomatch h), fun _ _ _ _ => rfl⟩ ?_
    rintro done q _ hq ⟨t, rfl, ht⟩
    obtain ⟨h, loc, hp⟩ := Part.place_isSome hl hq
    obtain ⟨h1, h2, -⟩ := pieces_of hq
    rw [← ht.part] at hp
    have hrt := ht.readable hr
    have hlen : (slice bs q.off q.count).length = q.count := slice_length ..
    obtain ⟨v, hv, hset⟩ := writeRegionPiece_served hrt.1 (hrt.2.2 g hg) hp h2 hlen src path
    refine ⟨v, by simp only [hv]; rfl, ht.snoc hg hset.toAccesses ?_⟩
    rw [h1]
    exact hset.wrote hrt hg hp (by omega)
  obtain ⟨t, ht, hw⟩ := key
  refine ⟨t, ht, hw.toAccesses, fun b hb x => ?_⟩
  split
  · next hx =>
    obtain ⟨rfl, hx1, hx2⟩ := hx
    obtain ⟨q, hq, hq1, hq2⟩ := pieces_cover (a := o) (n := bs.length) (i := x - o) (by omega)
    exact hw.wrote q hq x (by omega) (by omega)
  · next hx =>
    refine hw.kept b hb x fun hbg q hq => ?_
    obtain ⟨-, -, -, hstay, -⟩ := pieces_of hq
    have : ¬ (o ≤ x ∧ x < o + bs.length) := fun hx' => hx ⟨hbg, hx'⟩
    omega

end Sys2Proof.Machine
end

section
/-! PROOF. What reads and writes of regions leave alone, whether or not a line fails (12 R291 to R297): outside the hubs'
memories and line checks only logs, telemetry and free values change. -/

namespace Sys2Proof.Machine

/-! ## A hub's reductions -/

@[simp] theorem Hub.flush_red (h : Hub) (c : CacheLine) : (h.flush c).hub.red = h.red := by
  simp only [Hub.flush]
  split <;> rfl

@[simp] theorem Hub.makeRoom_red (h : Hub) (l : Nat) : (h.makeRoom l).1.hub.red = h.red := by
  simp only [Hub.makeRoom]
  split
  · rfl
  · split
    · rfl
    · split
      · exact Hub.flush_red ..
      · rfl

@[simp] theorem Hub.fillLine_red (h : Hub) (l : Nat) (d : List Byte) (c : Half) (b : Bool) :
    (h.fillLine l d c b).hub.red = h.red := Hub.makeRoom_red h l

@[simp] theorem Hub.readStack_red (h : Hub) (l src salt : Nat) : (h.readStack l src salt).hub.red = h.red := by
  simp only [Hub.readStack]
  split <;> rfl

@[simp] theorem Hub.read_red (h : Hub) (alloc : Bool) (l src salt : Nat) : (h.read alloc l src salt).hub.red = h.red := by
  simp only [Hub.read]
  split
  · split
    · rfl
    · split
      · split <;> rfl
      · split <;> rfl
  · split
    · exact (Hub.fillLine_red ..).trans (Hub.readStack_red ..)
    · exact Hub.readStack_red ..

@[simp] theorem Hub.write_red (h : Hub) (wb : Bool) (l : Nat) (d : List Byte) : (h.write wb l d).hub.red = h.red := by
  simp only [Hub.write]
  split
  · rfl
  · split
    · split <;> rfl
    · split
      · exact Hub.fillLine_red ..
      · rfl

/-! ## What line accesses leave alone -/

/-- All of a state that no access to a line changes: everything but the hubs, the logs, the Baith ports and the free
values, and of the hubs their reductions. -/
def State.beyondLines (s : State) : State × List Reduce :=
  ({ s with hubs := [], free := 0, baith := [], ctrl := { s.ctrl with log := {} } }, s.hubs.map (·.red))

theorem map_modAt {α β : Type} (l : List α) (i : Nat) (f : α → α) (g : α → β) (h : ∀ a, l[i]? = some a → g (f a) = g a) :
    (modAt l i f).map g = l.map g := by
  apply List.ext_getElem?
  intro j
  rw [List.getElem?_map, List.getElem?_map, modAt_getElem?]
  by_cases e : j = i
  · subst e
    cases ha : l[j]? with
    | none => simp
    | some a => simp [h a ha]
  · simp [e]

theorem State.modHub_beyond (s : State) (k : Nat) {f : Hub → Hub} (hf : (f (s.hub k)).red = (s.hub k).red) :
    (s.modHub k f).beyondLines = s.beyondLines := by
  refine Prod.ext rfl (map_modAt _ _ _ _ fun b hb => ?_)
  rwa [show s.hub k = b by simp [State.hub, hb]] at hf

@[simp] theorem State.modMem_beyond (s : State) (k : Nat) (f : HubMem → HubMem) :
    (s.modMem k f).beyondLines = s.beyondLines := s.modHub_beyond k rfl

@[simp] theorem State.modChk_beyond (s : State) (k : Nat) (f : LineCheck → LineCheck) :
    (s.modChk k f).beyondLines = s.beyondLines := s.modHub_beyond k rfl

@[simp] theorem State.drawn_beyond (s : State) : s.drawn.beyondLines = s.beyondLines := rfl
@[simp] theorem State.modLog_beyond (s : State) (f : Logbook → Logbook) : (s.modLog f).beyondLines = s.beyondLines := rfl
@[simp] theorem State.modBp_beyond (s : State) (b : Nat) (f : Baith → Baith) : (s.modBp b f).beyondLines = s.beyondLines := rfl

theorem foldl_beyond {α β : Type} (σ : β → State) (l : List α) {f : β → α → β}
    (hf : ∀ r a, (σ (f r a)).beyondLines = (σ r).beyondLines) (r : β) :
    (σ (l.foldl f r)).beyondLines = (σ r).beyondLines := by
  induction l generalizing r with
  | nil => rfl
  | cons a l ih => rw [List.foldl_cons, ih, hf]

@[simp] theorem logEvent_beyond (kind site part : Nat) (payload : List Byte) (s : State) :
    (logEvent kind site part payload s).beyondLines = s.beyondLines := rfl

@[simp] theorem sendFault_beyond (site : Nat) (p : Option Nat) (f : FaultRec) (s : State) :
    (sendFault site p f s).beyondLines = s.beyondLines := by
  cases p with
  | none => exact (logEvent_beyond ..).trans (State.modLog_beyond ..)
  | some p => exact (State.modBp_beyond ..).trans ((logEvent_beyond ..).trans (State.modLog_beyond ..))

@[simp] theorem hubFault_beyond (h : Nat) (f : RawFault) (s : State) : (hubFault h f s).beyondLines = s.beyondLines :=
  (sendFault_beyond ..).trans (State.modChk_beyond ..)

theorem State.setHub_beyond (s : State) (h : Nat) {r : HubRes} (hr : r.hub.red = (s.hub h).red) :
    (s.setHub h r).beyondLines = s.beyondLines := by
  have hset : (s.modHub h fun _ => r.hub).beyondLines = s.beyondLines := s.modHub_beyond h hr
  unfold State.setHub
  split
  · exact hset
  · exact (foldl_beyond id _ (fun t f => hubFault_beyond h f t) _).trans hset

@[simp] theorem readRegionLine_beyond (p r o src : Nat) (path : Path) (s : State) :
    (readRegionLine p r o src path s).1.beyondLines = s.beyondLines := by
  unfold readRegionLine
  split
  · rfl
  · dsimp only
    split
    · rfl
    · exact (State.modMem_beyond ..).trans (State.setHub_beyond _ _ (Hub.read_red ..))

@[simp] theorem readRegion_beyond (p r o n src : Nat) (path : Path) (s : State) :
    (readRegion p r o n src path s).state.beyondLines = s.beyondLines :=
  foldl_beyond SpanRes.state _ (fun _ _ => readRegionLine_beyond ..) _

@[simp] theorem writeRegionPiece_beyond (p r src : Nat) (path : Path) (q : Piece) (bs : List Byte) (s : State) :
    (writeRegionPiece p r src path q bs s).1.beyondLines = s.beyondLines := by
  simp only [writeRegionPiece]
  split
  · rfl
  · split
    · rfl
    · split
      · exact (State.modMem_beyond ..).trans (State.setHub_beyond _ _ (Hub.write_red ..))
      · split
        · exact State.setHub_beyond _ _ (Hub.read_red ..)
        · exact (State.modMem_beyond ..).trans
            ((State.setHub_beyond _ _ (Hub.write_red ..)).trans (State.setHub_beyond _ _ (Hub.read_red ..)))

@[simp] theorem writeRegion_beyond (p r o src : Nat) (path : Path) (bs : List Byte) (s : State) :
    (writeRegion p r o src path bs s).state.beyondLines = s.beyondLines :=
  foldl_beyond SpanRes.state _ (fun _ _ => writeRegionPiece_beyond ..) _

@[simp] theorem readOwn_beyond (p region o n src u : Nat) (s : State) :
    (readOwn p region o n src u s).state.beyondLines = s.beyondLines := by
  unfold readOwn
  split <;> simp

@[simp] theorem writeOwn_beyond (p region o src u : Nat) (bs : List Byte) (s : State) :
    (writeOwn p region o src u bs s).state.beyondLines = s.beyondLines := by
  unfold writeOwn
  split <;> simp

end Sys2Proof.Machine
end

section
/-! PROOF. Update dies at work (10 R248, R252 to R262): what a record of one leaves alone, whether or not its lines fail. -/

namespace Sys2Proof.Machine

/-! ## The record and its partition -/

/-- A record changed reads as changed. -/
theorem State.rec?_modRec (s : State) (r : RecRef) (f : RecState → RecState) : (s.modRec r f).rec? r = (s.rec? r).map f := by
  have hfind : ∀ l : List StepRun, ((l.map fun t => if t.step == r.step then { t with recs := modAt t.recs r.cmd f } else t).find?
      fun t => t.step == r.step) =
      (l.find? fun t => t.step == r.step).map fun t => { t with recs := modAt t.recs r.cmd f } := by
    intro l
    induction l with
    | nil => rfl
    | cons a l ih => by_cases h : a.step = r.step <;> simp_all
  by_cases hd : r.die < s.cds.length
  · simp only [State.rec?, State.modRec, State.modSeq, State.modCd_cd_same _ _ _ hd, Seq.step?, Seq.modStep, hfind]
    cases (s.cd r.die).seq.steps.find? fun t => t.step == r.step with
    | none => rfl
    | some t => simp [modAt_getElem?]
  · have hempty : ∀ t : State, ¬ r.die < t.cds.length → t.rec? r = none := fun t ht => by
      simp only [State.rec?, show t.cd r.die = {} by simp [State.cd, Nat.le_of_not_lt ht]]
      rfl
    rw [hempty s hd, hempty _ (by simpa [State.modRec] using hd), Option.map_none]

/-- Two changes of one record are one. -/
theorem State.modRec_modRec (s : State) (r : RecRef) (f g : RecState → RecState) :
    (s.modRec r f).modRec r g = s.modRec r fun y => g (f y) := by
  simp only [State.modRec, State.modSeq, State.modCd_modCd, Seq.modStep, List.map_map]
  congr 1
  funext c
  congr 2
  refine List.map_congr_left fun t _ => ?_
  by_cases h : t.step = r.step <;> simp [h, modAt_modAt]

theorem State.rec?_of_cds {s t : State} (h : t.cds = s.cds) (r : RecRef) : t.rec? r = s.rec? r := by
  simp only [State.rec?, State.cd, h]

theorem coePart_of_parts {s t : State} (h : t.parts = s.parts) (r : RecRef) : coePart r t = coePart r s := by
  simp only [coePart, State.partOfCd, State.partWith, State.part, h]

/-- What a run finds of its granules, from the partition and the hub's closings alone. -/
theorem runState_congr {s t : State} {p u : Nat} (hp : t.part p = s.part p) (hr : (t.hub u).red = (s.hub u).red) (step : Nat)
    (e : UpdEntry) (run : OwnedRun) (w : Nat) : runState t p u step e run w = runState s p u step e run w := by
  simp only [runState, hp, hr]

/-! ## What a record's work leaves alone -/

/-- Since s record r of update die u has done some of its work: but for lines, logs, telemetry and free values, only that
die, of which `keep` stays, and the record in its sequencer have changed, and neither forgets an input that was lost. -/
structure UdWork {α : Type} (r : RecRef) (u : Nat) (keep : Ud → α) (s t : State) : Prop where
  rest : t = { s with
    cds := t.cds, hubs := t.hubs, uds := t.uds, free := t.free, baith := t.baith
    ctrl := { s.ctrl with log := t.ctrl.log } }
  reds : ∀ h, (t.hub h).red = (s.hub h).red
  uds : ∀ k, k ≠ u → t.ud k = s.ud k
  cds : ∀ e, e ≠ r.die → t.cd e = s.cd e
  seq : t.cd r.die = { s.cd r.die with seq := (t.cd r.die).seq }
  record : ∀ x, s.rec? r = some x → ∃ y, t.rec? r = some y ∧ y.record = x.record ∧ (x.lost = true → y.lost = true)
  kept : keep (t.ud u) = keep (s.ud u)
  lost : (s.ud u).share.inputLost = true → (t.ud u).share.inputLost = true

section
variable {α : Type} {r : RecRef} {u : Nat} {keep : Ud → α} {s t : State}

theorem UdWork.refl (s : State) : UdWork r u keep s s :=
  ⟨rfl, fun _ => rfl, fun _ _ => rfl, fun _ _ => rfl, rfl, fun x hx => ⟨x, hx, rfl, id⟩, rfl, id⟩

theorem UdWork.trans {v : State} (a : UdWork r u keep s t) (b : UdWork r u keep t v) : UdWork r u keep s v := by
  refine ⟨by rw [b.rest, a.rest], fun h => (b.reds h).trans (a.reds h), fun k hk => (b.uds k hk).trans (a.uds k hk),
    fun e he => (b.cds e he).trans (a.cds e he), by rw [b.seq, a.seq], fun x hx => ?_, b.kept.trans a.kept, b.lost ∘ a.lost⟩
  obtain ⟨y, hy, hyr, hyl⟩ := a.record x hx
  obtain ⟨z, hz, hzr, hzl⟩ := b.record y hy
  exact ⟨z, hz, hzr.trans hyr, hzl ∘ hyl⟩

theorem UdWork.parts (h : UdWork r u keep s t) : t.parts = s.parts := by rw [h.rest]

theorem UdWork.part (h : UdWork r u keep s t) (p : Nat) : t.part p = s.part p := by simp only [State.part, h.parts]

/-- Accesses to lines. -/
theorem UdWork.of_beyond (h : t.beyondLines = s.beyondLines) : UdWork r u keep s t := by
  obtain ⟨hstate, hreds⟩ := Prod.ext_iff.1 h
  have hud : t.uds = s.uds := by have := congrArg State.uds hstate; exact this
  have hcd : t.cds = s.cds := by have := congrArg State.cds hstate; exact this
  refine ⟨?_, fun k => ?_, fun k _ => by simp only [State.ud, hud], fun e _ => by simp only [State.cd, hcd],
    by simp only [State.cd, hcd], fun x hx => ⟨x, by rwa [State.rec?_of_cds hcd], rfl, id⟩, by simp only [State.ud, hud],
    by simp only [State.ud, hud, imp_self]⟩
  · have hctrl : t.ctrl = { s.ctrl with log := t.ctrl.log } := by
      have := congrArg (fun v : State => { v.ctrl with log := t.ctrl.log }) hstate
      exact this
    have := congrArg (fun v : State => { v with
      cds := t.cds, hubs := t.hubs, uds := t.uds, free := t.free, baith := t.baith, ctrl := t.ctrl }) hstate
    rw [← hctrl]
    exact this
  · have e : ∀ v : State, (v.hub k).red = v.beyondLines.2.getD k ({} : Hub).red := fun v => (List.getD_map _ _ Hub.red).symm
    rw [e, e, hreds]

/-- A change of the die that `keep` does not see. -/
theorem UdWork.modUd (s : State) {f : Ud → Ud} (hk : ∀ d, keep (f d) = keep d)
    (hl : ∀ d, d.share.inputLost = true → (f d).share.inputLost = true) : UdWork r u keep s (s.modUd u f) := by
  have hud : (s.modUd u f).ud u = f (s.ud u) ∨ (s.modUd u f).ud u = s.ud u := by
    by_cases h : u < s.uds.length
    · exact .inl (State.modUd_ud_same _ _ _ h)
    · exact .inr (by simp only [State.modUd, modAt_past _ _ _ (Nat.le_of_not_lt h)])
  refine ⟨rfl, fun _ => rfl, fun k hk => State.modUd_ud_other _ _ _ _ hk, fun _ _ => rfl, rfl,
    fun x hx => ⟨x, hx, rfl, id⟩, ?_, ?_⟩
  · rcases hud with e | e <;> rw [e]
    exact hk _
  · rcases hud with e | e <;> rw [e]
    · exact hl _
    · exact id

/-- A change of the record. -/
theorem UdWork.modRec (s : State) {f : RecState → RecState} (hf : ∀ y, (f y).record = y.record)
    (hl : ∀ y, y.lost = true → (f y).lost = true) : UdWork r u keep s (s.modRec r f) := by
  refine ⟨rfl, fun _ => rfl, fun _ _ => rfl, fun e he => State.modCd_cd_other _ _ _ _ he, ?_,
    fun x hx => ⟨f x, by rw [State.rec?_modRec, hx]; rfl, hf x, hl x⟩, rfl, id⟩
  by_cases h : r.die < s.cds.length
  · simp only [State.modRec, State.modSeq, State.modCd_cd_same _ _ _ h]
  · simp only [State.modRec, State.modSeq, State.modCd, State.cd, modAt_past _ _ _ (Nat.le_of_not_lt h)]

theorem UdWork.noteBad (s : State) (bad : Option Nat) : UdWork r u keep s (noteBad r bad s) := by
  cases bad with
  | none => exact .refl s
  | some a => exact .modRec s (fun _ => rfl) (fun _ => id)

theorem UdWork.noteFrozen (s : State) (x : RecState) : UdWork r u keep s (noteFrozen r x s) := by
  unfold Machine.noteFrozen
  split
  · exact .modRec s (fun _ => rfl) (fun _ => id)
  · exact .refl s

theorem UdWork.foldl {β : Type} (l : List β) {f : State → β → State} (hf : ∀ s a, UdWork r u keep s (f s a)) (s : State) :
    UdWork r u keep s (l.foldl f s) := by
  induction l generalizing s with
  | nil => exact .refl s
  | cons a l ih => exact (hf s a).trans (ih _)

end

/-! ## Frozen entries -/

/-- The entries of a record that count as frozen in a state (R260). -/
def frozenEntries (q : Part) (u : Nat) (x : RecState) : List Nat := (recEntries x).filter fun e => frozenHere q u x e

theorem any_frozenHere (q : Part) (u : Nat) (x : RecState) :
    ((recEntries x).any fun e => frozenHere q u x e) = !(frozenEntries q u x).isEmpty := by
  unfold frozenEntries
  induction recEntries x with
  | nil => rfl
  | cons e l ih => cases h : frozenHere q u x e <;> simp [h, ih]

/-- Frozen entries are noted in the record. -/
theorem noteFrozen_rec? (r : RecRef) (x : RecState) (s : State) : (noteFrozen r x s).rec? r = (s.rec? r).map fun y =>
    { y with frozen := y.frozen || !(frozenEntries (s.part (coePart r s)) (x.ud r.die) x).isEmpty } := by
  rw [noteFrozen, any_frozenHere]
  split
  · next h => rw [State.rec?_modRec]; simp [h]
  · next h =>
    simp only [Bool.not_eq_true, Bool.not_eq_false'] at h
    simp [h]

theorem noteFrozen_serves (r : RecRef) (x : RecState) (s : State) : s.Serves (noteFrozen r x s) := by
  unfold noteFrozen
  split
  · exact .modRec ..
  · exact .refl s

theorem noteFrozen_hubs (r : RecRef) (x : RecState) (s : State) : (noteFrozen r x s).hubs = s.hubs := by
  unfold noteFrozen
  split <;> rfl

theorem noteFrozen_uds (r : RecRef) (x : RecState) (s : State) : (noteFrozen r x s).uds = s.uds := by
  unfold noteFrozen
  split <;> rfl

/-! ## A run folded -/

/-- An update die but for its share. -/
def Ud.unshared (d : Ud) : Ud := { d with share := {} }

theorem Ud.eq_of_unshared {a b : Ud} (h : a.unshared = b.unshared) : a = { b with share := a.share } :=
  congrArg (fun d : Ud => { d with share := a.share }) h

@[simp] theorem Share.fold_inputLost (h : Share) (g : Num) : (h.fold g).inputLost = h.inputLost := by
  unfold Share.fold
  split <;> rfl

/-- What one gradient of a run does to a share: one whose line failed is input lost (R253). -/
def Share.add (c : Elem) (scale : Int) (h : Share) (b : Option Nat) : Share :=
  match b with
  | some b => h.fold ((Num.read c b).scale scale)
  | none => { h with inputLost := true }

theorem Share.add_inputLost (c : Elem) (scale : Int) (l : List (Option Nat)) {h : Share} (hl : h.inputLost = true) :
    (l.foldl (Share.add c scale) h).inputLost = true := by
  induction l generalizing h with
  | nil => exact hl
  | cons b l ih =>
    refine ih ?_
    cases b with
    | none => rfl
    | some b => exact (Share.fold_inputLost h _).trans hl

theorem Share.add_some (c : Elem) (scale : Int) (l : List Nat) (h : Share) :
    (l.map some).foldl (Share.add c scale) h = (l.map fun b => (Num.read c b).scale scale).foldl Share.fold h := by
  rw [List.foldl_map, List.foldl_map]
  rfl

/-- A run whose granules are all there is read and folded. -/
theorem foldRun_ready {r : RecRef} {x : RecState} {s : State} {t : Nat × UpdEntry × OwnedRun}
    (h : runState s (coePart r s) (x.ud r.die) r.step t.2.1 t.2.2 (gradWidth (field (x.w 3) 7 0)) = .ready) :
    foldRun r x s t =
      let p := coePart r s
      let u := x.ud r.die
      let code := field (x.w 3) 7 0
      let st := gradStride (s.part p) t.2.1.gradient code
      let y := readOwn p t.2.1.gradient (t.2.2.first * st) (t.2.2.count * st) x.record.unit u s
      noteBad r y.bad (y.state.modUd u fun d => { d with
        share := (strided y.chunks st (gradWidth code)).foldl
          (Share.add (elemOf code) (-(wordInt (x.w 2) + wordInt (x.w 1)))) d.share }) := by
  rw [foldRun, if_pos h]
  rfl

/-- A run with a granule that was discarded, or never came, is lost input (R253). -/
theorem foldRun_lost {r : RecRef} {x : RecState} {s : State} {t : Nat × UpdEntry × OwnedRun}
    (h : runState s (coePart r s) (x.ud r.die) r.step t.2.1 t.2.2 (gradWidth (field (x.w 3) 7 0)) ≠ .ready) :
    foldRun r x s t = (s.modUd (x.ud r.die) fun d => { d with share := { d.share with inputLost := true } }).modRec r
      fun y => { y with lost := true } := by
  rw [foldRun, if_neg h]

theorem foldRun_work (r : RecRef) (x : RecState) (s : State) (t : Nat × UpdEntry × OwnedRun) :
    UdWork r (x.ud r.die) Ud.unshared s (foldRun r x s t) := by
  by_cases h : runState s (coePart r s) (x.ud r.die) r.step t.2.1 t.2.2 (gradWidth (field (x.w 3) 7 0)) = .ready
  · rw [foldRun_ready h]
    refine .trans (.trans (.of_beyond (readOwn_beyond ..)) (.modUd _ ?_ ?_)) (.noteBad ..)
    · exact fun _ => rfl
    · exact fun _ => Share.add_inputLost _ _ _
  · rw [foldRun_lost h]
    refine .trans (.modUd s ?_ ?_) (.modRec _ ?_ ?_)
    · exact fun _ => rfl
    · exact fun _ _ => rfl
    · exact fun _ => rfl
    · exact fun _ _ => rfl

/-- An update die of the module changed reads as changed. -/
theorem State.modUd_ud_whole {s : State} (hw : s.whole = true) {u : Nat} (hu : u < 32) (f : Ud → Ud) :
    (s.modUd u f).ud u = f (s.ud u) := by
  obtain ⟨-, -, -, -, hlen, -⟩ := (State.whole_iff s).1 hw
  exact State.modUd_ud_same _ _ _ (by rw [hlen]; exact hu)

/-- One run with a discarded granule among those of a UFOLD loses the share's input, and the record's. -/
theorem foldRuns_lost {r : RecRef} {x y : RecState} {s : State} (hw : s.whole = true) (hu : x.ud r.die < 32)
    (hy : s.rec? r = some y) {runs : List (Nat × UpdEntry × OwnedRun)} {k : Nat × UpdEntry × OwnedRun} (hk : k ∈ runs)
    (h : runState s (coePart r s) (x.ud r.die) r.step k.2.1 k.2.2 (gradWidth (field (x.w 3) 7 0)) ≠ .ready) :
    ((runs.foldl (foldRun r x) s).ud (x.ud r.die)).share.inputLost = true ∧
      ∃ z, (runs.foldl (foldRun r x) s).rec? r = some z ∧ z.lost = true := by
  obtain ⟨before, after, rfl⟩ := List.append_of_mem hk
  rw [List.foldl_append, List.foldl_cons]
  generalize hs1 : before.foldl (foldRun r x) s = s1
  have hb : UdWork r (x.ud r.die) Ud.unshared s s1 := hs1 ▸ .foldl before (foldRun_work r x) s
  have hw1 : s1.whole = true := by rw [← hs1, foldl_whole _ (foldRun_whole r x), hw]
  rw [← coePart_of_parts hb.parts, ← runState_congr (hb.part _) (hb.reds _)] at h
  obtain ⟨y1, hy1, -⟩ := hb.record y hy
  have ha := UdWork.foldl after (foldRun_work r x) (foldRun r x s1 k)
  rw [foldRun_lost h] at ha ⊢
  refine ⟨ha.lost ?_, ?_⟩
  · show ((s1.modUd _ _).ud _).share.inputLost = true
    rw [State.modUd_ud_whole hw1 hu]
  · obtain ⟨z, hz, -, hzl⟩ := ha.record { y1 with lost := true } (by
      rw [State.rec?_modRec, show (s1.modUd _ _).rec? r = s1.rec? r from rfl, hy1]
      rfl)
    exact ⟨z, hz, hzl rfl⟩

end Sys2Proof.Machine
end

section
/-! PROOF. UFOLD in its own stack (10 R248, R252): where every granule is there and the hub serves the gradients, the share
becomes the fold of every owned gradient, and no line changes. -/

namespace Sys2Proof.Machine

/-! ## Reads and writes within the die's own stack -/

/-- A span of its own stack read by an update die. -/
theorem readOwn_served {s : State} (hf : s.stacksFit) {p g o n u : Nat} (hs : s.served p g)
    (hl : o + n ≤ ((s.part p).region? g).elim 0 (·.length)) (hown : ownSpan (s.part p) g o n u = true) (src : Nat) :
    ∃ t, readOwn p g o n src u s = { state := t, chunks := cleanChunks (s.regionByte p g) o n } ∧ s.Accesses t ∧
      s.keepsLines t := by
  rw [readOwn, if_pos hown]
  exact readRegion_served hf hs hl src .ud

/-- A span of its own stack written by an update die. -/
theorem writeOwn_served {s : State} {p g o u : Nat} {regions : List Nat} {bs : List Byte} (hr : s.readable p regions)
    (hg : g ∈ regions) (hl : o + bs.length ≤ ((s.part p).region? g).elim 0 (·.length))
    (hown : ownSpan (s.part p) g o bs.length u = true) (src : Nat) :
    ∃ t, writeOwn p g o src u bs s = { state := t } ∧ s.Accesses t ∧ s.wrote t p regions g o bs := by
  rw [writeOwn, if_pos hown]
  exact writeRegion_served hr hg hl src .ud

theorem dvd_four {n : Nat} (h : n ∣ 4) : n = 1 ∨ n = 2 ∨ n = 4 := by
  have := Nat.le_of_dvd (by decide) h
  interval_cases n <;> simp_all

theorem gradWidth_le_gradStride (q : Part) (region code : Nat) : gradWidth code ≤ gradStride q region code :=
  Nat.le_max_left ..

/-- The gradients of a run as they lie in its region. -/
theorem strided_run (s : State) (p g : Nat) {st w first count : Nat} (hst : st ∣ 4) (hw : w ≤ st) :
    strided (cleanChunks (s.regionByte p g) (first * st) (count * st)) st w =
      ((List.range count).map fun i => s.regionNat p g ((first + i) * st) w).map some := by
  have hpos := Nat.pos_of_dvd_of_pos hst (by decide)
  rw [strided_cleanChunks _ (dvd_four hst) hw (Nat.mul_mod_left ..) (Nat.mul_mod_left ..), Nat.mul_div_cancel _ hpos,
    List.map_map]
  refine List.map_congr_left fun i _ => ?_
  simp only [Function.comp_apply, State.regionNat, Nat.add_mul, Nat.mul_comm st i]

theorem State.Serves.regionNat {s t : State} (h : s.Serves t) {p g : Nat} (hs : s.served p g) (hk : s.keepsLines t) (o n : Nat) :
    t.regionNat p g o n = s.regionNat p g o n := by
  simp only [State.regionNat, h.regionByte hs hk]

/-! ## UFOLD -/

/-- A run that a UFOLD can fold: its granules are there, and its gradients lie in the die's own stack, whose hub serves
them. -/
structure Foldable (s : State) (p u step code : Nat) (k : Nat × UpdEntry × OwnedRun) : Prop where
  ready : runState s p u step k.2.1 k.2.2 (gradWidth code) = .ready
  served : s.served p k.2.1.gradient
  inside : (k.2.2.first + k.2.2.count) * gradStride (s.part p) k.2.1.gradient code ≤
    ((s.part p).region? k.2.1.gradient).elim 0 (·.length)
  own : ownSpan (s.part p) k.2.1.gradient (k.2.2.first * gradStride (s.part p) k.2.1.gradient code)
    (k.2.2.count * gradStride (s.part p) k.2.1.gradient code) u = true
  aligned : gradStride (s.part p) k.2.1.gradient code ∣ 4

/-- The gradients of a run, as numbers at a scale. -/
def State.gradients (s : State) (p code : Nat) (scale : Int) (k : Nat × UpdEntry × OwnedRun) : List Num :=
  (List.range k.2.2.count).map fun i => (Num.read (elemOf code) (s.regionNat p k.2.1.gradient
    ((k.2.2.first + i) * gradStride (s.part p) k.2.1.gradient code) (gradWidth code))).scale scale

section
variable {s t : State} (h : s.Serves t) {p u step code : Nat} {k : Nat × UpdEntry × OwnedRun}
  (hk : Foldable s p u step code k)
include h hk

theorem Foldable.of_serves : Foldable t p u step code k := by
  obtain ⟨h1, h2, h3, h4, h5⟩ := hk
  refine ⟨?_, h.served h2, ?_, ?_, ?_⟩
  · rwa [runState_congr (h.part p) (h.hubs u).red]
  all_goals rwa [h.part]

theorem Foldable.gradients (hl : s.keepsLines t) (scale : Int) : t.gradients p code scale k = s.gradients p code scale k := by
  unfold State.gradients
  simp only [h.part, h.regionNat hk.served hl]

end

/-- One run folded. -/
theorem foldRun_served {s : State} (hf : s.stacksFit) {r : RecRef} {x : RecState} {k : Nat × UpdEntry × OwnedRun}
    (hk : Foldable s (coePart r s) (x.ud r.die) r.step (field (x.w 3) 7 0) k) :
    s.Serves (foldRun r x s k) ∧ s.keepsLines (foldRun r x s k) ∧ (foldRun r x s k).cds = s.cds ∧
      (foldRun r x s k).uds = modAt s.uds (x.ud r.die) fun d => { d with
        share := (s.gradients (coePart r s) (field (x.w 3) 7 0) (-(wordInt (x.w 2) + wordInt (x.w 1))) k).foldl Share.fold d.share } := by
  obtain ⟨hready, hserved, hin, hown, hst⟩ := hk
  rw [Nat.add_mul] at hin
  obtain ⟨t, ht, ha, hl⟩ := readOwn_served hf hserved hin hown x.record.unit
  have hbytes := strided_run s (coePart r s) k.2.1.gradient (first := k.2.2.first) (count := k.2.2.count) hst
    (gradWidth_le_gradStride (s.part (coePart r s)) k.2.1.gradient (field (x.w 3) 7 0))
  rw [foldRun_ready hready]
  simp only [ht, hbytes, Share.add_some, noteBad]
  refine ⟨ha.toServes.trans (.modUd ..), hl, ha.cds, ?_⟩
  simp only [State.modUd_uds, ha.uds, List.map_map]
  rfl

/-- Every run of a UFOLD folded. -/
theorem foldRuns_served {r : RecRef} {x : RecState} (runs : List (Nat × UpdEntry × OwnedRun)) {s : State} (hf : s.stacksFit)
    (hk : ∀ k ∈ runs, Foldable s (coePart r s) (x.ud r.die) r.step (field (x.w 3) 7 0) k) :
    let t := runs.foldl (foldRun r x) s
    s.Serves t ∧ s.keepsLines t ∧ t.cds = s.cds ∧ t.uds = modAt s.uds (x.ud r.die) fun d => { d with
      share := (runs.flatMap (s.gradients (coePart r s) (field (x.w 3) 7 0) (-(wordInt (x.w 2) + wordInt (x.w 1))))).foldl
        Share.fold d.share } := by
  induction runs generalizing s with
  | nil => exact ⟨.refl s, s.keepsLines_refl, rfl, (modAt_same _ _ _ fun _ _ => rfl).symm⟩
  | cons k runs ih =>
    obtain ⟨h1, h2, h3, h4⟩ := foldRun_served hf (hk k (by simp))
    have hp := coePart_of_parts h1.parts r
    obtain ⟨g1, g2, g3, g4⟩ := ih (s := foldRun r x s k) (h1.stacksFit hf) fun j hj => by
      rw [hp]
      exact (hk j (by simp [hj])).of_serves h1
    refine ⟨h1.trans g1, State.keepsLines_trans h1 h2 g2, g3.trans h3, ?_⟩
    have hgrads : runs.flatMap ((foldRun r x s k).gradients (coePart r s) (field (x.w 3) 7 0)
        (-(wordInt (x.w 2) + wordInt (x.w 1)))) = runs.flatMap (s.gradients (coePart r s) (field (x.w 3) 7 0)
        (-(wordInt (x.w 2) + wordInt (x.w 1)))) :=
      List.flatMap_congr fun j hj => (hk j (by simp [hj])).gradients h1 h2 _
    rw [List.foldl_cons, g4, h4, modAt_modAt, hp, hgrads, List.flatMap_cons]
    simp only [List.foldl_append]

end Sys2Proof.Machine
end

section
/-! PROOF. UPDATE in its own stack (10 R248, R255, R256): what a run's update leaves alone, and, where every granule is there
and the hub serves its regions, that every owned element is updated by Table 10.3 and no other byte changes. -/

namespace Sys2Proof.Machine

/-! ## What an update leaves alone -/

/-- What no run of an UPDATE changes of its die. -/
def Ud.verdictSide (d : Ud) : Word × Nat × Share × List (Nat × Verdict) := (d.lastStep, d.frozenSkip, d.share, d.verdicts)

theorem updateRun_work (r : RecRef) (x : RecState) (c : UpdCtx) (s : State) (t : Nat × UpdEntry × OwnedRun) :
    UdWork r (x.ud r.die) Ud.verdictSide s (updateRun r x c s t) := by
  simp only [updateRun]
  split
  · refine .modRec s ?_ ?_
    · exact fun _ => rfl
    · exact fun _ _ => rfl
  · split
    · refine .trans (.trans (.of_beyond ?_) (.modUd _ ?_ ?_)) (.noteBad ..)
      · split <;> split <;> simp
      · exact fun _ => rfl
      · exact fun _ => id
    · refine .trans (.of_beyond ?_) (.noteBad ..)
      split <;> simp

/-! ## Several spans written -/

/-- A span of a region within its bounds, in stack u. -/
def State.room (s : State) (p u g o n : Nat) : Prop :=
  o + n ≤ ((s.part p).region? g).elim 0 (·.length) ∧ ownSpan (s.part p) g o n u = true

theorem State.Serves.room {s t : State} (h : s.Serves t) {p u g o n : Nat} (hr : s.room p u g o n) : t.room p u g o n := by
  unfold State.room
  rwa [h.part]

/-- One span, of a region from an offset on, written by update die u after others. -/
def writeSpan (p src u : Nat) (acc : SpanRes) (w : Nat × Nat × List Byte) : SpanRes :=
  let z := writeOwn p w.1 w.2.1 src u w.2.2 acc.state
  { z with bad := firstBad acc.bad z.bad }

/-- From s to t spans of some of these regions of partition p have been written, and nothing else has happened. -/
structure SpansWritten (s t : State) (p : Nat) (regions : List Nat) (ws : List (Nat × Nat × List Byte)) : Prop
    extends State.Accesses s t where
  wrote : ∀ w ∈ ws, ∀ j < w.2.2.length, t.regionByte p w.1 (w.2.1 + j) = w.2.2.getD j 0
  kept : ∀ b ∈ regions, ∀ x, (∀ w ∈ ws, w.1 = b → x < w.2.1 ∨ w.2.1 + w.2.2.length ≤ x) →
    t.regionByte p b x = s.regionByte p b x

theorem writeSpans_served {p src u : Nat} {regions : List Nat} (ws : List (Nat × Nat × List Byte)) {s : State}
    (hr : s.readable p regions) (hn : (ws.map (·.1)).Nodup)
    (hw : ∀ w ∈ ws, w.1 ∈ regions ∧ s.room p u w.1 w.2.1 w.2.2.length) :
    ∃ t, ws.foldl (writeSpan p src u) { state := s } = { state := t } ∧ SpansWritten s t p regions ws := by
  induction ws generalizing s with
  | nil => exact ⟨s, rfl, .refl s, (fun _ h => nomatch h), fun _ _ _ _ => rfl⟩
  | cons w ws ih =>
    obtain ⟨hg, hl, hown⟩ := hw w (by simp)
    obtain ⟨v, hv, hav, hwv⟩ := writeOwn_served hr hg hl hown src
    rw [List.map_cons, List.nodup_cons] at hn
    obtain ⟨t, ht, hst⟩ := ih (hav.readable hr) hn.2 fun k hk =>
      ⟨(hw k (by simp [hk])).1, hav.room (hw k (by simp [hk])).2⟩
    have hne : ∀ k ∈ ws, k.1 ≠ w.1 := fun k hk e => hn.1 (e ▸ List.mem_map_of_mem hk)
    refine ⟨t, ?_, hav.trans hst.toAccesses, fun k hk j hj => ?_, fun b hb x hx => ?_⟩
    · rw [List.foldl_cons, writeSpan]
      simp only [hv]
      exact ht
    · rcases List.mem_cons.1 hk with rfl | hk
      · rw [hst.kept _ hg _ fun k hk e => absurd e (hne k hk), hwv _ hg, if_pos ⟨rfl, by omega, by omega⟩,
          Nat.add_sub_cancel_left]
      · exact hst.wrote k hk j hj
    · rw [hst.kept b hb x fun k hk => hx k (by simp [hk]), hwv b hb, if_neg]
      rintro ⟨rfl, h1, h2⟩
      have := hx w (by simp) rfl
      omega

section
variable {s t : State} {p : Nat} {regions : List Nat} {ws : List (Nat × Nat × List Byte)}
  (h : SpansWritten s t p regions ws)
include h

/-- A number written among others reads back. -/
theorem SpansWritten.regionNat {α : Type} {g o n : Nat} {f : α → Nat} {l : List α}
    (hw : (g, o, l.flatMap fun a => leBytes n (f a)) ∈ ws) {i : Nat} (hi : i < l.length) :
    t.regionNat p g (o + n * i) n = f l[i] % 256 ^ n := by
  rw [← leNat_leBytes, State.regionNat]
  congr 1
  apply List.ext_getElem (by simp)
  intro j hj _
  have hj : j < n := by simpa using hj
  have hlt : n * i + j < n * l.length := calc
    n * i + j < n * i + n := by omega
    _ = n * (i + 1) := (Nat.mul_succ ..).symm
    _ ≤ n * l.length := Nat.mul_le_mul_left n hi
  have := h.wrote _ hw (n * i + j) (by rwa [length_flatMap_leBytes])
  rw [getD_flatMap_leBytes n f l hi hj] at this
  rw [List.getElem_map, List.getElem_range, Nat.add_assoc, this]
  simp [List.getD_eq_getElem?_getD, hj]

/-- Of a region of which one span was written every other byte is what it was. -/
theorem SpansWritten.same {g o n : Nat} {bs : List Byte} (hn : (ws.map (·.1)).Nodup) (hw : (g, o, bs) ∈ ws)
    (hg : g ∈ regions) (hb : bs.length = n) : regionSame p g [(o, n)] s t := fun x hx =>
  h.kept g hg x fun k hk e => by
    rw [List.inj_on_of_nodup_map hn hk hw e, hb]
    exact hx (o, n) (by simp)

/-- A region of which no span was written is what it was. -/
theorem SpansWritten.same_other {g : Nat} (hw : g ∉ ws.map (·.1)) (hg : g ∈ regions) : regionSame p g [] s t := fun x _ =>
  h.kept g hg x fun _ hk e => absurd (e ▸ List.mem_map_of_mem hk) hw

end

/-! ## One run -/

/-- A 32-bit word of a region. -/
def State.regionWord (s : State) (p g o : Nat) : Word := BitVec.ofNat 32 (s.regionNat p g o 4)

/-- Element i of a run updated by Table 10.3, from what its regions hold. -/
def State.elemOut (s : State) (p : Nat) (c : UpdCtx) (g : UpdEntry) (run : OwnedRun) (i : Nat) : Word × Word × Word × Flags :=
  let st := gradStride (s.part p) g.gradient c.code
  let at4 := fun (region : Nat) => s.regionWord p region (4 * (run.first + i))
  updElem c (s.regionNat p g.gradient (st * (run.first + i)) (gradWidth c.code)) (at4 g.master) (at4 g.moment1)
    (if c.rule = 1 then 0 else at4 g.moment2)

/-- The regions that an update entry is updated in. -/
def updRegions (c : UpdCtx) (g : UpdEntry) : List Nat :=
  [g.master, g.gradient, g.fp8] ++ (if c.rule = 1 then [g.moment1] else [g.moment1, g.moment2]) ++ if c.bf16 then [g.bf16] else []

/-- The spans that the update of a run writes: masters, moments and working copies (R256). -/
def updWrites (c : UpdCtx) (g : UpdEntry) (run : OwnedRun) (out : List (Word × Word × Word × Flags)) : List (Nat × Nat × List Byte) :=
  [(g.master, 4 * run.first, out.flatMap fun a => leBytes 4 a.1.toNat),
    (g.moment1, 4 * run.first, out.flatMap fun a => leBytes 4 a.2.1.toNat)] ++
  (if c.rule = 1 then [] else [(g.moment2, 4 * run.first, out.flatMap fun a => leBytes 4 a.2.2.1.toNat)]) ++
  [(g.fp8, run.first, out.flatMap fun a => leBytes 1 (copyE4m3 c.wcScale a.1).1)] ++
  if c.bf16 then [(g.bf16, 2 * run.first, out.flatMap fun a => leBytes 2 (copyBf16 a.1).1)] else []

/-- A run that an UPDATE can update: its granules are there, and its spans lie in the die's own stack, in regions that the
hub serves and that lie apart. -/
structure Updatable (s : State) (p u step : Nat) (c : UpdCtx) (g : UpdEntry) (run : OwnedRun) : Prop where
  ready : runState s p u step g run (gradWidth c.code) = .ready
  readable : s.readable p (updRegions c g)
  aligned : gradStride (s.part p) g.gradient c.code ∣ 4
  gradient : s.room p u g.gradient (run.first * gradStride (s.part p) g.gradient c.code)
    (run.count * gradStride (s.part p) g.gradient c.code)
  master : s.room p u g.master (4 * run.first) (4 * run.count)
  moment1 : s.room p u g.moment1 (4 * run.first) (4 * run.count)
  moment2 : c.rule ≠ 1 → s.room p u g.moment2 (4 * run.first) (4 * run.count)
  fp8 : s.room p u g.fp8 run.first run.count
  bf16 : c.bf16 = true → s.room p u g.bf16 (2 * run.first) (2 * run.count)

/-- Since s lines have been read and none has changed. -/
structure State.Reads (s t : State) : Prop extends State.Accesses s t where
  keeps : s.keepsLines t

theorem State.Reads.refl (s : State) : s.Reads s := ⟨.refl s, s.keepsLines_refl⟩

theorem State.Reads.trans {s t v : State} (a : s.Reads t) (b : t.Reads v) : s.Reads v :=
  ⟨a.toAccesses.trans b.toAccesses, State.keepsLines_trans a.toServes a.keeps b.keeps⟩

theorem nthWord_range (f : Nat → Word) {i n : Nat} (hi : i < n) : nthWord ((List.range n).map f) i = f i := by
  simp [nthWord, List.getD_eq_getElem?_getD, hi]

section
variable {s t : State} (hst : s.Reads t) (hf : s.stacksFit) {p u g first count : Nat} (hs : s.served p g)
include hst hf hs

/-- The words of a run read by its die. -/
theorem readWords_served (hr : s.room p u g (4 * first) (4 * count)) (src : Nat) :
    ∃ v cs ws, readOwn p g (4 * first) (4 * count) src u t = { state := v, chunks := cs } ∧ s.Reads v ∧
      chunkWords cs = some ws ∧ ∀ i < count, nthWord ws i = s.regionWord p g (4 * (first + i)) := by
  have hrt := hst.room hr
  obtain ⟨v, hv, ha, hk⟩ := readOwn_served (hst.stacksFit hf) (hst.served hs) hrt.1 hrt.2 src
  refine ⟨v, _, _, hv, hst.trans ⟨ha, hk⟩, chunkWords_cleanChunks _, fun i hi => ?_⟩
  rw [Nat.mul_div_cancel_left _ (by decide), nthWord_range _ hi]
  simp only [State.regionWord, State.regionNat, Nat.mul_add, hst.regionByte hs hst.keeps]

/-- The gradients of a run read by its die. -/
theorem readGradients_served {st w : Nat} (hd : st ∣ 4) (hw : w ≤ st) (hr : s.room p u g (first * st) (count * st)) (src : Nat) :
    ∃ v cs, readOwn p g (first * st) (count * st) src u t = { state := v, chunks := cs } ∧ s.Reads v ∧
      ∀ i < count, ((strided cs st w).getD i none).getD 0 = s.regionNat p g (st * (first + i)) w := by
  have hrt := hst.room hr
  obtain ⟨v, hv, ha, hk⟩ := readOwn_served (hst.stacksFit hf) (hst.served hs) hrt.1 hrt.2 src
  refine ⟨v, _, hv, hst.trans ⟨ha, hk⟩, fun i hi => ?_⟩
  rw [strided_run t p g hd hw]
  simp [List.getD_eq_getElem?_getD, hi, hst.regionNat hs hst.keeps, Nat.mul_comm st]

end

/-- Under rule 1 there are no second moments to read. -/
theorem readMoment2_served {s t : State} (hst : s.Reads t) {p u : Nat} {step : Nat} {c : UpdCtx} {g : UpdEntry} {run : OwnedRun}
    (h : Updatable s p u step c g run) (src : Nat) :
    ∃ v cs ws, (if c.rule = 1 then ({ state := t } : SpanRes)
        else readOwn p g.moment2 (4 * run.first) (4 * run.count) src u t) = { state := v, chunks := cs } ∧ s.Reads v ∧
      chunkWords cs = some ws ∧ ∀ i < run.count, nthWord ws i =
        if c.rule = 1 then 0 else s.regionWord p g.moment2 (4 * (run.first + i)) := by
  obtain ⟨hf, -, hs⟩ := h.readable
  split
  · exact ⟨t, [], [], rfl, hst, rfl, fun _ _ => rfl⟩
  · next hr => exact readWords_served hst hf (hs g.moment2 (by simp [updRegions, hr])) (h.moment2 hr) src

/-- An update writes one span in each of its regions but that of the gradients. -/
theorem updRegions_perm (c : UpdCtx) (g : UpdEntry) (run : OwnedRun) (out : List (Word × Word × Word × Flags)) :
    (updRegions c g).Perm (g.gradient :: (updWrites c g run out).map (·.1)) := by
  refine List.perm_iff_count.2 fun k => ?_
  unfold updRegions updWrites
  split <;> split <;> simp only [List.count_cons, List.count_append, List.map_append, List.map_cons, List.map_nil,
    List.count_nil] <;> omega

/-- In regions that are all different no region is written twice, and the gradients' is not written. -/
theorem updWrites_nodup {c : UpdCtx} {g : UpdEntry} (h : (updRegions c g).Nodup) (run : OwnedRun)
    (out : List (Word × Word × Word × Flags)) :
    g.gradient ∉ (updWrites c g run out).map (·.1) ∧ ((updWrites c g run out).map (·.1)).Nodup :=
  List.nodup_cons.1 ((updRegions_perm c g run out).nodup_iff.1 h)

/-- Every span that an update writes has room in its region. -/
theorem Updatable.writes {s : State} {p u step : Nat} {c : UpdCtx} {g : UpdEntry} {run : OwnedRun}
    (h : Updatable s p u step c g run) {out : List (Word × Word × Word × Flags)} (ho : out.length = run.count) :
    ∀ w ∈ updWrites c g run out, w.1 ∈ updRegions c g ∧ s.room p u w.1 w.2.1 w.2.2.length := by
  intro w hw
  simp only [updWrites, List.mem_append, List.mem_cons, List.not_mem_nil, or_false] at hw
  rcases hw with (((rfl | rfl) | hw) | rfl) | hw
  · exact ⟨by simp [updRegions], by rw [length_flatMap_leBytes, ho]; exact h.master⟩
  · exact ⟨by simp only [updRegions]; split <;> simp, by rw [length_flatMap_leBytes, ho]; exact h.moment1⟩
  · split at hw
    · cases hw
    · next hr =>
      rw [List.mem_singleton.1 hw]
      exact ⟨by simp [updRegions, hr], by rw [length_flatMap_leBytes, ho]; exact h.moment2 hr⟩
  · exact ⟨by simp [updRegions], by rw [length_flatMap_leBytes, ho, Nat.one_mul]; exact h.fp8⟩
  · split at hw
    · next hb =>
      rw [List.mem_singleton.1 hw]
      exact ⟨by simp [updRegions, hb], by rw [length_flatMap_leBytes, ho]; exact h.bf16 hb⟩
    · cases hw

/-- Reads before the writes take nothing away from them. -/
theorem SpansWritten.after {s t v : State} {p : Nat} {regions : List Nat} {ws : List (Nat × Nat × List Byte)} (hst : s.Reads t)
    (hs : ∀ g ∈ regions, s.served p g) (h : SpansWritten t v p regions ws) : SpansWritten s v p regions ws :=
  ⟨hst.toAccesses.trans h.toAccesses, h.wrote,
    fun b hb x hx => (h.kept b hb x hx).trans (hst.regionByte (hs b hb) hst.keeps x)⟩

/-- The spans that a run writes, one after the other. -/
theorem updWrites_foldl (p src u : Nat) (c : UpdCtx) (g : UpdEntry) (run : OwnedRun) (out : List (Word × Word × Word × Flags))
    (acc : SpanRes) :
    let words := fun (ws : List Word) => ws.flatMap fun a => leBytes 4 a.toNat
    let ths := out.map (·.1)
    let z := writeSpan p src u acc (g.master, 4 * run.first, words ths)
    let z := writeSpan p src u z (g.moment1, 4 * run.first, words (out.map (·.2.1)))
    let z := if c.rule = 1 then z else writeSpan p src u z (g.moment2, 4 * run.first, words (out.map (·.2.2.1)))
    let z := writeSpan p src u z (g.fp8, run.first, (ths.map (copyE4m3 c.wcScale)).flatMap fun b => leBytes 1 b.1)
    (updWrites c g run out).foldl (writeSpan p src u) acc =
      if c.bf16 then writeSpan p src u z
        (g.bf16, 2 * run.first, (if c.bf16 then ths.map copyBf16 else []).flatMap fun b => leBytes 2 b.1) else z := by
  simp only [updWrites, List.foldl_append, List.flatMap_map]
  by_cases hr : c.rule = 1 <;> by_cases hb : c.bf16 = true <;> simp [hr, hb, List.flatMap_map]

/-- A run that can be updated has every element updated by Table 10.3, with its working copies. -/
theorem updateRun_served {r : RecRef} {x : RecState} {c : UpdCtx} {s : State} {g : UpdEntry} {run : OwnedRun} (e : Nat)
    (h : Updatable s (coePart r s) (x.ud r.die) r.step c g run) :
    ∃ t f, updateRun r x c s (e, g, run) = t.modUd (x.ud r.die) f ∧
      SpansWritten s t (coePart r s) (updRegions c g)
        (updWrites c g run ((List.range run.count).map (s.elemOut (coePart r s) c g run))) := by
  generalize hp : coePart r s = p at h ⊢
  generalize hu : x.ud r.die = u at h ⊢
  obtain ⟨hf, ⟨hn, -⟩, hs⟩ := h.readable
  have hm1 : g.moment1 ∈ updRegions c g := by simp only [updRegions]; split <;> simp
  obtain ⟨t1, c1, th, h1, a1, w1, hth⟩ := readWords_served (.refl s) hf (hs g.master (by simp [updRegions])) h.master x.record.unit
  obtain ⟨t2, c2, m1, h2, a2, w2, hm1⟩ := readWords_served a1 hf (hs g.moment1 hm1) h.moment1 x.record.unit
  obtain ⟨t3, c3, m2, h3, a3, w3, hm2⟩ := readMoment2_served a2 h x.record.unit
  obtain ⟨t4, c4, h4, a4, hgs⟩ := readGradients_served a3 hf (hs g.gradient (by simp [updRegions])) h.aligned
    (gradWidth_le_gradStride (s.part p) g.gradient c.code) h.gradient x.record.unit
  generalize hout : (List.range run.count).map (s.elemOut p c g run) = out
  have hlen : out.length = run.count := by simp [← hout]
  obtain ⟨v, hv, hw⟩ := writeSpans_served (src := x.record.unit) (updWrites c g run out) (a4.toServes.readable h.readable)
    (updWrites_nodup hn run out).2 fun w hw => ⟨(h.writes hlen w hw).1, a4.room (h.writes hlen w hw).2⟩
  have hready : (runState s p u r.step g run (gradWidth c.code) != .ready) = false := by rw [h.ready]; rfl
  have helem : (List.range run.count).map (fun i => updElem c
      (((strided c4 (gradStride (s.part p) g.gradient c.code) (gradWidth c.code)).getD i none).getD 0)
      (nthWord th i) (nthWord m1 i) (nthWord m2 i)) = out := by
    rw [← hout]
    refine List.map_congr_left fun i hi => ?_
    have hi := List.mem_range.1 hi
    rw [hth i hi, hm1 i hi, hm2 i hi, hgs i hi]
    rfl
  have hrun : ∃ f, updateRun r x c s (e, g, run) = v.modUd u f := by
    rw [updWrites_foldl] at hv
    simp only [writeSpan, firstBad] at hv
    simp only [updateRun, hp, hu, hready, h1, h2, h3, h4, w1, w2, w3, helem, firstBad, Bool.false_eq_true, if_false]
    rw [hv]
    exact ⟨_, rfl⟩
  obtain ⟨f, hf⟩ := hrun
  exact ⟨v, f, hf, hw.after a4 hs⟩

end Sys2Proof.Machine
end

section
/-! PROOF. UFOLD, USHARE, UPDATE and UPDATE_APPLY (10 R248, R252 to R262): each record's operation, from the facts about its
runs, and the statement about them all. -/

namespace Sys2Proof.Machine

/-! ## Table 10.3 -/

/-- Rule 1 of Table 10.3, momentum SGD. -/
theorem updElem_rule1 {c : UpdCtx} (h : c.rule = 1) (gs : Nat) (th m v : Word) :
    let g := (round32nv .rne (numMul ((Num.read (elemOf c.code) gs).scale (-(c.lexp + c.gScale))) (f32 c.clip))).1
    let m' := (fma32 c.beta1 m g).1
    (updElem c gs th m v).1 = (sub32 th (mul32 c.lr (add32 m' (mul32 c.decay th).1).1).1).1 ∧
      (updElem c gs th m v).2.1 = m' ∧ (updElem c gs th m v).2.2.1 = v := by
  simp only [updElem, h, if_true, and_self]

/-- Rule 2 of Table 10.3, AdamW. -/
theorem updElem_rule2 {c : UpdCtx} (h : c.rule ≠ 1) (gs : Nat) (th m v : Word) :
    let g := (round32nv .rne (numMul ((Num.read (elemOf c.code) gs).scale (-(c.lexp + c.gScale))) (f32 c.clip))).1
    let m' := (fma32 c.beta1 m (mul32 (sub32 0x3F800000 c.beta1).1 g).1).1
    let v' := (fma32 c.beta2 v (mul32 (sub32 0x3F800000 c.beta2).1 (mul32 g g).1).1).1
    let d := (divUd (mul32 m' c.bc1).1 (add32 (sqrt32 (mul32 v' c.bc2).1).1 c.epsilon).1).1
    (updElem c gs th m v).1 = (sub32 th (mul32 c.lr (add32 d (mul32 c.decay th).1).1).1).1 ∧
      (updElem c gs th m v).2.1 = m' ∧ (updElem c gs th m v).2.2.1 = v' := by
  simp only [updElem, h, if_false, and_self]

/-! ## What runs, and where -/

/-- A record of update die u that runs, on a die of partition p. -/
structure UdRuns (s : State) (p : Nat) (r : RecRef) (code : Nat) (x : RecState) : Prop where
  whole : s.whole = true
  runs : s.runs r code x
  part : s.partOfCd r.die = some p
  unit : x.record.unit = 0x13 ∨ x.record.unit = 0x14

section
variable {s : State} {p : Nat} {r : RecRef} {code : Nat} {x : RecState} (h : UdRuns s p r code x)
include h

theorem UdRuns.coePart : coePart r s = p := by simp [Machine.coePart, h.part]

theorem UdRuns.rec? : s.rec? r = some x := by
  obtain ⟨⟨-, hr, -⟩, -⟩ := h.runs
  exact hr

theorem UdRuns.ud_lt : x.ud r.die < 32 := by
  obtain ⟨⟨hw, -⟩, -⟩ := h.runs
  have hd : r.die < 16 := by simpa [RecRef.wf] using hw
  have := h.unit
  rw [RecState.ud]
  omega

/-- No run waits for a granule exactly when the record is ready. -/
theorem UdRuns.granulesReady_iff (c : Nat) : granulesReady r x c s = true ↔
    ∀ k ∈ recRuns (s.part p) (x.ud r.die) x, runState s p (x.ud r.die) r.step k.2.1 k.2.2 (gradWidth c) ≠ .waiting := by
  simp [granulesReady, h.coePart]

end

/-! ## UFOLD -/

/-- A UFOLD that is ready folds its runs, notes its frozen entries and has then been carried out. -/
theorem execUfold_ready {s : State} {p : Nat} {r : RecRef} {x : RecState} (h : UdRuns s p r 0x0A00 x) (hc : 0 < x.record.count)
    (hr : granulesReady r x (field (x.w 3) 7 0) s = true) :
    execUfold r s = .next
      ((noteFrozen r x ((recRuns (s.part p) (x.ud r.die) x).foldl (foldRun r x) s)).marked r) := by
  rw [execUfold, runOpWhen_ready _ h.runs hr, counted_pos _ _ (by omega), ufoldRun, h.coePart]

/-- The record after its work, its frozen entries noted and its operation marked as carried out. -/
theorem marked_noteFrozen_rec? {s t : State} {p : Nat} {r : RecRef} {code : Nat} {x y : RecState} (h : UdRuns s p r code x)
    (hp : t.parts = s.parts) (hy : t.rec? r = some y) :
    ((noteFrozen r x t).marked r).rec? r = some { y with
      executed := true, frozen := y.frozen || !(frozenEntries (s.part p) (x.ud r.die) x).isEmpty } := by
  rw [State.marked, State.rec?_modRec, noteFrozen_rec?, coePart_of_parts hp, h.coePart, State.part, hp, hy]
  rfl

theorem UdWork.marked_noteFrozen {α : Type} {keep : Ud → α} {s t : State} {r : RecRef} {u : Nat} (hw : UdWork r u keep s t)
    (x : RecState) : UdWork r u keep s ((Machine.noteFrozen r x t).marked r) := by
  refine (hw.trans (.noteFrozen t x)).trans (.modRec _ ?_ ?_)
  · exact fun _ => rfl
  · exact fun _ => id

/-- What an update die's record leaves alone of the other update dies and of the compute dies. -/
def udOthers (d u : Nat) (s t : State) : Prop :=
  (∀ k, k ≠ u → t.ud k = s.ud k) ∧ (∀ e, e ≠ d → t.cd e = s.cd e) ∧ t.cd d = { s.cd d with seq := (t.cd d).seq }

theorem UdWork.others {α : Type} {keep : Ud → α} {s t : State} {r : RecRef} {u : Nat} (h : UdWork r u keep s t) :
    udOthers r.die u s t := ⟨h.uds, h.cds, h.seq⟩

/-! ## USHARE -/

theorem execUshare_runs {s : State} {p : Nat} {r : RecRef} {x : RecState} (h : UdRuns s p r 0x0A01 x) (hc : 0 < x.record.count) :
    execUshare r s = .next (((s.modUd (x.ud r.die) fun k => { k with share := {}, pendFresh := [] }).modFab p fun f =>
      { f with mesh := f.mesh ++ [.share (x.ud r.die) r.step ((s.ud (x.ud r.die)).sharing (field (x.w 0) 11 0) x.count)] }).marked r) := by
  rw [execUshare, runOp_runs _ h.runs, counted_pos _ _ (by omega), sendMesh, h.coePart]

/-! ## UPDATE -/

theorem execUpdate_runs {s : State} {r : RecRef} {x : RecState} (h : s.runs r 0x0A02 x) (hb : x.begun = false) :
    execUpdate r s = .next (s.modRec r fun y => { y with begun := true, executed := decide (x.record.count = 0) }) := by
  obtain ⟨⟨hw, hr, hp, -, hc, hs⟩, -⟩ := h
  simp [execUpdate, onlyIf, hw, hr, hp, hb, hc, hs, RecState.count]
  rfl

/-- An UPDATE that has begun waits while its hub does not hold the verdict of its step. -/
theorem execUpdateApply_noVerdict {s : State} {r : RecRef} {x : RecState} (h : s.runs r 0x0A02 x)
    (hv : heldVerdict r x s = none) : execUpdateApply r s = .next s := by
  obtain ⟨⟨hw, hr, hp, -, hc, hs⟩, -⟩ := h
  simp [execUpdateApply, onlyIf, hw, hr, hv]

/-- With the verdict it is finished, once the verdict is SKIP or its granules are there. -/
theorem execUpdateApply_verdict {s : State} {r : RecRef} {x : RecState} (h : s.runs r 0x0A02 x) (hb : x.begun = true)
    {v : Verdict} (hv : heldVerdict r x s = some v) : execUpdateApply r s = .next
      (if v.skip || granulesReady r x (field (x.w 6) 7 0) s then finishUpdate r x v s else s) := by
  obtain ⟨⟨hw, hr, hp, he, hc, hs⟩, hi⟩ := h
  simp [execUpdateApply, onlyIf, hw, hr, hp, he, hb, hc, hs, hv, State.seenBy, underImage, hi]

theorem finishUpdate_lost (r : RecRef) (x : RecState) {v : Verdict} (s : State) (hs : v.skip = true) (hr : v.reason = 4) :
    finishUpdate r x v s = (s.modUd (x.ud r.die) fun k => { k with lastStep := BitVec.ofNat 32 r.step }).modRec r
      fun y => { y with lost := true, executed := true } := by
  simp only [finishUpdate, hs, hr, Bool.not_true, Bool.false_eq_true, if_false, if_true, State.modRec_modRec]

theorem finishUpdate_skipped (r : RecRef) (x : RecState) {v : Verdict} (s : State) (hs : v.skip = true) (hr : v.reason ≠ 4) :
    finishUpdate r x v s = (s.modUd (x.ud r.die) fun k => { k with
      lastStep := BitVec.ofNat 32 r.step, stepSkip := min (k.stepSkip + 1) 0xFFFFFFFF }).modRec r
      fun y => { y with skipped := true, executed := true } := by
  simp only [finishUpdate, hs, hr, Bool.not_true, Bool.false_eq_true, if_false, State.modRec_modRec, State.modUd_modUd]
  rfl

/-- What an UPDATE under APPLY sets in its die before it updates a run: its step, the frozen entries counted, and the count
of non-finite values begun anew for a new step (R257, R260). -/
def Ud.beginApply (step frozen : Nat) (d : Ud) : Ud :=
  { d with
    lastStep := BitVec.ofNat 32 step
    frozenSkip := satAdd d.frozenSkip frozen
    nextNf := if d.nextNfStep = some step then d.nextNf else 0
    nextNfStep := some step }

theorem finishUpdate_applied {s : State} {p : Nat} {r : RecRef} {x : RecState} (h : UdRuns s p r 0x0A02 x) {v : Verdict}
    (hs : v.skip = false) {img : JobImage} (hi : (s.part p).active = some img) :
    finishUpdate r x v s = (noteFrozen r x ((recRuns (s.part p) (x.ud r.die) x).foldl (updateRun r x (UpdCtx.of x.w img.upd v))
      (s.modUd (x.ud r.die) (Ud.beginApply r.step (frozenEntries (s.part p) (x.ud r.die) x).length)))).marked r := by
  have hp : coePart r (s.modUd (x.ud r.die) fun d => { d with lastStep := BitVec.ofNat 32 r.step }) = p := h.coePart
  simp only [finishUpdate, applyUpdate, hs, hp, hi, Bool.not_false, if_true, State.modUd_part, State.modUd_modUd]
  rfl

section
variable (c : UpdCtx) (g : UpdEntry) (run : OwnedRun) (out : List (Word × Word × Word × Flags))

theorem master_mem_updWrites : (g.master, 4 * run.first, out.flatMap fun a => leBytes 4 a.1.toNat) ∈ updWrites c g run out := by
  simp [updWrites]

theorem moment1_mem_updWrites :
    (g.moment1, 4 * run.first, out.flatMap fun a => leBytes 4 a.2.1.toNat) ∈ updWrites c g run out := by
  simp [updWrites]

variable {c} in
theorem moment2_mem_updWrites (hr : c.rule ≠ 1) :
    (g.moment2, 4 * run.first, out.flatMap fun a => leBytes 4 a.2.2.1.toNat) ∈ updWrites c g run out := by
  simp [updWrites, hr]

theorem fp8_mem_updWrites :
    (g.fp8, run.first, out.flatMap fun a => leBytes 1 (copyE4m3 c.wcScale a.1).1) ∈ updWrites c g run out := by
  simp [updWrites]

variable {c} in
theorem bf16_mem_updWrites (hb : c.bf16 = true) :
    (g.bf16, 2 * run.first, out.flatMap fun a => leBytes 2 (copyBf16 a.1).1) ∈ updWrites c g run out := by
  simp [updWrites, hb]

end

/-- A word written among the spans of an update reads back. -/
theorem SpansWritten.regionWord {s t : State} {p : Nat} {regions : List Nat} {ws : List (Nat × Nat × List Byte)}
    (h : SpansWritten s t p regions ws) {α : Type} {g o : Nat} {f : α → Word} {l : List α}
    (hw : (g, o, l.flatMap fun a => leBytes 4 (f a).toNat) ∈ ws) {i : Nat} (hi : i < l.length) :
    t.regionWord p g (o + 4 * i) = f l[i] := by
  apply BitVec.eq_of_toNat_eq
  have := (f l[i]).isLt
  rw [State.regionWord, h.regionNat hw hi, BitVec.toNat_ofNat]
  omega

/-- The elements of a run whose update has been written. -/
theorem SpansWritten.elements {s t : State} {p : Nat} {c : UpdCtx} {g : UpdEntry} {run : OwnedRun}
    (h : SpansWritten s t p (updRegions c g) (updWrites c g run ((List.range run.count).map (s.elemOut p c g run)))) {i : Nat}
    (hi : i < run.count) :
    let out := s.elemOut p c g run i
    t.regionWord p g.master (4 * (run.first + i)) = out.1 ∧ t.regionWord p g.moment1 (4 * (run.first + i)) = out.2.1 ∧
      (c.rule ≠ 1 → t.regionWord p g.moment2 (4 * (run.first + i)) = out.2.2.1) ∧
      t.regionNat p g.fp8 (run.first + i) 1 = (copyE4m3 c.wcScale out.1).1 % 256 ∧
      (c.bf16 = true → t.regionNat p g.bf16 (2 * (run.first + i)) 2 = (copyBf16 out.1).1 % 65536) := by
  have hlen : i < ((List.range run.count).map (s.elemOut p c g run)).length := by simpa using hi
  have hget : ((List.range run.count).map (s.elemOut p c g run))[i] = s.elemOut p c g run i := by
    rw [List.getElem_map, List.getElem_range]
  simp only [Nat.mul_add, ← hget]
  refine ⟨h.regionWord (master_mem_updWrites ..) hlen, h.regionWord (moment1_mem_updWrites ..) hlen,
    fun hr => h.regionWord (moment2_mem_updWrites g run _ hr) hlen, ?_, fun hb => h.regionNat (bf16_mem_updWrites g run _ hb) hlen⟩
  have := h.regionNat (fp8_mem_updWrites ..) hlen
  rwa [Nat.one_mul] at this

/-- The regions of an update that is written keep every byte outside the run. -/
theorem SpansWritten.frame {s t : State} {p : Nat} {c : UpdCtx} {g : UpdEntry} {run : OwnedRun}
    {out : List (Word × Word × Word × Flags)} (hn : (updRegions c g).Nodup) (hl : out.length = run.count)
    (h : SpansWritten s t p (updRegions c g) (updWrites c g run out)) :
    regionSame p g.gradient [] s t ∧ regionSame p g.master [(4 * run.first, 4 * run.count)] s t ∧
      (∀ k ∈ (if c.rule = 1 then [g.moment1] else [g.moment1, g.moment2]),
        regionSame p k [(4 * run.first, 4 * run.count)] s t) ∧
      regionSame p g.fp8 [(run.first, run.count)] s t := by
  obtain ⟨hg, hw⟩ := updWrites_nodup hn run out
  have hm1 : regionSame p g.moment1 [(4 * run.first, 4 * run.count)] s t := h.same hw (moment1_mem_updWrites c g run out)
    (by simp only [updRegions]; split <;> simp) (by rw [length_flatMap_leBytes, hl])
  refine ⟨h.same_other hg (by simp [updRegions]),
    h.same hw (master_mem_updWrites c g run out) (by simp [updRegions]) (by rw [length_flatMap_leBytes, hl]), fun k hk => ?_,
    h.same hw (fp8_mem_updWrites c g run out) (by simp [updRegions]) (by rw [length_flatMap_leBytes, hl, Nat.one_mul])⟩
  split at hk
  · rwa [List.mem_singleton.1 hk]
  · next hr =>
    have hm2 : regionSame p g.moment2 [(4 * run.first, 4 * run.count)] s t := h.same hw (moment2_mem_updWrites g run out hr)
      (by simp [updRegions, hr]) (by rw [length_flatMap_leBytes, hl])
    simp only [List.mem_cons, List.not_mem_nil, or_false] at hk
    rcases hk with rfl | rfl
    · exact hm1
    · exact hm2

/-! ## The records as a whole -/

/-- A UFOLD whose runs can all be folded changes no line, and its share becomes the fold of every gradient. -/
theorem ufold_served {s : State} {p : Nat} {r : RecRef} {x : RecState} (h : UdRuns s p r 0x0A00 x) (hf : s.stacksFit)
    (hk : ∀ k ∈ recRuns (s.part p) (x.ud r.die) x, Foldable s p (x.ud r.die) r.step (field (x.w 3) 7 0) k) :
    let t := (noteFrozen r x ((recRuns (s.part p) (x.ud r.die) x).foldl (foldRun r x) s)).marked r
    memTraffic s t ∧ t = { s with cds := t.cds, hubs := t.hubs, uds := t.uds } ∧
      t.rec? r = some { x with
        executed := true, frozen := x.frozen || !(frozenEntries (s.part p) (x.ud r.die) x).isEmpty } ∧
      (∀ g, linesSame p g [] s t) ∧
      (t.ud (x.ud r.die)).share = ((recRuns (s.part p) (x.ud r.die) x).flatMap
        (s.gradients p (field (x.w 3) 7 0) (-(wordInt (x.w 2) + wordInt (x.w 1))))).foldl Share.fold
          (s.ud (x.ud r.die)).share := by
  obtain ⟨hs, hlines, hcds, huds⟩ := foldRuns_served (recRuns (s.part p) (x.ud r.die) x) hf (by rwa [h.coePart])
  rw [h.coePart] at huds
  have hwork := UdWork.foldl (recRuns (s.part p) (x.ud r.die) x) (foldRun_work r x) s
  have hrec := (State.rec?_of_cds hcds r).trans h.rec?
  generalize (recRuns (s.part p) (x.ud r.die) x).foldl (foldRun r x) s = v at hs hlines hcds huds hwork hrec
  intro t
  have hst : s.Serves t := (hs.trans (noteFrozen_serves r x v)).trans (.modRec ..)
  refine ⟨hst.memTraffic, hst.rest, marked_noteFrozen_rec? h hwork.parts hrec, fun g k l hl _ => ?_, ?_⟩
  · have hhub : t.hub k = v.hub k := congrArg (·.getD k {}) (noteFrozen_hubs r x v)
    rw [hhub]
    exact hlines k l hl
  · have hud : t.ud (x.ud r.die) = v.ud (x.ud r.die) := congrArg (·.getD (x.ud r.die) {}) (noteFrozen_uds r x v)
    rw [hud, State.ud, huds]
    exact congrArg Ud.share (State.modUd_ud_whole h.whole h.ud_lt _)

/-- What a UFOLD that is ready does in any case. -/
theorem ufold_work {s : State} {p : Nat} {r : RecRef} {x : RecState} (h : UdRuns s p r 0x0A00 x) :
    let t := (noteFrozen r x ((recRuns (s.part p) (x.ud r.die) x).foldl (foldRun r x) s)).marked r
    udOthers r.die (x.ud r.die) s t ∧ t.ud (x.ud r.die) = { s.ud (x.ud r.die) with share := (t.ud (x.ud r.die)).share } ∧
      ∃ y, t.rec? r = some y ∧ y.executed = true ∧ y.record = x.record ∧
        (frozenEntries (s.part p) (x.ud r.die) x ≠ [] → y.frozen = true) ∧
        ((∃ k ∈ recRuns (s.part p) (x.ud r.die) x,
          runState s p (x.ud r.die) r.step k.2.1 k.2.2 (gradWidth (field (x.w 3) 7 0)) = .discarded) →
            (t.ud (x.ud r.die)).share.inputLost = true ∧ y.lost = true) := by
  have hwork := UdWork.foldl (recRuns (s.part p) (x.ud r.die) x) (foldRun_work r x) s
  obtain ⟨y, hy, hyr, -⟩ := hwork.record x h.rec?
  have ht := hwork.marked_noteFrozen x
  refine ⟨ht.others, Ud.eq_of_unshared ht.kept, _, marked_noteFrozen_rec? h hwork.parts hy, rfl, hyr,
    fun hne => by simp [hne], fun ⟨k, hk, hd⟩ => ?_⟩
  obtain ⟨hlost, z, hz, hzl⟩ := foldRuns_lost h.whole h.ud_lt h.rec? hk (by rw [h.coePart, hd]; nofun)
  rw [hy] at hz
  obtain rfl := Option.some.inj hz
  exact ⟨((UdWork.refl (keep := Ud.unshared) _).marked_noteFrozen x).lost hlost, hzl⟩

/-- What an UPDATE under APPLY does in any case. -/
theorem apply_work {s : State} {p : Nat} {r : RecRef} {x : RecState} (h : UdRuns s p r 0x0A02 x) (c : UpdCtx) :
    let t := (noteFrozen r x ((recRuns (s.part p) (x.ud r.die) x).foldl (updateRun r x c)
      (s.modUd (x.ud r.die) (Ud.beginApply r.step (frozenEntries (s.part p) (x.ud r.die) x).length)))).marked r
    udOthers r.die (x.ud r.die) s t ∧
      t = { s with
            cds := t.cds, hubs := t.hubs, uds := t.uds, free := t.free, baith := t.baith
            ctrl := { s.ctrl with log := t.ctrl.log } } ∧
      (t.ud (x.ud r.die)).verdictSide =
        ((s.ud (x.ud r.die)).beginApply r.step (frozenEntries (s.part p) (x.ud r.die) x).length).verdictSide ∧
      ∃ y, t.rec? r = some y ∧ y.executed = true ∧ y.record = x.record ∧
        (frozenEntries (s.part p) (x.ud r.die) x ≠ [] → y.frozen = true) := by
  generalize hs1 : s.modUd (x.ud r.die) (Ud.beginApply r.step (frozenEntries (s.part p) (x.ud r.die) x).length) = s1
  have hbegin : UdWork r (x.ud r.die) (fun _ => ()) s s1 := by
    rw [← hs1]
    refine .modUd s ?_ ?_
    · exact fun _ => rfl
    · exact fun _ => id
  have hwork := UdWork.foldl (recRuns (s.part p) (x.ud r.die) x) (updateRun_work r x c) s1
  have hall := hbegin.trans { hwork with kept := rfl }
  obtain ⟨y, hy, hyr, -⟩ := hall.record x h.rec?
  have ht := hall.marked_noteFrozen x
  refine ⟨ht.others, ht.rest, ?_, _, marked_noteFrozen_rec? h hall.parts hy, rfl, hyr, fun hne => by simp [hne]⟩
  rw [(hwork.marked_noteFrozen x).kept, ← hs1, State.modUd_ud_whole h.whole h.ud_lt]

theorem Updatable.of_serves {s t : State} (h : s.Serves t) {p u step : Nat} {c : UpdCtx} {g : UpdEntry} {run : OwnedRun}
    (hu : Updatable s p u step c g run) : Updatable t p u step c g run := by
  obtain ⟨h1, h2, h3, h4, h5, h6, h7, h8, h9⟩ := hu
  refine ⟨?_, h.readable h2, ?_, ?_, h.room h5, h.room h6, fun hr => h.room (h7 hr), h.room h8, fun hb => h.room (h9 hb)⟩
  · rwa [runState_congr (h.part p) (h.hubs u).red]
  · rwa [h.part]
  · rw [h.part]
    exact h.room h4

/-- The distance between the elements of a region that an update entry names (R247; log entry 115). -/
def updWidth (q : Part) (c : UpdCtx) (g : UpdEntry) (k : Nat) : Nat :=
  if k = g.gradient then gradStride q g.gradient c.code else if k = g.fp8 then 1 else if c.bf16 ∧ k = g.bf16 then 2 else 4

/-- In regions that are all different each role has its own width. -/
theorem updWidth_of_nodup (q : Part) {c : UpdCtx} {g : UpdEntry} (h : (updRegions c g).Nodup) :
    updWidth q c g g.gradient = gradStride q g.gradient c.code ∧ updWidth q c g g.master = 4 ∧ updWidth q c g g.moment1 = 4 ∧
      (c.rule ≠ 1 → updWidth q c g g.moment2 = 4) ∧ updWidth q c g g.fp8 = 1 ∧ (c.bf16 = true → updWidth q c g g.bf16 = 2) := by
  unfold updRegions at h
  unfold updWidth
  by_cases hr : c.rule = 1 <;> by_cases hb : c.bf16 = true <;> simp [hr, hb] at h ⊢ <;> grind

/-- A run whose spans lie in the die's own stack, in served regions that lie apart, can be updated. -/
theorem Updatable.of_regions {s : State} (hf : s.stacksFit) {p u step : Nat} {c : UpdCtx} {g : UpdEntry} {run : OwnedRun}
    (hready : runState s p u step g run (gradWidth c.code) = .ready) (hd : gradStride (s.part p) g.gradient c.code ∣ 4)
    (hap : s.apart p (updRegions c g))
    (hall : ∀ k ∈ updRegions c g, s.served p k ∧
      (run.first + run.count) * updWidth (s.part p) c g k ≤ ((s.part p).region? k).elim 0 (·.length) ∧
      ownSpan (s.part p) k (run.first * updWidth (s.part p) c g k) (run.count * updWidth (s.part p) c g k) u = true) :
    Updatable s p u step c g run := by
  have room : ∀ k ∈ updRegions c g, ∀ n, updWidth (s.part p) c g k = n → s.room p u k (n * run.first) (n * run.count) := by
    intro k hk n hn
    obtain ⟨-, h1, h2⟩ := hall k hk
    rw [hn] at h1 h2
    rw [Nat.mul_comm n, Nat.mul_comm n]
    exact ⟨by rwa [← Nat.add_mul], h2⟩
  obtain ⟨wg, wm, w1, w2, w8, wb⟩ := updWidth_of_nodup (s.part p) hap.1
  refine ⟨hready, ⟨hf, hap, fun k hk => (hall k hk).1⟩, hd, ?_, room _ (by simp [updRegions]) 4 wm,
    room _ (by simp only [updRegions]; split <;> simp) 4 w1, fun hr => room _ (by simp [updRegions, hr]) 4 (w2 hr), ?_,
    fun hb => room _ (by simp [updRegions, hb]) 2 (wb hb)⟩
  · rw [Nat.mul_comm run.first, Nat.mul_comm run.count]
    exact room _ (by simp [updRegions]) _ wg
  · simpa using room g.fp8 (by simp [updRegions]) 1 w8

/-- The regions of an update after record-keeping alone. -/
theorem regionByte_bookkept (r : RecRef) (x : RecState) (v : State) (u : Nat) (f : Ud → Ud) (p : Nat) :
    ((noteFrozen r x (v.modUd u f)).marked r).regionByte p = v.regionByte p := by
  unfold noteFrozen
  split <;> rfl

/-- An UPDATE under APPLY of one run that can be updated. -/
theorem apply_served {s : State} {p : Nat} {r : RecRef} {x : RecState} (h : UdRuns s p r 0x0A02 x) (c : UpdCtx) {e : Nat}
    {g : UpdEntry} {run : OwnedRun} (hruns : recRuns (s.part p) (x.ud r.die) x = [(e, g, run)])
    (hu : Updatable s p (x.ud r.die) r.step c g run) :
    let t := (noteFrozen r x ((recRuns (s.part p) (x.ud r.die) x).foldl (updateRun r x c)
      (s.modUd (x.ud r.die) (Ud.beginApply r.step (frozenEntries (s.part p) (x.ud r.die) x).length)))).marked r
    (∀ i < run.count,
      let out := s.elemOut p c g run i
      t.regionWord p g.master (4 * (run.first + i)) = out.1 ∧ t.regionWord p g.moment1 (4 * (run.first + i)) = out.2.1 ∧
        (c.rule ≠ 1 → t.regionWord p g.moment2 (4 * (run.first + i)) = out.2.2.1) ∧
        t.regionNat p g.fp8 (run.first + i) 1 = (copyE4m3 c.wcScale out.1).1 % 256 ∧
        (c.bf16 = true → t.regionNat p g.bf16 (2 * (run.first + i)) 2 = (copyBf16 out.1).1 % 65536)) ∧
      (regionSame p g.gradient [] s t ∧ regionSame p g.master [(4 * run.first, 4 * run.count)] s t ∧
        (∀ k ∈ (if c.rule = 1 then [g.moment1] else [g.moment1, g.moment2]),
          regionSame p k [(4 * run.first, 4 * run.count)] s t) ∧
        regionSame p g.fp8 [(run.first, run.count)] s t) ∧
      t.rec? r = some { x with
        executed := true, frozen := x.frozen || !(frozenEntries (s.part p) (x.ud r.die) x).isEmpty } := by
  generalize hs1 : s.modUd (x.ud r.die) (Ud.beginApply r.step (frozenEntries (s.part p) (x.ud r.die) x).length) = s1
  have hserves : s.Serves s1 := hs1 ▸ .modUd ..
  have hbytes : s1.regionByte p = s.regionByte p := hs1 ▸ rfl
  have hcds : s1.cds = s.cds := hs1 ▸ rfl
  have hp : coePart r s1 = p := (coePart_of_parts hserves.parts r).trans h.coePart
  obtain ⟨v, f, hv, hw⟩ := updateRun_served (s := s1) e (by rw [hp]; exact hu.of_serves hserves)
  rw [hp] at hw
  have helem : s1.elemOut p c g run = s.elemOut p c g run := hs1 ▸ rfl
  have hframe := hw.frame hu.readable.2.1.1 (by simp)
  have helems := fun i hi => hw.elements (i := i) hi
  have hrec := (State.rec?_of_cds (hw.cds.trans hcds) r).trans h.rec?
  rw [hruns, List.foldl_cons, List.foldl_nil, hv]
  simp only [regionSame, State.regionWord, State.regionNat, regionByte_bookkept, hbytes, helem] at hframe helems ⊢
  exact ⟨helems, hframe, marked_noteFrozen_rec? h (hw.parts.trans hserves.parts) hrec⟩

end Sys2Proof.Machine

open Sys2Proof.Machine in
/-- Settles O55: a record's operation is a fold over its runs. Whatever the lines do, a run changes only its update die, its
own record and what line accesses change (`ufold_work`, `apply_work`); where the hub serves the regions, each gradient is
folded (`ufold_served`) and each element becomes that of Table 10.3 (`apply_served`, `updElem_rule1`, `updElem_rule2`). -/
theorem updates : Obligations.Updates := by
  refine ⟨fun c gs th m v => ⟨fun h => updElem_rule1 h gs th m v, fun h => updElem_rule2 h gs th m v⟩, ?_⟩
  intro s p r x hw hm _ hp hunit d u q runs others frozen
  have hf := State.stacksFit_of hw hm
  refine ⟨fun hc c hmem hruns hready => ?_, fun hruns hc => ?_, fun hruns hc => ?_, fun hruns hb => execUpdate_runs hruns hb,
    fun hruns hb => ?_⟩
  · simp only [List.mem_cons, List.not_mem_nil, or_false] at hmem
    rcases hmem with rfl | rfl
    · exact (runOpWhen_ready _ hruns (hready rfl)).trans (by rw [counted_zero _ _ hc])
    · exact (runOp_runs _ hruns).trans (by rw [counted_zero _ _ hc])
  · have h : UdRuns s p r 0x0A00 x := ⟨hw, hruns, hp, hunit⟩
    intro code w stride state scale
    refine ⟨fun ⟨k, hk, hwait⟩ => ?_, fun hready => ?_⟩
    · refine runOpWhen_waits _ hruns (Bool.eq_false_iff.2 fun hg => (h.granulesReady_iff _).1 hg k hk hwait)
    · have hg : granulesReady r x (field (x.w 3) 7 0) s = true := (h.granulesReady_iff _).2 hready
      obtain ⟨hothers, hud, y, hy, hye, hyr, hyf, hlost⟩ := ufold_work h
      refine ⟨_, y, execUfold_ready h hc hg, hothers, hy, hye, hyr, hud, hyf, hlost, fun hall _ hst => ?_⟩
      have hk : ∀ k ∈ recRuns (s.part p) (x.ud r.die) x, Foldable s p (x.ud r.die) r.step (field (x.w 3) 7 0) k := fun k hk => by
        obtain ⟨h1, h2, h3, h4⟩ := hall k hk
        exact ⟨h1, h2, h3, h4, hst k hk⟩
      obtain ⟨htraffic, hrest, hrec, hlines, hshare⟩ := ufold_served h hf hk
      rw [hy] at hrec
      exact ⟨htraffic, hrest, Option.some.inj hrec, fun k _ => hlines k.2.1.gradient, hshare⟩
  · have h : UdRuns s p r 0x0A01 x := ⟨hw, hruns, hp, hunit⟩
    exact execUshare_runs h hc
  · have h : UdRuns s p r 0x0A02 x := ⟨hw, hruns, hp, hunit⟩
    refine ⟨fun hno => execUpdateApply_noVerdict hruns ?_, fun v hv => ?_⟩
    · exact congrArg (Option.map Prod.snd) (List.find?_eq_none.2 fun k hk => by simpa using hno k hk)
    · have hheld : heldVerdict r x s = some v := congrArg (Option.map Prod.snd) hv
      have hexec := execUpdateApply_verdict hruns hb hheld
      refine ⟨fun hs h4 => ?_, fun hs h4 => ?_, fun hs => ⟨fun hnot => ?_, fun img hyes himg => ?_⟩⟩
      · rw [hs, Bool.true_or, if_pos rfl, finishUpdate_lost r x s hs h4] at hexec
        exact hexec
      · rw [hs, Bool.true_or, if_pos rfl, finishUpdate_skipped r x s hs h4] at hexec
        exact hexec
      · rw [hs, hnot, Bool.false_or, if_neg Bool.false_ne_true] at hexec
        exact hexec
      · rw [hs, hyes, Bool.false_or, if_pos rfl, finishUpdate_applied h hs himg] at hexec
        obtain ⟨hothers, hrest, hud, y, hy, hye, hyr, hyf⟩ := apply_work h (UpdCtx.of x.w img.upd v)
        simp only [Ud.verdictSide, Prod.mk.injEq] at hud
        obtain ⟨hlast, hskip, hshare, hverdicts⟩ := hud
        refine ⟨_, y, hexec, hothers, hrest, hy, hye, hyr, hyf, hlast, hskip, hshare, hverdicts,
          fun e g run _ hone _ _ hd hready hap hall => ?_⟩
        obtain ⟨helems, ⟨hgrad, hmaster, hmoments, hfp8⟩, hrec⟩ :=
          apply_served h _ hone (Updatable.of_regions hf hready hd hap hall)
        rw [hy] at hrec
        exact ⟨helems, hgrad, hmaster, hmoments, hfp8, Option.some.inj hrec⟩
end

section
/-! PROOF. Published sets (02 R60 to R67): what staging, closing and publishing do to one set, and what a write of a member
is at its live and at its shadow offset. -/

namespace Sys2Proof.Machine

/-! ## One set -/

/-- An entry replaced by a value. -/
theorem modAt_const {α : Type} (l : List α) (i : Nat) (a : α) : modAt l i (fun _ => a) = l.set i a := by
  induction l generalizing i with
  | nil => rfl
  | cons b l ih => cases i with
    | zero => rfl
    | succ i => simp [modAt, ih]

theorem PubSet.stage_staged (u : PubSet) (i v : Nat) : (u.stage i v).staged = u.staged.set i v := modAt_const ..

theorem PubSet.close_captured (u : PubSet) (v : Nat) :
    (u.close v).captured = some (u.staged.set (u.staged.length - 1) v) := congrArg some (modAt_const ..)

theorem PubSet.publish_none {u : PubSet} (h : u.captured = none) (take : List Nat → List Nat) : u.publish take = u := by
  simp [PubSet.publish, h]

theorem PubSet.publish_some {u : PubSet} {c : List Nat} (h : u.captured = some c) (take : List Nat → List Nat) :
    u.publish take = { live := take c, staged := reloaded (take c) u.staged u.after, captured := none
                       after := u.after.map fun _ => false } := by
  simp [PubSet.publish, h]

theorem reloaded_length {live staged : List Nat} {after : List Bool} (hs : staged.length = live.length)
    (ha : after.length = live.length) : (reloaded live staged after).length = live.length := by
  induction live generalizing staged after with
  | nil => cases staged <;> simp [reloaded]
  | cons l ls ih =>
    obtain _ | ⟨t, ts⟩ := staged
    · cases hs
    obtain _ | ⟨a, as⟩ := after
    · cases ha
    simp only [List.length_cons, Nat.add_right_cancel_iff] at hs ha
    simp [reloaded, ih hs ha]

/-- A member written after the closing write keeps its staged value, and every other takes the published one (R63). -/
theorem reloaded_getElem? {live staged : List Nat} {after : List Bool} (hs : staged.length = live.length)
    (ha : after.length = live.length) (i : Nat) :
    (reloaded live staged after)[i]? = if after[i]? = some true then staged[i]? else live[i]? := by
  induction live generalizing staged after i with
  | nil =>
    obtain rfl := List.length_eq_zero_iff.1 hs
    simp [reloaded]
  | cons l ls ih =>
    obtain _ | ⟨t, ts⟩ := staged
    · cases hs
    obtain _ | ⟨a, as⟩ := after
    · cases ha
    simp only [List.length_cons, Nat.add_right_cancel_iff] at hs ha
    cases i with
    | zero => cases a <;> simp [reloaded]
    | succ i => simp [reloaded, ih hs ha]

/-! ## Writes of members -/

theorem hostWrite_granted {s : State} {b win off : Nat} (h : s.grants b win off true) (v : Word) :
    hostWrite b win off v s = regWrite win off v s := by
  obtain ⟨htakes, hbusy, hmay, -⟩ := h
  simp [hostWrite, htakes, hbusy, hmay]

/-- A write to a member of a set (R60). -/
theorem regWrite_member {s : State} {win off : Nat} {m : Member} (v : Word)
    (hthere : ((windowSite win).elim (win == winCtrl) s.live) = true) (hm : s.memberOf win off = some m) :
    regWrite win off v s = writeMember m v s := by
  unfold State.memberOf at hm
  simp [regWrite, hthere, hm]

theorem writeMember_stages {m : Member} (hc : m.closing = false) (v : Word) (s : State) :
    writeMember m v s = s.modSet m.set fun u =>
      { u with
        staged := u.staged.set m.index (putWord (u.staged.getD m.index 0) m.low m.mask v)
        after := if u.captured.isSome then u.after.set m.index true else u.after } := by
  simp [writeMember, hc, PubSet.stage, modAt_const]

theorem writeMember_closes {m : Member} (hc : m.closing = true) (v : Word) (s : State) :
    writeMember m v s = s.modSet m.set fun u =>
      let staged := u.staged.set (u.staged.length - 1) (putWord (u.staged.getD m.index 0) m.low m.mask v)
      { u with staged, captured := some staged, after := u.after.map fun _ => false } := by
  simp [writeMember, hc, PubSet.close, modAt_const]

end Sys2Proof.Machine

open Sys2Proof.Machine

/-- Settles O22: a second closing write puts its own capture in place of the first (`PubSet.close_captured`), and a
publication leaves no capture for a further one (`PubSet.publish_none`). -/
theorem secondClosingWrite : Obligations.SecondClosingWrite := by
  intro u v w writes take before again done
  have hc : again.captured = some (before.staged.set (before.staged.length - 1) w) := before.close_captured w
  have hd : done = _ := PubSet.publish_some hc take
  have hn : done.captured = none := by rw [hd]
  exact ⟨hc, by rw [hd], hn, PubSet.publish_none hn take⟩

/-- Settles O23: the reload goes member by member (`reloaded_getElem?`), and a capture is what is staged at the closing
write. -/
theorem stagedReloads : Obligations.StagedReloads := by
  refine ⟨fun u c take hc hs ha ht => ?_, fun u i v close hlive _ _ => ?_⟩
  · rw [← ht] at hs ha
    rw [PubSet.publish_some hc]
    exact ⟨rfl, (reloaded_length hs ha).trans ht, fun i _ => reloaded_getElem? hs ha i⟩
  · rw [PubSet.close_captured, PubSet.stage_staged, hlive, List.length_set]

/-- Settles O24: at either offset a write finds the same member (`regWrite_member`). -/
theorem shadowReads : Obligations.ShadowReads := by
  intro s win off v m hoff hm hthere
  have hlive : s.memberOf win off = some m := by simpa [State.memberOf, shadowBase, Nat.not_le.2 hoff] using hm
  have hshadow : s.memberOf win (off + 0x800000) = some m := by simpa [State.memberOf, shadowBase] using hm
  refine ⟨?_, (regWrite_member v hthere hshadow).trans (regWrite_member v hthere hlive).symm⟩
  refine BitVec.eq_of_toNat_eq ?_
  simp [readReg, hthere, shadowBase, hm]

/-- Settles O25: a write that is granted writes the member at its offset, which stages it or closes its set. -/
theorem setWrites : Obligations.SetWrites := by
  intro s b win off v m hb hg hm put
  obtain ⟨-, -, -, hthere⟩ := id hg
  have hwrite : hostWrite b win off v s = writeMember m v s :=
    (hostWrite_granted hg v).trans (regWrite_member v hthere hm)
  refine ⟨fun hc => ⟨?_, ?_⟩, fun hc => ⟨?_, ?_⟩⟩
  · simp [exec, execClosingFieldWrite, onlyIf, hb, hm, hc]
  · simp only [exec, execStagedWrite, onlyIf, hb, hm, hc, hwrite, writeMember_stages hc]; rfl
  · simp [exec, execStagedWrite, onlyIf, hb, hm, hc]
  · simp only [exec, execClosingFieldWrite, onlyIf, hb, hm, hc, hwrite, writeMember_closes hc]; rfl
end

section
/-! PROOF. Writes of the control die's own registers: WR_ABORT (02 R52), MT_ANCHOR_SET (03 R72) and LB_SNAP_CMD (20 R477). -/

namespace Sys2Proof.Machine

/-! ## A granted write in the control die's window -/

/-- The control die's window holds no set (Table 02.10). -/
theorem memberAt_ctrl (part off : Nat) : memberAt part winCtrl off = none := by
  simp [memberAt, pwrAt, winCtrl]

theorem regWrite_ctrl {off : Nat} (h : off < 0x800000) (v : Word) (s : State) :
    regWrite winCtrl off v s = writeCtrl off v s := by
  have hsite : windowSite winCtrl = none := by decide
  simp [regWrite, hsite, memberAt_ctrl, shadowBase, Nat.not_le.2 h]

theorem bit_zero (v : Word) : bit v.toNat 0 = v.getLsbD 0 := by
  simp [bit, BitVec.getLsbD, Nat.testBit_zero]

theorem hostWrite_ctrl {s : State} {b off : Nat} (h : s.grants b winCtrl off true) (hoff : off < 0x800000) (v : Word) :
    hostWrite b winCtrl off v s = writeCtrl off v s := (hostWrite_granted h v).trans (regWrite_ctrl hoff v s)

theorem execWrAbort_part {s : State} {b p : Nat} (hb : b < 4) (hp : p < 4)
    (h : s.grants b winCtrl (0x10050 + 0x100 * p) true) (v : Word) :
    exec (.wrAbort b (.part p) v) s = .next (abortImage (.part p) v s) := by
  have hw := hostWrite_ctrl h (by omega) v
  have hwrite : writeCtrl (0x10050 + 0x100 * p) v s = abortImage (.part p) v s := by
    rw [writeCtrl, if_pos (by simp; omega), if_pos (by omega), show (0x10050 + 0x100 * p) / 0x100 % 4 = p by omega]
  simp [exec, execWrAbort, onlyIf, WrTarget.wf, hb, hp, hw, hwrite]

theorem execWrAbort_frame {s : State} {b : Nat} (hb : b < 4) (h : s.grants b winCtrl 0x10450 true) (v : Word) :
    exec (.wrAbort b .frame v) s = .next (abortImage .frame v s) := by
  have hw := hostWrite_ctrl h (by omega) v
  simp [exec, execWrAbort, onlyIf, WrTarget.wf, hb, hw, writeCtrl]

theorem execMtAnchorSet_granted {s : State} {b : Nat} (hb : b < 4) (h : s.grants b winCtrl 0x20418 true) (v : Word) :
    exec (.mtAnchorSet b v) s = .next (setAnchor v s) := by
  have hw := hostWrite_ctrl h (by omega) v
  simp [exec, execMtAnchorSet, onlyIf, hb, hw, writeCtrl]

theorem execLbSnapCmd_granted {s : State} {b : Nat} (hb : b < 4) (h : s.grants b winCtrl 0x5001C true) (v : Word) :
    exec (.lbSnapCmd b v) s = .next (snapCommand v s) := by
  have hw := hostWrite_ctrl h (by omega) v
  simp [exec, execLbSnapCmd, onlyIf, hb, hw, writeCtrl]

/-! ## Images withdrawn and anchors set -/

theorem abortImage_on {v : Word} (h : v.getLsbD 0 = true) (t : WrTarget) (s : State) :
    abortImage t v s = withdrawImage t s := by
  simp only [abortImage, bit_zero, h, if_true]

theorem withdrawImage_none {t : WrTarget} {s : State} (h : s.imagePending t = false) : withdrawImage t s = s := by
  simp [withdrawImage, h]

/-- Without bit 0, and with no image to withdraw, WR_ABORT changes nothing. -/
theorem abortImage_idle {t : WrTarget} {v : Word} {s : State} (h : v.getLsbD 0 = false ∨ s.imagePending t = false) :
    abortImage t v s = s := by
  cases hv : v.getLsbD 0 with
  | false => simp only [abortImage, bit_zero, hv, Bool.false_eq_true, if_false]
  | true => rw [abortImage_on hv, withdrawImage_none (h.resolve_left (by rw [hv]; decide))]

theorem withdrawImage_part {s : State} {p : Nat} (hp : p < s.parts.length) (h : (s.part p).pendingImg ≠ none) :
    withdrawImage (.part p) s = s.modPart p fun q => { q with
      pendingImg := none
      loader := { q.loader with state := if (s.part p).active.isSome then 4 else 0, pendingTick := 0 } } := by
  have hpend : s.imagePending (.part p) = true := by simpa [State.imagePending, Option.isSome_iff_ne_none] using h
  rw [withdrawImage, if_pos hpend]
  simp only [State.modLoader_part, State.modPart_modPart, State.restState, State.imagePending,
    State.modPart_part_same _ _ _ hp, Option.isSome_none, Bool.false_eq_true, if_false]

theorem withdrawImage_frame (s : State) : ∃ c, withdrawImage .frame s = { s with ctrl := c } ∧ c.pendingFrame = none := by
  unfold withdrawImage
  split
  · exact ⟨_, rfl, rfl⟩
  · next h => exact ⟨_, rfl, by simpa [State.imagePending] using h⟩

theorem setAnchor_off {v : Word} (h : v.getLsbD 0 = false) (s : State) : setAnchor v s = s := by
  simp only [setAnchor, bit_zero, h, Bool.false_eq_true, if_false]

theorem setAnchor_on {v : Word} (h : v.getLsbD 0 = true) (s : State) :
    ∃ l, setAnchor v s = { s with ctrl := { s.ctrl with
      log := l
      clock := { s.ctrl.clock with
        baseMt := s.ctrl.clock.anchorMt, baseUtc := s.ctrl.clock.anchorUtc, anchored := true } } } := by
  simp only [setAnchor, bit_zero, h, if_true]
  exact ⟨_, rfl⟩

/-! ## Snapshots (R477) -/

theorem Logbook.foldl_erased (ns : List Nat) (page : Nat → Nat) (l : Logbook) :
    ∃ e, ns.foldl (fun l i => l.erased (page i)) l = { l with erases := e } := by
  induction ns generalizing l with
  | nil => exact ⟨_, rfl⟩
  | cons n ns ih => exact (ih (l.erased (page n))).imp fun _ h => h

theorem Logbook.snapDone_eq (l : Logbook) : ∃ ws w, l.snapDone = { l with snapshots := ws, writing := w } := by
  unfold Logbook.snapDone
  split <;> exact ⟨_, _, rfl⟩

/-- A snapshot holds the lifetime counters as they stand when it begins. -/
theorem Logbook.snapBegin_eq {l : Logbook} (h : l.flashFault = false) (time : Nat) (lasers : List (Nat × Nat × Nat)) :
    ∃ ws e, l.snapBegin time lasers = { l with
      writing := some { number := l.snapNext, boot := l.boot, time, counters := l.live, lasers }
      snapNext := wrap32 l.snapNext
      snapshots := ws
      erases := e } := by
  obtain ⟨ws, w, hdone⟩ := l.snapDone_eq
  simp only [Logbook.snapBegin, h, hdone, Bool.false_eq_true, if_false]
  split
  · exact ⟨_, _, rfl⟩
  · obtain ⟨e, he⟩ := Logbook.foldl_erased (List.range 4) (fun i => snapPage l.snapNext + i) { l with
      writing := some { number := l.snapNext, boot := l.boot, time, counters := l.live, lasers }
      snapNext := wrap32 l.snapNext
      snapshots := ws.take 31
      flashFault := false }
    exact ⟨ws.take 31, e, by rw [he, ← h]⟩

theorem Logbook.snapBegin_failed {l : Logbook} (h : l.flashFault = true) (time : Nat) (lasers : List (Nat × Nat × Nat)) :
    l.snapBegin time lasers = l := by
  simp [Logbook.snapBegin, h]

/-- A time that has passed since the last one recorded, if one has been. -/
theorem elim_le_iff (o : Option Nat) (n k : Nat) :
    (o.elim true fun t => decide (t + k ≤ n)) = true ↔ ∀ was, o = some was → was + k ≤ n := by
  cases o <;> simp

/-- Whether LB_SNAP_CMD is to take a snapshot: it has taken none within the last 60 s. -/
def State.snapDue (s : State) (v : Word) : Prop :=
  v.getLsbD 0 = true ∧ ∀ was, s.ctrl.log.lastSnapCmd = some was → was + 60000000000 ≤ s.now

theorem State.snapDue_iff (s : State) (v : Word) : s.snapDue v ↔
    (bit v.toNat 0 && s.ctrl.log.lastSnapCmd.elim true fun t => t + 60000000000 ≤ s.now) = true := by
  rw [State.snapDue, bit_zero, Bool.and_eq_true, elim_le_iff]

theorem snapCommand_due {v : Word} {s : State} (h : s.snapDue v) :
    snapCommand v s = takeSnapshot (s.modLog fun l => { l with lastSnapCmd := some s.now }) :=
  if_pos ((s.snapDue_iff v).1 h)

theorem snapCommand_early {v : Word} {s : State} (h : ¬ s.snapDue v) : snapCommand v s = s :=
  if_neg fun hdue => h ((s.snapDue_iff v).2 hdue)

/-- A snapshot begun, of a module whose flash works or has failed. -/
theorem takeSnapshot_eq (s : State) : ∃ l, takeSnapshot s = { s with ctrl := { s.ctrl with log := l } } ∧
    l.lastSnapCmd = s.ctrl.log.lastSnapCmd ∧ (s.ctrl.log.flashFault = false → ∃ w, l.writing = some w ∧
      w.counters = s.ctrl.log.live ∧ w.time = s.now ∧ w.number = s.ctrl.log.snapNext) := by
  refine ⟨s.ctrl.log.snapBegin s.now s.laserStates, rfl, ?_⟩
  cases hf : s.ctrl.log.flashFault with
  | true =>
    rw [Logbook.snapBegin_failed hf]
    exact ⟨rfl, nofun⟩
  | false =>
    obtain ⟨ws, e, hs⟩ := Logbook.snapBegin_eq hf s.now s.laserStates
    rw [hs]
    exact ⟨rfl, fun _ => ⟨_, rfl, rfl, rfl, rfl⟩⟩

end Sys2Proof.Machine

open Sys2Proof.Machine

/-- Settles O28: each register's write is one operation (`execWrAbort_part` and the lemmas after it), and each operation
turns on its bit 0. -/
theorem controlRegisters : Obligations.ControlRegisters := by
  intro s b v hb hw
  obtain ⟨hparts, -⟩ := (State.whole_iff s).1 hw
  refine ⟨fun p hp hg => ⟨_, execWrAbort_part hb hp hg v, ?_, fun hv => ?_, fun hv hpend => ?_⟩,
    fun hg => ⟨_, execWrAbort_frame hb hg v, ?_, fun hv => ?_⟩,
    fun hg => ⟨_, execMtAnchorSet_granted hb hg v, fun hv => setAnchor_off hv s, fun hv => ?_⟩,
    fun hg => ⟨_, execLbSnapCmd_granted hb hg v, ?_⟩⟩
  · exact fun h => abortImage_idle (h.imp_right fun hnone => by simp [State.imagePending, hnone])
  · rw [abortImage_on hv]
    by_cases hpend : (s.part p).pendingImg = none
    · rw [withdrawImage_none (by simp [State.imagePending, hpend])]
      exact ⟨hpend, rfl, rfl, fun _ _ => rfl⟩
    · rw [withdrawImage_part (by omega) hpend, State.modPart_part_same _ _ _ (by omega)]
      exact ⟨rfl, rfl, rfl, fun k hk => State.modPart_part_other _ _ _ _ hk⟩
  · rw [abortImage_on hv, withdrawImage_part (by omega) hpend, State.modPart_part_same _ _ _ (by omega)]
    exact ⟨rfl, rfl⟩
  · exact fun h => abortImage_idle (h.imp_right fun hnone => by simp [State.imagePending, hnone])
  · obtain ⟨c, hc, hnone⟩ := withdrawImage_frame s
    rw [abortImage_on hv, hc]
    exact ⟨hnone, rfl⟩
  · obtain ⟨l, hl⟩ := setAnchor_on hv s
    rw [hl]
    exact ⟨rfl, rfl⟩
  · refine ⟨fun hnot => snapCommand_early hnot, fun hdue => ?_⟩
    obtain ⟨l, hl, hcmd, hwriting⟩ := takeSnapshot_eq (s.modLog fun l => { l with lastSnapCmd := some s.now })
    rw [snapCommand_due hdue, hl]
    exact ⟨rfl, hcmd, hwriting⟩
end

section
/-! PROOF. Records in flight (02 R55, 16 R414): what a command that carries out a record's operation does while the record
cannot go on, and under another image than the one in force. -/

namespace Sys2Proof.Machine

/-! ## Another image in force -/

/-- Another image changes neither whether a partition is present nor what it holds. -/
theorem State.withImage_place (s : State) (p q : Nat) (i : Option JobImage) :
    ((s.withImage p i).part q).present = (s.part q).present ∧ ((s.withImage p i).part q).frame = (s.part q).frame := by
  by_cases e : q = p ∧ p < s.parts.length
  · obtain ⟨rfl, hq⟩ := e
    rw [State.withImage, State.modPart_part_same _ _ _ hq]
    exact ⟨rfl, rfl⟩
  · suffices h : (s.withImage p i).part q = s.part q by rw [h]; exact ⟨rfl, rfl⟩
    by_cases hqp : q = p
    · rw [State.withImage, State.modPart, modAt_past _ _ _ (by omega)]
    · exact State.modPart_part_other _ _ _ _ hqp

theorem State.withImage_partWith (s : State) (p : Nat) (i : Option JobImage) (f : FrameEntry → Bool) :
    (s.withImage p i).partWith f = s.partWith f := by
  unfold State.partWith
  congr 1
  funext q
  obtain ⟨hpresent, hframe⟩ := s.withImage_place p q i
  rw [hpresent, hframe]

@[simp] theorem State.withImage_rec? (s : State) (p : Nat) (i : Option JobImage) (r : RecRef) :
    (s.withImage p i).rec? r = s.rec? r := rfl

@[simp] theorem State.withImage_suspended (s : State) (p : Nat) (i : Option JobImage) (r : RecRef) (x : RecState) :
    (s.withImage p i).suspended r x = s.suspended r x := by
  unfold State.suspended
  cases unitBlock r.die x.record.unit <;> rfl

/-- An image put in force for a while and taken back. -/
theorem State.withImage_back (s : State) (p : Nat) (i : Option JobImage) :
    (s.withImage p i).withImage p (s.part p).active = s := by
  simp only [State.withImage, State.modPart_modPart]
  refine congrArg (fun l => { s with parts := l }) (modAt_same _ _ _ fun a ha => ?_)
  simp [State.part, List.getD_eq_getElem?_getD, ha]

theorem State.withImage_marked (s : State) (p : Nat) (i : Option JobImage) (r : RecRef) :
    (s.withImage p i).marked r = (s.marked r).withImage p i := rfl

/-- The image with which a record started, its partition, and that it is not the one in force. -/
theorem State.oldImage_some {s : State} {r : RecRef} {x : RecState} {p : Nat} {i : JobImage}
    (h : s.oldImage? r x = some (p, i)) : s.partOfCd r.die = some p ∧ x.image = some i := by
  unfold State.oldImage? at h
  split at h
  · next q j hq hj =>
    split at h
    · cases h
    · cases h; exact ⟨hq, hj⟩
  · cases h

/-- Under the image with which it started, a record goes as one of the image in force. -/
theorem State.goes.underOwn {s : State} {r : RecRef} {code : Nat} {x : RecState} {p : Nat} {i : JobImage}
    (h : s.goes r code x) (hi : s.oldImage? r x = some (p, i)) (hp : p < s.parts.length) :
    (s.withImage p (some i)).runs r code x := by
  obtain ⟨hwf, hrec, hphase, hexec, hcode, hsusp⟩ := h
  obtain ⟨hpart, himage⟩ := State.oldImage_some hi
  refine ⟨⟨hwf, hrec, hphase, hexec, hcode, by rw [State.withImage_suspended, hsusp]⟩, ?_⟩
  have hown : (s.withImage p (some i)).partOfCd r.die = some p := (s.withImage_partWith ..).trans hpart
  have hactive : ((s.withImage p (some i)).part p).active = some i := by
    rw [State.withImage, State.modPart_part_same _ _ _ hp]
  simp [State.oldImage?, hown, himage, hactive]

/-! ## What every command of a record obeys -/

/-- While a stop suspends record r, or it does not run or has another opcode, the meaning e changes nothing; and where
another image has been committed since the record started, e does what it does under the record's own. -/
structure ObeysRecord (r : RecRef) (code : Nat) (e : State → Host.Outcome State Fault Refusal) : Prop where
  idle : ∀ {s : State} {x : RecState}, r.wf = true → s.rec? r = some x →
    s.suspended r x = true ∨ x.phase ≠ .running ∨ x.record.opcode ≠ code → e s = .next s
  under : ∀ {s : State} {x : RecState} {p : Nat} {i : JobImage}, p < s.parts.length → s.goes r code x →
    s.oldImage? r x = some (p, i) →
    ∃ t, e (s.withImage p (some i)) = .next t ∧ e s = .next (t.withImage p (s.part p).active)

/-- A record that is suspended, does not run or has another opcode begins nothing. -/
theorem record_held {s : State} {r : RecRef} {x : RecState} {code : Nat}
    (h : s.suspended r x = true ∨ x.phase ≠ .running ∨ x.record.opcode ≠ code) (b : Bool) :
    (x.phase = .running && b && x.record.opcode == code && !s.suspended r x) = false := by
  rcases h with h | h | h <;> simp [h]

theorem runOp_obeys (r : RecRef) (code : Nat) (f : RecState → State → State) : ObeysRecord r code (runOp r code f) where
  idle hwf hrec h := by
    rw [runOp, hrec, hwf, onlyIf_true]
    dsimp only
    rw [record_held h]
    rfl
  under hp hgoes hi :=
    ⟨_, runOp_runs f (hgoes.underOwn hi hp), (runOp_under f hgoes hi).trans (by rw [State.withImage_marked])⟩

theorem runOpWhen_obeys (r : RecRef) (code : Nat) (ready : RecState → State → Bool) (f : RecState → State → State) :
    ObeysRecord r code (runOpWhen r code ready f) where
  idle hwf hrec h := by
    rw [runOpWhen, hrec]
    dsimp only
    split
    · exact (runOp_obeys r code f).idle hwf hrec h
    · rw [hwf, onlyIf_true]
  under {s x p i} hp hgoes hi := by
    have hown := hgoes.underOwn hi hp
    obtain ⟨hwf, hrec, -⟩ := id hgoes
    have hseen : s.seenBy r x = s.withImage p (some i) := by simp [State.seenBy, hi]
    cases hready : ready x (s.withImage p (some i)) with
    | true =>
      refine ⟨_, runOpWhen_ready f hown hready, ?_⟩
      rw [runOpWhen, hrec]
      dsimp only
      rw [hseen, hready, if_pos rfl, runOp_under f hgoes hi, State.withImage_marked]
    | false =>
      refine ⟨_, runOpWhen_waits f hown hready, ?_⟩
      rw [State.withImage_back, runOpWhen, hrec]
      dsimp only
      rw [hseen, hready, hwf, if_neg Bool.false_ne_true, onlyIf_true]

/-- A change that leaves partition p alone is the same under another image. -/
theorem underOwn_same {e : State → Host.Outcome State Fault Refusal} {s u : State} {p : Nat} {i : JobImage}
    (hown : e (s.withImage p (some i)) = .next (u.withImage p (some i))) (hs : e s = .next u) (hu : u.part p = s.part p) :
    ∃ t, e (s.withImage p (some i)) = .next t ∧ e s = .next (t.withImage p (s.part p).active) :=
  ⟨_, hown, by rw [hs, ← hu, State.withImage_back]⟩

theorem execWaitin_obeys (r : RecRef) : ObeysRecord r 0x0601 (execWaitin r) where
  idle {s x} hwf hrec h := by
    have hheld := record_held h true
    rw [Bool.and_true] at hheld
    rw [execWaitin, hrec]
    dsimp only
    split
    · exact (runOp_obeys r 0x0601 (waitRun r)).idle hwf hrec h
    · rw [hheld, hwf]
      rfl
  under {s x p i} hp hgoes hi := by
    obtain ⟨hwf, hrec, hphase, -, hcode, hsusp⟩ := id hgoes
    have hrec' : (s.withImage p (some i)).rec? r = some x := hrec
    by_cases hc : (x.w 1).toNat ≤ waitCount r x s
    · have hc' : (x.w 1).toNat ≤ waitCount r x (s.withImage p (some i)) := hc
      simp only [execWaitin, hrec, hrec', hc, hc', if_true]
      exact (runOp_obeys r 0x0601 (waitRun r)).under hp hgoes hi
    · have hc' : ¬ (x.w 1).toNat ≤ waitCount r x (s.withImage p (some i)) := hc
      refine underOwn_same (u := touchChan r x s) ?_ ?_ rfl
      · simp [execWaitin, hrec, hc', hphase, hcode, hsusp, hwf, onlyIf_true]
        rfl
      · simp [execWaitin, hrec, hc, hphase, hcode, hsusp, hwf, onlyIf_true]

theorem execUpdate_obeys (r : RecRef) : ObeysRecord r 0x0A02 (execUpdate r) where
  idle {s x} hwf hrec h := by
    rw [execUpdate, hrec, hwf, onlyIf_true]
    dsimp only
    rw [record_held h]
    rfl
  under {s x p i} hp hgoes hi := by
    obtain ⟨hwf, hrec, hphase, -, hcode, hsusp⟩ := id hgoes
    cases hb : x.begun with
    | true =>
      refine underOwn_same (u := s) ?_ ?_ rfl <;> simp [execUpdate, hrec, hwf, onlyIf_true, hb]
    | false =>
      refine underOwn_same (u := s.modRec r fun y => { y with begun := true, executed := x.count = 0 }) ?_ ?_ rfl
      · simp only [execUpdate, State.withImage_rec?, State.withImage_suspended, hrec, hwf, onlyIf_true, hphase, hb, hcode, hsusp]
        rfl
      · simp [execUpdate, hrec, hwf, onlyIf_true, hphase, hb, hcode, hsusp]

/-- Every command that carries out or begins a record's operation. -/
theorem exec_obeys {c : Instr} {r : RecRef} {code : Nat} (h : opRecord c = some (r, code)) : ObeysRecord r code (exec c) := by
  cases c <;> cases h
  case put => exact runOpWhen_obeys ..
  case ringag => exact runOpWhen_obeys ..
  case ufold => exact runOpWhen_obeys ..
  case load => exact runOpWhen_obeys ..
  case store => exact runOpWhen_obeys ..
  case gather => exact runOpWhen_obeys ..
  case waitin => exact execWaitin_obeys ..
  case update => exact execUpdate_obeys ..
  all_goals exact runOp_obeys ..

end Sys2Proof.Machine

open Sys2Proof.Machine

/-- Settles O13: every command of the list obeys its record (`exec_obeys`). A STEPWORD begins only while no stop suspends
it. -/
theorem recordOperations : Obligations.RecordOperations := by
  intro s r x hwf hrec
  refine ⟨fun hsusp => ?_, fun c code hc => ⟨(exec_obeys hc).idle hwf hrec, fun p i hp hw hgoes hi => ?_⟩⟩
  · simp [exec, execStepword, hwf, hrec, hsusp, onlyIf_true]
  · obtain ⟨hparts, -⟩ := (State.whole_iff s).1 hw
    exact (exec_obeys hc).under (by omega) hgoes hi
end

section
/-! PROOF. O59 fails: it asks of a served region that its lines lie in usable lines of orderly hubs, and not that two
of its lines lie apart. In a partition whose frame names no stack the blocks of an interleaved region fall together,
so a write at byte 0 changes byte 4096 too, which the statement says stays. -/

namespace Sys2Proof.Machine
/-- A region of 64 KiB interleaved over its partition's stacks. -/
def interleaved64K : Region :=
  { base := 0, length := 65536, cls := 5, placement := 0, stack := 0, mode := 0, contributions := 0, source := 0 }

/-- An image with that region alone. -/
def interleavedImage : JobImage :=
  { epoch := 0, digest := [], commitTick := 0, regions := [interleaved64K], mapout := []
    upd := { rule := 0, beta1 := 0, beta2 := 0, epsilon := 0, decay := 0, bf16Copies := false, entries := [] }
    alloc := [], peers := [], rings := [], cadence := {}, policy := {}, service := {}, sections := [] }

/-- A partition hosted at B0 under that image, with every sound die and no stack. -/
def stackless : Part := { present := true, frame := { cdCount := 16, hostPort := 0 }, active := some interleavedImage }

/-- A write of one byte, 1, at the start of the region. -/
def writeOfOne : Block :=
  { kind := 0x03, more := false, seq := 0, tag := 0, payload := leBytes 8 0 ++ leBytes 4 1 ++ leBytes 4 0 ++ [1] }

/-- A ready module of that partition, with the write waiting at B0. -/
def stacklessAsked : State :=
  { ctrl := { module := { state := 5 } }
    parts := [stackless, {}, {}, {}]
    baith := [{ inbound := [writeOfOne] }, {}, {}, {}] }

theorem stacklessAsked_part : stacklessAsked.part 0 = stackless := rfl

theorem stackless_region : stackless.region? 0 = some interleaved64K := rfl

theorem stackless_elemWidth : elemWidth interleavedImage stackless.stream 0 = 1 := rfl

theorem stackless_stacks : stackless.frame.stacks = [] := rfl

theorem stackless_shareBase : shareBase interleavedImage.regions 0 0 = 0 := rfl

/-- Every block of the region lies in the first bytes of stack 0. -/
theorem stackless_place (o : Nat) :
    stackless.place? 0 o = if 65536 ≤ o then none else some (0, o % 4096) := by
  have hact : stackless.active = some interleavedImage := rfl
  have hlen : interleaved64K.length = 65536 := rfl
  have hpl : (interleaved64K.placement == 1) = false := rfl
  simp only [Part.place?, hact, stackless_region, stackless_stacks, stackless_elemWidth, List.length_nil,
    stackless_shareBase, hlen, hpl]
  simp

/-- Two bytes at one place are one byte. -/
theorem regionByte_of_place {s : State} {p g o k : Nat}
    (hp : (s.part p).place? g (64 * (o / 64)) = (s.part p).place? g (64 * (k / 64))) (hm : o % 64 = k % 64) : s.regionByte p g o = s.regionByte p g k := by
  simp only [State.regionByte, hp, hm]

theorem stackless_byte_repeats {s : State} (hs : s.part 0 = stackless) : s.regionByte 0 0 4096 = s.regionByte 0 0 0 :=
  regionByte_of_place (by rw [hs, stackless_place, stackless_place]; rfl) rfl

theorem stacklessAsked_served : stacklessAsked.served 0 0 := by
  intro o h loc hplace
  rw [stacklessAsked_part, stackless_place] at hplace
  split at hplace
  · exact absurd hplace (by simp)
  · obtain ⟨rfl, rfl⟩ : 0 = h ∧ 64 * o % 4096 = loc := by simpa using hplace
    have hub : stacklessAsked.hub 0 = {} := rfl
    have usable : 4096 ≤ usableBytes ({} : Hub).mem.chanUse := by decide +kernel
    rw [hub]
    exact ⟨by decide, by decide +kernel, Hub.orderly_fresh {} rfl rfl rfl rfl rfl, by omega⟩

/-- Nothing is written in the region yet. -/
theorem stacklessAsked_byte_zero : stacklessAsked.regionByte 0 0 0 = 0 := by decide +kernel

end Sys2Proof.Machine

open Sys2Proof.Machine in
/-- Refutes O59: a write of the byte 1 at byte 0 of a served region whose frame names no stack writes byte 4096 too,
for both lie at byte 0 of stack 0. -/
theorem not_hostRequests : ¬ Obligations.HostRequests := by
  intro holds
  obtain ⟨-, serves⟩ := holds stacklessAsked 0 (by decide +kernel) (by decide +kernel) (by decide)
  obtain ⟨writes, -⟩ := serves writeOfOne
  have asks : stacklessAsked.asks 0 (fun y => y.kind == 0x03) writeOfOne :=
    ⟨by decide, rfl, by decide +kernel, by decide +kernel⟩
  obtain ⟨-, stores⟩ := writes asks
  obtain ⟨t, -, -, parts, -, -, stored, same, -⟩ :=
    stores 0 0 (by decide +kernel) stacklessAsked_served (by decide +kernel)
  have ht : t.part 0 = stackless := by rw [parts]; rfl
  have h0 : t.regionByte 0 0 0 = 1 := stored 0 (by decide)
  have h4096 : t.regionByte 0 0 4096 = stacklessAsked.regionByte 0 0 4096 :=
    same 4096 (by intro q hq; obtain rfl := List.mem_singleton.mp hq; exact .inr (by decide))
  rw [stackless_byte_repeats ht, stackless_byte_repeats stacklessAsked_part, h0, stacklessAsked_byte_zero] at h4096
  exact absurd h4096 (by decide)

end

section
/-! PROOF. What a tick boundary keeps (03 R73, R82), in six views of the state, each of which drops more of it than the one
before: `units`, with every die and hub whole; `cores`, with what dies hold and do; `inStep`, with what a step began
with; `lasting`, without the streams; `images`, without the hubs and ticks; and `framed`, with no more of a partition than
its frame. `X_units` says that `X` leaves the first of them, and so every other; `X_cores`, `X_inStep` and so on likewise. -/

namespace Sys2Proof.Machine

/-! ## The views -/

/-- Of a partition: its frame entry, its images and their loader, the number of its tick, and its stream's step. -/
def Part.steady (q : Part) : Part :=
  { present := q.present, frame := q.frame, loader := q.loader, pendingImg := q.pendingImg, active := q.active
    disc := { tick := q.disc.tick }
    stream := { state := q.stream.state, step := q.stream.step, queued := q.stream.queued
                stepStart := q.stream.stepStart, stepTicks := q.stream.stepTicks } }

/-- Of a hub: its stack, its cached lines and its capacity. -/
def Hub.steady (h : Hub) : Hub :=
  { mem := { stack := h.mem.stack, cache := h.mem.cache, chanUse := h.mem.chanUse, usable := h.mem.usable } }

/-- Of the control die: module time, the dies that have been cut out, and the frame's image and loader. -/
def Ctrl.steady (c : Ctrl) : Ctrl :=
  { clock := { time := c.clock.time }, module := { cutCd := c.module.cutCd }
    frameLoader := c.frameLoader, pendingFrame := c.pendingFrame }

/-- The compute dies, hubs and update dies as they are, the waiting commands, and what is steady of the rest. -/
def State.units (s : State) : State :=
  { pending := s.pending, ctrl := s.ctrl.steady, parts := s.parts.map Part.steady
    cds := s.cds, hubs := s.hubs, uds := s.uds, baith := [], les := [], ports := [] }

/-- A die without its power. -/
def Cd.core (c : Cd) : Cd := { seq := c.seq, eng := c.eng, scratch := c.scratch }

/-- The dies without their power, and what is steady of the hubs. -/
def State.cores (s : State) : State := { s with cds := s.cds.map Cd.core, hubs := s.hubs.map Hub.steady, uds := [] }

/-- Of a die: its scratchpad, its events and s-registers, its tiles and its Pepper generator. -/
def Cd.inStep (c : Cd) : Cd :=
  { seq := { ev := c.seq.ev, sregs := c.seq.sregs }
    eng := { mxe := c.eng.mxe.map fun m => { tiles := m.tiles }, pepper := c.eng.pepper }
    scratch := c.scratch }

/-- Of the dies what a step began with. -/
def State.inStep (s : State) : State := { s with cds := s.cds.map Cd.inStep }

/-- A die's scratchpad. -/
def Cd.padOnly (c : Cd) : Cd := { scratch := c.scratch }

def Part.noStream (q : Part) : Part := { q with stream := {} }
def Part.noTick (q : Part) : Part := { q with disc := {} }
def Part.frameOnly (q : Part) : Part := { present := q.present, frame := q.frame }

/-- Of the dies their scratchpads, and no streams. -/
def State.lasting (s : State) : State := { s with cds := s.cds.map Cd.padOnly, parts := s.parts.map Part.noStream }

/-- Without the hubs and the ticks. -/
def State.images (s : State) : State := { s with parts := s.parts.map Part.noTick, hubs := [] }

/-- Of a partition its frame alone. -/
def State.framed (s : State) : State := { s with parts := s.parts.map Part.frameOnly }

/-! ## Either branch, and each of many -/

@[simp] theorem State.ite_units (c : Prop) [Decidable c] (s t : State) :
    (if c then s else t).units = if c then s.units else t.units := apply_ite ..
@[simp] theorem State.ite_cores (c : Prop) [Decidable c] (s t : State) :
    (if c then s else t).cores = if c then s.cores else t.cores := apply_ite ..
@[simp] theorem State.ite_inStep (c : Prop) [Decidable c] (s t : State) :
    (if c then s else t).inStep = if c then s.inStep else t.inStep := apply_ite ..
@[simp] theorem State.ite_lasting (c : Prop) [Decidable c] (s t : State) :
    (if c then s else t).lasting = if c then s.lasting else t.lasting := apply_ite ..
@[simp] theorem State.ite_images (c : Prop) [Decidable c] (s t : State) :
    (if c then s else t).images = if c then s.images else t.images := apply_ite ..
@[simp] theorem State.ite_framed (c : Prop) [Decidable c] (s t : State) :
    (if c then s else t).framed = if c then s.framed else t.framed := apply_ite ..

/-- What holds at first and after each step of a walk holds at its end. -/
theorem forAll_holds {α : Type} (P : State → Prop) (l : List α) {f : α → State → State}
    (hf : ∀ a ∈ l, ∀ t, P t → P (f a t)) {s : State} (hs : P s) : P (forAll l f s) := by
  unfold forAll
  induction l generalizing s with
  | nil => exact hs
  | cons a l ih => exact ih (fun b hb => hf b (List.mem_cons_of_mem a hb)) (hf a List.mem_cons_self s hs)

/-- What one step of a walk brings about and every step leaves holds at its end. -/
theorem forAll_brings {α : Type} {W P : State → Prop} {l : List α} {f : α → State → State} {a : α} (ha : a ∈ l)
    (hw : ∀ b t, W t → W (f b t)) (hset : ∀ t, W t → P (f a t)) (hkeep : ∀ b t, W t → P t → P (f b t))
    {s : State} (hs : W s) : P (forAll l f s) := by
  induction l generalizing s with
  | nil => cases ha
  | cons b l ih =>
    rcases List.mem_cons.mp ha with rfl | hl
    · exact (forAll_holds (fun t => W t ∧ P t) l (fun c _ t ht => ⟨hw c t ht.1, hkeep c t ht.1 ht.2⟩)
        ⟨hw a s hs, hset s hs⟩).2
    · exact ih hl (hw b s hs)

/-- What every step of a walk keeps, the walk keeps. -/
theorem forAll_keeps {α β : Type} (v : State → β) (l : List α) {f : α → State → State}
    (hf : ∀ a t, v (f a t) = v t) (s : State) : v (forAll l f s) = v s :=
  forAll_holds (fun t => v t = v s) l (fun a _ t ht => (hf a t).trans ht) rfl

section
variable {α : Type} (l : List α) {f : α → State → State}

@[simp] theorem forAll_units (hf : ∀ a t, (f a t).units = t.units) (s : State) : (forAll l f s).units = s.units :=
  forAll_keeps State.units l hf s
@[simp] theorem forAll_cores (hf : ∀ a t, (f a t).units.cores = t.units.cores) (s : State) :
    (forAll l f s).units.cores = s.units.cores := forAll_keeps (·.units.cores) l hf s
@[simp] theorem forAll_inStep (hf : ∀ a t, (f a t).units.cores.inStep = t.units.cores.inStep) (s : State) :
    (forAll l f s).units.cores.inStep = s.units.cores.inStep :=
  forAll_keeps (·.units.cores.inStep) l hf s
@[simp] theorem forAll_lasting (hf : ∀ a t, (f a t).units.cores.inStep.lasting = t.units.cores.inStep.lasting)
    (s : State) : (forAll l f s).units.cores.inStep.lasting = s.units.cores.inStep.lasting :=
  forAll_keeps (·.units.cores.inStep.lasting) l hf s
@[simp] theorem forAll_images
    (hf : ∀ a t, (f a t).units.cores.inStep.lasting.images = t.units.cores.inStep.lasting.images) (s : State) :
    (forAll l f s).units.cores.inStep.lasting.images = s.units.cores.inStep.lasting.images :=
  forAll_keeps (·.units.cores.inStep.lasting.images) l hf s
@[simp] theorem forAll_framed
    (hf : ∀ a t, (f a t).units.cores.inStep.lasting.images.framed = t.units.cores.inStep.lasting.images.framed)
    (s : State) :
    (forAll l f s).units.cores.inStep.lasting.images.framed = s.units.cores.inStep.lasting.images.framed :=
  forAll_keeps (·.units.cores.inStep.lasting.images.framed) l hf s

end

@[simp] theorem modAt_map_eq {α β : Type} (l : List α) (i : Nat) {f : α → α} {g : α → β} (hf : ∀ a, g (f a) = g a) :
    (modAt l i f).map g = l.map g := map_modAt l i f g fun a _ => hf a

/-! ## One unit changed -/

section
variable (s : State)

@[simp] theorem State.modPort_units (n : Nat) (f : Port → Port) : (s.modPort n f).units = s.units := (rfl)
@[simp] theorem State.modLe_units (m : Nat) (f : Le → Le) : (s.modLe m f).units = s.units := (rfl)
@[simp] theorem State.modBp_units (b : Nat) (f : Baith → Baith) : (s.modBp b f).units = s.units := (rfl)
@[simp] theorem State.drawn_units : s.drawn.units = s.units := (rfl)

@[simp] theorem State.modCtrl_units {f : Ctrl → Ctrl} (ht : ∀ c, (f c).clock.time = c.clock.time)
    (hc : ∀ c, (f c).module.cutCd = c.module.cutCd) (hl : ∀ c, (f c).frameLoader = c.frameLoader)
    (hp : ∀ c, (f c).pendingFrame = c.pendingFrame) : (s.modCtrl f).units = s.units := by
  have h : ∀ c, (f c).steady = c.steady := fun c => by simp only [Ctrl.steady, *]
  simp [State.units, h]

theorem State.modPart_units_of (p : Nat) {f : Part → Part} (h : ∀ q, (f q).steady = q.steady) :
    (s.modPart p f).units = s.units := by simp [State.units, h]

@[simp] theorem State.modPart_units (p : Nat) {f : Part → Part} (hp : ∀ q, (f q).present = q.present)
    (hf : ∀ q, (f q).frame = q.frame) (hl : ∀ q, (f q).loader = q.loader)
    (hi : ∀ q, (f q).pendingImg = q.pendingImg) (ha : ∀ q, (f q).active = q.active)
    (ht : ∀ q, (f q).disc.tick = q.disc.tick) (hs : ∀ q, (f q).stream.state = q.stream.state)
    (hn : ∀ q, (f q).stream.step = q.stream.step) (hq : ∀ q, (f q).stream.queued = q.stream.queued)
    (hb : ∀ q, (f q).stream.stepStart = q.stream.stepStart)
    (hk : ∀ q, (f q).stream.stepTicks = q.stream.stepTicks) : (s.modPart p f).units = s.units :=
  s.modPart_units_of p fun q => by simp only [Part.steady, *]

@[simp] theorem State.modUd_cores (u : Nat) (f : Ud → Ud) : (s.modUd u f).units.cores = s.units.cores := (rfl)

@[simp] theorem State.modHub_cores (h : Nat) {f : Hub → Hub} (hs : ∀ b, (f b).mem.stack = b.mem.stack)
    (hc : ∀ b, (f b).mem.cache = b.mem.cache) (hu : ∀ b, (f b).mem.chanUse = b.mem.chanUse)
    (hn : ∀ b, (f b).mem.usable = b.mem.usable) : (s.modHub h f).units.cores = s.units.cores := by
  have h : ∀ b, (f b).steady = b.steady := fun b => by simp only [Hub.steady, *]
  simp [State.units, State.cores, h]

@[simp] theorem State.modCd_cores (d : Nat) {f : Cd → Cd} (hs : ∀ c, (f c).seq = c.seq) (he : ∀ c, (f c).eng = c.eng)
    (hp : ∀ c, (f c).scratch = c.scratch) : (s.modCd d f).units.cores = s.units.cores := by
  simp [State.units, State.cores, Cd.core, *]

@[simp] theorem State.modCd_inStep (d : Nat) {f : Cd → Cd} (he : ∀ c, (f c).seq.ev = c.seq.ev)
    (hr : ∀ c, (f c).seq.sregs = c.seq.sregs)
    (hm : ∀ c, (f c).eng.mxe.map (fun m => m.tiles) = c.eng.mxe.map fun m => m.tiles)
    (hg : ∀ c, (f c).eng.pepper = c.eng.pepper) (hp : ∀ c, (f c).scratch = c.scratch) :
    (s.modCd d f).units.cores.inStep = s.units.cores.inStep := by
  have h : ∀ c, (f c).inStep = c.inStep := fun c => by
    have ht := congrArg (List.map fun t => ({ tiles := t } : Mxe)) (hm c)
    simp only [List.map_map, Function.comp_def] at ht
    simp only [Cd.inStep, ht, he, hr, hg, hp]
  have hc : ∀ l : List Cd, (l.map Cd.core).map Cd.inStep = l.map Cd.inStep := fun l => List.map_map
  simp only [State.units, State.cores, State.inStep, State.modCd_cds, hc, modAt_map_eq _ _ h]
  rfl

@[simp] theorem State.modCd_lasting (d : Nat) {f : Cd → Cd} (hp : ∀ c, (f c).scratch = c.scratch) :
    (s.modCd d f).units.cores.inStep.lasting = s.units.cores.inStep.lasting := by
  simp [State.units, State.cores, State.inStep, State.lasting, Cd.core, Cd.inStep, Cd.padOnly, Function.comp_def, *]

@[simp] theorem State.modPart_lasting (p : Nat) {f : Part → Part} (hp : ∀ q, (f q).present = q.present)
    (hf : ∀ q, (f q).frame = q.frame) (hl : ∀ q, (f q).loader = q.loader)
    (hi : ∀ q, (f q).pendingImg = q.pendingImg) (ha : ∀ q, (f q).active = q.active)
    (ht : ∀ q, (f q).disc.tick = q.disc.tick) :
    (s.modPart p f).units.cores.inStep.lasting = s.units.cores.inStep.lasting := by
  simp [State.units, State.cores, State.inStep, State.lasting, Part.steady, Part.noStream, Function.comp_def, *]

@[simp] theorem State.modPart_images (p : Nat) {f : Part → Part} (hp : ∀ q, (f q).present = q.present)
    (hf : ∀ q, (f q).frame = q.frame) (hl : ∀ q, (f q).loader = q.loader)
    (hi : ∀ q, (f q).pendingImg = q.pendingImg) (ha : ∀ q, (f q).active = q.active) :
    (s.modPart p f).units.cores.inStep.lasting.images = s.units.cores.inStep.lasting.images := by
  simp [State.units, State.cores, State.inStep, State.lasting, State.images, Part.steady, Part.noStream, Part.noTick,
    Function.comp_def, *]

@[simp] theorem State.modHub_images (h : Nat) (f : Hub → Hub) :
    (s.modHub h f).units.cores.inStep.lasting.images = s.units.cores.inStep.lasting.images := by
  simp [State.units, State.cores, State.inStep, State.lasting, State.images]

@[simp] theorem State.modPart_framed (p : Nat) {f : Part → Part} (hp : ∀ q, (f q).present = q.present)
    (hf : ∀ q, (f q).frame = q.frame) :
    (s.modPart p f).units.cores.inStep.lasting.images.framed = s.units.cores.inStep.lasting.images.framed := by
  simp [State.units, State.cores, State.inStep, State.lasting, State.images, State.framed, Part.steady,
    Part.noStream, Part.noTick, Part.frameOnly, Function.comp_def, *]

@[simp] theorem State.modBlk_cores (b : BlockRef) (f : PwrBlock → PwrBlock) :
    (s.modBlk b f).units.cores = s.units.cores := by cases b <;> simp [State.modBlk]

@[simp] theorem State.modRec_inStep (r : RecRef) (f : RecState → RecState) :
    (s.modRec r f).units.cores.inStep = s.units.cores.inStep := by simp [State.modRec, Seq.modStep]

end

/-! ## What operations keep of the units -/

@[simp] theorem logEvent_units (kind site part : Nat) (payload : List Byte) (s : State) :
    (logEvent kind site part payload s).units = s.units := by simp [logEvent]
@[simp] theorem telem_units (p : Nat) (t : Telem) (s : State) : (telem p t s).units = s.units := by simp [telem]

@[simp] theorem telemTo_units (p : Option Nat) (t : Telem) (s : State) : (telemTo p t s).units = s.units := by
  unfold telemTo
  split <;> simp

@[simp] theorem countSeconds_units (n : Nat) (s : State) : (countSeconds n s).units = s.units := by
  simp [countSeconds]

@[simp] theorem holdover_units (p : Nat) (s : State) : (holdover p s).units = s.units := by
  simp [holdover, Discipline.rebase]

@[simp] theorem holdoverOn_units (n : Nat) (s : State) : (holdoverOn n s).units = s.units := by
  unfold holdoverOn
  split <;> simp

@[simp] theorem reacquireOn_units (n : Nat) (s : State) : (reacquireOn n s).units = s.units := by
  unfold reacquireOn
  split <;> simp [Discipline.rebase]

@[simp] theorem miswiredOut_units (p m : Nat) (s : State) : (miswiredOut p m s).units = s.units := by
  simp [miswiredOut]
@[simp] theorem peerAlert_units (p n old new : Nat) (s : State) : (peerAlert p n old new s).units = s.units := by
  simp [peerAlert]

@[simp] theorem decidePeer_units (n : Nat) (s : State) : (decidePeer n s).units = s.units := by
  unfold decidePeer
  split <;> simp

@[simp] theorem forgetShift_units (n : Nat) (s : State) : (forgetShift n s).units = s.units := by simp [forgetShift]

@[simp] theorem dropRequest_units (m : OutMsg) (s : State) : (dropRequest m s).units = s.units := by
  unfold dropRequest
  split <;> simp

@[simp] theorem unbindAll_units (n : Nat) (s : State) : (unbindAll n s).units = s.units := by
  unfold unbindAll
  split <;> simp

@[simp] theorem downPort_units (n cause : Nat) (s : State) : (downPort n cause s).units = s.units := by
  simp [downPort]
@[simp] theorem darkPort_units (n cause : Nat) (s : State) : (darkPort n cause s).units = s.units := by
  simp [darkPort]
@[simp] theorem resetPort_units (n : Nat) (s : State) : (resetPort n s).units = s.units := by simp [resetPort]

@[simp] theorem State.modGather_units (s : State) (p step : Nat) (f : Gather → Gather) :
    (s.modGather p step f).units = s.units := by
  refine s.modPart_units_of p fun q => ?_
  unfold Part.modGather
  split <;> rfl

@[simp] theorem beginGather_units (p : Nat) (g : SegmentImg) (s : State) : (beginGather p g s).units = s.units := by
  simp only [beginGather]
  split <;> simp

@[simp] theorem countWait_units (p n : Nat) (s : State) : (countWait p n s).units = s.units := by simp [countWait]
@[simp] theorem publishArb_units (n : Nat) (s : State) : (publishArb n s).units = s.units := by simp [publishArb]

@[simp] theorem takeForecast_units (d f : Nat) (s : State) : (takeForecast d f s).units = s.units := by
  unfold takeForecast
  split <;> simp

@[simp] theorem feedForward_units (d : Nat) (s : State) : (feedForward d s).units = s.units := by
  unfold feedForward
  split <;> simp

/-! ## What operations keep of the cores -/

@[simp] theorem requestWake_cores (b : BlockRef) (cls : Nat) (s : State) :
    (requestWake b cls s).units.cores = s.units.cores := by simp [requestWake]

@[simp] theorem wakePoints_cores (p : Nat) (s : State) : (wakePoints p s).units.cores = s.units.cores := by
  refine forAll_cores _ (fun b t => ?_) s
  dsimp only
  split
  · split
    · split <;> simp
    · rfl
  · rfl

@[simp] theorem clearShares_cores (s : State) : (clearShares s).units.cores = s.units.cores := by
  simp [clearShares, State.units, State.cores, Cd.core, Hub.steady, Function.comp_def]
@[simp] theorem setShares_cores (p : Nat) (s : State) : (setShares p s).units.cores = s.units.cores := by
  simp [setShares]
@[simp] theorem publishHead_cores (b : BlockRef) (s : State) : (publishHead b s).units.cores = s.units.cores := by
  simp [publishHead]
@[simp] theorem publishHeads_cores (p : Nat) (s : State) : (publishHeads p s).units.cores = s.units.cores := by
  simp [publishHeads]
@[simp] theorem publishPwr_cores (b : BlockRef) (s : State) : (publishPwr b s).units.cores = s.units.cores := by
  simp [publishPwr]
@[simp] theorem publishBrz_cores (h : Nat) (s : State) : (publishBrz h s).units.cores = s.units.cores := by
  simp [publishBrz]
@[simp] theorem publishUd_cores (u : Nat) (s : State) : (publishUd u s).units.cores = s.units.cores := by
  simp [publishUd]
@[simp] theorem publishTick_cores (p : Nat) (s : State) : (publishTick p s).units.cores = s.units.cores := by
  simp [publishTick]
@[simp] theorem hubTiming_cores (h : Nat) (s : State) : (hubTiming h s).units.cores = s.units.cores := by
  simp [hubTiming]
@[simp] theorem sendForecast_cores (p n d : Nat) (s : State) : (sendForecast p n d s).units.cores = s.units.cores := by
  simp [sendForecast]
@[simp] theorem commitPwr_cores (y : Policy) (lull : Bool) (b : BlockRef) (s : State) :
    (commitPwr y lull b s).units.cores = s.units.cores := by simp [commitPwr]

/-! ## What operations keep of the step -/

@[simp] theorem publishStep_inStep (p step : Nat) (s : State) :
    (publishStep p step s).units.cores.inStep = s.units.cores.inStep := by simp [publishStep]
@[simp] theorem slipDie_inStep (p n d : Nat) (s : State) :
    (slipDie p n d s).units.cores.inStep = s.units.cores.inStep := by
  simp [slipDie, apply_ite Seq.sregs, apply_ite Seq.ev]

@[simp] theorem becalmAt_inStep (p n : Nat) (r : RecRef) (x : RecState) (s : State) :
    (becalmAt p n r x s).units.cores.inStep = s.units.cores.inStep := by
  unfold becalmAt
  split <;> simp

@[simp] theorem stallCounts_inStep (p n : Nat) (s : State) :
    (stallCounts p n s).units.cores.inStep = s.units.cores.inStep := by simp [stallCounts]
@[simp] theorem pickChoices_inStep (n d : Nat) (s : State) :
    (pickChoices n d s).units.cores.inStep = s.units.cores.inStep := by simp [pickChoices]
@[simp] theorem dieTiming_inStep (d : Nat) (s : State) :
    (dieTiming d s).units.cores.inStep = s.units.cores.inStep := by simp [dieTiming]
@[simp] theorem stopStarts_inStep (p : Nat) (s : State) :
    (stopStarts p s).units.cores.inStep = s.units.cores.inStep := by simp [stopStarts]
@[simp] theorem commitFennel_inStep (k d : Nat) (s : State) :
    (commitFennel k d s).units.cores.inStep = s.units.cores.inStep := by simp [commitFennel, Function.comp_def]

/-! ## What operations keep of what lasts -/

@[simp] theorem dropQueued_lasting (p : Nat) (s : State) :
    (dropQueued p s).units.cores.inStep.lasting = s.units.cores.inStep.lasting := by
  have h := forAll_lasting (s.part p).stream.queued
    (f := fun g => forAll g.dies fun e v => v.modSeq e.die fun q => { q with free := q.free + e.records.length })
    (fun g t => by simp) s
  simpa [dropQueued] using h
@[simp] theorem closeStream_lasting (p state : Nat) (s : State) :
    (closeStream p state s).units.cores.inStep.lasting = s.units.cores.inStep.lasting := by simp [closeStream]
@[simp] theorem endIfDone_lasting (p : Nat) (s : State) :
    (endIfDone p s).units.cores.inStep.lasting = s.units.cores.inStep.lasting := by simp [endIfDone]
@[simp] theorem retireSteps_lasting (p d : Nat) (s : State) :
    (retireSteps p d s).units.cores.inStep.lasting = s.units.cores.inStep.lasting := by simp [retireSteps]
@[simp] theorem abortNow_lasting (p : Nat) (s : State) :
    (abortNow p s).units.cores.inStep.lasting = s.units.cores.inStep.lasting := by simp [abortNow]
@[simp] theorem endSteps_lasting (p n : Nat) (s : State) :
    (endSteps p n s).units.cores.inStep.lasting = s.units.cores.inStep.lasting := by simp [endSteps]
@[simp] theorem openDie_lasting (d : Nat) (s : State) :
    (openDie d s).units.cores.inStep.lasting = s.units.cores.inStep.lasting := by simp [openDie]
@[simp] theorem beginDie_lasting (g : SegmentImg) (n d : Nat) (s : State) :
    (beginDie g n d s).units.cores.inStep.lasting = s.units.cores.inStep.lasting := by simp [beginDie]
@[simp] theorem beginStep_lasting (p n : Nat) (g : SegmentImg) (s : State) :
    (beginStep p n g s).units.cores.inStep.lasting = s.units.cores.inStep.lasting := by simp [beginStep]

end Sys2Proof.Machine
end

section
/-! PROOF. A tick boundary in its three parts (02 R54, 03 R82): the commit that is due, the stream's step, and what follows;
what each keeps, and what a step that begins leaves on its dies. -/

namespace Sys2Proof.Machine

/-! ## Read from the views -/

theorem getD_map_default {α : Type} {f : α → α} {a : α} (hf : f a = a) (l : List α) (n : Nat) :
    (l.map f).getD n a = f (l.getD n a) := by
  have h := List.getD_map l a (n := n) f
  rwa [hf] at h

section
variable (s : State)

theorem State.part_units (p : Nat) : s.units.part p = (s.part p).steady :=
  getD_map_default (f := Part.steady) (a := {}) rfl s.parts p

theorem State.hub_cores (h : Nat) : s.units.cores.hub h = (s.hub h).steady :=
  getD_map_default (f := Hub.steady) (a := {}) rfl s.hubs h

theorem State.cd_cores (d : Nat) : s.units.cores.cd d = (s.cd d).core :=
  getD_map_default (f := Cd.core) (a := {}) rfl s.cds d

theorem State.cd_inStep (d : Nat) : s.units.cores.inStep.cd d = (s.cd d).inStep :=
  (getD_map_default (f := Cd.inStep) (a := {}) rfl s.units.cores.cds d).trans (congrArg Cd.inStep (s.cd_cores d) :)

theorem State.cd_lasting (d : Nat) : s.units.cores.inStep.lasting.cd d = (s.cd d).padOnly :=
  (getD_map_default (f := Cd.padOnly) (a := {}) rfl s.units.cores.inStep.cds d).trans
    (congrArg Cd.padOnly (s.cd_inStep d) :)

theorem State.part_lasting (p : Nat) : s.units.cores.inStep.lasting.part p = (s.part p).steady.noStream :=
  (getD_map_default (f := Part.noStream) (a := {}) rfl s.units.parts p).trans
    (congrArg Part.noStream (s.part_units p) :)

theorem State.part_images (p : Nat) :
    s.units.cores.inStep.lasting.images.part p = (s.part p).steady.noStream.noTick :=
  (getD_map_default (f := Part.noTick) (a := {}) rfl s.units.cores.inStep.lasting.parts p).trans
    (congrArg Part.noTick (s.part_lasting p) :)

theorem State.part_framed (p : Nat) :
    s.units.cores.inStep.lasting.images.framed.part p = (s.part p).frameOnly :=
  (getD_map_default (f := Part.frameOnly) (a := {}) rfl s.units.cores.inStep.lasting.images.parts p).trans
    (congrArg Part.frameOnly (s.part_images p) :)

end

/-! ## Units that agree in a view -/

theorem Part.queued_of_steady {a b : Part} (h : a.steady = b.steady) : a.stream.queued = b.stream.queued :=
  (congrArg (fun q : Part => q.stream.queued) h :)

theorem Part.images_of {a b : Part} (h : a.steady.noStream.noTick = b.steady.noStream.noTick) :
    a.active = b.active ∧ a.pendingImg = b.pendingImg ∧ a.loader = b.loader :=
  ⟨(congrArg Part.active h :), (congrArg Part.pendingImg h :), (congrArg Part.loader h :)⟩

theorem Part.present_of_steady {a b : Part} (h : a.steady = b.steady) : a.present = b.present :=
  (congrArg Part.present h :)

theorem Part.frame_of_steady {a b : Part} (h : a.steady = b.steady) : a.frame = b.frame := (congrArg Part.frame h :)

theorem cutCd_of_inStep {s t : State} (h : t.units.cores.inStep = s.units.cores.inStep) :
    t.ctrl.module.cutCd = s.ctrl.module.cutCd := (congrArg (fun x : State => x.ctrl.module.cutCd) h :)

theorem Part.step_of_steady {a b : Part} (h : a.steady = b.steady) : a.stream.state = b.stream.state ∧
    a.stream.step = b.stream.step ∧ a.stream.stepStart = b.stream.stepStart ∧ a.stream.stepTicks = b.stream.stepTicks :=
  ⟨(congrArg (fun q : Part => q.stream.state) h :), (congrArg (fun q : Part => q.stream.step) h :),
    (congrArg (fun q : Part => q.stream.stepStart) h :), (congrArg (fun q : Part => q.stream.stepTicks) h :)⟩

theorem Cd.of_inStep {a b : Cd} (h : a.inStep = b.inStep) :
    a.seq.ev = b.seq.ev ∧ a.seq.sregs = b.seq.sregs ∧ a.eng.pepper = b.eng.pepper :=
  ⟨(congrArg (fun c : Cd => c.seq.ev) h :), (congrArg (fun c : Cd => c.seq.sregs) h :),
    (congrArg (fun c : Cd => c.eng.pepper) h :)⟩

/-- What states that agree in the last view agree in. -/
structure State.Framed (s t : State) : Prop where
  pending : t.pending = s.pending
  time : t.ctrl.clock.time = s.ctrl.clock.time
  cutCd : t.ctrl.module.cutCd = s.ctrl.module.cutCd
  frameLoader : t.ctrl.frameLoader = s.ctrl.frameLoader
  pendingFrame : t.ctrl.pendingFrame = s.ctrl.pendingFrame
  present : ∀ p, (t.part p).present = (s.part p).present
  frame : ∀ p, (t.part p).frame = (s.part p).frame
  pad : ∀ d, t.pad d = s.pad d

theorem State.framed_of {s t : State}
    (h : t.units.cores.inStep.lasting.images.framed = s.units.cores.inStep.lasting.images.framed) : s.Framed t where
  pending := (congrArg (fun x : State => x.pending) h :)
  time := (congrArg (fun x : State => x.ctrl.clock.time) h :)
  cutCd := (congrArg (fun x : State => x.ctrl.module.cutCd) h :)
  frameLoader := (congrArg (fun x : State => x.ctrl.frameLoader) h :)
  pendingFrame := (congrArg (fun x : State => x.ctrl.pendingFrame) h :)
  present p := by simpa [State.part_framed, Part.frameOnly] using congrArg (fun x : State => (x.part p).present) h
  frame p := by simpa [State.part_framed, Part.frameOnly] using congrArg (fun x : State => (x.part p).frame) h
  pad d := by
    have hd : t.units.cores.inStep.lasting.cd d = s.units.cores.inStep.lasting.cd d :=
      (congrArg (fun x : State => x.cd d) h :)
    rw [State.cd_lasting, State.cd_lasting] at hd
    exact (congrArg (fun c : Cd => c.scratch.store) hd :)

/-- What states that agree in what lasts agree in besides. -/
structure State.Lasts (s t : State) : Prop extends s.Framed t where
  loader : ∀ p, (t.part p).loader = (s.part p).loader
  pendingImg : ∀ p, (t.part p).pendingImg = (s.part p).pendingImg
  active : ∀ p, (t.part p).active = (s.part p).active
  tick : ∀ p, (t.part p).disc.tick = (s.part p).disc.tick
  hub : ∀ h, (t.hub h).steady = (s.hub h).steady

theorem State.lasts_of {s t : State}
    (h : t.units.cores.inStep.lasting = s.units.cores.inStep.lasting) : s.Lasts t := by
  have hp : ∀ p, (t.part p).steady.noStream = (s.part p).steady.noStream := fun p => by
    rw [← State.part_lasting, ← State.part_lasting, h]
  exact
    { State.framed_of (congrArg (fun x : State => x.images.framed) h :) with
      loader := fun p => (congrArg Part.loader (hp p) :)
      pendingImg := fun p => (congrArg Part.pendingImg (hp p) :)
      active := fun p => (congrArg Part.active (hp p) :)
      tick := fun p => (congrArg (fun q : Part => q.disc.tick) (hp p) :)
      hub := fun k => by
        rw [← State.hub_cores, ← State.hub_cores]
        exact (congrArg (fun x : State => x.hub k) h :) }

/-! ## The boundary in parts -/

/-- The commit that is due at boundary n. -/
def commitDue (p n : Nat) (s : State) : State := if s.jobDue p n then commitJob p n s else s

/-- A step that begins at boundary n, or the wait for it. -/
def beginOrWait (p n : Nat) (begins : Bool) (s : State) : State :=
  match begins, (s.part p).stream.queued.head? with
  | true, some g => beginStep p n g (publishStep p g.step s)
  | _, _ =>
    let s := countWait p n s
    if (s.part p).stream.running then s else publishStep p 0xFFFFFFFF s

/-- The stream's step at boundary n. -/
def takeStep (p n : Nat) (begins : Bool) (s : State) : State := beginOrWait p n begins (endSteps p n s)

/-- The slips, the stall counts and the steps that are over. -/
def countSteps (p n : Nat) (s : State) : State :=
  let s := publishTick p s
  let s := forAll (s.part p).frame.cds (slipDie p n) s
  let s := stallCounts p n s
  forAll (s.part p).frame.cds (fun d t => retireSteps p d t) s

/-- What blocks and dies publish and ask for. -/
def publishAll (p n : Nat) (s : State) : State :=
  let s := forAll (s.part p).frame.cds (pickChoices n) (publishHeads p s)
  let s := wakePoints p s
  let s := forAll (s.part p).frame.stacks hubTiming (forAll (s.part p).frame.cds dieTiming s)
  forAll (s.part p).frame.cds (fun d t => sendForecast p n d (feedForward d t)) s

/-- Whether a step begins at the boundary that follows a commit (R56). -/
def beginsAt (p n : Nat) (old : Cadence) (s : State) : Bool :=
  ((s.part p).cadence == old || s.onBoundary p) && s.stepBegins p n

/-- The boundary after its commit. -/
def afterCommit (p : Nat) (old : Cadence) (s : State) : State :=
  let n := (s.part p).disc.tick
  publishAll p n (countSteps p n (takeStep p n (beginsAt p n old s) s))

theorem atBoundary_eq (p n : Nat) (s : State) :
    atBoundary p n s = afterCommit p (s.part p).cadence (commitDue p n s) := rfl

@[simp] theorem beginOrWait_lasting (p n : Nat) (begins : Bool) (s : State) :
    (beginOrWait p n begins s).units.cores.inStep.lasting = s.units.cores.inStep.lasting := by
  unfold beginOrWait
  split <;> simp

@[simp] theorem takeStep_lasting (p n : Nat) (begins : Bool) (s : State) :
    (takeStep p n begins s).units.cores.inStep.lasting = s.units.cores.inStep.lasting := by simp [takeStep]

@[simp] theorem countSteps_lasting (p n : Nat) (s : State) :
    (countSteps p n s).units.cores.inStep.lasting = s.units.cores.inStep.lasting := by simp [countSteps]

@[simp] theorem publishAll_inStep (p n : Nat) (s : State) :
    (publishAll p n s).units.cores.inStep = s.units.cores.inStep := by simp [publishAll]

@[simp] theorem afterCommit_lasting (p : Nat) (old : Cadence) (s : State) :
    (afterCommit p old s).units.cores.inStep.lasting = s.units.cores.inStep.lasting := by simp [afterCommit]

/-- Steps that are over leave a stream that is not stopping as it is. -/
theorem retireSteps_inStep {p d : Nat} {s : State} (h : (s.part p).stream.state ≠ 3) :
    (retireSteps p d s).units.cores.inStep = s.units.cores.inStep := by simp [retireSteps, endIfDone, h]

theorem part_of_inStep {s t : State} (h : t.units.cores.inStep = s.units.cores.inStep) (p : Nat) :
    (t.part p).steady = (s.part p).steady := by
  rw [← State.part_units, ← State.part_units]
  exact (congrArg (fun x : State => x.part p) h :)

theorem hub_of_inStep {s t : State} (h : t.units.cores.inStep = s.units.cores.inStep) (k : Nat) :
    (t.hub k).steady = (s.hub k).steady := by
  rw [← State.hub_cores, ← State.hub_cores]
  exact (congrArg (fun x : State => x.hub k) h :)

theorem cd_of_inStep {s t : State} (h : t.units.cores.inStep = s.units.cores.inStep) (d : Nat) :
    (t.cd d).inStep = (s.cd d).inStep := by rw [← State.cd_inStep, ← State.cd_inStep, h]

theorem countSteps_inStep {p n : Nat} {s : State} (h : (s.part p).stream.state ≠ 3) :
    (countSteps p n s).units.cores.inStep = s.units.cores.inStep := by
  refine forAll_holds (fun t => t.units.cores.inStep = s.units.cores.inStep) _ (fun d _ t ht => ?_) (by simp)
  have hst := congrArg (fun q : Part => q.stream.state) (part_of_inStep ht p)
  rw [retireSteps_inStep (by rw [show (t.part p).stream.state = (s.part p).stream.state from hst]; exact h), ht]

/-! ## A commit -/

@[simp] theorem hubFault_images (h : Nat) (f : RawFault) (s : State) :
    (hubFault h f s).units.cores.inStep.lasting.images = s.units.cores.inStep.lasting.images := by
  simp [hubFault, sendFault]

@[simp] theorem State.setHub_images (s : State) (h : Nat) (r : HubRes) :
    (s.setHub h r).units.cores.inStep.lasting.images = s.units.cores.inStep.lasting.images := by
  simp [State.setHub]

@[simp] theorem cellArea_images (h : Nat) (on : Bool) (s : State) :
    (cellArea h on s).units.cores.inStep.lasting.images = s.units.cores.inStep.lasting.images := by
  simp [cellArea]

@[simp] theorem commitHub_images (i : JobImage) (n : Nat) (newMap : Bool) (h : Nat) (s : State) :
    (commitHub i n newMap h s).units.cores.inStep.lasting.images = s.units.cores.inStep.lasting.images := by
  simp [commitHub]

theorem telemTo_hub (p : Option Nat) (x : Telem) (s : State) (k : Nat) : (telemTo p x s).hub k = s.hub k := by
  cases p <;> rfl

theorem sendFault_hub (site : Nat) (p : Option Nat) (f : FaultRec) (s : State) (k : Nat) :
    (sendFault site p f s).hub k = s.hub k := by
  have hc : ∀ (t : State) (g : Ctrl → Ctrl), (t.modCtrl g).hub k = t.hub k := fun _ _ => rfl
  simp only [sendFault, telemTo_hub, logEvent, State.modLog_eq, hc]

theorem hubFault_hub_other {h k : Nat} (hk : k ≠ h) (f : RawFault) (s : State) : (hubFault h f s).hub k = s.hub k :=
  (sendFault_hub ..).trans (State.modHub_hub_other s h k _ hk)

theorem State.setHub_hub_other {h k : Nat} (hk : k ≠ h) (r : HubRes) (s : State) : (s.setHub h r).hub k = s.hub k := by
  have hm : (s.modHub h fun _ => r.hub).hub k = s.hub k := State.modHub_hub_other s h k _ hk
  rw [State.setHub]
  split
  · exact hm
  · exact (forAll_keeps (·.hub k) _ (hubFault_hub_other hk) _).trans hm

theorem cellArea_hub_other {h k : Nat} (hk : k ≠ h) (on : Bool) (s : State) : (cellArea h on s).hub k = s.hub k := by
  simp only [cellArea]
  split
  · split
    · rfl
    · exact (State.modHub_hub_other _ h k _ hk).trans
        ((State.modHub_hub_other _ h k _ hk).trans (State.setHub_hub_other hk _ s))
  · split
    · exact (State.modHub_hub_other _ h k _ hk).trans (State.modHub_hub_other s h k _ hk)
    · rfl

theorem commitHub_hub_other {h k : Nat} (hk : k ≠ h) (i : JobImage) (n : Nat) (newMap : Bool) (s : State) :
    (commitHub i n newMap h s).hub k = s.hub k := by
  have hs : ∀ c : Prop, [Decidable c] → (if c then s else s.setHub h ((s.hub h).dropWays 0)).hub k = s.hub k := by
    intro c _
    split
    · rfl
    · exact State.setHub_hub_other hk _ s
  simp only [commitHub]
  refine (State.modHub_hub_other _ h k _ hk).trans ((State.modHub_hub_other _ h k _ hk).trans ?_)
  split
  · exact (State.modHub_hub_other _ h k _ hk).trans ((cellArea_hub_other hk ..).trans (hs _))
  · exact (cellArea_hub_other hk ..).trans (hs _)

/-- A hub's capacity under an image (R272). -/
def JobImage.fits (i : JobImage) (h : Nat) (b : Hub) : Prop :=
  b.mem.chanUse = i.chanUse h ∧ b.mem.usable = usableBytes (i.chanUse h)

theorem commitHub_fits (i : JobImage) (n : Nat) (newMap : Bool) {h : Nat} {s : State} (hw : s.whole = true) (hh : h < 32) :
    i.fits h ((commitHub i n newMap h s).hub h) := by
  have hl : ∀ t : State, t.whole = s.whole → h < t.hubs.length := fun t ht => by
    obtain ⟨-, -, -, hubs, -⟩ := t.whole_iff.mp (ht.trans hw)
    omega
  simp only [commitHub]
  rw [State.modChk_eq, State.modHub_hub_same _ _ _ (hl _ (by simp)), State.modMem_eq,
    State.modHub_hub_same _ _ _ (hl _ (by simp))]
  exact ⟨rfl, rfl⟩

/-- The hubs of a partition under a job image. -/
def commitHubs (i : JobImage) (e : FrameEntry) (newMap : Bool) (s : State) : State :=
  forAll e.stacks (fun h t => commitPwr i.policy false (.hub h) (commitHub i e.stacks.length newMap h t)) s

theorem commitHubAndPower_fits (i : JobImage) (n : Nat) (newMap : Bool) {h : Nat} {s : State} (hw : s.whole = true)
    (hh : h < 32) : i.fits h ((commitPwr i.policy false (.hub h) (commitHub i n newMap h s)).hub h) := by
  rw [commitPwr, State.modBlk, State.modHub_hub_same]
  · exact commitHub_fits i n newMap hw hh
  · obtain ⟨-, -, -, hubs, -⟩ := State.whole_iff _ |>.mp ((commitHub_whole i n newMap h s).trans hw)
    omega

theorem commitHubs_fits (i : JobImage) (e : FrameEntry) (newMap : Bool) {h : Nat} {s : State} (hw : s.whole = true)
    (hh : h < 32) (hm : h ∈ e.stacks) : i.fits h ((commitHubs i e newMap s).hub h) := by
  refine forAll_brings (W := fun t => t.whole = true) (P := fun t => i.fits h (t.hub h)) hm
    (fun k t ht => by simpa using ht) (fun t ht => commitHubAndPower_fits i _ newMap ht hh)
    (fun k t ht hf => ?_) hw
  by_cases hk : h = k
  · subst hk
    exact commitHubAndPower_fits i _ newMap ht hh
  · rw [commitPwr, State.modBlk, State.modHub_hub_other _ _ _ _ hk, commitHub_hub_other hk]
    exact hf

/-- The update dies and dies of a partition under a job image. -/
def commitDies (i : JobImage) (q : Part) (s : State) : State :=
  let frozen := frozenWords i.upd
  let s := forAll q.frame.uds
    (fun u t =>
      let t := commitPwr i.policy true (.ud u) t
      if frozen = q.frozenNow then t
      else t.modUd u fun d => { d with set := d.set.commit fun l => frozen ++ l.drop 128 }) s
  forAll q.frame.cds
    (fun d t =>
      commitFennel i.service.fennel d
        (forAll dieBlocks (fun b v => commitPwr i.policy true (.die d b) v) t)) s

/-- A partition that takes its pending image at boundary n. -/
def Part.committed (q : Part) (i : JobImage) (n : Nat) : Part :=
  { q with
    active := some i
    pendingImg := none
    loader := { q.loader with
      state := 4, commitTick := n, pendingTick := 0, digest := i.digest
      commits := sat16 q.loader.commits }
    fab := { q.fab with modulesOut := [], ringsBroken := [] } }

theorem commitJob_eq {p n : Nat} {s : State} {i : JobImage} (hi : (s.part p).pendingImg = some i) :
    ∃ newMap f, commitJob p n s = forAll (s.part p).frame.ports (fun n t => decidePeer n t)
      ((commitDies i (s.part p) (commitHubs i (s.part p).frame newMap (s.modPart p (·.committed i n)))).modDisc p f) := by
  simp only [commitJob, hi]
  exact ⟨_, _, rfl⟩

@[simp] theorem commitHubs_images (i : JobImage) (e : FrameEntry) (newMap : Bool) (s : State) :
    (commitHubs i e newMap s).units.cores.inStep.lasting.images = s.units.cores.inStep.lasting.images := by
  simp [commitHubs]

@[simp] theorem commitDies_inStep (i : JobImage) (q : Part) (s : State) :
    (commitDies i q s).units.cores.inStep = s.units.cores.inStep := by simp [commitDies]

theorem commitJob_images {p n : Nat} {s : State} {i : JobImage} (hi : (s.part p).pendingImg = some i) :
    (commitJob p n s).units.cores.inStep.lasting.images =
      (s.modPart p (·.committed i n)).units.cores.inStep.lasting.images := by
  obtain ⟨newMap, f, h⟩ := commitJob_eq (n := n) hi
  simp [h]

theorem commitJob_framed (p n : Nat) (s : State) :
    (commitJob p n s).units.cores.inStep.lasting.images.framed = s.units.cores.inStep.lasting.images.framed := by
  cases hi : (s.part p).pendingImg with
  | none => simp [commitJob, hi]
  | some i => rw [commitJob_images hi, State.modPart_framed] <;> intro q <;> rfl

theorem commitJob_fits {p n h : Nat} {s : State} {i : JobImage} (hi : (s.part p).pendingImg = some i)
    (hw : s.whole = true) (hh : h < 32) (hm : h ∈ (s.part p).frame.stacks) :
    i.fits h ((commitJob p n s).hub h) := by
  obtain ⟨newMap, f, ht⟩ := commitJob_eq (n := n) hi
  have hf := commitHubs_fits i (s.part p).frame newMap (s := s.modPart p (·.committed i n)) (by simpa using hw) hh hm
  have hs : ((commitJob p n s).hub h).steady =
      ((commitHubs i (s.part p).frame newMap (s.modPart p (·.committed i n))).hub h).steady := by
    have hu : (commitJob p n s).units = ((commitDies i (s.part p) (commitHubs i (s.part p).frame newMap
        (s.modPart p (·.committed i n)))).modDisc p f).units := by rw [ht, forAll_units _ (fun k t => decidePeer_units k t)]
    rw [show (commitJob p n s).hub h = _ from (congrArg (fun x : State => x.hub h) hu :)]
    exact hub_of_inStep (commitDies_inStep i (s.part p) _) h
  exact ⟨(congrArg (fun b : Hub => b.mem.chanUse) hs :).trans hf.1,
    (congrArg (fun b : Hub => b.mem.usable) hs :).trans hf.2⟩

end Sys2Proof.Machine
end

section
/-! PROOF. The boundary of a tick (03 R73): time moves on to it, and what it leaves of the partition; the beginning of a step on
its dies (03 R80, R82, R90, R132). -/

namespace Sys2Proof.Machine

/-! ## Time moves on -/

theorem countSeconds_rest (n : Nat) (s : State) : (countSeconds n s).parts = s.parts ∧ (countSeconds n s).cds = s.cds ∧
    (countSeconds n s).hubs = s.hubs ∧ (countSeconds n s).pending = s.pending := by
  unfold countSeconds
  split <;> exact ⟨rfl, rfl, rfl, rfl⟩

theorem advanceTo_rest (t : Nat) (s : State) : (advanceTo t s).parts = s.parts ∧ (advanceTo t s).cds = s.cds ∧
    (advanceTo t s).hubs = s.hubs ∧ (advanceTo t s).pending = s.pending := by
  unfold advanceTo
  split
  · exact countSeconds_rest ..
  · exact ⟨rfl, rfl, rfl, rfl⟩

theorem countSeconds_ctrl (n : Nat) (s : State) : (countSeconds n s).ctrl.steady = s.ctrl.steady :=
  (congrArg (fun x : State => x.ctrl) (countSeconds_units n s) :)

theorem advanceTo_ctrl (t : Nat) (s : State) : (advanceTo t s).ctrl.module.cutCd = s.ctrl.module.cutCd ∧
    (advanceTo t s).ctrl.frameLoader = s.ctrl.frameLoader ∧ (advanceTo t s).ctrl.pendingFrame = s.ctrl.pendingFrame := by
  unfold advanceTo
  split
  · have h := countSeconds_ctrl (t / 1000000000 - s.now / 1000000000)
      (s.modCtrl fun c => { c with clock := { c.clock with time := BitVec.ofNat 64 t } })
    exact ⟨(congrArg (fun c : Ctrl => c.module.cutCd) h :), (congrArg Ctrl.frameLoader h :),
      (congrArg Ctrl.pendingFrame h :)⟩
  · exact ⟨rfl, rfl, rfl⟩

theorem advanceTo_time {t : Nat} {s : State} (hp : s.powered = true) (ht : t < 2 ^ 64) :
    (advanceTo t s).ctrl.clock.time.toNat = max s.now t := by
  unfold advanceTo
  by_cases hlt : s.now < t
  · rw [if_pos (by simp only [hp, hlt, ht, decide_true, Bool.and_self])]
    have hc : (countSeconds (t / 1000000000 - s.now / 1000000000)
        (s.modCtrl fun c => { c with clock := { c.clock with time := BitVec.ofNat 64 t } })).ctrl.clock.time =
        BitVec.ofNat 64 t := (congrArg (fun c : Ctrl => c.clock.time) (countSeconds_ctrl ..) :)
    rw [hc, BitVec.toNat_ofNat, Nat.mod_eq_of_lt ht, Nat.max_eq_right (Nat.le_of_lt hlt)]
  · rw [if_neg (by simp [hlt])]
    exact (Nat.max_eq_left (Nat.le_of_not_lt hlt)).symm

/-- The next tick of a partition entered, before anything happens at its boundary. -/
def enterTick (p : Nat) (s : State) : State :=
  let n := (s.part p).disc.tick + 1
  (advanceTo (s.boundaryTime p n) s).modDisc p fun d => { d with tick := n }

theorem passBoundary_eq {p : Nat} {s : State} (hp : (s.part p).present = true) (hw : s.powered = true) :
    passBoundary p s = atBoundary p ((s.part p).disc.tick + 1) (enterTick p s) := by
  simp only [passBoundary, hp, hw]
  rfl

theorem passBoundary_cases (p : Nat) (s : State) : passBoundary p s = s ∨
    passBoundary p s = atBoundary p ((s.part p).disc.tick + 1) (enterTick p s) := by
  cases hp : (s.part p).present with
  | false => exact .inl (by simp [passBoundary, hp])
  | true => cases hw : s.powered with
    | false => exact .inl (by simp [passBoundary, hw])
    | true => exact .inr (passBoundary_eq hp hw)

section
variable (p : Nat) (s : State)

theorem enterTick_cd (d : Nat) : (enterTick p s).cd d = s.cd d := by
  show (advanceTo _ s).cds.getD d {} = _
  rw [(advanceTo_rest _ s).2.1]
  rfl

theorem enterTick_hub (h : Nat) : (enterTick p s).hub h = s.hub h := by
  show (advanceTo _ s).hubs.getD h {} = _
  rw [(advanceTo_rest _ s).2.2.1]
  rfl

theorem enterTick_part {k : Nat} (hk : k ≠ p) : (enterTick p s).part k = s.part k := by
  rw [enterTick, State.modDisc_eq, State.modPart_part_other _ _ _ _ hk]
  show (advanceTo _ s).parts.getD k {} = _
  rw [(advanceTo_rest _ s).1]
  rfl

theorem enterTick_same (hw : s.whole = true) (hp : p < 4) : (enterTick p s).part p =
    { s.part p with disc := { (s.part p).disc with tick := (s.part p).disc.tick + 1 } } := by
  have hl := ((State.whole_iff s).mp hw).1
  rw [enterTick, State.modDisc_eq, State.modPart_part_same]
  · simp only [State.part, (advanceTo_rest _ s).1]
  · rw [(advanceTo_rest _ s).1]
    omega

theorem enterTick_pending : (enterTick p s).pending = s.pending := (advanceTo_rest _ s).2.2.2

theorem enterTick_ctrl : (enterTick p s).ctrl.module.cutCd = s.ctrl.module.cutCd ∧
    (enterTick p s).ctrl.frameLoader = s.ctrl.frameLoader ∧ (enterTick p s).ctrl.pendingFrame = s.ctrl.pendingFrame :=
  advanceTo_ctrl _ s

theorem enterTick_frame (k : Nat) : ((enterTick p s).part k).present = (s.part k).present ∧
    ((enterTick p s).part k).frame = (s.part k).frame := by
  have h : (advanceTo (s.boundaryTime p ((s.part p).disc.tick + 1)) s).Framed (enterTick p s) :=
    State.framed_of (by simp [enterTick])
  have hk : (advanceTo (s.boundaryTime p ((s.part p).disc.tick + 1)) s).part k = s.part k := by
    simp only [State.part, (advanceTo_rest _ s).1]
  exact ⟨by rw [h.present, hk], by rw [h.frame, hk]⟩

theorem enterTick_pad (d : Nat) : (enterTick p s).pad d = s.pad d := by
  simp only [State.pad, enterTick_cd]

end

/-! ## What is due stays due -/

section
variable {p : Nat} {s : State} (hw : s.whole = true) (hp : p < 4) (n : Nat)
include hw hp

theorem enterTick_begins : (enterTick p s).stepBegins p n = s.stepBegins p n := by
  simp only [State.stepBegins, State.bankBusy, State.stepLive, enterTick_same p s hw hp, enterTick_cd]
  rfl

theorem enterTick_due : (enterTick p s).jobDue p n = s.jobDue p n := by
  simp only [State.jobDue, enterTick_begins hw hp, enterTick_same p s hw hp]
  rfl

end

/-! ## What a boundary keeps -/

theorem commitDue_framed (p n : Nat) (s : State) :
    (commitDue p n s).units.cores.inStep.lasting.images.framed = s.units.cores.inStep.lasting.images.framed := by
  rw [commitDue]
  split
  · exact commitJob_framed p n s
  · rfl

theorem atBoundary_framed (p n : Nat) (s : State) : s.Framed (atBoundary p n s) := by
  refine State.framed_of ?_
  rw [atBoundary_eq, afterCommit_lasting, commitDue_framed]

theorem passBoundary_loader (p : Nat) (s : State) : (passBoundary p s).ctrl.pendingFrame = s.ctrl.pendingFrame ∧
    (passBoundary p s).ctrl.frameLoader = s.ctrl.frameLoader := by
  rcases passBoundary_cases p s with h | h <;> rw [h]
  · exact ⟨rfl, rfl⟩
  · have hb := atBoundary_framed p ((s.part p).disc.tick + 1) (enterTick p s)
    obtain ⟨-, hl, hf⟩ := enterTick_ctrl p s
    exact ⟨hb.pendingFrame.trans hf, hb.frameLoader.trans hl⟩

theorem passBoundary_frame (p : Nat) (s : State) (k : Nat) :
    ((passBoundary p s).part k).present = (s.part k).present ∧ ((passBoundary p s).part k).frame = (s.part k).frame := by
  rcases passBoundary_cases p s with h | h <;> rw [h]
  · exact ⟨rfl, rfl⟩
  · have hb := atBoundary_framed p ((s.part p).disc.tick + 1) (enterTick p s)
    obtain ⟨hp, hf⟩ := enterTick_frame p s k
    exact ⟨(hb.present k).trans hp, (hb.frame k).trans hf⟩

/-! ## A step begins -/

/-- A step that begins is held up by no stop, abort or end of the stream. -/
theorem endSteps_of_begins {p n : Nat} {s : State} (hb : s.stepBegins p n = true)
    (ha : (s.part p).stream.abortReq = false) : endSteps p n s = s := by
  simp only [State.stepBegins] at hb
  split at hb
  · cases hb
  · next g hq =>
    obtain ⟨hstop, hdue⟩ := Bool.and_eq_true_iff.mp hb
    have hstop : (s.part p).stream.stopReq = false := by simpa using hstop
    have hend : ¬ ((s.part p).stream.state = 2 ∧ (s.part p).stream.closing = true ∧ (s.part p).stream.queued = []) :=
      fun h => by simp [h.2.2] at hq
    simp only [endSteps, ha, hstop]
    split
    · simp_all
    · split
      · simp_all
      · rw [if_neg]
        simpa using fun h _ hc => fun hq => hend ⟨h, hc, hq⟩

/-- The records and events of a step that begins on die d. -/
def SegmentImg.begun (g : SegmentImg) (n d : Nat) (q : Seq) : Seq :=
  let q := q.clearBank g.step
  match g.dies.find? fun x => x.die == d with
  | none => q
  | some x =>
    { q with steps := q.steps ++
        [{ step := g.step, startTick := n, ticks := g.ticks, closing := g.closing, recs := x.recStates }] }

theorem SegmentImg.begun_ev (g : SegmentImg) (n d : Nat) (q : Seq) : (g.begun n d q).ev = (q.clearBank g.step).ev := by
  unfold SegmentImg.begun
  dsimp only
  split <;> rfl

theorem SegmentImg.begun_sregs (g : SegmentImg) (n d : Nat) (q : Seq) : (g.begun n d q).sregs = q.sregs := by
  unfold SegmentImg.begun
  dsimp only
  split <;> rfl

/-- What step 0 of an opening segment clears on a die. -/
def Cd.opened (c : Cd) : Cd :=
  { c with
    seq := { c.seq with sregs := List.replicate 56 0 }
    eng := { c.eng with
      mxe := c.eng.mxe.map fun m => { m with tiles := List.replicate 4 {} }
      coe := { c.eng.coe with numbers := [] }
      pepper := { c.eng.pepper with live := c.eng.pepper.seed } } }

/-- The dies of a partition that have not been cut out. -/
def State.diesOf (s : State) (p : Nat) : List Nat := (s.part p).frame.cds.filter fun d => !s.isCut (.cd d)

/-- A stream whose next step begins at boundary n. -/
def startStream (p n : Nat) (g : SegmentImg) (s : State) : State :=
  s.modStream p fun st =>
    { st with
      state := 2, step := g.step, started := true, stepStart := n, stepTicks := g.ticks
      queued := st.queued.drop 1, begun := (st.begun.filter fun x => s.stepLive p x.step) ++ [g] }

/-- What an opening segment clears of a partition with this frame and these dies that have not been cut out. -/
def openStream (p : Nat) (e : FrameEntry) (dies : List Nat) (s : State) : State :=
  let s := forAll e.stacks (fun h t => t.modRed h fun q => { q with closed := [], history := [] }) (forAll dies openDie s)
  forAll e.uds (fun u t => t.modUd u fun k => { k with verdicts := [] })
    (s.modFab p fun f => { f with early := [], forwarded := [] })

/-- A stream whose step begins, before its records are taken. -/
def readyStep (p n : Nat) (g : SegmentImg) (s : State) : State :=
  let e := (s.part p).frame
  let t := startStream p n g s
  forAll e.stacks (fun h t => t.modRed h fun q => { q with history := q.history.filter fun x => g.step ≤ x.step + 2 })
    (if g.opening then openStream p e (s.diesOf p) t else t)

theorem beginStep_eq (p n : Nat) (g : SegmentImg) (s : State) : beginStep p n g s =
    forAll (s.part p).frame.ports (fun k t => decidePeer k t)
      (beginGather p g (forAll (s.diesOf p) (beginDie g n) (readyStep p n g s))) := rfl

theorem beginStep_units (p n : Nat) (g : SegmentImg) (s : State) :
    (beginStep p n g s).units = (forAll (s.diesOf p) (beginDie g n) (readyStep p n g s)).units := by
  simp [beginStep_eq]

theorem part_of_units {s t : State} (h : t.units = s.units) (p : Nat) : (t.part p).steady = (s.part p).steady := by
  rw [← State.part_units, ← State.part_units, h]

theorem State.modFab_steady (s : State) (p k : Nat) (f : Fabric → Fabric) :
    ((s.modFab p f).part k).steady = (s.part k).steady :=
  part_of_units (s.modPart_units_of p (f := fun q => { q with fab := f q.fab }) fun _ => rfl) k

theorem cd_of_units {s t : State} (h : t.units = s.units) (d : Nat) : t.cd d = s.cd d :=
  (congrArg (fun x : State => x.cd d) h :)

theorem forAll_cd {α : Type} (l : List α) {f : α → State → State} {d : Nat} (hf : ∀ a t, (f a t).cd d = t.cd d)
    (s : State) : (forAll l f s).cd d = s.cd d := forAll_keeps (·.cd d) l hf s

theorem forAll_part {α : Type} (l : List α) {f : α → State → State} {p : Nat} (hf : ∀ a t, (f a t).part p = t.part p)
    (s : State) : (forAll l f s).part p = s.part p := forAll_keeps (·.part p) l hf s

/-- Each of a list of dies changed in its own way. -/
theorem forAll_modCd {l : List Nat} (hl : l.Nodup) (f : Nat → Cd → Cd) {s : State} {d : Nat} (hd : d < s.cds.length) :
    (forAll l (fun i t => t.modCd i (f i)) s).cd d = if d ∈ l then f d (s.cd d) else s.cd d := by
  unfold forAll
  induction l generalizing s with
  | nil => simp
  | cons i l ih =>
    obtain ⟨hi, hl⟩ := List.nodup_cons.mp hl
    rw [List.foldl_cons, ih hl (by simpa using hd)]
    by_cases h : d = i
    · subst h
      rw [if_neg hi, if_pos List.mem_cons_self, State.modCd_cd_same _ _ _ hd]
    · rw [State.modCd_cd_other _ _ _ _ h]
      simp [h]

theorem FrameEntry.cds_nodup (e : FrameEntry) : e.cds.Nodup :=
  (List.nodup_range.map fun _ _ h => Nat.add_right_cancel h).filter _

theorem State.diesOf_nodup (s : State) (p : Nat) : (s.diesOf p).Nodup := (FrameEntry.cds_nodup _).filter _

/-- What follows the opening of a die leaves the die as it is. -/
theorem readyStep_cd {p n d : Nat} {g : SegmentImg} {s : State} (hd : d < s.cds.length) :
    (readyStep p n g s).cd d = if g.opening = true ∧ d ∈ s.diesOf p then (s.cd d).opened else s.cd d := by
  have ho : (forAll (s.diesOf p) openDie (startStream p n g s)).cd d =
      if d ∈ s.diesOf p then (s.cd d).opened else s.cd d :=
    forAll_modCd (s.diesOf_nodup p) (fun _ c => c.opened) (s := startStream p n g s) hd
  have hs : (openStream p (s.part p).frame (s.diesOf p) (startStream p n g s)).cd d =
      (forAll (s.diesOf p) openDie (startStream p n g s)).cd d := by
    simp only [openStream]
    rw [forAll_cd _ (by simp), State.modFab_eq, State.modPart_cd, forAll_cd _ (by simp)]
  simp only [readyStep]
  rw [forAll_cd _ (by simp)]
  by_cases hg : g.opening = true
  · simp only [hg, if_true, hs, ho, true_and]
  · simp only [hg, false_and, if_false, Bool.false_eq_true]
    rfl

/-- A die on which a step has begun. -/
theorem beginStep_cd {p n d : Nat} {g : SegmentImg} {s : State} (hw : s.whole = true) (hd : d < 16)
    (hm : d ∈ s.diesOf p) : (beginStep p n g s).cd d =
      let c := if g.opening = true then (s.cd d).opened else s.cd d
      { c with seq := g.begun n d c.seq } := by
  have hl : ∀ t : State, t.whole = true → d < t.cds.length := fun t ht => by
    obtain ⟨-, -, cds, -⟩ := t.whole_iff.mp ht
    omega
  have hr : (readyStep p n g s).whole = true := by
    have ho : ∀ {t : State}, t.whole = true → (forAll (s.diesOf p) openDie t).whole = true :=
      whole_forAll _ fun d _ => whole_openDie d
    simp [readyStep, openStream, startStream, hw, ho]
  rw [cd_of_units (beginStep_units p n g s) d]
  refine (forAll_modCd (s.diesOf_nodup p) (fun i c => { c with seq := g.begun n i c.seq }) (hl _ hr)).trans ?_
  rw [if_pos hm, readyStep_cd (hl s hw)]
  simp only [hm, and_true]

/-- The stream whose step has begun. -/
theorem beginStep_stream {p n : Nat} {g : SegmentImg} {s : State} (hw : s.whole = true) (hp : p < 4) :
    let st := ((beginStep p n g s).part p).stream
    st.state = 2 ∧ st.step = g.step ∧ st.stepStart = n ∧ st.stepTicks = g.ticks ∧
      st.queued = (s.part p).stream.queued.tail := by
  have hs : ((beginStep p n g s).part p).steady = ((startStream p n g s).part p).steady := by
    rw [part_of_units (beginStep_units p n g s), forAll_part _ (by simp [beginDie])]
    simp only [readyStep]
    rw [forAll_part _ (by simp)]
    split
    · simp only [openStream]
      rw [forAll_part _ (by simp), State.modFab_steady, forAll_part _ (by simp), forAll_part _ (by simp [openDie])]
    · rfl
  have hq : (startStream p n g s).part p = _ := State.modPart_part_same _ _ _ (by
    obtain ⟨parts, -⟩ := s.whole_iff.mp hw
    omega)
  rw [hq] at hs
  exact ⟨(congrArg (fun q : Part => q.stream.state) hs :), (congrArg (fun q : Part => q.stream.step) hs :),
    (congrArg (fun q : Part => q.stream.stepStart) hs :), (congrArg (fun q : Part => q.stream.stepTicks) hs :),
    (congrArg (fun q : Part => q.stream.queued) hs :).trans List.drop_one⟩

/-- A boundary at which nothing commits and a step begins. -/
theorem atBoundary_of_begins {p n : Nat} {g : SegmentImg} {s : State} (hw : s.whole = true) (hp : p < 4)
    (hn : (s.part p).disc.tick = n) (hj : s.jobDue p n = false) (hb : s.stepBegins p n = true)
    (ha : (s.part p).stream.abortReq = false) (hq : (s.part p).stream.queued.head? = some g) :
    (atBoundary p n s).units.cores.inStep =
      (beginStep p n g (publishStep p g.step s)).units.cores.inStep := by
  have hc : commitDue p n s = s := by simp [commitDue, hj]
  have hbegin : takeStep p n (beginsAt p n (s.part p).cadence s) s = beginStep p n g (publishStep p g.step s) := by
    have : beginsAt p n (s.part p).cadence s = true := by simp [beginsAt, hb]
    simp only [takeStep, endSteps_of_begins hb ha, this, beginOrWait, hq]
  rw [atBoundary_eq, hc, afterCommit]
  simp only [hn, hbegin, publishAll_inStep]
  refine countSteps_inStep ?_
  have hst := beginStep_stream (n := n) (g := g) (s := publishStep p g.step s) (by simpa using hw) hp
  simp [hst.1]

/-- The events of a step's bank cleared, and those of the other kept. -/
theorem Seq.clearBank_getD (q : Seq) (step : Nat) {e : Nat} (he : e < 64) :
    (q.clearBank step).ev.getD (64 * (step % 2) + e) 0 = 0 ∧
      (q.clearBank step).ev.getD (64 * ((step + 1) % 2) + e) 0 = q.ev.getD (64 * ((step + 1) % 2) + e) 0 := by
  have hget : ∀ i < 128, (q.clearBank step).ev.getD i 0 = if i / 64 = step % 2 then 0 else q.ev.getD i 0 := fun i hi => by
    simp [Seq.clearBank, List.getD_eq_getElem?_getD, hi]
  have h0 : 64 * (step % 2) + e < 128 := by omega
  have h1 : 64 * ((step + 1) % 2) + e < 128 := by omega
  rw [hget _ h0, hget _ h1, if_pos (by omega), if_neg (by omega)]
  exact ⟨rfl, rfl⟩

theorem Cd.opened_tiles (c : Cd) (m : Nat) : (c.opened.eng.mxe.getD m {}).tiles = List.replicate 4 {} := by
  simp only [Cd.opened, List.getD_eq_getElem?_getD, List.getElem?_map]
  cases c.eng.mxe[m]? <;> rfl

theorem Cd.inStep_tiles (c : Cd) (m : Nat) : (c.inStep.eng.mxe.getD m {}).tiles = (c.eng.mxe.getD m {}).tiles := by
  simp only [Cd.inStep, List.getD_eq_getElem?_getD, List.getElem?_map]
  cases c.eng.mxe[m]? <;> rfl

end Sys2Proof.Machine
end

section
/-! PROOF. The dies outside a partition at its boundary (03 R82, 17 R434): what happens there changes the stream memory and the
engines of no die but the partition's own, where its queued segments name no other. -/

namespace Sys2Proof.Machine

/-- Partition p has the dies ds, and its queued segments name no other. -/
def State.inside (s : State) (p : Nat) (ds : List Nat) : Prop :=
  (s.part p).frame.cds = ds ∧ ∀ g ∈ (s.part p).stream.queued, ∀ e ∈ g.dies, e.die ∈ ds

/-- From s to t, where partition p keeps to its dies ds, it still does, and the other dies are the same but for their
scratchpads and power. -/
structure Spares (p : Nat) (ds : List Nat) (s t : State) : Prop where
  spares : s.inside p ds → t.inside p ds ∧ ∀ d, d ∉ ds → (t.cd d).seq = (s.cd d).seq ∧ (t.cd d).eng = (s.cd d).eng

section
variable {p : Nat} {ds : List Nat}

theorem Spares.refl (s : State) : Spares p ds s s := ⟨fun h => ⟨h, fun _ _ => ⟨rfl, rfl⟩⟩⟩

theorem Spares.trans {s t u : State} (a : Spares p ds s t) (b : Spares p ds t u) : Spares p ds s u := by
  refine ⟨fun h => ?_⟩
  obtain ⟨ht, hst⟩ := a.spares h
  obtain ⟨hu, htu⟩ := b.spares ht
  refine ⟨hu, fun d hd => ?_⟩
  obtain ⟨h1, h2⟩ := hst d hd
  obtain ⟨h3, h4⟩ := htu d hd
  exact ⟨h3.trans h1, h4.trans h2⟩

/-- What is shown of a partition that keeps to its dies. -/
theorem Spares.of_inside {s t : State} (h : s.inside p ds → Spares p ds s t) : Spares p ds s t :=
  ⟨fun hs => (h hs).spares hs⟩

theorem Spares.of_cores {s t : State} (h : t.units.cores = s.units.cores) : Spares p ds s t := by
  refine ⟨fun hs => ?_⟩
  have hp : (t.part p).steady = (s.part p).steady := part_of_inStep (congrArg State.inStep h) p
  have hf : (t.part p).frame = (s.part p).frame := (congrArg Part.frame hp :)
  have hq : (t.part p).stream.queued = (s.part p).stream.queued := (congrArg (fun q : Part => q.stream.queued) hp :)
  refine ⟨⟨by rw [hf]; exact hs.1, by rw [hq]; exact hs.2⟩, fun d _ => ?_⟩
  have hd : (t.cd d).core = (s.cd d).core := by rw [← State.cd_cores, ← State.cd_cores, h]
  exact ⟨(congrArg Cd.seq hd :), (congrArg Cd.eng hd :)⟩

theorem Spares.forAll {α : Type} (l : List α) {f : α → State → State} (hf : ∀ a ∈ l, ∀ t, Spares p ds t (f a t))
    (s : State) : Spares p ds s (forAll l f s) :=
  forAll_holds (fun t => Spares p ds s t) l (fun a ha t ht => ht.trans (hf a ha t)) (.refl s)

theorem Spares.ite (c : Prop) [Decidable c] {s a b : State} (ha : Spares p ds s a) (hb : Spares p ds s b) :
    Spares p ds s (if c then a else b) := by
  split
  · exact ha
  · exact hb

theorem Spares.modCd {d : Nat} (hd : d ∈ ds) (f : Cd → Cd) (s : State) : Spares p ds s (s.modCd d f) := by
  refine ⟨fun h => ⟨h, fun k hk => ?_⟩⟩
  have hne : k ≠ d := fun e => hk (e ▸ hd)
  rw [State.modCd_cd_other _ _ _ _ hne]
  exact ⟨rfl, rfl⟩

theorem Spares.modHub (h : Nat) (f : Hub → Hub) (s : State) : Spares p ds s (s.modHub h f) :=
  ⟨fun hs => ⟨hs, fun _ _ => ⟨rfl, rfl⟩⟩⟩

/-- A partition changed that keeps its frame, with no segment more. -/
theorem Spares.modPart (k : Nat) {f : Part → Part} (hf : ∀ q, (f q).frame = q.frame)
    (hq : ∀ q, ∀ g ∈ (f q).stream.queued, g ∈ q.stream.queued) (s : State) : Spares p ds s (s.modPart k f) := by
  refine ⟨fun h => ⟨?_, fun _ _ => ⟨rfl, rfl⟩⟩⟩
  by_cases hk : p = k
  · subst hk
    by_cases hl : p < s.parts.length
    · rw [State.inside, State.modPart_part_same _ _ _ hl, hf]
      exact ⟨h.1, fun g hg => h.2 g (hq _ g hg)⟩
    · rw [State.modPart, modAt_past _ _ _ (by omega)]
      exact h
  · rw [State.inside, State.modPart_part_other _ _ _ _ hk]
    exact h

theorem Spares.modFab (k : Nat) (f : Fabric → Fabric) (s : State) : Spares p ds s (s.modFab k f) :=
  Spares.modPart k (f := fun q => { q with fab := f q.fab }) (fun _ => rfl) (fun _ _ h => h) s

theorem Spares.modStream (k : Nat) (f : Stream → Stream) (hq : ∀ st, ∀ g ∈ (f st).queued, g ∈ st.queued) (s : State) :
    Spares p ds s (s.modStream k f) :=
  Spares.modPart k (f := fun q => { q with stream := f q.stream }) (fun _ => rfl) (fun q g hg => hq q.stream g hg) s

theorem Spares.forCds {f : Nat → State → State} (hf : ∀ d ∈ ds, ∀ t, Spares p ds t (f d t)) (s : State) :
    Spares p ds s (Machine.forAll (s.part p).frame.cds f s) :=
  .of_inside fun hs => .forAll _ (fun d hd t => hf d (hs.1 ▸ hd) t) s

/-! ## The steps of a boundary -/

theorem spares_slipDie {n d : Nat} (hd : d ∈ ds) (s : State) : Spares p ds s (slipDie p n d s) := by
  unfold slipDie
  exact (Spares.forAll _ (fun _ _ t => Spares.modCd hd _ t) s).trans (.modStream p _ (by exact fun _ _ h => h) _)

theorem spares_modRec {r : RecRef} (hr : r.die ∈ ds) (f : RecState → RecState) (s : State) :
    Spares p ds s (s.modRec r f) := .modCd hr _ s

theorem spares_becalmAt {n : Nat} {r : RecRef} (x : RecState) (hr : r.die ∈ ds) (s : State) :
    Spares p ds s (becalmAt p n r x s) := by
  unfold becalmAt
  refine .ite _ ?_ (.ite _ (spares_modRec hr _ s) (.refl s))
  split
  · exact (spares_modRec hr _ s).trans (.modFab p _ _)
  · exact spares_modRec hr _ s

theorem liveRecs_die {s : State} {y : RecRef × RecState} (hy : y ∈ s.liveRecs p) : y.1.die ∈ (s.part p).frame.cds := by
  simp only [State.liveRecs, List.mem_flatMap, List.mem_map] at hy
  obtain ⟨d, hd, u, -, x, -, rfl⟩ := hy
  exact hd

theorem spares_stallCounts (n : Nat) (s : State) : Spares p ds s (stallCounts p n s) := by
  refine .of_inside fun hs => ?_
  unfold stallCounts
  have hd : ∀ x ∈ s.liveRecs p, x.1.die ∈ ds := fun x hx => hs.1 ▸ liveRecs_die hx
  exact (Spares.forAll _ (fun x hx t => spares_becalmAt x.2 (hd x hx) t) s).trans (.modFab p _ _)

theorem spares_publishStep (step : Nat) (s : State) : Spares p ds s (publishStep p step s) := by
  refine .of_inside fun hs => ?_
  unfold publishStep
  exact (Spares.of_cores (by simp)).trans (.forAll _ (fun d hd t => Spares.modCd (hs.1 ▸ hd) _ t) _)

theorem spares_stopStarts (s : State) : Spares p ds s (stopStarts p s) := .forCds (fun _ hd t => .modCd hd _ t) s

theorem spares_dropQueued (s : State) : Spares p ds s (dropQueued p s) := by
  refine .of_inside fun hs => ?_
  unfold dropQueued
  exact (Spares.forAll _ (fun g hg t => .forAll _ (fun e he v => Spares.modCd (hs.2 g hg e he) _ v) t) s).trans
    (.modStream p _ (by exact fun _ _ h => by cases h) _)

theorem spares_decidePeers (l : List Nat) (s : State) : Spares p ds s (forAll l (fun n t => decidePeer n t) s) :=
  .of_cores (by simp)

theorem spares_closeStream (state : Nat) (s : State) : Spares p ds s (closeStream p state s) := by
  unfold closeStream
  exact ((spares_dropQueued s).trans (.modPart p (by exact fun _ => rfl) (by exact fun _ _ h => h) _)).trans
    (spares_decidePeers _ _)

theorem spares_endIfDone (s : State) : Spares p ds s (endIfDone p s) := .ite _ (spares_closeStream 4 s) (.refl s)

theorem spares_retireSteps {d : Nat} (hd : d ∈ ds) (s : State) : Spares p ds s (retireSteps p d s) := by
  unfold retireSteps
  exact (Spares.modCd hd _ s).trans (spares_endIfDone _)

theorem spares_abortNow (s : State) : Spares p ds s (abortNow p s) := by
  unfold abortNow
  exact (((spares_stopStarts s).trans (spares_dropQueued _)).trans (.modStream p _ (by exact fun _ _ h => h) _)).trans
    ((Spares.forCds (fun _ hd t => spares_retireSteps hd t) _).trans (spares_endIfDone _))

theorem spares_endSteps (n : Nat) (s : State) : Spares p ds s (endSteps p n s) := by
  unfold endSteps
  refine .ite _ (spares_abortNow s) (.ite _ ((spares_dropQueued s).trans (spares_closeStream 4 _)) (.ite _ ?_ (.refl s)))
  exact ((spares_dropQueued s).trans (.modStream p _ (by exact fun _ _ h => h) _)).trans (spares_endIfDone _)

theorem spares_readyStep (n : Nat) (g : SegmentImg) (s : State) : Spares p ds s (readyStep p n g s) := by
  refine .of_inside fun hs => ?_
  have hds : ∀ d ∈ s.diesOf p, d ∈ ds := fun d hd => hs.1 ▸ List.mem_of_mem_filter hd
  have hst : Spares p ds s (startStream p n g s) :=
    .modStream p _ (by exact fun _ _ h => List.mem_of_mem_drop h) s
  have hop : ∀ t, Spares p ds t (openStream p (s.part p).frame (s.diesOf p) t) := fun t => by
    unfold openStream
    have ho : Spares p ds t (forAll (s.diesOf p) openDie t) := .forAll _ (fun d hd t => .modCd (hds d hd) _ t) t
    exact ((ho.trans (.forAll _ (fun h _ t => Spares.modHub h _ t) _)).trans (.modFab p _ _)).trans
      (.forAll _ (fun u _ t => .of_cores (State.modUd_cores t u _)) _)
  unfold readyStep
  exact (Spares.ite _ (hst.trans (hop _)) hst).trans (.forAll _ (fun h _ t => Spares.modHub h _ t) _)

theorem spares_beginStep (n : Nat) (g : SegmentImg) (s : State) : Spares p ds s (beginStep p n g s) := by
  refine .of_inside fun hs => ?_
  have hds : ∀ d ∈ s.diesOf p, d ∈ ds := fun d hd => hs.1 ▸ List.mem_of_mem_filter hd
  rw [beginStep_eq]
  have hb : ∀ d ∈ s.diesOf p, ∀ t, Spares p ds t (beginDie g n d t) := fun d hd t => .modCd (hds d hd) _ t
  exact ((spares_readyStep n g s).trans (.forAll _ hb _)).trans
    ((Spares.of_cores (by simp)).trans (spares_decidePeers _ _))

theorem spares_takeStep (n : Nat) (begins : Bool) (s : State) : Spares p ds s (takeStep p n begins s) := by
  unfold takeStep beginOrWait
  refine (spares_endSteps n s).trans ?_
  split
  · exact (spares_publishStep _ _).trans (spares_beginStep ..)
  · exact (Spares.of_cores (congrArg State.cores (countWait_units ..))).trans (.ite _ (.refl _) (spares_publishStep ..))

theorem spares_countSteps (n : Nat) (s : State) : Spares p ds s (countSteps p n s) := by
  unfold countSteps
  exact (((Spares.of_cores (publishTick_cores p s)).trans (.forCds (fun _ hd t => spares_slipDie hd t) _)).trans
    (spares_stallCounts n _)).trans (.forCds (fun _ hd t => spares_retireSteps hd t) _)

theorem spares_dieTiming {d : Nat} (hd : d ∈ ds) (s : State) : Spares p ds s (dieTiming d s) := by
  unfold dieTiming
  exact (((Spares.of_cores (congrArg State.cores s.drawn_units)).trans (.modCd hd _ _))).trans (.modCd hd _ _)

theorem spares_publishAll (n : Nat) (s : State) : Spares p ds s (publishAll p n s) := by
  refine .of_inside fun hs => ?_
  unfold publishAll
  have hpick : Spares p ds (publishHeads p s) (forAll (s.part p).frame.cds (pickChoices n) (publishHeads p s)) :=
    .forAll _ (fun d hd t => Spares.modCd (hs.1 ▸ hd) _ t) _
  have hfore : ∀ d t, Spares p ds t (sendForecast p n d (feedForward d t)) := fun d t => .of_cores (by simp)
  exact ((((Spares.of_cores (publishHeads_cores p s)).trans hpick).trans (.of_cores (wakePoints_cores p _))).trans
    ((Spares.forCds (fun _ hd t => spares_dieTiming hd t) _).trans
      (.forAll _ (fun h _ t => .of_cores (hubTiming_cores h t)) _))).trans (.forAll _ (fun d _ t => hfore d t) _)

/-! ## A commit -/

theorem spares_setHub (h : Nat) (r : HubRes) (s : State) : Spares p ds s (s.setHub h r) := by
  have hf : ∀ f t, Spares p ds t (hubFault h f t) := fun f t => .of_cores (by simp [hubFault, sendFault])
  unfold State.setHub
  exact (Spares.modHub h _ s).trans (.ite _ (.refl _)
    ((Spares.of_cores (congrArg State.cores (State.drawn_units _))).trans (.forAll _ (fun f _ t => hf f t) _)))

theorem spares_cellArea (h : Nat) (on : Bool) (s : State) : Spares p ds s (cellArea h on s) := by
  unfold cellArea
  exact .ite _ (.ite _ (.refl s) (((spares_setHub h _ s).trans (.modHub h _ _)).trans (.modHub h _ _)))
    (.ite _ ((Spares.modHub h _ s).trans (.modHub h _ _)) (.refl s))

theorem spares_commitHub (i : JobImage) (n : Nat) (newMap : Bool) (h : Nat) (s : State) :
    Spares p ds s (commitHub i n newMap h s) := by
  unfold commitHub
  exact ((((Spares.ite _ (.refl s) (spares_setHub h _ s)).trans (spares_cellArea h _ _)).trans
    (.ite _ (.modHub h _ _) (.refl _))).trans (.modHub h _ _)).trans (.modHub h _ _)

theorem spares_commitFennel {k d : Nat} (hd : d ∈ ds) (s : State) : Spares p ds s (commitFennel k d s) := by
  unfold commitFennel
  exact .ite _ (.refl s) (.modCd hd _ s)

theorem spares_commitJob (n : Nat) (s : State) : Spares p ds s (commitJob p n s) := by
  refine .of_inside fun hs => ?_
  cases hi : (s.part p).pendingImg with
  | none => simpa [commitJob, hi] using Spares.refl s
  | some i =>
    obtain ⟨newMap, f, h⟩ := commitJob_eq (n := n) hi
    have hhubs : ∀ t, Spares p ds t (commitHubs i (s.part p).frame newMap t) := fun t =>
      .forAll _ (fun k _ u => (spares_commitHub i _ newMap k u).trans (.of_cores (commitPwr_cores ..))) t
    have hdies : ∀ t, Spares p ds t (commitDies i (s.part p) t) := fun t => by
      unfold commitDies
      have hud : ∀ (u : Nat) (c : Prop) [Decidable c] (g : Ud → Ud) v, Spares p ds v
          (if c then commitPwr i.policy true (.ud u) v else (commitPwr i.policy true (.ud u) v).modUd u g) :=
        fun u c _ g v => .of_cores (by simp)
      have hpwr : ∀ d v, Spares p ds v (forAll dieBlocks (fun b v => commitPwr i.policy true (.die d b) v) v) :=
        fun d v => .of_cores (by simp)
      exact (Spares.forAll _ (fun u _ v => hud u _ _ v) t).trans
        (.forAll _ (fun d hd v => (hpwr d v).trans (spares_commitFennel (hs.1 ▸ hd) _)) _)
    rw [h]
    exact ((((Spares.modPart p (by exact fun _ => rfl) (by exact fun _ _ h => h) s).trans (hhubs _)).trans
      (hdies _)).trans (.modPart p (by exact fun _ => rfl) (by exact fun _ _ h => h) _)).trans (spares_decidePeers _ _)

theorem spares_atBoundary (n : Nat) (s : State) : Spares p ds s (atBoundary p n s) := by
  rw [atBoundary_eq]
  exact (Spares.ite _ (spares_commitJob n s) (.refl s)).trans
    (((spares_takeStep _ _ _).trans (spares_countSteps _ _)).trans (spares_publishAll _ _))

end

end Sys2Proof.Machine
end

section
/-! PROOF. The boundary at which a frame image commits (02 R54), and partition resets (17 R436 to R438). -/

namespace Sys2Proof.Machine

/-! ## A frame image -/

/-- The control die as a frame image commits at module tick n. -/
def Ctrl.framed (c : Ctrl) (f : FrameImage) (n : Nat) : Ctrl :=
  { c with
    pendingFrame := none
    frameLoader := { c.frameLoader with
      state := 4, commitTick := n, pendingTick := 0, digest := f.digest
      commits := sat16 c.frameLoader.commits } }

/-- A partition as a frame entry commits at module tick n. -/
def Part.entered (q : Part) (e : FrameEntry) (n : Nat) : Part :=
  { q with
    present := e.cdCount != 0
    frame := if e.cdCount = 0 then {} else e
    disc := { ({} : Discipline) with tick := n - 1 } }

/-- The partitions under a frame image. -/
def enterFrame (f : FrameImage) (n : Nat) (s : State) : State :=
  forAll partNums (fun p t => t.modPart p (·.entered (f.entries.getD p {}) n)) s

/-- The ports that a frame image allots no longer, dark (R329). -/
def darkOthers (f : FrameImage) (s : State) : State :=
  let out := fun n => (s.partOfPort n).isSome && !f.entries.any fun e => e.cdCount != 0 && bit e.portMask n
  forAll ((List.range 128).filter out) (fun n t => darkPort n 3 t) s

@[simp] theorem darkOthers_units (f : FrameImage) (s : State) : (darkOthers f s).units = s.units := by
  simp [darkOthers]

theorem commitFrame_cores {f : FrameImage} (n : Nat) {s : State} (hf : s.ctrl.pendingFrame = some f) :
    (commitFrame n s).units.cores = (enterFrame f n ((darkOthers f s).modCtrl (·.framed f n))).units.cores := by
  have hpeers : ∀ t, (forRange 128 decidePeer t).units = t.units := fun t =>
    forAll_units (List.range 128) (fun k t => decidePeer_units k t) t
  have hshares : ∀ t, (forAll partNums (fun p t => if (t.part p).present then setShares p t else t) t).units.cores =
      t.units.cores := fun t => forAll_cores _ (fun p t => by simp) t
  simp only [commitFrame, hf]
  rw [hpeers, hshares, clearShares_cores]
  rfl

theorem enterFrame_ctrl (f : FrameImage) (n : Nat) (s : State) : (enterFrame f n s).ctrl = s.ctrl := by
  unfold enterFrame
  exact forAll_keeps (·.ctrl) _ (by exact fun _ _ => rfl) s

theorem enterFrame_part {f : FrameImage} {n k : Nat} {s : State} (hl : s.parts.length = 4) (hk : k < 4) :
    ((enterFrame f n s).part k).present = ((f.entries.getD k {}).cdCount != 0) ∧
      ((f.entries.getD k {}).cdCount ≠ 0 → ((enterFrame f n s).part k).frame = f.entries.getD k {}) := by
  refine forAll_brings (W := fun t => t.parts.length = 4) (a := k)
    (P := fun t => (t.part k).present = ((f.entries.getD k {}).cdCount != 0) ∧
      ((f.entries.getD k {}).cdCount ≠ 0 → (t.part k).frame = f.entries.getD k {}))
    (by revert k; decide) (fun p t ht => by simpa using ht) (fun t ht => ?_) (fun p t ht hold => ?_) hl
  · rw [State.modPart_part_same _ _ _ (by omega)]
    exact ⟨rfl, fun h => if_neg h⟩
  · by_cases hp : k = p
    · subst hp
      rw [State.modPart_part_same _ _ _ (by omega)]
      exact ⟨rfl, fun h => if_neg h⟩
    · rw [State.modPart_part_other _ _ _ _ hp]
      exact hold

theorem Ctrl.loader_of_steady {a b : Ctrl} (h : a.steady = b.steady) :
    a.pendingFrame = b.pendingFrame ∧ a.frameLoader = b.frameLoader :=
  ⟨(congrArg Ctrl.pendingFrame h :), (congrArg Ctrl.frameLoader h :)⟩

theorem commitFrame_ctrl {f : FrameImage} {n : Nat} {s : State} (hf : s.ctrl.pendingFrame = some f) :
    (commitFrame n s).ctrl.pendingFrame = none ∧
      (commitFrame n s).ctrl.frameLoader = (s.ctrl.framed f n).frameLoader := by
  have hc : (commitFrame n s).ctrl.steady = (enterFrame f n ((darkOthers f s).modCtrl (·.framed f n))).ctrl.steady :=
    (congrArg (fun x : State => x.ctrl) (commitFrame_cores n hf) :)
  have hl : (darkOthers f s).ctrl.frameLoader = s.ctrl.frameLoader :=
    (congrArg (fun x : State => x.ctrl.frameLoader) (darkOthers_units f s) :)
  rw [enterFrame_ctrl] at hc
  obtain ⟨hpend, hload⟩ := Ctrl.loader_of_steady hc
  refine ⟨hpend, hload.trans ?_⟩
  simp only [State.modCtrl_ctrl, Ctrl.framed, hl]

theorem commitFrame_part {f : FrameImage} {n k : Nat} {s : State} (hf : s.ctrl.pendingFrame = some f)
    (hl : s.parts.length = 4) (hk : k < 4) :
    ((commitFrame n s).part k).present = ((f.entries.getD k {}).cdCount != 0) ∧
      ((f.entries.getD k {}).cdCount ≠ 0 → ((commitFrame n s).part k).frame = f.entries.getD k {}) := by
  have hs : ((commitFrame n s).part k).steady =
      ((enterFrame f n ((darkOthers f s).modCtrl (·.framed f n))).part k).steady :=
    part_of_inStep (congrArg State.inStep (commitFrame_cores n hf)) k
  have htl : (darkOthers f s).parts.length = 4 := by
    have := congrArg (fun x : State => x.parts.length) (darkOthers_units f s)
    simpa [State.units, hl] using this
  obtain ⟨hp, hfr⟩ := enterFrame_part (f := f) (n := n) (s := (darkOthers f s).modCtrl (·.framed f n)) htl hk
  exact ⟨(Part.present_of_steady hs).trans hp, fun h => (Part.frame_of_steady hs).trans (hfr h)⟩

/-- The boundary of a frame image: its loader, and every partition's entry. -/
theorem frameBoundary_frame {f : FrameImage} {m : Nat} {s : State} (hw : s.whole = true)
    (hf : s.ctrl.pendingFrame = some f) :
    (frameBoundary m s).ctrl.pendingFrame = none ∧
      (frameBoundary m s).ctrl.frameLoader = (s.ctrl.framed f m).frameLoader ∧
      ∀ k < 4, ((frameBoundary m s).part k).present = ((f.entries.getD k {}).cdCount != 0) ∧
        ((f.entries.getD k {}).cdCount ≠ 0 → ((frameBoundary m s).part k).frame = f.entries.getD k {}) := by
  obtain ⟨-, hloader, hpending⟩ := advanceTo_ctrl (4000 * m) s
  obtain ⟨parts, -⟩ := s.whole_iff.mp hw
  have hl : (advanceTo (4000 * m) s).parts.length = 4 := by rw [(advanceTo_rest _ s).1, parts]
  have hf' : (advanceTo (4000 * m) s).ctrl.pendingFrame = some f := hpending.trans hf
  obtain ⟨h1, h2⟩ := commitFrame_ctrl (n := m) hf'
  have h3 := fun k hk => commitFrame_part (n := m) (k := k) hf' hl hk
  have hframed : ((advanceTo (4000 * m) s).ctrl.framed f m).frameLoader = (s.ctrl.framed f m).frameLoader := by
    simp only [Ctrl.framed, hloader]
  rw [hframed] at h2
  refine forAll_holds (fun t => t.ctrl.pendingFrame = none ∧ t.ctrl.frameLoader = (s.ctrl.framed f m).frameLoader ∧
    ∀ k < 4, (t.part k).present = ((f.entries.getD k {}).cdCount != 0) ∧
      ((f.entries.getD k {}).cdCount ≠ 0 → (t.part k).frame = f.entries.getD k {})) partNums (fun p _ t ht => ?_)
    ⟨h1, h2, h3⟩
  obtain ⟨ht1, ht2, ht3⟩ := ht
  obtain ⟨hb1, hb2⟩ := passBoundary_loader p t
  refine ⟨hb1.trans ht1, hb2.trans ht2, fun k hk => ?_⟩
  obtain ⟨hp, hfr⟩ := passBoundary_frame p t k
  rw [hp, hfr]
  exact ht3 k hk

/-! ## A partition reset -/

/-- Without the hubs. -/
def State.hubless (s : State) : State := { s with hubs := [] }

theorem State.modHub_hubless (s : State) (h : Nat) (f : Hub → Hub) :
    (s.modHub h f).units.hubless = s.units.hubless := (rfl)

theorem State.hubless_of_units {s t : State} (h : t.units = s.units) : t.units.hubless = s.units.hubless :=
  congrArg State.hubless h

theorem State.setHub_hubless (s : State) (h : Nat) (r : HubRes) : (s.setHub h r).units.hubless = s.units.hubless := by
  have hsend : ∀ (site : Nat) (p : Option Nat) (f : FaultRec) (t : State), (sendFault site p f t).units = t.units :=
    fun site p f t => by simp [sendFault]
  have hf : ∀ f t, (hubFault h f t).units.hubless = t.units.hubless := fun f t =>
    (hubless_of_units (hsend ..)).trans (t.modHub_hubless h _)
  have hm : (s.modHub h fun _ => r.hub).units.hubless = s.units.hubless := s.modHub_hubless h _
  unfold State.setHub
  split
  · exact hm
  · exact (forAll_keeps (·.units.hubless) _ hf _).trans hm

/-- A partition's hub as its reset begins (R436, R437). -/
def resetHub (h : Nat) (t : State) : State :=
  let t := if (t.hub h).mem.state = 2 then t.setHub h (t.hub h).cleanAll else t
  t.modHub h fun b =>
    let share := b.pwr.share
    let b := b.fresh true
    { b with
      pwr := { b.pwr with share }
      mem := { b.mem with state := if b.mem.state = 3 then 1 else b.mem.state } }

theorem resetHub_hubless (h : Nat) (s : State) : (resetHub h s).units.hubless = s.units.hubless := by
  unfold resetHub
  refine (State.modHub_hubless _ h _).trans ?_
  split
  · exact s.setHub_hubless h _
  · rfl

theorem resetHub_hub_other {h k : Nat} (hk : k ≠ h) (s : State) : (resetHub h s).hub k = s.hub k := by
  unfold resetHub
  refine (State.modHub_hub_other _ h k _ hk).trans ?_
  split
  · exact State.setHub_hub_other hk _ s
  · rfl

/-- A partition's ports and hubs as its reset begins. -/
def resetHubs (e : FrameEntry) (s : State) : State := forAll e.stacks resetHub (forAll e.ports resetPort s)

/-- A partition's dies and update dies as its reset begins. -/
def resetDies (e : FrameEntry) (s : State) : State :=
  forAll e.uds (fun u t => t.modUd u fun x => { pwr := { share := x.pwr.share } })
    (forAll e.cds (fun d t => t.modCd d fun c => { c.fresh with pwr := c.pwr.sharesOnly }) s)

theorem startPartReset_eq {p : Nat} {s : State} (hp : (s.part p).present = true) (hr : (s.part p).resetting = false) :
    ∃ tick, startPartReset p s =
      (resetDies (s.part p).frame (resetHubs (s.part p).frame s)).modPart p (·.fresh tick) := by
  simp only [startPartReset, hp, hr]
  exact ⟨_, rfl⟩

theorem startPartReset_idle {p : Nat} {s : State} (h : (s.part p).present = false ∨ (s.part p).resetting = true) :
    startPartReset p s = s := by
  unfold startPartReset
  rw [if_pos]
  rcases h with h | h <;> simp [h]

theorem execPartReset_granted {s : State} {b p : Nat} (hb : b < 4) (hp : p < 4)
    (h : s.grants b winCtrl (0x22000 + 0x100 * p) true) : exec (.partReset b p) s = .next (startPartReset p s) := by
  have hw := hostWrite_ctrl h (by omega)
  have hwrite : writeCtrl (0x22000 + 0x100 * p) 1 s = startPartReset p s := by
    rw [writeCtrl, if_neg (by simp; omega), if_neg (by simp; omega), if_pos (by simp; omega),
      if_pos (by simp [bit]), show (0x22000 + 0x100 * p) / 0x100 % 4 = p by omega]
  show onlyIf (b < 4 && p < 4) (hostWrite b winCtrl (0x22000 + 0x100 * p) 1 s) = _
  rw [hw, hwrite]
  simp [onlyIf, hb, hp]

theorem resetHubs_hubless (e : FrameEntry) (s : State) : (resetHubs e s).units.hubless = s.units.hubless :=
  (forAll_keeps (·.units.hubless) _ resetHub_hubless _).trans
    (State.hubless_of_units (forAll_units _ (fun n t => resetPort_units n t) s))

theorem FrameEntry.uds_nodup (e : FrameEntry) : e.uds.Nodup :=
  (List.nodup_range.map fun _ _ h => Nat.add_right_cancel h).filter _

/-- Each of a list of update dies changed in its own way. -/
theorem forAll_modUd {l : List Nat} (hl : l.Nodup) (f : Nat → Ud → Ud) {s : State} {u : Nat} (hu : u < s.uds.length) :
    (forAll l (fun i t => t.modUd i (f i)) s).ud u = if u ∈ l then f u (s.ud u) else s.ud u := by
  unfold forAll
  induction l generalizing s with
  | nil => simp
  | cons i l ih =>
    obtain ⟨hi, hl⟩ := List.nodup_cons.mp hl
    rw [List.foldl_cons, ih hl (by simpa using hu)]
    by_cases h : u = i
    · subst h
      rw [if_neg hi, if_pos List.mem_cons_self, State.modUd_ud_same _ _ _ hu]
    · rw [State.modUd_ud_other _ _ _ _ h]
      simp [h]

section
variable {p : Nat} {s : State} (hw : s.whole = true) (hp : (s.part p).present = true)
  (hr : (s.part p).resetting = false)
include hw hp hr

theorem startPartReset_cd {d : Nat} (hd : d < 16) : (startPartReset p s).cd d =
    if d ∈ (s.part p).frame.cds then { (s.cd d).fresh with pwr := (s.cd d).pwr.sharesOnly } else s.cd d := by
  obtain ⟨tick, h⟩ := startPartReset_eq hp hr
  have hc : (resetHubs (s.part p).frame s).cds = s.cds := (congrArg State.cds (resetHubs_hubless _ s) :)
  obtain ⟨-, -, cds, -⟩ := s.whole_iff.mp hw
  have hcd : (resetHubs (s.part p).frame s).cd d = s.cd d := by simp only [State.cd, hc]
  rw [h, State.modPart_cd, resetDies, forAll_cd _ (by simp),
    forAll_modCd (FrameEntry.cds_nodup _) (fun _ c => { c.fresh with pwr := c.pwr.sharesOnly }) (by rw [hc]; omega), hcd]

theorem startPartReset_ud {u : Nat} (hu : u < 32) : (startPartReset p s).ud u =
    if u ∈ (s.part p).frame.uds then { pwr := { share := (s.ud u).pwr.share } } else s.ud u := by
  obtain ⟨tick, h⟩ := startPartReset_eq hp hr
  have hc : (resetHubs (s.part p).frame s).uds = s.uds := (congrArg State.uds (resetHubs_hubless _ s) :)
  obtain ⟨-, -, -, -, uds, -⟩ := s.whole_iff.mp hw
  have hk : (forAll (s.part p).frame.cds (fun d t => t.modCd d fun c => { c.fresh with pwr := c.pwr.sharesOnly })
      (resetHubs (s.part p).frame s)).uds = s.uds := (forAll_keeps (·.uds) _ (by simp) _).trans hc
  rw [h, State.modPart_ud, resetDies,
    forAll_modUd (FrameEntry.uds_nodup _) (fun _ x => { pwr := { share := x.pwr.share } }) (by rw [hk]; omega)]
  simp only [State.ud, hk]

omit hw in
theorem startPartReset_hub {h : Nat} (hh : h ∉ (s.part p).frame.stacks) : (startPartReset p s).hub h = s.hub h := by
  obtain ⟨tick, ht⟩ := startPartReset_eq hp hr
  have hdies : ∀ e t, (resetDies e t).hub h = t.hub h := fun e t =>
    (forAll_keeps (·.hub h) _ (by simp) _).trans (forAll_keeps (·.hub h) _ (by simp) _)
  have hports : (forAll (s.part p).frame.ports resetPort s).hub h = s.hub h :=
    (congrArg (fun x : State => x.hub h) (forAll_units _ (fun n t => resetPort_units n t) s) :)
  rw [ht, State.modPart_hub, hdies]
  refine (forAll_holds (fun t => t.hub h = s.hub h) _ (fun k hk t ht => ?_) hports)
  have hne : h ≠ k := fun e => hh (e ▸ hk)
  exact (resetHub_hub_other hne t).trans ht

omit hw in
theorem startPartReset_pending : (startPartReset p s).pending = s.pending := by
  obtain ⟨tick, h⟩ := startPartReset_eq hp hr
  have hdies : ∀ e t, (resetDies e t).pending = t.pending := fun e t =>
    (forAll_keeps (·.pending) _ (by simp) _).trans (forAll_keeps (·.pending) _ (by simp) _)
  rw [h, State.modPart_pending, hdies]
  exact (congrArg State.pending (resetHubs_hubless _ s) :)

theorem startPartReset_part (hlt : p < 4) : ∃ tick q, (startPartReset p s).part p = Part.fresh q tick ∧
    q.present = true ∧ q.frame = (s.part p).frame := by
  obtain ⟨tick, h⟩ := startPartReset_eq hp hr
  have hparts : ∀ e t, (resetDies e t).parts = t.parts := fun e t =>
    (forAll_keeps (·.parts) _ (by simp) _).trans (forAll_keeps (·.parts) _ (by simp) _)
  have hu := resetHubs_hubless (s.part p).frame s
  have hl : (resetHubs (s.part p).frame s).parts.length = 4 := by
    obtain ⟨parts, -⟩ := s.whole_iff.mp hw
    have := (congrArg (fun x : State => x.parts.length) hu :)
    simpa [State.units, State.hubless, parts] using this
  have hs : ((resetHubs (s.part p).frame s).part p).steady = (s.part p).steady := by
    rw [← State.part_units, ← State.part_units]
    exact (congrArg (fun x : State => x.part p) hu :)
  rw [h, State.modPart_part_same _ _ _ (by rw [hparts]; omega)]
  refine ⟨tick, _, rfl, ?_, ?_⟩
  · simp only [State.part, hparts]
    exact (Part.present_of_steady hs).trans hp
  · simp only [State.part, hparts]
    exact Part.frame_of_steady hs

end

end Sys2Proof.Machine
end

section
/-! PROOF. O57: the boundary of a tick, of a job image and of a frame image, and partition resets. -/

namespace Sys2Proof.Machine

section
variable {p : Nat} {s : State} (hw : s.whole = true) (hp : p < 4) (hpres : (s.part p).present = true)
  (hpow : s.powered = true)

theorem whole_enterTick (p : Nat) {s : State} (hw : s.whole = true) : (enterTick p s).whole = true := by
  simpa [enterTick] using hw

include hpres hpow

theorem passBoundary_framed : (enterTick p s).Framed (passBoundary p s) := by
  rw [passBoundary_eq hpres hpow]
  exact atBoundary_framed p _ _

theorem passBoundary_time (ht : s.boundaryTime p ((s.part p).disc.tick + 1) < 2 ^ 64) :
    (passBoundary p s).ctrl.clock.time.toNat =
      max s.ctrl.clock.time.toNat (s.boundaryTime p ((s.part p).disc.tick + 1)) := by
  rw [(passBoundary_framed hpres hpow).time]
  exact advanceTo_time hpow ht

theorem passBoundary_outside
    (hq : ∀ g ∈ (s.part p).stream.queued, ∀ e ∈ g.dies, e.die ∈ (s.part p).frame.cds)
    (hw : s.whole = true) (hp : p < 4) {d : Nat} (hd : d ∉ (s.part p).frame.cds) :
    ((passBoundary p s).cd d).seq = (s.cd d).seq ∧ ((passBoundary p s).cd d).eng = (s.cd d).eng := by
  have hin : (enterTick p s).inside p (s.part p).frame.cds := by
    rw [State.inside, enterTick_same p s hw hp]
    exact ⟨rfl, hq⟩
  obtain ⟨-, h⟩ := (spares_atBoundary ((s.part p).disc.tick + 1) (enterTick p s)).spares hin
  have hcd := h d hd
  rw [enterTick_cd] at hcd
  rwa [passBoundary_eq hpres hpow]

include hw hp

/-- A boundary at which nothing commits. -/
theorem passBoundary_quiet (hj : s.jobDue p ((s.part p).disc.tick + 1) = false) :
    ((passBoundary p s).part p).disc.tick = (s.part p).disc.tick + 1 ∧
      ((passBoundary p s).part p).active = (s.part p).active ∧
      ((passBoundary p s).part p).pendingImg = (s.part p).pendingImg ∧
      ∀ h, ((passBoundary p s).hub h).mem.stack = (s.hub h).mem.stack ∧
        ((passBoundary p s).hub h).mem.cache = (s.hub h).mem.cache := by
  have hl : (enterTick p s).Lasts (passBoundary p s) := by
    refine State.lasts_of ?_
    rw [passBoundary_eq hpres hpow, atBoundary_eq, afterCommit_lasting, commitDue, enterTick_due hw hp, hj]
    rfl
  have hpart := enterTick_same p s hw hp
  refine ⟨by rw [hl.tick, hpart], by rw [hl.active, hpart], by rw [hl.pendingImg, hpart], fun h => ?_⟩
  have hh := hl.hub h
  rw [enterTick_hub] at hh
  exact ⟨(congrArg (fun b : Hub => b.mem.stack) hh :), (congrArg (fun b : Hub => b.mem.cache) hh :)⟩

/-- A boundary at which a job image commits. -/
theorem passBoundary_commits {i : JobImage} (hj : s.jobDue p ((s.part p).disc.tick + 1) = true)
    (hi : (s.part p).pendingImg = some i) :
    ((passBoundary p s).part p).active = some i ∧ ((passBoundary p s).part p).pendingImg = none ∧
      ((passBoundary p s).part p).loader = ((s.part p).committed i ((s.part p).disc.tick + 1)).loader ∧
      ∀ h ∈ (s.part p).frame.stacks, h < 32 → i.fits h ((passBoundary p s).hub h) := by
  have hwe := whole_enterTick p hw
  have hpart := enterTick_same p s hw hp
  have hie : ((enterTick p s).part p).pendingImg = some i := by rw [hpart]; exact hi
  obtain ⟨parts, -⟩ := (enterTick p s).whole_iff.mp hwe
  have hl : (commitJob p ((s.part p).disc.tick + 1) (enterTick p s)).Lasts (passBoundary p s) := by
    refine State.lasts_of ?_
    rw [passBoundary_eq hpres hpow, atBoundary_eq, afterCommit_lasting, commitDue, enterTick_due hw hp, hj]
    rfl
  have hc : ((commitJob p ((s.part p).disc.tick + 1) (enterTick p s)).part p).steady.noStream.noTick =
      (((enterTick p s).part p).committed i ((s.part p).disc.tick + 1)).steady.noStream.noTick := by
    rw [← State.part_images, commitJob_images hie, State.part_images, State.modPart_part_same _ _ _ (by omega)]
  rw [hpart] at hc
  obtain ⟨hact, hpend, hload⟩ := Part.images_of hc
  refine ⟨(hl.active p).trans hact, (hl.pendingImg p).trans hpend, (hl.loader p).trans hload, fun h hm hh => ?_⟩
  have hf := commitJob_fits (n := (s.part p).disc.tick + 1) hie hwe hh (by rw [hpart]; exact hm)
  have hs := hl.hub h
  exact ⟨(congrArg (fun b : Hub => b.mem.chanUse) hs :).trans hf.1,
    (congrArg (fun b : Hub => b.mem.usable) hs :).trans hf.2⟩

section
variable {g : SegmentImg} (hj : s.jobDue p ((s.part p).disc.tick + 1) = false)
  (hb : s.stepBegins p ((s.part p).disc.tick + 1) = true) (ha : (s.part p).stream.abortReq = false)
  (hq : (s.part p).stream.queued.head? = some g)
include hj hb ha hq

/-- A boundary at which nothing commits and a step begins leaves of the step what its beginning does. -/
theorem passBoundary_begins : (passBoundary p s).units.cores.inStep =
    (beginStep p ((s.part p).disc.tick + 1) g (publishStep p g.step (enterTick p s))).units.cores.inStep := by
  have hpart := enterTick_same p s hw hp
  rw [passBoundary_eq hpres hpow]
  refine atBoundary_of_begins (whole_enterTick p hw) hp (by rw [hpart]) ?_ ?_ (by rw [hpart]; exact ha)
    (by rw [hpart]; exact hq)
  · rw [enterTick_due hw hp, hj]
  · rw [enterTick_begins hw hp, hb]

theorem passBoundary_stream :
    let st := ((passBoundary p s).part p).stream
    st.state = 2 ∧ st.step = g.step ∧ st.stepStart = (s.part p).disc.tick + 1 ∧ st.stepTicks = g.ticks ∧
      st.queued = (s.part p).stream.queued.tail := by
  have hs := part_of_inStep (passBoundary_begins hw hp hpres hpow hj hb ha hq) p
  obtain ⟨h1, h2, h3, h4, h5⟩ := beginStep_stream (n := (s.part p).disc.tick + 1) (g := g)
    (s := publishStep p g.step (enterTick p s)) (by simpa using whole_enterTick p hw) hp
  have hqueue : ((publishStep p g.step (enterTick p s)).part p).stream.queued = (s.part p).stream.queued := by
    rw [Part.queued_of_steady (part_of_inStep (publishStep_inStep p g.step (enterTick p s)) p), enterTick_same p s hw hp]
  rw [hqueue] at h5
  obtain ⟨hs1, hs2, hs3, hs4⟩ := Part.step_of_steady hs
  exact ⟨hs1.trans h1, hs2.trans h2, hs3.trans h3, hs4.trans h4, (Part.queued_of_steady hs).trans h5⟩

/-- A die of the partition on which a step has begun. -/
theorem passBoundary_die {d : Nat} (hd : d ∈ (s.part p).frame.cds) (hd16 : d < 16) (hcut : s.isCut (.cd d) = false) :
    ∃ c : Cd, c.inStep = (s.cd d).inStep ∧ ((passBoundary p s).cd d).inStep =
      (let o := if g.opening = true then c.opened else c
       { o with seq := g.begun ((s.part p).disc.tick + 1) d o.seq }).inStep := by
  have hpub := publishStep_inStep p g.step (enterTick p s)
  have hmem : d ∈ (publishStep p g.step (enterTick p s)).diesOf p := by
    have hfr : ((publishStep p g.step (enterTick p s)).part p).frame = (s.part p).frame :=
      (Part.frame_of_steady (part_of_inStep hpub p)).trans (enterTick_frame p s p).2
    have hcd : (publishStep p g.step (enterTick p s)).ctrl.module.cutCd = s.ctrl.module.cutCd :=
      (cutCd_of_inStep hpub).trans (enterTick_ctrl p s).1
    rw [State.diesOf, hfr]
    refine List.mem_filter.mpr ⟨hd, ?_⟩
    simpa [State.isCut, hcd] using hcut
  refine ⟨(publishStep p g.step (enterTick p s)).cd d, (cd_of_inStep hpub d).trans (by rw [enterTick_cd]), ?_⟩
  rw [cd_of_inStep (passBoundary_begins hw hp hpres hpow hj hb ha hq) d,
    beginStep_cd (by simpa using whole_enterTick p hw) hd16 hmem]

theorem passBoundary_events {d : Nat} (hd : d ∈ (s.part p).frame.cds) (hd16 : d < 16) (hcut : s.isCut (.cd d) = false)
    {e : Nat} (he : e < 64) :
    ((passBoundary p s).cd d).seq.ev.getD (64 * (g.step % 2) + e) 0 = 0 ∧
      ((passBoundary p s).cd d).seq.ev.getD (64 * ((g.step + 1) % 2) + e) 0 =
        (s.cd d).seq.ev.getD (64 * ((g.step + 1) % 2) + e) 0 := by
  obtain ⟨c, hc, h⟩ := passBoundary_die hw hp hpres hpow hj hb ha hq hd hd16 hcut
  obtain ⟨hcev, -, -⟩ := Cd.of_inStep hc
  have hev : ((passBoundary p s).cd d).seq.ev = (c.seq.clearBank g.step).ev := by
    refine (Cd.of_inStep h).1.trans ?_
    show (g.begun _ d _).ev = _
    rw [SegmentImg.begun_ev]
    split <;> rfl
  rw [hev, ← hcev]
  exact c.seq.clearBank_getD g.step he

theorem passBoundary_opened (ho : g.opening = true) {d : Nat} (hd : d ∈ (s.part p).frame.cds) (hd16 : d < 16)
    (hcut : s.isCut (.cd d) = false) : ((passBoundary p s).cd d).seq.sregs = List.replicate 56 0 ∧
      (∀ m, ((passBoundary p s).mxe d m).tiles = List.replicate 4 {}) ∧
      ((passBoundary p s).cd d).eng.pepper.live = (s.cd d).eng.pepper.seed := by
  obtain ⟨c, hc, h⟩ := passBoundary_die hw hp hpres hpow hj hb ha hq hd hd16 hcut
  simp only [ho, if_true] at h
  obtain ⟨-, -, hcpep⟩ := Cd.of_inStep hc
  obtain ⟨-, hsregs, hpep⟩ := Cd.of_inStep h
  refine ⟨hsregs.trans ?_, fun m => ?_, by rw [hpep, ← hcpep]; rfl⟩
  · show (g.begun _ d c.opened.seq).sregs = _
    rw [SegmentImg.begun_sregs]
    rfl
  · rw [State.mxe, ← Cd.inStep_tiles, h, Cd.inStep_tiles]
    exact c.opened_tiles m

theorem passBoundary_kept (ho : g.opening = false) {d : Nat} (hd : d ∈ (s.part p).frame.cds) (hd16 : d < 16)
    (hcut : s.isCut (.cd d) = false) : ((passBoundary p s).cd d).seq.sregs = (s.cd d).seq.sregs := by
  obtain ⟨c, hc, h⟩ := passBoundary_die hw hp hpres hpow hj hb ha hq hd hd16 hcut
  simp only [ho, Bool.false_eq_true, if_false] at h
  obtain ⟨-, hcsregs, -⟩ := Cd.of_inStep hc
  obtain ⟨-, hsregs, -⟩ := Cd.of_inStep h
  refine hsregs.trans ?_
  show (g.begun _ d c.seq).sregs = _
  rw [SegmentImg.begun_sregs, hcsregs]

end

end

/-! ## The commands -/

theorem execTickBoundary_quiet {p : Nat} {s : State} (hp : p < 4)
    (hf : (s.part p).present = true → s.frameDue (s.boundaryTime p ((s.part p).disc.tick + 1) / 4000) = false) :
    exec (.tickBoundary p) s = .next (passBoundary p s) := by
  have hno : ((s.part p).present && s.frameDue (s.boundaryTime p ((s.part p).disc.tick + 1) / 4000)) = false := by
    cases hpres : (s.part p).present with
    | false => rfl
    | true => simpa using hf hpres
  show onlyIf (p < 4) _ = _
  simp only [hno, Bool.false_eq_true, if_false]
  simp [onlyIf, hp]

theorem passBoundary_idle {p : Nat} {s : State} (h : (s.part p).present = false ∨ s.ctrl.module.stage = 0) :
    passBoundary p s = s := by
  unfold passBoundary
  rw [if_neg]
  rcases h with h | h <;> simp [State.powered, h]

theorem frameDue_powered {m : Nat} {s : State} (h : s.frameDue m = true) : s.ctrl.module.stage ≠ 0 := by
  simp only [State.frameDue, State.powered, Bool.and_eq_true] at h
  simpa using h.1.2

theorem execWindroseCommit_part {p : Nat} {s : State} (hp : p < 4) : exec (.windroseCommit (.part p)) s =
    .next (if s.jobDue p ((s.part p).disc.tick + 1) then passBoundary p s else s) := by
  show onlyIf (WrTarget.part p).wf _ = _
  simp [onlyIf, WrTarget.wf, hp]

theorem execWindroseCommit_frame (s : State) : exec (.windroseCommit .frame) s =
    .next (if s.frameDue (max s.ctrl.frameLoader.pendingTick ((s.now + 3999) / 4000)) then
      frameBoundary (max s.ctrl.frameLoader.pendingTick ((s.now + 3999) / 4000)) s else s) := by
  have h : ceilDiv s.now 4000 = (s.now + 3999) / 4000 := by simp [ceilDiv]
  show onlyIf true (if s.frameDue (max _ (ceilDiv s.now 4000)) then frameBoundary (max _ (ceilDiv s.now 4000)) s else s) = _
  rw [h]
  rfl

/-- Whether the hubs of a partition that are there have retrained. -/
def State.retrained (s : State) (p : Nat) : Bool :=
  (s.part p).frame.stacks.all fun h => !(s.live (.stack h)) || (s.hub h).mem.state != 1

theorem execPartResetDone_idle {p : Nat} {s : State} (hp : p < 4) (ms : Nat)
    (h : (s.part p).resetting = false ∨ s.retrained p = false) : exec (.partResetDone p ms) s = .next s := by
  have hno : ((s.part p).resetting && s.retrained p) = false := by rcases h with h | h <;> simp [h]
  show onlyIf (p < 4) (if (s.part p).resetting && s.retrained p then _ else s) = _
  rw [hno]
  simp [onlyIf, hp]

theorem execPartResetDone_ends {p : Nat} {s : State} (hw : s.whole = true) (hp : p < 4) (ms : Nat)
    (hr : (s.part p).resetting = true) (hh : s.retrained p = true) : exec (.partResetDone p ms) s = .next
      (((s.modPart p fun k => { k with
        resetting := false
        resetStep := 0
        resets := min (k.resets + 1) 0xFFFFFFFF
        resetMs := min ms 0xFFFFFFFF }).modLog fun l =>
          { l with live := { l.live with partResets := min (l.live.partResets + 1) 0xFFFFFFFF } }).modBp
            (s.part p).frame.hostPort fun k => k.telem (.partitionResetDone p)) := by
  obtain ⟨parts, -⟩ := s.whole_iff.mp hw
  have hyes : ((s.part p).resetting && s.retrained p) = true := by simp [hr, hh]
  have hport : ∀ f : Part → Part, (f (s.part p)).frame = (s.part p).frame →
      ((s.modPart p f).part p).frame.hostPort = (s.part p).frame.hostPort := fun f hf => by
    rw [State.modPart_part_same _ _ _ (by omega), hf]
  show onlyIf (p < 4) (if (s.part p).resetting && s.retrained p then _ else s) = _
  rw [hyes, if_pos rfl, ← hport (fun k => { k with
        resetting := false
        resetStep := 0
        resets := min (k.resets + 1) 0xFFFFFFFF
        resetMs := min ms 0xFFFFFFFF }) rfl]
  simp only [onlyIf, hp, decide_true, if_true]
  rfl

end Sys2Proof.Machine

open Sys2Proof.Machine in
/-- Settles O57: a boundary in its parts, the commit, the stream's step and what follows (`atBoundary_eq`), each of which is
read from what the others keep; and a partition reset unit by unit. -/
theorem boundaries : Obligations.Boundaries := by
  intro s p hw hmem hp
  refine ⟨fun h => ?_, fun hpres hstage hquiet htime => ?_, fun hj => ?_, ⟨fun hf => ?_, fun f hf hdue => ?_⟩,
    fun b hb hg => ⟨fun h => ?_, fun hpres hr => ?_⟩, fun ms => ⟨fun h => ?_, fun hr hwhole => ?_⟩⟩
  · rw [execTickBoundary_quiet hp fun hpres => ?_, passBoundary_idle h]
    rw [Bool.eq_false_iff]
    intro hdue
    rcases h with h | h
    · rw [h] at hpres
      cases hpres
    · exact frameDue_powered hdue h
  · have hpow : s.powered = true := by simpa [State.powered] using hstage
    have hframed := passBoundary_framed hpres hpow
    obtain ⟨hpres', hframe'⟩ := enterTick_frame p s p
    refine ⟨passBoundary p s, execTickBoundary_quiet hp fun _ => hquiet, passBoundary_time hpres hpow htime,
      hframed.pending.trans (enterTick_pending p s), (hframed.present p).trans (hpres'.trans hpres),
      (hframed.frame p).trans hframe', fun hq d hd => passBoundary_outside hpres hpow hq hw hp hd,
      fun d _ => (hframed.pad d).trans (enterTick_pad p s d), fun hj => ?_, fun i hj hi => ?_,
      fun g hj hb ha hq => ?_⟩
    · obtain ⟨htick, hact, hpend, hhub⟩ := passBoundary_quiet hw hp hpres hpow hj
      exact ⟨htick, hact, hpend, fun h _ => hhub h⟩
    · obtain ⟨hact, hpend, hload, hfits⟩ := passBoundary_commits hw hp hpres hpow hj hi
      exact ⟨by rw [execWindroseCommit_part hp, if_pos hj], hact, hpend, hload, hfits⟩
    · obtain ⟨h1, h2, h3, h4, h5⟩ := passBoundary_stream hw hp hpres hpow hj hb ha hq
      refine ⟨h1, h2, h3, h4, h5, fun d hd hd16 hcut => ⟨fun e he => ?_, fun ho => ?_, fun ho => ?_⟩⟩
      · exact passBoundary_events hw hp hpres hpow hj hb ha hq hd hd16 hcut he
      · obtain ⟨hs, ht, hpep⟩ := passBoundary_opened hw hp hpres hpow hj hb ha hq ho hd hd16 hcut
        exact ⟨hs, fun m _ => ht m, hpep⟩
      · exact passBoundary_kept hw hp hpres hpow hj hb ha hq ho hd hd16 hcut
  · rw [execWindroseCommit_part hp, hj]
    rfl
  · rw [execWindroseCommit_frame, if_neg (by simpa using hf)]
  · obtain ⟨hpend, hload, hparts⟩ := frameBoundary_frame
      (m := max s.ctrl.frameLoader.pendingTick ((s.now + 3999) / 4000)) hw hf
    exact ⟨_, by rw [execWindroseCommit_frame, if_pos hdue], hpend, hload, hparts⟩
  · rw [execPartReset_granted hb hp hg, startPartReset_idle h]
  · obtain ⟨tick, q, hq, hqp, hqf⟩ := startPartReset_part hw hpres hr hp
    refine ⟨startPartReset p s, execPartReset_granted hb hp hg, ?_⟩
    rw [hq]
    refine ⟨rfl, rfl, hqf, hqp, rfl, rfl, rfl, rfl, rfl, fun d hd => ?_, fun u hu => ?_,
      fun h _ hh => startPartReset_hub hpres hr hh, startPartReset_pending hpres hr⟩
    · rw [startPartReset_cd hw hpres hr hd]
      split <;> rfl
    · rw [startPartReset_ud hw hpres hr hu]
      split <;> rfl
  · exact execPartResetDone_idle hp ms h
  · exact execPartResetDone_ends hw hp ms hr hwhole

end

section
/-! PROOF. A sound scratchpad (12 R285, R289 to R293): a span of it reads as its bytes and changes nothing, and a span
written holds the bytes written, every other byte staying. -/

namespace Sys2Proof.Machine

/-! ## Reading -/

/-- A change of a die is what it makes of the die as it is. -/
theorem State.modCd_congr (s : State) (d : Nat) {f g : Cd → Cd} (h : f (s.cd d) = g (s.cd d)) : s.modCd d f = s.modCd d g := by
  have : modAt s.cds d f = modAt s.cds d g := by
    apply List.ext_getElem?
    intro j
    rw [modAt_getElem?, modAt_getElem?]
    split
    · next e =>
      subst e
      cases hj : s.cds[j]? with
      | none => rfl
      | some c => simpa [State.cd, List.getD_eq_getElem?_getD, hj] using h
    · rfl
  simp only [State.modCd, this]

/-- A die changed into itself is no change. -/
theorem State.modCd_same (s : State) (d : Nat) {f : Cd → Cd} (h : f (s.cd d) = s.cd d) : s.modCd d f = s := by
  rw [s.modCd_congr d (g := id) h, State.modCd, modAt_same s.cds d id fun _ _ => rfl]

theorem readScratchLine_sound {s : State} {d : Nat} (h : (s.pad d).sound = true) (src l : Nat) :
    readScratchLine d src l s = (s, some ((s.pad d).data l)) := by
  have hr := LineStore.readTwice_sound _ l l s.free h
  have hs : (s.modScratch d fun c => { c with store := (s.cd d).scratch.store }) = s := State.modCd_same _ _ rfl
  unfold State.pad at hr ⊢
  simp only [readScratchLine, hr, hs]

/-- Byte by byte, a piece of a line of a memory is the span's part that it stands for. -/
theorem LineStore.slice_data (st : LineStore) {a n : Nat} {q : Piece} (hq : q.Of a n) :
    slice (st.data q.line) q.from' q.count = (List.range q.count).map fun i => look st.bytes (a + q.off + i) 0 := by
  obtain ⟨h1, h2, -⟩ := hq
  rw [LineStore.data, Memory.read, slice_map_range (fun i => look st.bytes (64 * q.line + i) 0) h2]
  simp only [h1, Nat.add_assoc]

/-- A span of a sound scratchpad reads as its bytes. -/
theorem readScratch_sound {s : State} {d : Nat} (h : (s.pad d).sound = true) (src a n : Nat) :
    readScratch d src a n s = { state := s, chunks := cleanChunks (fun i => look (s.pad d).bytes i 0) a n } := by
  refine foldl_done (P := fun done (x : SpanRes) =>
    x = { state := s, chunks := done.map (cleanChunk (fun i => look (s.pad d).bytes i 0) a) }) rfl ?_
  rintro done q _ hq rfl
  simp only [readScratchLine_sound h, Option.map_some, LineStore.slice_data _ (pieces_of hq), List.map_append,
    List.map_cons, List.map_nil, Option.isSome_some, if_true]
  rfl

/-- The bytes of a span of a sound scratchpad. -/
theorem chunkBytes_scratch (s : State) (d a n : Nat) :
    chunkBytes (cleanChunks (fun i => look (s.pad d).bytes i 0) a n) = s.padBytes d a n := chunkBytes_cleanChunks ..

/-- A span every byte of which came is sent as its bytes. -/
theorem sentBytes_cleanChunks (salt : Nat) (f : Nat → Byte) (a n : Nat) :
    sentBytes salt (cleanChunks f a n) = (List.range n).map fun i => f (a + i) := by
  rw [← chunkBytes_cleanChunks, sentBytes, chunkBytes, cleanChunks, List.flatMap_map, List.flatMap_map]
  rfl

theorem badLines_cleanChunks (f : Nat → Byte) (a n : Nat) : badLines (cleanChunks f a n) = [] := by
  simp [badLines, cleanChunks, cleanChunk]

/-! ## Writing -/

/-- From s to t the scratchpad of die d alone has changed, and of its lines only the memory; it is sound and in canonical
form. -/
structure PadWork (d : Nat) (s t : State) : Prop where
  eq : t = s.modScratch d fun c => { c with store := t.pad d }
  sound : (t.pad d).sound = true
  wf : (t.pad d).bytes.wf = true

theorem State.modScratch_pad {s : State} {d : Nat} (hd : d < s.cds.length) (st : LineStore) :
    (s.modScratch d fun c => { c with store := st }).pad d = st := by
  rw [State.modScratch_eq, State.pad, State.modCd_cd_same _ _ _ hd]

theorem PadWork.refl {d : Nat} {s : State} (hs : (s.pad d).sound = true) (hw : (s.pad d).bytes.wf = true) :
    PadWork d s s := ⟨(State.modCd_same _ _ rfl).symm, hs, hw⟩

theorem PadWork.trans {d : Nat} {s t v : State} (a : PadWork d s t) (b : PadWork d t v) : PadWork d s v := by
  refine ⟨b.eq.trans ?_, b.sound, b.wf⟩
  conv => lhs; arg 1; rw [a.eq]
  exact State.modCd_modCd ..

/-- One line of a sound scratchpad patched by a piece of a span, or written as a whole. -/
theorem writeScratchPiece_sound {s : State} {d : Nat} (hd : d < s.cds.length) (hs : (s.pad d).sound = true)
    (hw : (s.pad d).bytes.wf = true) (src : Nat) {q : Piece} (hq : q.from' + q.count ≤ 64) {bs : List Byte}
    (hb : bs.length = q.count) :
    ∃ t, writeScratchPiece d src q bs s = (t, true) ∧ PadWork d s t ∧
      ∀ k, (t.pad d).data k = if k = q.line then patch ((s.pad d).data q.line) q.from' bs else (s.pad d).data k := by
  have hstore : ∀ l : List Byte, (s.modScratch d fun c => { c with store := c.store.write q.line q.line l }) =
      s.modScratch d fun c => { c with store := (s.pad d).write q.line q.line l } := fun l => s.modCd_congr d rfl
  have hset : ∀ l : List Byte, l.length = 64 → PadWork d s (s.modScratch d fun c =>
        { c with store := (s.pad d).write q.line q.line l }) ∧
      ∀ k, ((s.modScratch d fun c => { c with store := (s.pad d).write q.line q.line l }).pad d).data k =
        if k = q.line then l else (s.pad d).data k := fun l hl => by
    have hpad := s.modScratch_pad hd ((s.pad d).write q.line q.line l)
    refine ⟨⟨?_, ?_, ?_⟩, fun k => ?_⟩ <;> rw [hpad]
    · exact LineStore.write_sound _ _ _ _ hs
    · exact LineStore.put_wf _ _ _ _ _ hw
    · rw [LineStore.write_data hw, slice_whole hl]
  unfold writeScratchPiece
  split
  · next h64 =>
    have hpatch : patch ((s.pad d).data q.line) q.from' bs = bs := by
      simp [patch, show q.from' = 0 by omega, hb, h64]
    rw [hpatch, hstore]
    exact ⟨_, rfl, hset bs (hb.trans h64)⟩
  · have hread := LineStore.readTwice_sound _ q.line q.line s.free hs
    have hself : (s.modScratch d fun c => { c with store := s.pad d }) = s := s.modCd_same d rfl
    unfold State.pad at hread hself
    simp only [hread, hself, hstore]
    exact ⟨_, rfl, hset _ (by rw [patch_length (by simpa [hb] using hq), LineStore.data_length])⟩

/-- A byte of a memory, in its line. -/
theorem LineStore.data_getD (st : LineStore) (a : Nat) : (st.data (a / 64)).getD (a % 64) 0 = look st.bytes a 0 := by
  have h : a % 64 < 64 := Nat.mod_lt _ (by decide)
  simp [LineStore.data, Memory.read, List.getD_eq_getElem?_getD, h, Nat.div_add_mod]

/-- From s to t the bytes of die d's scratchpad from a on have become bs, and nothing else has changed. -/
structure PadWrote (d a : Nat) (bs : List Byte) (s t : State) : Prop extends PadWork d s t where
  wrote : ∀ x, look (t.pad d).bytes x 0 = if a ≤ x ∧ x < a + bs.length then bs.getD (x - a) 0 else look (s.pad d).bytes x 0

/-- A line patched is bytes written. -/
theorem PadWrote.of_patch {d l from' : Nat} {bs : List Byte} {s t : State} (h : PadWork d s t) (hb : from' + bs.length ≤ 64)
    (hdata : ∀ k, (t.pad d).data k = if k = l then patch ((s.pad d).data l) from' bs else (s.pad d).data k) :
    PadWrote d (64 * l + from') bs s t := by
  refine ⟨h, fun x => ?_⟩
  rw [← LineStore.data_getD, hdata]
  by_cases hx : x / 64 = l
  · subst hx
    rw [if_pos rfl, patch_getD (by simp; omega), LineStore.data_getD]
    by_cases hin : from' ≤ x % 64 ∧ x % 64 < from' + bs.length
    · rw [if_pos hin, if_pos (by omega), show x - (64 * (x / 64) + from') = x % 64 - from' by omega]
    · rw [if_neg hin, if_neg (by omega)]
  · rw [if_neg hx, LineStore.data_getD, if_neg (by omega)]

/-- Of a span of die d's scratchpad from a on that becomes bs, these pieces have been written. -/
structure PadPieces (d a : Nat) (bs : List Byte) (s t : State) (done : List Piece) : Prop extends PadWork d s t where
  wrote : ∀ q ∈ done, ∀ x, a + q.off ≤ x → x < a + q.off + q.count → look (t.pad d).bytes x 0 = bs.getD (x - a) 0
  kept : ∀ x, (∀ q ∈ done, x < a + q.off ∨ a + q.off + q.count ≤ x) → look (t.pad d).bytes x 0 = look (s.pad d).bytes x 0

theorem PadPieces.snoc {d a : Nat} {bs : List Byte} {s t v : State} {done : List Piece} {q : Piece}
    (h : PadPieces d a bs s t done) (hw : PadWrote d (a + q.off) (slice bs q.off q.count) t v) :
    PadPieces d a bs s v (done ++ [q]) := by
  obtain ⟨hwork, hw⟩ := hw
  rw [slice_length] at hw
  refine ⟨h.toPadWork.trans hwork, fun k hk x hl hr => ?_, fun x hno => ?_⟩
  · rw [hw]
    split
    · rw [slice_eq_map]
      simp [List.getD_eq_getElem?_getD, show x - (a + q.off) < q.count by omega,
        show q.off + (x - (a + q.off)) = x - a by omega]
    · next hx =>
      rcases List.mem_append.1 hk with hk | hk
      · exact h.wrote k hk x hl hr
      · rw [List.mem_singleton.1 hk] at hl hr
        exact absurd ⟨hl, hr⟩ hx
  · rw [hw, if_neg (by have := hno q (by simp); omega)]
    exact h.kept x fun k hk => hno k (by simp [hk])

/-- A span of a sound scratchpad written. -/
theorem writeScratch_sound {s : State} {d : Nat} (hd : d < s.cds.length) (hs : (s.pad d).sound = true)
    (hw : (s.pad d).bytes.wf = true) (src a : Nat) (bs : List Byte) :
    ∃ t, writeScratch d src a bs s = { state := t } ∧ PadWrote d a bs s t := by
  have key : ∃ t, writeScratch d src a bs s = { state := t } ∧ PadPieces d a bs s t (pieces a bs.length) := by
    refine foldl_done (P := fun done (x : SpanRes) => ∃ t, x = { state := t } ∧ PadPieces d a bs s t done)
      ⟨s, rfl, .refl hs hw, (fun _ h => nomatch h), fun _ _ => rfl⟩ ?_
    rintro done q _ hq ⟨t, rfl, ht⟩
    obtain ⟨h1, h2, -⟩ := pieces_of hq
    have hlen : (slice bs q.off q.count).length = q.count := slice_length ..
    obtain ⟨v, hv, hwork, hdata⟩ := writeScratchPiece_sound (s := t) (by rw [ht.eq]; simpa using hd) ht.sound ht.wf src h2 hlen
    refine ⟨v, by simp only [hv]; rfl, ht.snoc ?_⟩
    rw [h1]
    exact .of_patch hwork (by omega) hdata
  obtain ⟨t, ht, hp⟩ := key
  refine ⟨t, ht, hp.toPadWork, fun x => ?_⟩
  split
  · obtain ⟨q, hq, hq1, hq2⟩ := pieces_cover (a := a) (n := bs.length) (i := x - a) (by omega)
    exact hp.wrote q hq x (by omega) (by omega)
  · refine hp.kept x fun q hq => ?_
    obtain ⟨-, -, -, hstay, -⟩ := pieces_of hq
    omega

/-! ## A message's bytes -/

/-- Bytes written after bytes. -/
theorem PadWrote.append {d a : Nat} {bs cs : List Byte} {s t v : State} (h : PadWrote d a bs s t)
    (g : PadWrote d (a + bs.length) cs t v) : PadWrote d a (bs ++ cs) s v := by
  refine ⟨h.toPadWork.trans g.toPadWork, fun x => ?_⟩
  rw [g.wrote, h.wrote, List.length_append]
  by_cases h1 : a + bs.length ≤ x ∧ x < a + bs.length + cs.length
  · rw [if_pos h1, if_pos (by omega), List.getD_append_right _ _ _ _ (by omega),
      show x - (a + bs.length) = x - a - bs.length by omega]
  · rw [if_neg h1]
    by_cases h2 : a ≤ x ∧ x < a + bs.length
    · rw [if_pos h2, if_pos (by omega), List.getD_append _ _ _ _ (by omega)]
    · rw [if_neg h2, if_neg (by omega)]

theorem PadWrote.nothing {d a : Nat} {s : State} (hs : (s.pad d).sound = true) (hw : (s.pad d).bytes.wf = true) :
    PadWrote d a [] s s := ⟨.refl hs hw, fun x => by rw [if_neg (by simp)]⟩

/-- The lines of data none of which failed. -/
theorem dataLines_all (data : List Byte) :
    dataLines data [] = (List.range ((data.length + 63) / 64)).map fun i => (64 * i, (data.drop (64 * i)).take 64) := by
  simp [dataLines]

/-- The bytes of a message for a sound scratchpad, written line by line, are written. -/
theorem writeInbound_sound {s : State} {d : Nat} (hd : d < s.cds.length) (hs : (s.pad d).sound = true)
    (hw : (s.pad d).bytes.wf = true) (p off : Nat) (data : List Byte) :
    ∃ t, writeInbound p d 0xFFFF off data [] s =
        { state := t.modCoe d fun c => { c with inBytes := wrap64 c.inBytes data.length } } ∧ PadWrote d off data s t := by
  have key : ∀ k, 64 * k < data.length + 64 → ∃ t, ((List.range k).map fun i => (64 * i, (data.drop (64 * i)).take 64)).foldl
      (fun (acc : SpanRes) l => { writeScratch d unitCoe (off + l.1) l.2 acc.state with
        bad := firstBad acc.bad (writeScratch d unitCoe (off + l.1) l.2 acc.state).bad }) ({ state := s } : SpanRes) =
        { state := t } ∧ PadWrote d off (data.take (64 * k)) s t := by
    intro k
    induction k with
    | zero => exact fun _ => ⟨s, rfl, by simpa using PadWrote.nothing hs hw⟩
    | succ k ih =>
      intro hk
      obtain ⟨t, ht, hp⟩ := ih (by omega)
      obtain ⟨v, hv, hq⟩ := writeScratch_sound (s := t) (by rw [hp.eq]; simpa using hd) hp.sound hp.wf unitCoe (off + 64 * k)
        ((data.drop (64 * k)).take 64)
      refine ⟨v, ?_, ?_⟩
      · rw [List.range_succ, List.map_append, List.foldl_append, ht]
        simp only [List.map_cons, List.map_nil, List.foldl_cons, List.foldl_nil, hv]
        rfl
      · have hlen : (data.take (64 * k)).length = 64 * k := by rw [List.length_take]; omega
        rw [Nat.mul_succ, List.take_add]
        exact hp.append (by rwa [hlen])
  obtain ⟨t, ht, hp⟩ := key ((data.length + 63) / 64) (by omega)
  refine ⟨t, ?_, ?_⟩
  · simp only [writeInbound, dataLines_all, if_true, ht]
  · rwa [List.take_of_length_le (by omega)] at hp

end Sys2Proof.Machine
end

section
/-! PROOF. What arrives over the panel mesh (07 R201 to R203, 15 R380 to R383, R434): a PUT's bytes and their count, an early
shard, an update die's share, and a message that crosses the partition's border. -/

namespace Sys2Proof.Machine

/-! ## Stall counts that start again -/

/-- A record whose stall count starts again where f says so. -/
def RecState.restarted (f : RecState → Bool) (x : RecState) : RecState := if f x then { x with idle := 0 } else x

/-- The records of one step, those that f names restarted. -/
def StepRun.restarted (step : Nat) (f : RecState → Bool) (u : StepRun) : StepRun :=
  { u with recs := if u.step = step then u.recs.map (RecState.restarted f) else u.recs }

/-- The sequencer whose records of a step have been restarted. -/
def Seq.restarted (step : Nat) (f : RecState → Bool) (q : Seq) : Seq := { q with steps := q.steps.map (StepRun.restarted step f) }

theorem map_range_zip {α β : Type} (g : α → β) (l : List α) : ((List.range l.length).zip l).map (fun x => g x.2) = l.map g := by
  rw [show (fun x : Nat × α => g x.2) = g ∘ Prod.snd from rfl, ← List.map_map, List.map_snd_zip (by simp)]

/-- The records of one step of die e, as input for die d restarts them. -/
def StepRun.cameAt (e d step : Nat) (f : RecState → Bool) (u : StepRun) : StepRun :=
  { u with recs := ((List.range u.recs.length).zip u.recs).map fun x =>
      if e == d && u.step == step && f x.2 then { x.2 with idle := 0 } else x.2 }

theorem StepRun.cameAt_eq (e d step : Nat) (f : RecState → Bool) (u : StepRun) :
    u.cameAt e d step f = if e = d then u.restarted step f else u := by
  rw [StepRun.cameAt, map_range_zip (fun x => if (e == d && u.step == step && f x) = true then { x with idle := 0 } else x)]
  by_cases he : e = d
  · by_cases h : u.step = step <;> simp [StepRun.restarted, RecState.restarted, h, he]
  · simp [he]

/-- A walk over dies that changes one die alone, named once. -/
theorem foldl_one {d : Nat} (g : State → State) {l : List Nat} (hl : l.Nodup) (s : State) :
    l.foldl (fun t e => if e = d then g t else t) s = if d ∈ l then g s else s := by
  induction l generalizing s with
  | nil => rfl
  | cons e l ih =>
    obtain ⟨he, hl⟩ := List.nodup_cons.mp hl
    rw [List.foldl_cons, ih hl]
    by_cases h : e = d
    · subst h
      simp [he]
    · simp [h, Ne.symm h]

/-- Input for die d restarts records of that die alone. -/
theorem inputCame_eq {p d step : Nat} (f : RecState → Bool) {s : State} (hd : d ∈ (s.part p).frame.cds) :
    inputCame p d step f s = s.modSeq d (Seq.restarted step f) := by
  have hdie : ∀ (e : Nat) (t : State), (t.modSeq e fun q => { q with steps := q.steps.map (StepRun.cameAt e d step f) }) =
      if e = d then t.modSeq d (Seq.restarted step f) else t := by
    intro e t
    simp only [funext (StepRun.cameAt_eq e d step f)]
    split
    · next he =>
      subst he
      rfl
    · refine State.modCd_same _ _ ?_
      simp
  calc inputCame p d step f s
      = (s.part p).frame.cds.foldl
          (fun t e => t.modSeq e fun q => { q with steps := q.steps.map (StepRun.cameAt e d step f) }) s := rfl
    _ = s.modSeq d (Seq.restarted step f) := by
        simp only [hdie]
        rw [foldl_one _ (FrameEntry.cds_nodup _), if_pos hd]

/-- A record of a die whose records have been restarted. -/
theorem Seq.step?_restarted (step : Nat) (f : RecState → Bool) (q : Seq) (n : Nat) :
    (q.restarted step f).step? n = (q.step? n).map (StepRun.restarted step f) := by
  simp only [Seq.step?, Seq.restarted, List.find?_map]
  rfl

theorem State.rec?_restarted {s : State} {d : Nat} (hd : d < s.cds.length) (step : Nat) (f : RecState → Bool) {r : RecRef}
    {y : RecState} (hy : s.rec? r = some y) :
    (s.modSeq d (Seq.restarted step f)).rec? r = some { y with
      idle := if r.die = d ∧ r.step = step ∧ f y = true then 0 else y.idle } := by
  by_cases he : r.die = d
  · subst he
    unfold State.rec? at hy ⊢
    rw [State.modSeq_eq, State.modCd_cd_same _ _ _ hd, Seq.step?_restarted]
    cases hs : (s.cd r.die).seq.step? r.step with
    | none => simp [hs] at hy
    | some u =>
      have hu : u.step = r.step := by simpa using List.find?_some hs
      rw [hs] at hy
      by_cases h : r.step = step
      · by_cases hf : f y <;> simp_all [StepRun.restarted, RecState.restarted]
      · simp_all [StepRun.restarted]
  · simp only [he, false_and, if_false]
    rw [← hy]
    simp only [State.rec?, State.modSeq_eq, State.modCd_cd_other _ _ _ _ he]

end Sys2Proof.Machine
end

section
/-! PROOF. The byte counters of channels (07 R202), and what arrives over the panel mesh (07 R201 to R203, 15 R380 to R383,
R434): a PUT's bytes and their count, an early shard, an update die's share, and a message that crosses the partition's
border. -/

namespace Sys2Proof.Machine

/-! ## The counters of a channel -/

/-- What a channel's counter holds for a step: nothing where it counts for another one. -/
def Chan.held (c : Chan) (step : Nat) : Nat :=
  if step % 2 = 0 then (if c.step0 = step then c.count0 else 0) else if c.step1 = step then c.count1 else 0

/-- A channel whose counter holds k for a step. -/
def Chan.holding (c : Chan) (step k : Nat) : Chan :=
  if step % 2 = 0 then { c with step0 := step, count0 := k } else { c with step1 := step, count1 := k }

theorem Chan.touch_count (c : Chan) (step : Nat) : (c.touch step).count step = c.held step := by
  unfold Chan.touch Chan.count Chan.held
  split <;> split <;> rfl

theorem Chan.touch_set (c : Chan) (step k : Nat) : (c.touch step).set step k = c.holding step k := by
  unfold Chan.touch Chan.set Chan.holding
  split
  · split
    · next h => rw [← h]
    · rfl
  · split
    · next h => rw [← h]
    · rfl

theorem Chan.touch_eq (c : Chan) (step : Nat) : c.touch step = c.holding step (c.held step) := by
  unfold Chan.touch Chan.holding Chan.held
  split
  · split
    · next h => rw [← h]
    · rfl
  · split
    · next h => rw [← h]
    · rfl

/-- An entry changed is an entry set, whether or not it is there. -/
theorem modAt_set {α : Type} (l : List α) (i : Nat) (f : α → α) (d : α) : modAt l i f = l.set i (f (l.getD i d)) := by
  by_cases h : i < l.length
  · exact modAt_eq_set l i f d h
  · rw [modAt_past _ _ _ (Nat.le_of_not_lt h), List.set_eq_of_length_le (Nat.le_of_not_lt h)]

/-! ## A WAITIN (R202) -/

theorem touchChan_eq (r : RecRef) (x : RecState) (s : State) :
    let ch := field (x.w 0) 5 0
    let c := (s.cd r.die).eng.coe.chans.getD ch {}
    touchChan r x s = s.modCoe r.die fun q => { q with chans := q.chans.set ch (c.holding r.step (c.held r.step)) } := by
  intro ch c
  refine s.modCd_congr r.die ?_
  simp only [modAt_set _ _ _ ({} : Chan), Chan.touch_eq]
  rfl

theorem waitRun_eq (r : RecRef) (x : RecState) (s : State) :
    let ch := field (x.w 0) 5 0
    let c := (s.cd r.die).eng.coe.chans.getD ch {}
    waitRun r x s = s.modCoe r.die fun q =>
      { q with chans := q.chans.set ch (c.holding r.step (c.held r.step - (x.w 1).toNat)) } := by
  intro ch c
  refine s.modCd_congr r.die ?_
  simp only [modAt_set _ _ _ ({} : Chan), Chan.touch_count, Chan.touch_set]
  rfl

/-- A WAITIN takes its expected count, or waits. -/
theorem execWaitin_runs {s : State} {r : RecRef} {x : RecState} (h : s.runs r 0x0601 x) :
    let c := (s.cd r.die).eng.coe.chans.getD (field (x.w 0) 5 0) {}
    execWaitin r s = if (x.w 1).toNat ≤ c.held r.step then .next ((waitRun r x s).marked r) else .next (touchChan r x s) := by
  intro c
  have hrun := runOp_runs (waitRun r) h
  obtain ⟨⟨hw, hr, hp, he, hc, hs⟩, hi⟩ := h
  simp only [execWaitin, hr, waitCount, Chan.touch_count]
  split
  · exact hrun
  · simp [hp, hc, hs, hw, onlyIf]

/-! ## A PUT that arrives (R203, R380) -/

theorem countPut_eq (d ch step n : Nat) (s : State) :
    let c := (s.cd d).eng.coe.chans.getD ch {}
    countPut d ch step n s = s.modCoe d fun q => { q with chans := q.chans.set ch (c.holding step (c.held step + n)) } := by
  intro c
  refine s.modCd_congr d ?_
  simp only [modAt_set _ _ _ ({} : Chan), Chan.touch_count, Chan.touch_set]
  rfl

/-- The counter of a channel after n bytes more for a step. -/
theorem Chan.holding_more (c : Chan) (step n : Nat) : c.holding step (c.held step + n) =
    if step % 2 = 0 then { c with step0 := step, count0 := (if c.step0 = step then c.count0 else 0) + n }
    else { c with step1 := step, count1 := (if c.step1 = step then c.count1 else 0) + n } := by
  unfold Chan.holding Chan.held
  split <;> rfl

/-! ## What an arrival does -/

/-- Partition p without the i-th message of its mesh. -/
def State.unmeshed (s : State) (p i : Nat) : State := s.modFab p fun f => { f with mesh := f.mesh.eraseIdx i }

section
variable {s : State} {p i : Nat} {m : MeshMsg} (hp : p < 4) (hm : (s.part p).fab.mesh[i]? = some m)
include hp hm

theorem execMesh_outside (h : m.inside (s.part p).frame = false) :
    exec (.meshMessageArrival p i) s = .next (dropMesh p m (s.unmeshed p i)) := by
  show execMeshMessageArrival p i s = _
  simp [execMeshMessageArrival, Instr.wf, hp, hm, h, onlyIf, State.unmeshed]

theorem execMesh_waits (h : m.inside (s.part p).frame = true) (hw : m.waits p s = true) :
    exec (.meshMessageArrival p i) s = .next s := by
  show execMeshMessageArrival p i s = _
  simp [execMeshMessageArrival, Instr.wf, hp, hm, h, hw, onlyIf]

end

section
variable {s : State} {p i : Nat} (hp : p < 4)
include hp

theorem execMesh_put {r : RecRef} {d ch g off : Nat} {data : List Byte} {skip : List Nat}
    (hm : (s.part p).fab.mesh[i]? = some (.put r d ch g off data skip))
    (hi : (MeshMsg.put r d ch g off data skip).inside (s.part p).frame = true)
    (hw : (MeshMsg.put r d ch g off data skip).waits p s = false) :
    exec (.meshMessageArrival p i) s = .next (if s.isCut (.cd d) then s
      else meshArrive p (.put r d ch g off data skip) (s.unmeshed p i)) := by
  show execMeshMessageArrival p i s = _
  simp [execMeshMessageArrival, Instr.wf, hp, hm, hi, hw, onlyIf, State.unmeshed]

theorem execMesh_shard {r : RecRef} {d ring g off : Nat} {data : List Byte} {skip : List Nat} {empty : Bool}
    (hm : (s.part p).fab.mesh[i]? = some (.shard r d ring g off data skip empty))
    (hi : (MeshMsg.shard r d ring g off data skip empty).inside (s.part p).frame = true)
    (hw : (MeshMsg.shard r d ring g off data skip empty).waits p s = false) (hc : s.isCut (.cd d) = false) :
    exec (.meshMessageArrival p i) s = .next (meshArrive p (.shard r d ring g off data skip empty) (s.unmeshed p i)) := by
  show execMeshMessageArrival p i s = _
  simp [execMeshMessageArrival, Instr.wf, hp, hm, hi, hw, onlyIf, State.unmeshed, State.forwards, hc]

theorem execMesh_share {u step : Nat} {sh : Share} (hm : (s.part p).fab.mesh[i]? = some (.share u step sh))
    (hi : (MeshMsg.share u step sh).inside (s.part p).frame = true) :
    exec (.meshMessageArrival p i) s = .next (meshArrive p (.share u step sh) (s.unmeshed p i)) := by
  show execMeshMessageArrival p i s = _
  simp [execMeshMessageArrival, Instr.wf, hp, hm, hi, onlyIf, State.unmeshed, MeshMsg.waits]

end

/-- A PUT for die d over the mesh lies inside its partition. -/
theorem put_inside {e : FrameEntry} {r : RecRef} {d : Nat} (hr : r.die ∈ e.cds) (hd : d ∈ e.cds) (ch g off : Nat)
    (data : List Byte) (skip : List Nat) : (MeshMsg.put r d ch g off data skip).inside e = true := by
  simp [MeshMsg.inside, hr, hd]

end Sys2Proof.Machine
end

section
/-! PROOF. Each kind of message that arrives over the panel mesh (07 R201 to R203, 15 R380 to R383, R434). -/

namespace Sys2Proof.Machine

/-! ## A message that crosses the partition's border (R434) -/

/-- A partition read after its mesh has lost a message. -/
theorem State.unmeshed_part {s : State} {p : Nat} (hp : p < s.parts.length) (i : Nat) : (s.unmeshed p i).part p =
    { s.part p with fab := { (s.part p).fab with mesh := (s.part p).fab.mesh.eraseIdx i } } :=
  State.modPart_part_same _ _ _ hp

/-- Such a message is dropped, counted and recorded in the error log. -/
theorem dropMesh_does {s : State} {p : Nat} (hp : p < s.parts.length) (i : Nat) (m : MeshMsg) :
    let t := dropMesh p m (s.unmeshed p i)
    ∃ rec, t = { s.unmeshed p i with ctrl := { s.ctrl with log := t.ctrl.log }, parts := t.parts } ∧
      (∀ q, q ≠ p → t.part q = s.part q) ∧
      t.part p = { (s.unmeshed p i).part p with meshReject := min ((s.part p).meshReject + 1) 0xFFFFFFFF } ∧
      t.ctrl.log = s.ctrl.log.accept rec ∧ rec.kind = 0x12 := by
  refine ⟨State.eventRec _ 0x12 winCtrl p _, rfl, fun q hq => ?_, ?_, rfl, rfl⟩
  · exact (State.modPart_part_other _ _ _ _ hq).trans (State.modPart_part_other _ _ _ _ hq)
  · refine (State.modPart_part_same (s.unmeshed p i) p _ (by simpa [State.unmeshed] using hp)).trans ?_
    rw [State.unmeshed_part hp]
    rfl

/-! ## A PUT (R203, R380) -/

theorem putRejected (p : Nat) (r : RecRef) (d ch off : Nat) (data : List Byte) (skip : List Nat) (s : State)
    (h : 2 ^ 27 < off + data.length) : meshArrive p (.put r d ch 0xFFFF off data skip) s =
      s.modCoe d fun c => { c with inReject := min (c.inReject + 1) 0xFFFFFFFF } := by
  have : inboundOk (s.part p) 0xFFFF off data.length = false := by
    exact decide_eq_false (by simp only [scratchBytes]; omega)
  simp only [meshArrive, this, Bool.false_eq_true, if_false]
  rfl

/-- What die d's engines hold of a PUT of n bytes that has arrived. -/
def Coe.tookPut (c : Coe) (ch step n : Nat) : Coe :=
  { c with
    inBytes := wrap64 c.inBytes n
    chans := c.chans.set ch ((c.chans.getD ch {}).holding step ((c.chans.getD ch {}).held step + n)) }

/-- The records that wait on a channel (R383). -/
def RecState.awaits (ch : Nat) (x : RecState) : Bool := x.record.opcode == 0x0601 && field (x.w 0) 5 0 == ch

/-- A PUT within a sound scratchpad is written and counted, and the WAITINs of its channel start their stall counts again. -/
theorem putTaken {s : State} {p d : Nat} (hd : d < s.cds.length) (hin : d ∈ (s.part p).frame.cds)
    (hs : (s.pad d).sound = true) (hw : (s.pad d).bytes.wf = true) (r : RecRef) (ch : Nat) {off : Nat} {data : List Byte}
    (h : off + data.length ≤ 2 ^ 27) :
    ∃ st, meshArrive p (.put r d ch 0xFFFF off data []) s = (s.modCd d fun c => { c with
        eng := { c.eng with coe := c.eng.coe.tookPut ch r.step data.length }
        scratch := { c.scratch with store := st } }).modSeq d (Seq.restarted r.step (RecState.awaits ch)) ∧
      ∀ x, look st.bytes x 0 = if off ≤ x ∧ x < off + data.length then data.getD (x - off) 0 else look (s.pad d).bytes x 0 := by
  have hok : inboundOk (s.part p) 0xFFFF off data.length = true := by
    exact decide_eq_true (by simp only [scratchBytes]; omega)
  obtain ⟨v, hv, hwrote⟩ := writeInbound_sound hd hs hw p off data
  refine ⟨v.pad d, ?_, hwrote.wrote⟩
  simp only [meshArrive, hok, if_true, hv, Option.map_none, noteBad, countPut_eq]
  have hpart : ∀ (f g : Coe → Coe), ((v.modCoe d f).modCoe d g).part p = s.part p := fun f g => by rw [hwrote.eq]; rfl
  rw [inputCame_eq _ (by rw [hpart]; exact hin)]
  congr 1
  conv => lhs; rw [hwrote.eq]
  simp only [State.modCoe_eq, State.modScratch_eq, State.modCd_modCd]
  refine s.modCd_congr d ?_
  rw [State.modCd_cd_same _ _ _ hd]
  rfl

/-- The bytes of a scratchpad, from what each of them is. -/
theorem padBytes_of {s : State} {d a n : Nat} {f : Nat → Byte} (h : ∀ i < n, look (s.pad d).bytes (a + i) 0 = f i) :
    s.padBytes d a n = (List.range n).map f :=
  List.map_congr_left fun i hi => h i (List.mem_range.1 hi)

/-- A state in which a PUT's bytes have been taken at die d of s, and nothing else has happened. -/
structure PutTaken (s : State) (d ch step off : Nat) (data : List Byte) (t : State) : Prop where
  rest : t = { s with cds := t.cds }
  others : ∀ e, e ≠ d → t.cd e = s.cd e
  bytes : t.padBytes d off data.length = data
  same : padSame d [(off, data.length)] s t
  die : ∃ seq, t.cd d = { s.cd d with
    seq := { (s.cd d).seq with steps := seq }
    scratch := { (s.cd d).scratch with store := t.pad d }
    eng := { (s.cd d).eng with coe := { (s.cd d).eng.coe with
      inBytes := ((s.cd d).eng.coe.inBytes + data.length) % 2 ^ 64
      chans := (t.cd d).eng.coe.chans } } }
  chans : (t.cd d).eng.coe.chans = (s.cd d).eng.coe.chans.set ch
    (((s.cd d).eng.coe.chans.getD ch {}).holding step (((s.cd d).eng.coe.chans.getD ch {}).held step + data.length))
  records : ∀ q y, s.rec? q = some y → t.rec? q = some { y with
    idle := if q.die = d ∧ q.step = step ∧ y.awaits ch = true then 0 else y.idle }

theorem putTaken_does {s : State} {p d : Nat} (hd : d < s.cds.length) (hin : d ∈ (s.part p).frame.cds)
    (hs : (s.pad d).sound = true) (hw : (s.pad d).bytes.wf = true) (r : RecRef) (ch : Nat) {off : Nat} {data : List Byte}
    (h : off + data.length ≤ 2 ^ 27) :
    PutTaken s d ch r.step off data (meshArrive p (.put r d ch 0xFFFF off data []) s) := by
  obtain ⟨st, ht, hbytes⟩ := putTaken hd hin hs hw r ch h
  generalize hf : (fun c : Cd => ({ c with
        eng := { c.eng with coe := c.eng.coe.tookPut ch r.step data.length }
        scratch := { c.scratch with store := st } } : Cd)) = f at ht
  have hd' : d < (s.modCd d f).cds.length := by simpa using hd
  have hcd : (meshArrive p (.put r d ch 0xFFFF off data []) s).cd d =
      { f (s.cd d) with seq := Seq.restarted r.step (RecState.awaits ch) (f (s.cd d)).seq } := by
    rw [ht, State.modSeq_eq, State.modCd_cd_same _ _ _ hd', State.modCd_cd_same _ _ _ hd]
  have hpad : (meshArrive p (.put r d ch 0xFFFF off data []) s).pad d = st := by rw [State.pad, hcd, ← hf]
  refine ⟨by rw [ht]; rfl, fun e he => ?_, ?_, fun a ha => ?_, ⟨_, by rw [hpad, hcd, ← hf]; rfl⟩, by rw [hcd, ← hf]; rfl,
    fun q y hy => ?_⟩
  · rw [ht, State.modSeq_eq, State.modCd_cd_other _ _ _ _ he, State.modCd_cd_other _ _ _ _ he]
  · rw [padBytes_of (f := fun i => data.getD i 0) fun i hi => ?_]
    · have hslice := slice_eq_map data 0 data.length
      rw [slice_whole rfl] at hslice
      simpa using hslice.symm
    · rw [hpad, hbytes, if_pos (by omega), Nat.add_sub_cancel_left]
  · have hout : ¬ (off ≤ a ∧ a < off + data.length) := by
      have := ha _ List.mem_cons_self
      simp only at this
      omega
    simp only [State.padBytes, Memory.read, hpad, List.range_one, List.map_cons, List.map_nil, Nat.add_zero, hbytes,
      if_neg hout]
  · rw [ht]
    refine State.rec?_restarted hd' _ _ (Eq.trans ?_ hy)
    simp only [State.rec?]
    by_cases he : q.die = d
    · rw [he, State.modCd_cd_same _ _ _ hd, ← hf]
    · rw [State.modCd_cd_other _ _ _ _ he]

/-! ## An early shard (R201, R393) -/

/-- An empty shard that no RINGAG of its die takes yet waits for one. -/
theorem emptyShard_waits {s : State} {p d : Nat} (hp : p < s.parts.length) (hin : d ∈ (s.part p).frame.cds)
    (hc : s.isCut (.cd d) = false) {r : RecRef} {ring g off : Nat} (data : List Byte) (skip : List Nat)
    (hcame : s.shardCame p d r.step ring g off = false) (hno : ∀ q ∈ (s.part p).fab.rings, q.ref.die ≠ d) :
    let t := meshArrive p (.shard r d ring g off data skip true) s
    t.hubs = s.hubs ∧ (t.part p).fab = { (s.part p).fab with
      early := (s.part p).fab.early ++ [⟨d, r.step, ring, g, off, true⟩] } := by
  have hdie : s.shardDie p ring ((s.part p).moduleNo, r.die) d = some d := by simp [State.shardDie, hc]
  have hfind : (s.part p).fab.rings.find? (fun q => q.takes d r.step ring g off) = none :=
    List.find?_eq_none.2 fun q hq => by simp [RingProgress.takes, hno q hq]
  intro t
  have ht : t = (s.modSeq d (Seq.restarted r.step fun x => x.record.opcode == 0x0603 && (RingOp.of x.w).ring == ring)).modFab p
      fun f => { f with early := f.early ++ [⟨d, r.step, ring, g, off, true⟩] } := by
    show meshArrive p (.shard r d ring g off data skip true) s = _
    simp only [meshArrive, hdie]
    rw [inputCame_eq _ hin]
    generalize hv : s.modSeq d (Seq.restarted r.step fun x => x.record.opcode == 0x0603 && (RingOp.of x.w).ring == ring) = v
    have hcame' : v.shardCame p d r.step ring g off = false := hv ▸ hcame
    have hpart : v.part p = s.part p := hv ▸ rfl
    simp only [hcame', hpart, hfind, shardArrived, Bool.false_eq_true, if_false, if_true]
  rw [ht]
  exact ⟨rfl, congrArg Part.fab (State.modPart_part_same _ _ _ hp)⟩

/-! ## An update die's share (R240, R254) -/

theorem Part.gather_modGather (q : Part) (step : Nat) (f : Gather → Gather) (hf : ∀ g, (f g).step = g.step) :
    (q.modGather step f).gather step = f (q.gather step) := by
  unfold Part.modGather
  have hmap : ∀ l : List Gather, (l.map fun g => if g.step == step then f g else g).find? (fun g => g.step == step) =
      (l.find? fun g => g.step == step).map f := fun l => by
    induction l with
    | nil => rfl
    | cons a l ih => by_cases h : a.step = step <;> simp_all
  split
  · next h =>
    obtain ⟨g, hg, hs⟩ := List.any_eq_true.1 h
    cases hfind : q.gathers.find? fun g => g.step == step with
    | none => exact absurd hs (List.find?_eq_none.1 hfind g hg)
    | some k =>
      simp only [Part.gather, hmap, hfind]
      rfl
  · next h =>
    have hfind : q.gathers.find? (fun g => g.step == step) = none := List.find?_eq_none.2 fun g hg hs => h (List.any_eq_true.2 ⟨g, hg, hs⟩)
    simp [Part.gather, List.find?_append, hfind, hf]

theorem Part.modGather_fab (q : Part) (step : Nat) (f : Gather → Gather) : (q.modGather step f).fab = q.fab := by
  unfold Part.modGather
  split <;> rfl

theorem restartWord_cds (p step : Nat) (s : State) : restartWord p step s = { s with cds := (restartWord p step s).cds } :=
  forAll_holds (fun t => t = { s with cds := t.cds }) _ (fun d _ t ht => by
    conv => lhs; arg 1; rw [ht]
    rfl) rfl

/-- A share joins its step's gathering, once for each update die. -/
theorem shareArrived_does {s : State} {p : Nat} (hp : p < s.parts.length) (u step : Nat) (sh : Share) :
    let t := shareArrived p u step sh s
    (t.part p).fab = (s.part p).fab ∧ t.hubs = s.hubs ∧ t.uds = s.uds ∧ ((t.part p).gather step).shares =
      if ((s.part p).gather step).shares.any (fun y => y.1 == u) then ((s.part p).gather step).shares
      else ((s.part p).gather step).shares ++ [(u, sh)] := by
  intro t
  have ht : ∃ c, t = { s.modGather p step (fun g =>
      if g.shares.any fun x => x.1 == u then g else { g with shares := g.shares ++ [(u, sh)] }) with cds := c } :=
    ⟨_, restartWord_cds ..⟩
  obtain ⟨c, ht⟩ := ht
  have hpart : t.part p = (s.part p).modGather step fun g =>
      if g.shares.any fun x => x.1 == u then g else { g with shares := g.shares ++ [(u, sh)] } := by
    rw [ht]
    exact State.modPart_part_same _ _ _ hp
  refine ⟨by rw [hpart, Part.modGather_fab], by rw [ht]; rfl, by rw [ht]; rfl, ?_⟩
  rw [hpart, Part.gather_modGather _ _ _ fun g => by split <;> rfl]
  split <;> rfl

end Sys2Proof.Machine
end

section
/-! PROOF. PUT and ACCUM (07 R200, R201, R206): what they read, and where it goes. -/

namespace Sys2Proof.Machine

/-! ## What a record of a collective engine sends -/

/-- The state after record r of partition p has sent k bytes: its partition's fabric and its die's engine have changed. -/
def State.sends (s : State) (p : Nat) (r : RecRef) (k : Nat) (f : Fabric → Fabric) (g : Coe → Coe) : State :=
  (s.modCoe r.die fun c => g { c with outBytes := wrap64 c.outBytes k }).modFab p f

/-- From s to t record r has sent k bytes, hubs may have served lines, and nothing else has happened but its mark. -/
def State.sent (s : State) (p : Nat) (r : RecRef) (t : State) (k : Nat) (f : Fabric → Fabric) (g : Coe → Coe) : Prop :=
  t = { s with cds := t.cds, parts := t.parts, hubs := t.hubs } ∧ (∀ q, q ≠ p → t.part q = s.part q) ∧
    t.part p = { s.part p with fab := f (s.part p).fab } ∧ (∀ e, e ≠ r.die → t.cd e = s.cd e) ∧
    t.cd r.die = { s.cd r.die with
      seq := ((s.marked r).cd r.die).seq
      eng := { (s.cd r.die).eng with
        coe := g { (s.cd r.die).eng.coe with outBytes := ((s.cd r.die).eng.coe.outBytes + k) % 2 ^ 64 } } }

theorem State.sends_sent {s v : State} {p : Nat} {r : RecRef} (hp : p < s.parts.length) (hd : r.die < s.cds.length)
    (hv : v = { s with hubs := v.hubs }) (k : Nat) (f : Fabric → Fabric) (g : Coe → Coe) :
    s.sent p r ((v.sends p r k f g).marked r) k f g := by
  generalize hh : v.hubs = hs at hv
  subst hv
  refine ⟨rfl, fun q hq => State.modPart_part_other s _ _ _ hq, State.modPart_part_same s _ _ hp, fun e he => ?_, ?_⟩
  · exact (State.modCd_cd_other _ _ _ _ he).trans (State.modCd_cd_other s _ _ _ he)
  · have hmark : ∀ t : State, r.die < t.cds.length → (t.marked r).cd r.die = { t.cd r.die with
        seq := (t.cd r.die).seq.modStep r.step fun u => { u with recs := modAt u.recs r.cmd fun y => { y with executed := true } } } :=
      fun t ht => State.modCd_cd_same t _ _ ht
    have hcd : ((({ s with hubs := hs } : State).sends p r k f g).cd r.die) = { s.cd r.die with
        eng := { (s.cd r.die).eng with coe := g { (s.cd r.die).eng.coe with outBytes := wrap64 (s.cd r.die).eng.coe.outBytes k } } } :=
      State.modCd_cd_same s _ _ hd
    rw [hmark _ (by simpa [State.sends] using hd), hcd, hmark s hd]
    rfl

/-- The message with the identity and number that its engine gives it next. -/
def OutMsg.numbered (m : OutMsg) (ident number : Nat) : OutMsg := { m with ident := ident, number := number }

/-- Bytes counted, and a message joined to its engine's. -/
theorem sendMessage_counted (p : Nat) (r : RecRef) (n : Nat) (m : OutMsg) (hm : m.ref = r) (s : State)
    (hd : r.die < s.cds.length) :
    let num := look (s.cd r.die).eng.coe.numbers m.dstModule 0
    sendMessage p m (countOut r.die n s) = s.sends p r n
      (fun b => { b with nextMsg := b.nextMsg + 1, msgs := b.msgs ++ [m.numbered b.nextMsg num] })
      fun c => { c with numbers := place c.numbers m.dstModule 0 (num + 1) } := by
  subst hm
  intro num
  have hnum : look ((countOut m.ref.die n s).cd m.ref.die).eng.coe.numbers m.dstModule 0 = num := by
    rw [countOut, State.modCoe_eq, State.modCd_cd_same _ _ _ hd]
  simp only [sendMessage, hnum]
  simp only [countOut, State.modCoe_eq, State.modCd_modCd, State.sends, OutMsg.numbered]

/-! ## Reading a place -/

theorem readPlace_scratch {s : State} {r : RecRef} (h : (s.pad r.die).sound = true) (o n : Nat) :
    readPlace r ⟨none, o⟩ n s = (s, s.padBytes r.die o n, []) := by
  simp only [readPlace, readScratch_sound h, chunkBytes_scratch]
  rfl

theorem readPlace_region {s : State} {r : RecRef} {p g o n : Nat} (hp : coePart r s = p) (hf : s.stacksFit) (hs : s.served p g)
    (hl : o + n ≤ ((s.part p).region? g).elim 0 (·.length)) :
    ∃ v, readPlace r ⟨some g, o⟩ n s = (v, (List.range n).map fun k => s.regionByte p g (o + k), []) ∧ s.Reads v := by
  obtain ⟨v, hv, ha, hk⟩ := readRegion_served hf hs hl unitCoe .wide
  refine ⟨v, ?_, ⟨ha, hk⟩⟩
  simp only [readPlace, hp, hv, sentBytes_cleanChunks, badLines_cleanChunks]
  rfl

theorem State.Accesses.hubsOnly {s v : State} (h : s.Accesses v) : v = { s with hubs := v.hubs } := by
  have := h.rest
  rwa [h.cds, h.uds] at this

/-- What reading leaves of the lines, whatever else has happened. -/
theorem State.Reads.traffic {s v t : State} (h : s.Reads v) (ht : t.hubs = v.hubs) (p region : Nat) :
    memTraffic s t ∧ linesSame p region [] s t := by
  have hhub : ∀ k, t.hub k = v.hub k := fun k => by simp only [State.hub, ht]
  refine ⟨fun k => ?_, fun k l hl _ => by rw [hhub]; exact h.keeps k l hl⟩
  rw [hhub]
  exact h.toServes.memTraffic k

/-! ## PUT (R201) -/

theorem putRun_sends {s v : State} {r : RecRef} {x : RecState} {p : Nat} {data : List Byte} (hp : coePart r s = p)
    (hd : r.die < s.cds.length) (hv : v.cds = s.cds)
    (hread : readPlace r (PutOp.of x.w).src x.count s = (v, data, [])) :
    let f := PutOp.of x.w
    let dst := f.dst.region.getD 0xFFFF
    let num := look (s.cd r.die).eng.coe.numbers f.module 0
    (f.module = 0xFFFF → putRun r x s = v.sends p r x.count
      (fun b => { b with mesh := b.mesh ++ [.put r f.die f.channel dst f.dst.offset data []] }) id) ∧
    (f.module ≠ 0xFFFF → putRun r x s = v.sends p r x.count (fun b => { b with
        nextMsg := b.nextMsg + 1
        msgs := b.msgs ++ [{
          ident := b.nextMsg, kind := 1, ref := r, dstModule := f.module, dstDie := f.die, channel := f.channel, format := 0
          number := num, ordinal := 0, ring := 0, region := dst, offset := f.dst.offset, data := data }] })
      fun c => { c with numbers := place c.numbers f.module 0 (num + 1) }) := by
  intro f dst num
  have hnum : num = look (v.cd r.die).eng.coe.numbers f.module 0 := by simp only [State.cd, hv]; rfl
  refine ⟨fun hm => ?_, fun hm => ?_⟩
  · simp only [putRun, hp, hread, if_pos (show (PutOp.of x.w).module = 0xFFFF from hm)]
    rfl
  · simp only [putRun, hp, hread, if_neg (show ¬ (PutOp.of x.w).module = 0xFFFF from hm)]
    rw [sendMessage_counted p r _ _ rfl v (by rwa [hv]), hnum]
    rfl

/-! ## ACCUM (R206) -/

/-- One element sent to the hub of its offset. -/
theorem sendElement_goes {s : State} {a : Arrival} {g : Region} {h loc : Nat} (hg : (s.part a.part).region? a.region = some g)
    (hr : g.reduces a.format = true) (hp : (s.part a.part).place? a.region a.offset = some (h, loc))
    (hc : s.isCut (.stack h) = false) :
    sendElement a s = (s.modRed h fun r => { r with inFlight := r.inFlight ++ [a] }, true) := by
  simp [sendElement, hg, hp, hr, hc]

/-- A hub with more elements on their way to it. -/
def Hub.receiving (b : Hub) (l : List Arrival) : Hub := { b with red := { b.red with inFlight := b.red.inFlight ++ l } }

/-- The elements of a list of positions, sent in order, are on their way to their hubs. -/
theorem sendElements_goes {s : State} (hlen : s.hubs.length = 32) (a : Arrival) (data : List Byte) {g : Region} {home : Nat → Nat}
    (hg : (s.part a.part).region? a.region = some g) (hr : g.reduces a.format = true) {n : Nat}
    (hpos : 0 < (elemOf a.format).bits / 8) (hn : data.length = n * ((elemOf a.format).bits / 8))
    (hhome : ∀ k < n, home k < 32 ∧ s.isCut (.stack (home k)) = false ∧
      ∃ loc, (s.part a.part).place? a.region (a.offset + k * ((elemOf a.format).bits / 8)) = some (home k, loc)) :
    let elem := fun k => { a with
      offset := a.offset + k * ((elemOf a.format).bits / 8), pos := k
      bits := BitVec.ofNat 32 (elemAt (elemOf a.format) data k) }
    ∃ hs, sendElements a 0 data s = ({ s with hubs := hs }, true) ∧ ∀ h < 32,
      ({ s with hubs := hs } : State).hub h =
        (s.hub h).receiving (((List.range n).filter fun k => home k == h).map elem) := by
  intro elem
  have key : ∀ m ≤ n, ∃ hs : List Hub, hs.length = 32 ∧ (List.range m).foldl
      (fun r k =>
        let x := sendElement
          { a with offset := a.offset + (0 + k) * ((elemOf a.format).bits / 8), pos := 0 + k
                   bits := BitVec.ofNat 32 (elemAt (elemOf a.format) data k) } r.1
        (x.1, r.2 && x.2)) (s, true) = ({ s with hubs := hs }, true) ∧ ∀ h < 32, ({ s with hubs := hs } : State).hub h =
        (s.hub h).receiving (((List.range m).filter fun k => home k == h).map elem) := by
    intro m
    induction m with
    | zero => exact fun _ => ⟨s.hubs, hlen, rfl, fun h _ => by simp [Hub.receiving]⟩
    | succ m ih =>
      intro hm
      obtain ⟨hs, hl, hfold, hhub⟩ := ih (by omega)
      obtain ⟨h32, hcut, loc, hplace⟩ := hhome m (by omega)
      have hgo := sendElement_goes (s := { s with hubs := hs }) (a := elem m) hg hr hplace hcut
      refine ⟨modAt hs (home m) fun b => b.receiving [elem m], by simpa using hl, ?_, fun h hh => ?_⟩
      · rw [List.range_succ, List.foldl_append, hfold]
        simp only [List.foldl_cons, List.foldl_nil, Nat.zero_add]
        rw [show ({ a with
          offset := a.offset + m * ((elemOf a.format).bits / 8), pos := m
          bits := BitVec.ofNat 32 (elemAt (elemOf a.format) data m) } : Arrival) = elem m from rfl, hgo]
        rfl
      · rw [List.range_succ, List.filter_append, List.map_append]
        by_cases he : h = home m
        · subst he
          have := State.modHub_hub_same { s with hubs := hs } (home m) (fun b => b.receiving [elem m]) (by simpa [hl] using hh)
          refine this.trans ?_
          rw [hhub _ hh]
          simp [Hub.receiving]
        · have := State.modHub_hub_other { s with hubs := hs } (home m) h (fun b => b.receiving [elem m]) he
          refine this.trans ?_
          rw [hhub _ hh]
          simp [Ne.symm he]
  obtain ⟨hs, -, hfold, hhub⟩ := key n (Nat.le_refl n)
  refine ⟨hs, ?_, hhub⟩
  have hk : data.length / ((elemOf a.format).bits / 8) = n := by rw [hn, Nat.mul_div_cancel _ hpos]
  simp only [sendElements, hk]
  exact hfold

theorem accumOrdinal_countOut {s : State} {r : RecRef} (hd : r.die < s.cds.length) (n : Nat) :
    accumOrdinal r (countOut r.die n s) = accumOrdinal r s := by
  simp only [accumOrdinal, countOut, State.modCoe_eq, State.modCd_cd_same _ _ _ hd]

section
variable {s : State} {r : RecRef} {x : RecState} {p : Nat} (hp : coePart r s = p) (hd : r.die < s.cds.length)
  (hs : (s.pad r.die).sound = true)
include hp hd hs

/-- An ACCUM for another module is a message. -/
theorem accumRun_message :
    let f := AccumOp.of x.w
    let n := x.count * ((elemOf f.fmt).bits / 8)
    let num := look (s.cd r.die).eng.coe.numbers f.module 0
    f.module ≠ 0xFFFF → accumRun r x s = s.sends p r n
      (fun b => { b with
        nextMsg := b.nextMsg + 1
        msgs := b.msgs ++ [{
          ident := b.nextMsg, kind := 2, ref := r, dstModule := f.module, dstDie := 0xFF, channel := 0, format := f.fmt
          number := num, ordinal := accumOrdinal r s, ring := 0, region := f.region, offset := f.offset
          data := s.padBytes r.die f.src n }] })
      fun c => { c with numbers := place c.numbers f.module 0 (num + 1) } := by
  intro f n num hm
  simp only [accumRun, hp, readPlace_scratch hs, if_neg (show ¬ (AccumOp.of x.w).module = 0xFFFF from hm),
    accumOrdinal_countOut hd]
  rw [sendMessage_counted p r _ _ rfl s hd]
  rfl

/-- An ACCUM for this module puts each element on its way to its hub. -/
theorem accumRun_elements (hlen : s.hubs.length = 32) {g : Region} {home : Nat → Nat}
    (hm : (AccumOp.of x.w).module = 0xFFFF) (hw : 0 < (elemOf (AccumOp.of x.w).fmt).bits / 8)
    (hg : (s.part p).region? (AccumOp.of x.w).region = some g) (hr : g.reduces (AccumOp.of x.w).fmt = true)
    (hhome : ∀ k < x.count, home k < 32 ∧ s.isCut (.stack (home k)) = false ∧ ∃ loc, (s.part p).place? (AccumOp.of x.w).region
      ((AccumOp.of x.w).offset + k * ((elemOf (AccumOp.of x.w).fmt).bits / 8)) = some (home k, loc)) :
    let f := AccumOp.of x.w
    let w := (elemOf f.fmt).bits / 8
    let elem := fun (k : Nat) => ({
      part := p, region := f.region, offset := f.offset + k * w, format := f.fmt
      bits := BitVec.ofNat 32 (elemAt (elemOf f.fmt) (s.padBytes r.die f.src (x.count * w)) k)
      srcModule := (s.part p).frame.moduleNumber, srcDie := r.die, step := r.step, ordinal := accumOrdinal r s
      pos := k, sender := some r } : Arrival)
    ∃ hs, accumRun r x s = ({ s with hubs := hs } : State).sends p r (x.count * w) id id ∧ ∀ h < 32,
      ({ s with hubs := hs } : State).hub h =
        (s.hub h).receiving (((List.range x.count).filter fun k => home k == h).map elem) := by
  intro f w elem
  obtain ⟨hubs, hgo, hhub⟩ := sendElements_goes (s := countOut r.die (x.count * w) s) hlen
    { part := p, region := f.region, offset := f.offset, format := f.fmt, bits := 0, srcModule := (s.part p).moduleNo
      srcDie := r.die, step := r.step, ordinal := accumOrdinal r s, pos := 0, sender := some r }
    (s.padBytes r.die f.src (x.count * w)) hg hr hw (by simp [State.padBytes, w, f]) hhome
  refine ⟨hubs, ?_, hhub⟩
  have hpart : (countOut r.die (x.count * w) s).part p = s.part p := rfl
  have hself : ∀ t : State, t.modFab p id = t := fun t => by
    have : modAt t.parts p (fun q => { q with fab := id q.fab }) = t.parts := modAt_same _ _ _ fun _ _ => rfl
    simp only [State.modFab, State.modPart, this]
  simp only [accumRun, hp, readPlace_scratch hs, if_pos hm, accumOrdinal_countOut hd]
  rw [show ((elemOf (AccumOp.of x.w).fmt).bits / 8) = w from rfl, hpart, hgo, if_pos rfl, State.sends, hself]
  rfl

end

end Sys2Proof.Machine
end

section
/-! PROOF. RINGAG on a ring with no member out (07 R201, 15 R392): the record's own shard goes to the members next to its
own, and nothing waits for it yet. -/

namespace Sys2Proof.Machine

/-! ## The members next to one -/

/-- The order in which the members follow one begins with the one next to it. -/
theorem ringOrder_head {n : Nat} (h2 : 2 ≤ n) (i : Nat) (fwd : Bool) :
    ∃ l, ringOrder n i fwd = (if fwd then i + 1 else i + (n - 1)) % n :: l := by
  obtain ⟨m, hm⟩ : ∃ m, n - 1 = m + 1 := ⟨n - 2, by omega⟩
  refine ⟨((List.range m).map Nat.succ).map fun k => if fwd then (i + 1 + k) % n else (i + (n - 1 - k)) % n, ?_⟩
  rw [ringOrder, hm, List.range_succ_eq_map, List.map_cons, ← hm]
  cases fwd <;> rfl

section
variable {s : State} {p i : Nat} {ms : List (Nat × Nat)} (h2 : 2 ≤ ms.length) (hno : ∀ q ∈ ms, s.memberOut p q = false)
include h2 hno

theorem State.memberOut_at (k : Nat) : s.memberOut p (ms.getD (k % ms.length) (0, 0)) = false := hno _ (by
  have hk : k % ms.length < ms.length := Nat.mod_lt _ (by omega)
  rw [List.getD_eq_getElem _ _ hk]
  exact List.getElem_mem hk)

/-- Where no member is out, the next one follows directly. -/
theorem State.next_direct (fwd : Bool) :
    s.next p ms i fwd = (some ((if fwd then i + 1 else i + (ms.length - 1)) % ms.length), []) := by
  obtain ⟨l, hl⟩ := ringOrder_head h2 i fwd
  have hfirst := State.memberOut_at h2 hno (if fwd then i + 1 else i + (ms.length - 1))
  simp only [State.next, hl, List.find?_cons, List.takeWhile_cons, hfirst]
  rfl

/-- Where no member is out, a member closes its ring around none. -/
theorem State.closes_none {g : RingProgress} (hg : g.members = ms) : s.closes p g = [] := by
  subst hg
  obtain ⟨l, hl⟩ := ringOrder_head h2 g.pos false
  have hfirst := State.memberOut_at h2 hno (g.pos + (g.members.length - 1))
  have hcut : s.cutBefore p g = [] := by
    simp only [Bool.false_eq_true, if_false] at hl
    simp only [State.cutBefore, hl, List.find?_cons, List.takeWhile_cons, hfirst, Bool.and_false, Bool.not_false,
      Bool.false_eq_true, if_false, ite_self]
  have hways : (g.ways.flatMap fun w => (s.next p g.members g.pos w).2) = [] := by
    simp [State.next_direct h2 hno]
  simp only [State.closes, hcut, hways]
  rfl

end

theorem dist_forward {n i : Nat} (h2 : 2 ≤ n) (hi : i < n) : ((i + 1) % n + n - i) % n = 1 := by
  by_cases h : i + 1 < n
  · rw [Nat.mod_eq_of_lt h, show i + 1 + n - i = n + 1 by omega, Nat.add_mod_left, Nat.mod_eq_of_lt h2]
  · rw [show i + 1 = n by omega, Nat.mod_self, show 0 + n - i = 1 by omega, Nat.mod_eq_of_lt h2]

theorem dist_backward {n i : Nat} (h2 : 2 ≤ n) (hi : i < n) : (i + n - (i + (n - 1)) % n) % n = 1 := by
  by_cases h : i = 0
  · subst h
    rw [Nat.zero_add, Nat.zero_add, Nat.mod_eq_of_lt (show n - 1 < n by omega), show n - (n - 1) = 1 by omega,
      Nat.mod_eq_of_lt h2]
  · rw [show i + (n - 1) = n + (i - 1) by omega, Nat.add_mod_left, Nat.mod_eq_of_lt (show i - 1 < n by omega),
      show i + n - (i - 1) = n + 1 by omega, Nat.add_mod_left, Nat.mod_eq_of_lt h2]

/-- A shard of its own reaches the member after it, and in a plan of both directions of three members or more the one
before it. -/
theorem RingProgress.reaches_next {g : RingProgress} (h2 : 2 ≤ g.members.length) (hi : g.pos < g.members.length) (fwd : Bool)
    (hw : fwd ∈ g.ways) :
    g.reaches g.pos ((if fwd then g.pos + 1 else g.pos + (g.members.length - 1)) % g.members.length) fwd =
      (fwd || decide (3 ≤ g.members.length)) := by
  cases fwd with
  | true =>
    simp only [RingProgress.reaches, if_true, dist_forward h2 hi]
    split <;> simp <;> omega
  | false =>
    have hb : g.both = true := by
      by_contra hb
      simp [RingProgress.ways, hb] at hw
    simp only [RingProgress.reaches, Bool.false_eq_true, if_false, dist_backward h2 hi, hb, if_true]
    by_cases h : 3 ≤ g.members.length <;> simp [h] <;> omega

/-- A member's position in a plan. -/
theorem ringPos_eq {ms : List (Nat × Nat)} {m : Nat × Nat} {i : Nat} (hi : ms[i]? = some m) (hj : ∀ j < i, ms[j]? ≠ some m) :
    ringPos ms m = some i := by
  have hlt : i < ms.length := by
    by_contra h
    rw [List.getElem?_eq_none (by omega)] at hi
    cases hi
  rw [ringPos, List.find?_range_eq_some]
  exact ⟨by simp [hi], by simpa using hlt, fun j h => by simpa using hj j h⟩

/-! ## What has been sent so far -/

/-- The state whose partition has fabric b and whose record's engine has sent n bytes j times, and numbers messages from
`ns` on. -/
def State.posts (s : State) (p : Nat) (r : RecRef) (b : Fabric) (ns : List (Nat × Nat)) (n j : Nat) : State :=
  (s.modCoe r.die fun c => { c with outBytes := (fun o => wrap64 o n)^[j] c.outBytes, numbers := ns }).modFab p fun _ => b

theorem iterate_wrap64 (o n j : Nat) : (fun o => wrap64 o n)^[j + 1] o = wrap64 o (n * (j + 1)) := by
  induction j with
  | zero => simp
  | succ j ih =>
    rw [Function.iterate_succ_apply', ih]
    simp only [wrap64, Nat.mod_add_mod, Nat.add_assoc, Nat.mul_succ]

theorem State.posts_sends (s : State) (p : Nat) (r : RecRef) (b : Fabric) (ns : List (Nat × Nat)) (n j : Nat) :
    s.posts p r b ns n (j + 1) = s.sends p r (n * (j + 1)) (fun _ => b) fun c => { c with numbers := ns } := by
  simp only [State.posts, State.sends, iterate_wrap64]

section
variable {s : State} {p : Nat} {r : RecRef} {b : Fabric} {ns : List (Nat × Nat)} {n j : Nat} (hp : p < s.parts.length)
include hp

theorem State.posts_part : (s.posts p r b ns n j).part p = { s.part p with fab := b } := State.modPart_part_same _ _ _ hp

theorem State.posts_moduleNo : ((s.posts p r b ns n j).part p).moduleNo = (s.part p).frame.moduleNumber := by
  rw [State.posts_part hp]
  rfl

theorem State.posts_memberOut (hb : b.modulesOut = (s.part p).fab.modulesOut) (m : Nat × Nat) :
    (s.posts p r b ns n j).memberOut p m = s.memberOut p m := by
  have hpart : (s.posts p r b ns n j).part p = { s.part p with fab := b } := State.posts_part hp
  have hmis : (s.posts p r b ns n j).allMiswired p m.1 = s.allMiswired p m.1 := by
    simp only [State.allMiswired, hpart]
    rfl
  simp only [State.memberOut, State.peerOut, hmis, hpart, hb]
  rfl

theorem State.posts_served {g : Nat} (hs : s.served p g) : (s.posts p r b ns n j).served p g := by
  intro o h loc e
  rw [State.posts_part hp] at e
  exact hs o h loc e

theorem State.posts_regionByte (g o : Nat) : (s.posts p r b ns n j).regionByte p g o = s.regionByte p g o := by
  simp only [State.regionByte, State.posts_part hp]
  rfl

end

/-- The state before anything has been sent. -/
theorem State.posts_zero (s : State) (p : Nat) (r : RecRef) (n : Nat) {f : Fabric → Fabric} (b : Fabric)
    (hb : f (s.part p).fab = b) : s.modFab p f = s.posts p r b (s.cd r.die).eng.coe.numbers n 0 := by
  have hself : (s.modCoe r.die fun c =>
      { c with outBytes := (fun o => wrap64 o n)^[0] c.outBytes, numbers := (s.cd r.die).eng.coe.numbers }) = s :=
    s.modCd_same r.die rfl
  rw [State.posts, hself, ← hb]
  have : modAt s.parts p (fun q => { q with fab := f q.fab }) = modAt s.parts p fun q => { q with fab := f (s.part p).fab } := by
    by_cases hp : p < s.parts.length
    · rw [modAt_eq_set _ _ _ {} hp, modAt_eq_set _ _ _ {} hp]
      rfl
    · rw [modAt_past _ _ _ (by omega), modAt_past _ _ _ (by omega)]
  simp only [State.modFab, State.modPart, this]

/-! ## One shard sent -/

/-- A shard joins the mesh or its engine's messages, by the module of the member it goes to. -/
def ringPost (here : Nat) (r : RecRef) (f : RingOp) (o : Nat) (data : List Byte) (b : Fabric × Coe) (m : Nat × Nat) :
    Fabric × Coe :=
  if m.1 = here then ({ b.1 with
    mesh := b.1.mesh ++ [.shard r m.2 f.ring f.region o data [] false] }, b.2)
  else
    let number := look b.2.numbers m.1 0
    ({ b.1 with
      nextMsg := b.1.nextMsg + 1
      msgs := b.1.msgs ++ [{
        ident := b.1.nextMsg, kind := 3, ref := r, dstModule := m.1, dstDie := m.2, channel := 0, format := 0
        number := number, ordinal := 0, ring := f.ring, region := f.region, offset := o
        data := data }] },
      { b.2 with numbers := place b.2.numbers m.1 0 (number + 1) })

/-- What a shard that is sent leaves of the fabric: the modules that are out, the rings, and the shards that came early. -/
theorem ringPost_keeps (here : Nat) (r : RecRef) (f : RingOp) (o : Nat) (data : List Byte) (b : Fabric × Coe)
    (m : Nat × Nat) : (ringPost here r f o data b m).1.modulesOut = b.1.modulesOut ∧
      (ringPost here r f o data b m).1.rings = b.1.rings ∧ (ringPost here r f o data b m).1.early = b.1.early := by
  unfold ringPost
  split <;> exact ⟨rfl, rfl, rfl⟩

/-- A die's engine and a partition's fabric change one after the other. -/
theorem State.modFab_modCoe (s : State) (p d : Nat) (f : Fabric → Fabric) (g : Coe → Coe) :
    (s.modFab p f).modCoe d g = (s.modCoe d g).modFab p f := rfl

/-- The shard's bytes counted. -/
theorem State.posts_countOut (s : State) (p : Nat) (r : RecRef) (b : Fabric) (ns : List (Nat × Nat)) (n j : Nat) :
    countOut r.die n (s.posts p r b ns n j) = s.posts p r b ns n (j + 1) := by
  rw [countOut, State.posts, State.modFab_modCoe]
  simp only [State.modCoe_eq, State.modCd_modCd, State.posts, Function.iterate_succ_apply']

theorem State.posts_mesh (s : State) (p : Nat) (r : RecRef) (b : Fabric) (ns : List (Nat × Nat)) (n j : Nat) (m : MeshMsg) :
    sendMesh p m (s.posts p r b ns n j) = s.posts p r { b with mesh := b.mesh ++ [m] } ns n j := by
  simp only [sendMesh, State.posts, State.modFab_eq, State.modPart_modPart]

theorem State.posts_message {s : State} {p : Nat} {r : RecRef} {b : Fabric} {ns : List (Nat × Nat)} {n j : Nat}
    (hd : r.die < s.cds.length) (m : OutMsg) (hm : m.ref = r) :
    sendMessage p m (s.posts p r b ns n j) = s.posts p r
      { b with nextMsg := b.nextMsg + 1, msgs := b.msgs ++ [m.numbered b.nextMsg (look ns m.dstModule 0)] }
      (place ns m.dstModule 0 (look ns m.dstModule 0 + 1)) n j := by
  subst hm
  have hns : ((s.posts p m.ref b ns n j).cd m.ref.die).eng.coe.numbers = ns :=
    congrArg (fun c : Cd => c.eng.coe.numbers) (State.modCd_cd_same _ _ _ hd)
  simp only [sendMessage, hns]
  rw [State.posts, State.modFab_modCoe]
  simp only [State.modCoe_eq, State.modCd_modCd, State.posts, State.modFab_eq, State.modPart_modPart, OutMsg.numbered]

end Sys2Proof.Machine
end

section
/-! PROOF. The shards that a RINGAG sends when it starts (07 R201, 15 R392, R393). -/

namespace Sys2Proof.Machine

/-- The progress with which a RINGAG starts. -/
def ringOwn (r : RecRef) (f : RingOp) (n i : Nat) (ms : List (Nat × Nat)) (both : Bool) : RingProgress :=
  { ref := r, ring := f.ring, count := n, region := f.region, offset := f.offset, pos := i, members := ms
    both := both, got := [i] }

/-- The members to whom a shard of one's own goes. -/
def ringGoes (i : Nat) (ms : List (Nat × Nat)) (both : Bool) : List (Nat × Nat) :=
  (if both ∧ 3 ≤ ms.length then [i + 1, i + (ms.length - 1)] else [i + 1]).map fun k => ms.getD (k % ms.length) (0, 0)

/-- The state in which a RINGAG of partition p may send: its region is served, and its shard lies in it. -/
structure RingReady (s : State) (p : Nat) (r : RecRef) (f : RingOp) (n i : Nat) (ms : List (Nat × Nat)) : Prop where
  fit : s.stacksFit
  part : p < s.parts.length
  die : r.die < s.cds.length
  served : s.served p f.region
  room : f.offset + i * n + n ≤ ((s.part p).region? f.region).elim 0 (·.length)
  two : 2 ≤ ms.length
  pos : i < ms.length
  present : ∀ q ∈ ms, s.memberOut p q = false

/-- The bytes of the shard. -/
def State.shardBytes (s : State) (p : Nat) (f : RingOp) (n i : Nat) : List Byte :=
  (List.range n).map fun k => s.regionByte p f.region (f.offset + i * n + k)

section
variable {s w : State} {p : Nat} {r : RecRef} {f : RingOp} {n i : Nat} {ms : List (Nat × Nat)}
  (h : RingReady s p r f n i ms) (hw : s.Reads w)
include h hw

/-- Lines read in a state that has posted are lines read. -/
theorem readRegion_posts {b : Fabric} {ns : List (Nat × Nat)} {j : Nat} :
    ∃ v, s.Reads v ∧ readRegion p f.region (f.offset + i * n) n unitCoe .wide (w.posts p r b ns n j) =
      { state := v.posts p r b ns n j, chunks := cleanChunks (s.regionByte p f.region) (f.offset + i * n) n } := by
  have hpw : p < w.parts.length := by rw [hw.parts]; exact h.part
  have hfit : (w.posts p r b ns n j).stacksFit := hw.stacksFit h.fit
  have hroom : f.offset + i * n + n ≤ (((w.posts p r b ns n j).part p).region? f.region).elim 0 (·.length) := by
    rw [State.posts_part hpw, hw.part]
    exact h.room
  obtain ⟨u, hu, ha, hk⟩ := readRegion_served hfit (State.posts_served hpw (hw.served h.served)) hroom unitCoe .wide
  have hbytes : (w.posts p r b ns n j).regionByte p f.region = s.regionByte p f.region := funext fun o => by
    rw [State.posts_regionByte hpw, hw.regionByte h.served hw.keeps]
  refine ⟨{ w with hubs := u.hubs }, hw.trans ⟨⟨⟨rfl, ha.length, ha.hubs⟩, rfl, rfl⟩, hk⟩, ?_⟩
  rw [hu, hbytes]
  congr 1
  exact ha.hubsOnly

/-- The own shard sent to one member. -/
theorem sendShard_posts (both : Bool) (b : Fabric × Coe) (j : Nat) (m : Nat × Nat) :
    ∃ v, s.Reads v ∧ sendShard p (ringOwn r f n i ms both) m (f.offset + i * n) false (w.posts p r b.1 b.2.numbers n j) =
      v.posts p r
        (ringPost (s.part p).frame.moduleNumber r f (f.offset + i * n) (s.shardBytes p f n i) b m).1
        (ringPost (s.part p).frame.moduleNumber r f (f.offset + i * n) (s.shardBytes p f n i) b m).2.numbers n (j + 1) := by
  obtain ⟨v, hv, hread⟩ := readRegion_posts h hw (b := b.1) (ns := b.2.numbers) (j := j)
  refine ⟨v, hv, ?_⟩
  have hpv : p < v.parts.length := by rw [hv.parts]; exact h.part
  have hdv : r.die < v.cds.length := by rw [hv.cds]; exact h.die
  have hlen : (s.shardBytes p f n i).length = n := by simp [State.shardBytes]
  have hdata : ∀ salt, sentBytes salt (cleanChunks (s.regionByte p f.region) (f.offset + i * n) n) = s.shardBytes p f n i :=
    fun salt => sentBytes_cleanChunks ..
  simp only [sendShard, ringOwn, hread, noteBad, hdata, hlen, State.posts_countOut, badLines_cleanChunks,
    State.posts_moduleNo hpv, hv.part, Bool.false_eq_true, if_false, beq_iff_eq]
  unfold ringPost
  split
  · exact State.posts_mesh ..
  · exact State.posts_message hdv _ rfl

/-- No member is out in a state that has posted. -/
theorem present_posts {b : Fabric} (hb : b.modulesOut = (s.part p).fab.modulesOut) (ns : List (Nat × Nat)) (j : Nat) :
    ∀ q ∈ ms, (w.posts p r b ns n j).memberOut p q = false := fun q hq => by
  have hpw : p < w.parts.length := by rw [hw.parts]; exact h.part
  rw [State.posts_memberOut hpw (by rw [hw.part, hb])]
  have : w.memberOut p q = s.memberOut p q := by
    rw [hw.hubsOnly]
    rfl
  rw [this, h.present q hq]

/-- The own shard sent in a direction of its plan, where it reaches the next member. -/
theorem sendOn_posts {both : Bool} {b : Fabric × Coe} (hb : b.1.modulesOut = (s.part p).fab.modulesOut) (j : Nat) (fwd : Bool)
    (hway : fwd ∈ (ringOwn r f n i ms both).ways) :
    ∃ v, s.Reads v ∧ sendOn p (ringOwn r f n i ms both) i false fwd (w.posts p r b.1 b.2.numbers n j) =
      if fwd ∨ 3 ≤ ms.length then
        let c := ringPost (s.part p).frame.moduleNumber r f (f.offset + i * n) (s.shardBytes p f n i) b
          (ms.getD ((if fwd then i + 1 else i + (ms.length - 1)) % ms.length) (0, 0))
        v.posts p r c.1 c.2.numbers n (j + 1)
      else v.posts p r b.1 b.2.numbers n j := by
  have hnext := State.next_direct (i := i) h.two (present_posts h hw hb b.2.numbers j) fwd
  have hreach := RingProgress.reaches_next (g := ringOwn r f n i ms both) h.two h.pos fwd hway
  obtain ⟨v, hv, hsend⟩ := sendShard_posts h hw both b j
    (ms.getD ((if fwd then i + 1 else i + (ms.length - 1)) % ms.length) (0, 0))
  have hunfold : sendOn p (ringOwn r f n i ms both) i false fwd (w.posts p r b.1 b.2.numbers n j) =
      if (fwd || decide (3 ≤ ms.length)) = true then sendShard p (ringOwn r f n i ms both)
        (ms.getD ((if fwd then i + 1 else i + (ms.length - 1)) % ms.length) (0, 0)) (f.offset + i * n) false
        (w.posts p r b.1 b.2.numbers n j) else w.posts p r b.1 b.2.numbers n j := by
    simp only [ringOwn] at hreach hnext ⊢
    simp only [sendOn, hnext, hreach, State.brokenAt, List.contains_nil, List.isEmpty_nil]
    cases fwd <;> by_cases h3 : 3 ≤ ms.length <;> simp [h3]
  rw [hunfold]
  by_cases hgo : fwd = true ∨ 3 ≤ ms.length
  · rw [if_pos (by simpa using hgo)]
    exact ⟨v, hv, by rw [if_pos hgo]; exact hsend⟩
  · rw [if_neg (by simpa using hgo)]
    exact ⟨w, hw, by rw [if_neg hgo]⟩

end

/-! ## The ring's progress -/

/-- A change of a fabric into itself is none. -/
theorem State.modFab_same {s : State} {p : Nat} {f : Fabric → Fabric} (h : f (s.part p).fab = (s.part p).fab) : s.modFab p f = s := by
  have : modAt s.parts p (fun q => { q with fab := f q.fab }) = s.parts := modAt_same _ _ _ fun q hq => by
    have e : s.part p = q := by simp [State.part, List.getD_eq_getElem?_getD, hq]
    rw [e] at h
    rw [h]
  simp only [State.modFab, State.modPart, this]

/-- A ring with no member out is not closed around any. -/
theorem closeRing_none {s : State} {p : Nat} {r : RecRef} {g : RingProgress} (hg : s.ringag p r = some g)
    (h2 : 2 ≤ g.members.length) (hno : ∀ q ∈ g.members, s.memberOut p q = false) : closeRing p r s = s := by
  have hself : (s.modRingag p r fun x => { x with got := x.got ++ [], empty := x.empty ++ [] }) = s :=
    State.modFab_same (by simp)
  simp only [closeRing, hg, State.closes_none h2 hno rfl, List.filter_nil, hself]
  rfl

/-- Where no shard has come early none is taken. -/
theorem takeEarly_none {s : State} {p : Nat} {r : RecRef} (he : (s.part p).fab.early = []) : takeEarly p r s = s := by
  unfold takeEarly
  split
  · rfl
  · have hself : ∀ mine : EarlyShard → Bool, (s.modFab p fun f => { f with early := f.early.filter fun e => !mine e }) = s :=
      fun mine => State.modFab_same (by rw [he, List.filter_nil, ← he])
    simp only [he, List.filter_nil, hself]
    rfl

end Sys2Proof.Machine
end

section
/-! PROOF. Collectives (07 R200 to R203, 15 R380 to R393): a record's operation as its section gives it, and what arrives over
the panel mesh. -/

namespace Sys2Proof.Machine

/-! ## RINGAG (R201) -/

/-- The fabric and the engine after a RINGAG has started and its shard has been sent to members in turn. -/
def State.ringPosted (s : State) (p : Nat) (r : RecRef) (f : RingOp) (n i : Nat) (own : RingProgress)
    (goes : List (Nat × Nat)) : Fabric × Coe :=
  goes.foldl (ringPost (s.part p).frame.moduleNumber r f (f.offset + i * n) (s.shardBytes p f n i))
    ({ (s.part p).fab with rings := (s.part p).fab.rings ++ [own] }, (s.cd r.die).eng.coe)

/-- What has been posted leaves the modules out, the started rings, and the early shards. -/
theorem State.ringPosted_keeps (s : State) (p : Nat) (r : RecRef) (f : RingOp) (n i : Nat) (own : RingProgress)
    (goes : List (Nat × Nat)) :
    let b := (s.ringPosted p r f n i own goes).1
    b.modulesOut = (s.part p).fab.modulesOut ∧ b.rings = (s.part p).fab.rings ++ [own] ∧ b.early = (s.part p).fab.early := by
  refine foldl_done (P := fun _ (b : Fabric × Coe) => b.1.modulesOut = (s.part p).fab.modulesOut ∧
    b.1.rings = (s.part p).fab.rings ++ [own] ∧ b.1.early = (s.part p).fab.early) ⟨rfl, rfl, rfl⟩ ?_
  rintro _ m b _ ⟨h1, h2, h3⟩
  obtain ⟨k1, k2, k3⟩ := ringPost_keeps (s.part p).frame.moduleNumber r f (f.offset + i * n) (s.shardBytes p f n i) b m
  exact ⟨k1.trans h1, k2.trans h2, k3.trans h3⟩

section
variable {s : State} {p : Nat} {r : RecRef} {f : RingOp} {n i : Nat} {ms : List (Nat × Nat)} (h : RingReady s p r f n i ms)
include h

/-- The own shard passed on in every direction of its plan. -/
theorem ways_post (both : Bool) :
    let own := ringOwn r f n i ms both
    let c := s.ringPosted p r f n i own (ringGoes i ms both)
    ∃ v, s.Reads v ∧ forAll own.ways (fun w t => sendOn p own i false w t)
      (s.modFab p fun b => { b with rings := b.rings ++ [own] }) =
        v.posts p r c.1 c.2.numbers n (ringGoes i ms both).length := by
  intro own c
  have hkeeps := fun goes => (s.ringPosted_keeps p r f n i own goes).1
  obtain ⟨v, hv, hfwd⟩ := sendOn_posts h (.refl s) (hkeeps []) 0 true (both := both) (by cases both <;> simp [ringOwn, RingProgress.ways])
  rw [if_pos (.inl rfl)] at hfwd
  have hzero : (s.modFab p fun b => { b with rings := b.rings ++ [own] }) =
      s.posts p r (s.ringPosted p r f n i own []).1 (s.ringPosted p r f n i own []).2.numbers n 0 := State.posts_zero _ _ _ _ _ rfl
  rw [hzero]
  cases both with
  | false => exact ⟨v, hv, hfwd⟩
  | true =>
    obtain ⟨u, hu, hback⟩ := sendOn_posts h hv (b := s.ringPosted p r f n i own [ms.getD ((i + 1) % ms.length) (0, 0)])
      (hkeeps _) 1 false (both := true) (by simp [ringOwn, RingProgress.ways])
    refine ⟨u, hu, ?_⟩
    have hsteps : forAll own.ways (fun w t => sendOn p own i false w t)
        (s.posts p r (s.ringPosted p r f n i own []).1 (s.ringPosted p r f n i own []).2.numbers n 0) = sendOn p own i false false
          (sendOn p own i false true (s.posts p r (s.ringPosted p r f n i own []).1 (s.ringPosted p r f n i own []).2.numbers n 0)) :=
      rfl
    rw [hsteps, show sendOn p own i false true _ = _ from hfwd]
    refine Eq.trans hback ?_
    by_cases h3 : 3 ≤ ms.length
    · rw [if_pos (.inr h3)]
      simp only [c, ringGoes, true_and, if_pos h3]
      rfl
    · rw [if_neg (by simpa using h3)]
      simp only [c, ringGoes, true_and, if_neg h3]
      rfl

/-- A RINGAG that starts on a ring with no member out. -/
theorem ringRun_posts {x : RecState} (hx : x.count = n) (hp : coePart r s = p) (hf : RingOp.of x.w = f)
    (hms : (s.part p).members f.ring = ms) (hpos : ringPos ms ((s.part p).frame.moduleNumber, r.die) = some i)
    (hrings : ∀ q ∈ (s.part p).fab.rings, q.ref ≠ r) (hearly : (s.part p).fab.early = []) :
    let own := ringOwn r f n i ms (((s.part p).ringPlan f.ring).any fun k => k.direction == 1)
    let goes := ringGoes i ms (((s.part p).ringPlan f.ring).any fun k => k.direction == 1)
    ∃ v, s.Reads v ∧ ringRun r x s = v.sends p r (n * goes.length) (fun _ => (s.ringPosted p r f n i own goes).1)
      fun c => { c with numbers := (s.ringPosted p r f n i own goes).2.numbers } := by
  intro own goes
  obtain ⟨v, hv, hsent⟩ := ways_post h (((s.part p).ringPlan f.ring).any fun k => k.direction == 1)
  refine ⟨v, hv, ?_⟩
  have hstart : (s.modFab p fun b => { b with rings := b.rings ++ [own] }) =
      s.posts p r (s.ringPosted p r f n i own []).1 (s.ringPosted p r f n i own []).2.numbers n 0 := State.posts_zero _ _ _ _ _ rfl
  have hfind : ((s.part p).fab.rings ++ [own]).find? (fun g => g.ref == r) = some own := by
    have : (s.part p).fab.rings.find? (fun g => g.ref == r) = none := List.find?_eq_none.2 fun q hq => by simpa using hrings q hq
    simp [List.find?_append, this, own, ringOwn]
  have hclose : closeRing p r (s.modFab p fun b => { b with rings := b.rings ++ [own] }) =
      s.modFab p fun b => { b with rings := b.rings ++ [own] } := by
    rw [hstart]
    refine closeRing_none (g := own) ?_ h.two (present_posts h (.refl s) (s.ringPosted_keeps p r f n i own []).1 _ 0)
    rw [State.ringag, State.posts_part h.part]
    exact hfind
  have hpass : passShard p own i false (s.modFab p fun b => { b with rings := b.rings ++ [own] }) =
      v.posts p r (s.ringPosted p r f n i own goes).1 (s.ringPosted p r f n i own goes).2.numbers n goes.length := by
    rw [passShard, show own.ref = r from rfl, hclose]
    exact hsent
  have hrun : ringRun r x s = takeEarly p r (passShard p own i false (s.modFab p fun b => { b with rings := b.rings ++ [own] })) := by
    simp only [ringRun, hp, hf, hms, Part.moduleNo, hpos, hx]
    rfl
  rw [hrun, hpass, takeEarly_none]
  · obtain ⟨j, hj⟩ : ∃ j, goes.length = j + 1 := by
      simp only [goes, ringGoes, List.length_map]
      split <;> exact ⟨_, rfl⟩
    rw [hj]
    exact State.posts_sends ..
  · rw [State.posts_part (by rw [hv.parts]; exact h.part)]
    exact (s.ringPosted_keeps p r f n i own goes).2.2.trans hearly

end

/-! ## The partition and its units -/

theorem coePart_eq {s : State} {r : RecRef} {p : Nat} (h : s.partOfCd r.die = some p) : coePart r s = p := by
  rw [coePart, h]
  rfl

theorem State.runs.die_lt {s : State} {r : RecRef} {code : Nat} {x : RecState} (h : s.runs r code x) (hw : s.whole = true) :
    r.die < s.cds.length := by
  obtain ⟨⟨hwf, -⟩, -⟩ := h
  obtain ⟨-, -, hcds, -⟩ := (State.whole_iff s).1 hw
  rw [hcds]
  simpa [RecRef.wf] using hwf

theorem spanOpen_zero (p g o : Nat) (s : State) : spanOpen p g o 0 s = false := rfl

theorem State.pad_wf {s : State} (hm : s.memWf = true) {d : Nat} (hd : d < s.cds.length) : (s.pad d).bytes.wf = true := by
  simp only [State.memWf, Bool.and_eq_true, List.all_eq_true] at hm
  have := hm.1 _ (List.getElem_mem hd)
  simpa [State.pad, State.cd, List.getD_eq_getElem?_getD, hd] using this

/-! ## A record's operation carried out or waiting -/

section
variable {s : State} {r : RecRef} {x : RecState}

/-- A count of 0 (R93). -/
theorem collective_zero (h0 : x.record.count = 0) : ∀ q ∈ [(0x0600, Instr.put r), (0x0602, .accum r), (0x0603, .ringag r)],
    s.runs r q.1 x → exec q.2 s = .next (s.marked r) := by
  have hc : x.count = 0 := h0
  intro q hq h
  simp only [List.mem_cons, List.not_mem_nil, or_false] at hq
  rcases hq with rfl | rfl | rfl
  · refine (runOpWhen_ready _ h ?_).trans (by rw [counted_zero _ _ h0])
    cases hr : (PutOp.of x.w).src.region <;> simp [putReady, hr, hc, spanOpen_zero]
  · exact (runOp_runs _ h).trans (by rw [counted_zero _ _ h0])
  · refine (runOpWhen_ready _ h ?_).trans (by rw [counted_zero _ _ h0])
    simp only [ringReady]
    split
    · rfl
    · rw [hc, spanOpen_zero]
      rfl

theorem execPut_goes (h : s.runs r 0x0600 x) (hn : 0 < x.record.count) (hr : putReady r x s = true) :
    exec (.put r) s = .next ((putRun r x s).marked r) :=
  (runOpWhen_ready _ h hr).trans (by rw [counted_pos _ _ (Nat.ne_of_gt hn)])

theorem execAccum_goes (h : s.runs r 0x0602 x) (hn : 0 < x.record.count) :
    exec (.accum r) s = .next ((accumRun r x s).marked r) :=
  (runOp_runs _ h).trans (by rw [counted_pos _ _ (Nat.ne_of_gt hn)])

theorem execRingag_goes (h : s.runs r 0x0603 x) (hn : 0 < x.record.count) (hr : ringReady r x s = true) :
    exec (.ringag r) s = .next ((ringRun r x s).marked r) :=
  (runOpWhen_ready _ h hr).trans (by rw [counted_pos _ _ (Nat.ne_of_gt hn)])

end

/-- What becomes of the fabric is what becomes of it as it stands. -/
theorem State.sent_fab {s t : State} {p : Nat} {r : RecRef} {k : Nat} {f f' : Fabric → Fabric} {g : Coe → Coe}
    (h : s.sent p r t k f g) (hf : f (s.part p).fab = f' (s.part p).fab) : s.sent p r t k f' g := by
  unfold State.sent at h ⊢
  rwa [← hf]

/-! ## PUT (R201) -/

/-- What a PUT of these bytes sends. -/
def State.putSent (s : State) (p : Nat) (r : RecRef) (x : RecState) (t : State) (data : List Byte) : Prop :=
  let f := PutOp.of x.w
  let n := x.record.count
  let dst := f.dst.region.getD 0xFFFF
  let num := look (s.cd r.die).eng.coe.numbers f.module 0
  (f.module = 0xFFFF → s.sent p r t n (fun b => { b with
    mesh := b.mesh ++ [.put r f.die f.channel dst f.dst.offset data []] }) id) ∧
  (f.module ≠ 0xFFFF → s.sent p r t n (fun b => { b with
      nextMsg := b.nextMsg + 1
      msgs := b.msgs ++ [{
        ident := (s.part p).fab.nextMsg, kind := 1, ref := r, dstModule := f.module, dstDie := f.die, channel := f.channel
        format := 0, number := num, ordinal := 0, ring := 0, region := dst, offset := f.dst.offset, data := data }] })
    fun c => { c with numbers := place c.numbers f.module 0 (num + 1) })

section
variable {s v : State} {p : Nat} {r : RecRef} {x : RecState} (hp : p < s.parts.length) (hd : r.die < s.cds.length)
  (hcp : coePart r s = p)
include hp hd hcp

theorem putRun_sent {data : List Byte} (hv : v = { s with hubs := v.hubs })
    (hread : readPlace r (PutOp.of x.w).src x.count s = (v, data, [])) :
    s.putSent p r x ((putRun r x s).marked r) data ∧ ((putRun r x s).marked r).hubs = v.hubs := by
  obtain ⟨hmesh, hmessage⟩ := putRun_sends hcp hd (by rw [hv]) hread
  refine ⟨⟨fun hm => ?_, fun hm => ?_⟩, ?_⟩
  · rw [hmesh hm]
    exact State.sends_sent hp hd hv ..
  · rw [hmessage hm]
    exact State.sent_fab (State.sends_sent hp hd hv _ _ _) rfl
  · by_cases hm : (PutOp.of x.w).module = 0xFFFF
    · rw [hmesh hm]
      rfl
    · rw [hmessage hm]
      rfl

end

section
variable {s : State} {p : Nat} {r : RecRef} {x : RecState} (hp : p < s.parts.length) (hd : r.die < s.cds.length)
  (hcp : coePart r s = p) (h : s.runs r 0x0600 x) (hn : 0 < x.record.count)
include hp hd hcp h hn

/-- A PUT from a sound scratchpad. -/
theorem execPut_scratch (hs : (s.pad r.die).sound = true) (hsrc : (PutOp.of x.w).src.region = none) :
    ∃ t, exec (.put r) s = .next t ∧ t.hubs = s.hubs ∧
      s.putSent p r x t (s.padBytes r.die (PutOp.of x.w).src.offset x.record.count) := by
  have hread := readPlace_scratch (r := r) hs (PutOp.of x.w).src.offset x.count
  rw [← hsrc] at hread
  obtain ⟨hput, hhubs⟩ := putRun_sent hp hd hcp rfl hread
  exact ⟨_, execPut_goes h hn (by simp [putReady, hsrc]), hhubs, hput⟩

/-- A PUT from a region that its hubs serve. -/
theorem execPut_region (hf : s.stacksFit) {i : Nat} {g : Region} (hsrc : (PutOp.of x.w).src.region = some i)
    (hg : (s.part p).region? i = some g) (hsv : s.served p i) (hl : (PutOp.of x.w).src.offset + x.record.count ≤ g.length)
    (hopen : spanOpen p i (PutOp.of x.w).src.offset x.record.count s = false) :
    ∃ t, exec (.put r) s = .next t ∧ memTraffic s t ∧ linesSame p i [] s t ∧ s.putSent p r x t
      ((List.range x.record.count).map fun k => s.regionByte p i ((PutOp.of x.w).src.offset + k)) := by
  obtain ⟨v, hread, hv⟩ := readPlace_region (n := x.count) hcp hf hsv (by rw [hg]; exact hl)
  rw [← hsrc] at hread
  obtain ⟨hput, hhubs⟩ := putRun_sent hp hd hcp hv.hubsOnly hread
  obtain ⟨htraffic, hlines⟩ := hv.traffic hhubs p i
  refine ⟨_, execPut_goes h hn ?_, htraffic, hlines, hput⟩
  simpa [putReady, hsrc, hcp, RecState.count] using hopen

end

/-! ## ACCUM (R206) -/

section
variable {s : State} {p : Nat} {r : RecRef} {x : RecState} (hp : p < s.parts.length) (hd : r.die < s.cds.length)
  (hcp : coePart r s = p) (hs : (s.pad r.die).sound = true) (h : s.runs r 0x0602 x) (hn : 0 < x.record.count)
include hp hd hcp hs h hn

/-- An ACCUM for another module. -/
theorem execAccum_message :
    let f := AccumOp.of x.w
    let k := x.record.count * ((elemOf f.fmt).bits / 8)
    let num := look (s.cd r.die).eng.coe.numbers f.module 0
    f.module ≠ 0xFFFF → ∃ t, exec (.accum r) s = .next t ∧ t.hubs = s.hubs ∧ s.sent p r t k
      (fun b => { b with
        nextMsg := b.nextMsg + 1
        msgs := b.msgs ++ [{
          ident := (s.part p).fab.nextMsg, kind := 2, ref := r, dstModule := f.module, dstDie := 0xFF, channel := 0
          format := f.fmt, number := num, ordinal := accumOrdinal r s, ring := 0, region := f.region, offset := f.offset
          data := s.padBytes r.die f.src k }] })
      fun c => { c with numbers := place c.numbers f.module 0 (num + 1) } := by
  intro f k num hm
  have hrun := accumRun_message (x := x) hcp hd hs hm
  exact ⟨_, execAccum_goes h hn, by rw [hrun]; rfl, by
    rw [hrun]
    exact State.sent_fab (State.sends_sent hp hd rfl _ _ _) rfl⟩

end

/-! ## RINGAG (R201) -/

section
variable {s : State} {p : Nat} {r : RecRef} {x : RecState} {i : Nat} (hcp : coePart r s = p)
  (hpos : ringPos ((s.part p).members (RingOp.of x.w).ring) ((s.part p).frame.moduleNumber, r.die) = some i)
include hcp hpos

theorem ringReady_eq : ringReady r x s =
    !spanOpen p (RingOp.of x.w).region ((RingOp.of x.w).offset + i * x.record.count) x.record.count s := by
  simp only [ringReady, hcp, Part.moduleNo, hpos, RecState.count]

end

/-! ## What arrives over the mesh -/

/-- A PUT for a scratchpad never waits, and one for a die that has been cut out stays. -/
theorem execMesh_pad {s : State} {p i : Nat} (hp : p < 4) {r : RecRef} {d ch off : Nat} {data : List Byte} {skip : List Nat}
    (hr : r.die ∈ (s.part p).frame.cds) (hd : d ∈ (s.part p).frame.cds)
    (hm : (s.part p).fab.mesh[i]? = some (.put r d ch 0xFFFF off data skip)) :
    exec (.meshMessageArrival p i) s = .next (if s.isCut (.cd d) then s
      else meshArrive p (.put r d ch 0xFFFF off data skip) (s.unmeshed p i)) :=
  execMesh_put hp hm (put_inside hr hd ..) rfl

/-- A PUT that arrives is taken where its die lies in the partition and its bytes in the scratchpad. -/
theorem putTaken_unmeshed {s : State} {p d off : Nat} {data : List Byte} (hm : s.memWf = true) (hp : p < s.parts.length)
    (hin : d ∈ (s.part p).frame.cds) (hd : d < s.cds.length) (hs : (s.pad d).sound = true) (h : off + data.length ≤ 2 ^ 27)
    (i : Nat) (r : RecRef) (ch : Nat) :
    PutTaken (s.unmeshed p i) d ch r.step off data (meshArrive p (.put r d ch 0xFFFF off data []) (s.unmeshed p i)) :=
  putTaken_does (s := s.unmeshed p i) hd (by rw [State.unmeshed_part hp]; exact hin) hs (State.pad_wf hm hd) r ch h

end Sys2Proof.Machine

open Sys2Proof.Machine in
/-- Settles O53: each operation reads its bytes and sends them (`putRun_sends`, `accumRun_message`, `accumRun_elements`,
`ringRun_posts`), which changes its partition's fabric and its die's engine alone (`State.sends_sent`); a channel's counter
is taken as `execWaitin_runs` says; and each message of the panel mesh does what its kind does (`putTaken_does`,
`emptyShard_waits`, `shareArrived_does`, `dropMesh_does`). -/
theorem collectives : Obligations.Collectives := by
  intro s p hw hm hp4
  have hf := State.stacksFit_of hw hm
  obtain ⟨hparts, -, hcds, hhubs, -⟩ := (State.whole_iff s).1 hw
  have hp : p < s.parts.length := by rw [hparts]; exact hp4
  refine ⟨fun r x hpart hs => ?_, fun i m hmesh => ?_⟩
  · have hcp := coePart_eq hpart
    refine ⟨collective_zero, fun h hn => ?_, fun h => ?_, fun h hn => ?_, fun i g h hn => ?_⟩
    · have hd := h.die_lt hw
      exact ⟨execPut_scratch hp hd hcp h hn hs, fun i hi hopen => runOpWhen_waits _ h (by
        simpa [putReady, hi, hcp, RecState.count] using hopen),
        fun i g hi hg hsv hl hopen => execPut_region hp hd hcp h hn hf hi hg hsv hl hopen⟩
    · have hexec := execWaitin_runs h
      simp only [waitRun_eq, touchChan_eq] at hexec
      exact ⟨fun hle => hexec.trans (if_pos hle), fun hlt => hexec.trans (if_neg (Nat.not_le_of_gt hlt))⟩
    · have hd := h.die_lt hw
      refine ⟨execAccum_message hp hd hcp hs h hn, fun g home hmod hwidth hg hr hhome => ?_⟩
      obtain ⟨hubs, hrun, hhub⟩ := accumRun_elements (x := x) hcp hd hs hhubs hmod hwidth hg hr hhome
      refine ⟨_, execAccum_goes h hn, ?_, fun k hk => ?_⟩
      · rw [hrun]
        exact State.sends_sent hp hd rfl _ _ _
      · rw [hrun]
        exact hhub k hk
    · intro f here ms h2 hi hat hbefore
      have hd := h.die_lt hw
      have hpos : ringPos ms (here, r.die) = some i := ringPos_eq hat hbefore
      have hready := ringReady_eq (x := x) hcp hpos
      refine ⟨fun hopen => runOpWhen_waits _ h (by rw [hready, hopen]; rfl),
        fun hopen hpresent hearly hrings hg hsv hl => ?_⟩
      have hring : RingReady s p r f x.record.count i ms :=
        ⟨hf, hp, hd, hsv, by rw [hg]; rwa [Nat.add_mul, Nat.one_mul, ← Nat.add_assoc] at hl, h2, hi, hpresent⟩
      intro both own data goes post posted
      obtain ⟨v, hv, hrun⟩ := ringRun_posts hring (x := x) rfl hcp rfl rfl hpos hrings hearly
      obtain ⟨htraffic, hlines⟩ := hv.traffic (t := (ringRun r x s).marked r) (by rw [hrun]; rfl) p f.region
      refine ⟨_, execRingag_goes h hn (by rw [hready, hopen]; rfl), htraffic, hlines, ?_⟩
      rw [hrun]
      exact State.sends_sent hp hd hv.hubsOnly _ _ _
  · intro out e
    refine ⟨fun hout => ?_, fun hin hwait => execMesh_waits hp4 hmesh hin hwait, ?_, ?_, ?_⟩
    · obtain ⟨rec, hdrop⟩ := dropMesh_does hp i m
      exact ⟨_, rec, execMesh_outside hp4 hmesh hout, hdrop⟩
    · rintro r d ch off data skip rfl hr hd hd16 -
      have hexec := execMesh_pad hp4 hr hd hmesh
      refine ⟨fun hcut => hexec.trans (by rw [hcut]; rfl), fun hcut hlong => hexec.trans ?_, fun hcut hfits hsound _ hskip => ?_⟩
      · rw [hcut, putRejected _ _ _ _ _ _ _ _ hlong]
        rfl
      · subst hskip
        obtain ⟨h1, h2, h3, h4, h5, h6, h7⟩ :=
          putTaken_unmeshed hm hp hd (by rw [hcds]; exact hd16) hsound hfits i r ch
        rw [Chan.holding_more] at h6
        refine ⟨_, hexec.trans (by rw [hcut]; rfl), h1, h2, h3, h4, h5, h6, fun q y hy => ?_⟩
        simpa only [RecState.awaits, Bool.and_eq_true, beq_iff_eq] using h7 q y hy
    · rintro r d ring region off data rfl hr hd hopen hcame hcut hno
      have hpart := State.unmeshed_part hp i
      have hcame' : (s.unmeshed p i).shardCame p d r.step ring region off = false := by
        simp only [State.shardCame, hpart] at hcame ⊢
        exact hcame
      obtain ⟨hhubs', hfab⟩ := emptyShard_waits (s := s.unmeshed p i) (p := p) (by simpa [State.unmeshed] using hp)
        (by rw [hpart]; exact hd) hcut data [] hcame' (by rw [hpart]; exact hno)
      refine ⟨_, execMesh_shard hp4 hmesh (by simp [MeshMsg.inside, e, hr, hd]) hopen hcut, hhubs', ?_⟩
      rw [hfab, hpart]
    · rintro u step sh rfl hu
      have hpart := State.unmeshed_part hp i
      obtain ⟨hfab, hh, hus, hshares⟩ := shareArrived_does (s := s.unmeshed p i) (p := p) (by simpa [State.unmeshed] using hp) u step sh
      refine ⟨_, execMesh_share hp4 hmesh (by simp [MeshMsg.inside, hu, e]), ?_, hh, hus, ?_⟩
      · exact hfab.trans (by rw [hpart])
      · rw [hpart] at hshares
        exact hshares
end

section
/-! PROOF. A step with no command waiting (03 R68), and the sequencer's own registers (03 R80, R90, R91, Tables 03.5 and
03.6). -/

namespace Sys2Proof.Machine

/-! ## Module time -/

theorem countSeconds_eq (n : Nat) (s : State) :
    ∃ f l, countSeconds n s = { s with free := f, ctrl := { s.ctrl with log := l } } := by
  unfold countSeconds
  split <;> exact ⟨_, _, rfl⟩

/-- Module time moved on changes the control die's clock and log and the free-value counter alone. -/
theorem advanceTo_eq (n : Nat) (s : State) : ∃ f l time, advanceTo n s = { s with
    free := f, ctrl := { s.ctrl with log := l, clock := { s.ctrl.clock with time := time } } } := by
  unfold advanceTo
  split
  · obtain ⟨f, l, h⟩ := countSeconds_eq (n / 1000000000 - s.now / 1000000000)
      (s.modCtrl fun c => { c with clock := { c.clock with time := BitVec.ofNat 64 n } })
    exact ⟨f, l, _, h⟩
  · exact ⟨_, _, _, rfl⟩

/-! ## s-registers written -/

/-- A written s-register holds the value; a destination of s56 to s63 is discarded (R90). -/
theorem State.setSreg_eq (s : State) (d k : Nat) (v : DWord) :
    s.setSreg d k v = s.modSeq d fun q => { q with sregs := if k < 56 then q.sregs.set k v else q.sregs } := by
  by_cases hk : k < 56
  · simp only [State.setSreg, hk, if_true, modAt_const]
  · rw [State.setSreg, if_neg hk]
    exact (State.modCd_same s d (by simp only [hk, if_false])).symm

/-- Two operand words as one number are their bits, the first low. -/
theorem RecState.ofNat_w64 (x : RecState) (i : Nat) : BitVec.ofNat 64 (x.w64 i) = x.w (i + 1) ++ x.w i := by
  have hlow := (x.w i).isLt
  have hhigh := (x.w (i + 1)).isLt
  refine BitVec.eq_of_toNat_eq ?_
  rw [BitVec.toNat_append, ← Nat.shiftLeft_add_eq_or_of_lt hlow, Nat.shiftLeft_eq, BitVec.toNat_ofNat, RecState.w64,
    Nat.mod_eq_of_lt (by omega)]
  omega

/-! ## The operations of SALU (Table 03.6) -/

theorem saluOp_add (a b : DWord) : saluOp 0 a b = BitVec.ofNat 64 (a.toNat + b.toNat) :=
  BitVec.eq_of_toNat_eq (by simp [saluOp])

theorem saluOp_sub (a b : DWord) : saluOp 1 a b = BitVec.ofNat 64 (a.toNat + (2 ^ 64 - b.toNat)) :=
  BitVec.eq_of_toNat_eq (by simp [saluOp, BitVec.toNat_sub, Nat.add_comm])

theorem saluOp_shl (a b : DWord) : saluOp 5 a b = BitVec.ofNat 64 (a.toNat * 2 ^ (b.toNat % 64)) :=
  BitVec.eq_of_toNat_eq (by simp [saluOp, Nat.shiftLeft_eq])

theorem saluOp_shr (a b : DWord) : saluOp 6 a b = BitVec.ofNat 64 (a.toNat / 2 ^ (b.toNat % 64)) := by
  have hlt : a.toNat / 2 ^ (b.toNat % 64) < 2 ^ 64 := Nat.lt_of_le_of_lt (Nat.div_le_self _ _) a.isLt
  refine BitVec.eq_of_toNat_eq ?_
  rw [BitVec.toNat_ofNat, Nat.mod_eq_of_lt hlt]
  simp [saluOp, Nat.shiftRight_eq_div_pow]

theorem saluOp_min (a b : DWord) : saluOp 7 a b = BitVec.ofNat 64 (min a.toNat b.toNat) := by
  by_cases h : a.toNat ≤ b.toNat
  · simp [saluOp, h]
  · simp [saluOp, h, Nat.min_eq_right (Nat.le_of_not_le h)]

theorem saluOp_max (a b : DWord) : saluOp 8 a b = BitVec.ofNat 64 (max a.toNat b.toNat) := by
  by_cases h : a.toNat ≤ b.toNat
  · simp [saluOp, h]
  · simp [saluOp, h, Nat.max_eq_left (Nat.le_of_not_le h)]

/-! ## Events and replay ranges -/

theorem Seq.raise_ev (q : Seq) (step e n : Nat) : q.raise step e n =
    { q with ev := q.ev.set (64 * (step % 2) + e) ((q.ev.getD (64 * (step % 2) + e) 0 + n) % 65536) } := by
  simp only [Seq.raise, evIndex, modAt_set _ _ _ 0, Nat.reducePow]

theorem Seq.ranges_length (q : Seq) : q.ranges.length = (q.steps.map fun u => u.ranges.length).sum :=
  List.length_flatMap

/-- A range that its step does not hold yet joins it. -/
theorem Seq.addRange_eq {q : Seq} {n : Nat} {g : ReplayRange}
    (hnew : ∀ u ∈ q.steps, u.step = n → ∀ h ∈ u.ranges, h.first ≠ g.first) :
    (q.modStep n fun u => if u.ranges.any fun h => h.first == g.first then u else { u with ranges := u.ranges ++ [g] }) =
      q.modStep n fun u => { u with ranges := u.ranges ++ [g] } := by
  unfold Seq.modStep
  congr 1
  refine List.map_congr_left fun u hu => ?_
  split
  · next hn =>
    have hno : (u.ranges.any fun h => h.first == g.first) = false := by simpa using hnew u hu (by simpa using hn)
    simp only [hno, Bool.false_eq_true, if_false]
  · rfl

/-- REPLAY on a die that holds 16 ranges changes nothing, and elsewhere adds its range (R91). -/
theorem execReplay_runs {s : State} {r : RecRef} {x : RecState} {p : Nat} {g : Region} (h : s.runs r 0x0706 x)
    (hp : s.partOfCd r.die = some p) (hg : (s.part p).region? (field (x.w 0) 9 0) = some g) :
    let new : ReplayRange :=
      { base := g.base + x.w64 1, length := x.w64 3, first := r.cmd + 1, records := (x.w 5).toNat }
    exec (.replay r) s = .next ((s.modSeq r.die fun q =>
      if q.ranges.length < 16 then
        q.modStep r.step fun u => if u.ranges.any fun h => h.first == new.first then u else { u with ranges := u.ranges ++ [new] }
      else q).marked r) := by
  refine (runOp_runs _ h).trans ?_
  simp only [hp, Option.bind_some, hg, Option.elim_some]

/-! ## The wake mask (Table 03.5) -/

/-- The sum of the powers of 2 that c names below n has those bits, and no other. -/
theorem testBit_sum_bits (c : Nat → Bool) (n i : Nat) :
    ((List.range n).foldl (fun m u => if c u then m + 2 ^ u else m) 0).testBit i = (decide (i < n) && c i) := by
  suffices h : ∀ n, (List.range n).foldl (fun m u => if c u then m + 2 ^ u else m) 0 < 2 ^ n ∧ ∀ i,
      ((List.range n).foldl (fun m u => if c u then m + 2 ^ u else m) 0).testBit i = (decide (i < n) && c i) from (h n).2 i
  intro n
  induction n with
  | zero => simp
  | succ n ih =>
    obtain ⟨hlt, hbits⟩ := ih
    rw [List.range_succ, List.foldl_append, List.foldl_cons, List.foldl_nil]
    cases hc : c n with
    | false =>
      refine ⟨by simp only [Bool.false_eq_true, if_false]; omega, fun i => ?_⟩
      rw [if_neg Bool.false_ne_true, hbits]
      by_cases hi : i = n
      · simp [hi, hc]
      · simp [show i < n + 1 ↔ i < n by omega]
    | true =>
      refine ⟨by simp only [if_true]; omega, fun i => ?_⟩
      rw [if_pos rfl, Nat.add_comm]
      rcases Nat.lt_trichotomy i n with hi | hi | hi
      · rw [Nat.testBit_two_pow_add_gt hi, hbits]
        simp [hi, Nat.lt_succ_of_lt hi]
      · subst hi
        rw [Nat.testBit_two_pow_add_eq, hbits]
        simp [hc]
      · rw [Nat.testBit_lt_two_pow (Nat.lt_of_lt_of_le (by omega) (Nat.pow_le_pow_right (by omega) hi : 2 ^ (n + 1) ≤ 2 ^ i))]
        simp [Nat.not_lt.2 hi]

/-- Whether the hub or update die of a unit is there; a unit of a compute die always is. -/
theorem unitBlock_live (s : State) (d u : Nat) :
    (match unitBlock d u with
      | .hub h => s.live (.stack h)
      | .ud k => s.live (.ud k)
      | _ => true) =
    (u < 17 || if u < 19 then s.live (.stack (2 * d + (u - 17))) else s.live (.ud (2 * d + (u - 19)))) := by
  unfold unitBlock
  by_cases h17 : u < 17
  · simp [h17]
  · by_cases h19 : u < 19 <;> simp [h17, h19]

theorem State.wakeMask_testBit (s : State) (d : Nat) {u : Nat} (hu : u < 21) : (s.wakeMask d).testBit u =
    (((s.blk (unitBlock d u)).mode == .running || (s.blk (unitBlock d u)).mode == .lull1) &&
      (u < 17 || if u < 19 then s.live (.stack (2 * d + (u - 17))) else s.live (.ud (2 * d + (u - 19))))) := by
  rw [← unitBlock_live s d u, Bool.and_comm]
  exact (testBit_sum_bits _ 21 u).trans ((congrArg (fun b => b && _) (decide_eq_true hu)).trans (Bool.true_and _))

end Sys2Proof.Machine

open Sys2Proof.Machine

/-- Settles O1: a step runs the front command (`step_front`), and an idle one moves module time on (`advanceTo_eq`,
`advanceTo_time`); that it moves by 1 ns is log entry 2's choice. -/
theorem stepRunsFront : Obligations.StepRunsFront := by
  refine ⟨fun c s rest h => step_front h, fun s hempty => ?_⟩
  obtain ⟨f, l, time, ht⟩ := advanceTo_eq (s.now + 1) s
  refine ⟨advanceTo (s.now + 1) s, step_empty hempty, by rw [ht], by rw [ht], fun hoff => ?_, fun hon hlt => ?_⟩
  · simp [advanceTo, State.powered, hoff]
  · have htime := advanceTo_time (s := s) (by simpa [State.powered] using hon) hlt
    rwa [Nat.max_eq_right (Nat.le_succ _)] at htime

/-- Settles O10: each operation is its change of the registers (`State.setSreg_eq`, `Seq.raise_ev`, `execReplay_runs`), made
for a running record, which is then marked. -/
theorem seqRegisters : Obligations.SeqRegisters := by
  intro s r x dst a b wrote
  refine ⟨fun h => runOp_runs _ h, fun h => ?_, fun h => ?_, fun h => ?_, fun h p g hp hg => ?_⟩
  · refine (runOp_runs _ h).trans ?_
    rw [State.setSreg_eq, RecState.ofNat_w64]
  · have hsalu : exec (.salu r) s = .next (wrote (saluOp (x.w 3).toNat a b)) :=
      (runOp_runs _ h).trans (by rw [State.setSreg_eq])
    refine ⟨?_, ?_, ?_, ?_, ?_, ?_, ?_, ?_, ?_⟩ <;> intro hop <;> rw [hsalu, hop]
    · rw [saluOp_add]
    · rw [saluOp_sub]
    · rfl
    · rfl
    · rfl
    · rw [saluOp_shl]
    · rw [saluOp_shr]
    · rw [saluOp_min]
    · rw [saluOp_max]
  · exact (runOp_runs _ h).trans (by simp only [Seq.raise_ev]; rfl)
  · have hexec := execReplay_runs h hp hg
    have hw : ∀ i, x.w64 i = (x.w i).toNat + 2 ^ 32 * (x.w (i + 1)).toNat := fun _ => rfl
    simp only [Seq.ranges_length, hw, ← Nat.add_assoc] at hexec
    refine ⟨fun ⟨hroom, hnew⟩ => hexec.trans ?_, fun hfull => hexec.trans ?_⟩
    · refine congrArg (fun t : State => Host.Outcome.next (t.marked r)) (State.modCd_congr s r.die ?_)
      simp only [hroom, if_true]
      rw [Seq.addRange_eq hnew]
    · refine congrArg (fun t : State => Host.Outcome.next (t.marked r)) (State.modCd_same s r.die ?_)
      simp only [Nat.not_lt.2 hfull, if_false]

/-- Settles O11: each of s56 to s63 is read as its row of Table 03.5 says, s59 bit by bit (`State.wakeMask_testBit`). -/
theorem sregValues : Obligations.SregValues := by
  intro s d p hp
  refine ⟨fun i hi => by simp [State.sreg, hi], ?_, ?_, ?_, rfl, rfl, ?_, fun u hu => ?_⟩
  · simp [State.sreg, hp]
  · simp [State.sreg, hp]
  · exact BitVec.ofNat_toNat 64 _
  · simp [State.sreg, hp]
  · have h59 : s.sreg d 59 = BitVec.ofNat 64 (s.wakeMask d) := rfl
    rw [h59, BitVec.getLsbD_ofNat, decide_eq_true (show u < 64 by omega), Bool.true_and, State.wakeMask_testBit s d hu]
end

section
/-! PROOF. Records and power blocks read after a change (03 R81, 16 R406): a begun step, a record and a block of the state in
which one of them has been changed, and what a wake requested of a block leaves alone. -/

namespace Sys2Proof.Machine

/-! ## A die, a begun step and a record -/

theorem modAt_getD {α : Type} (l : List α) (i j : Nat) (f : α → α) (d : α) :
    (modAt l i f).getD j d = if j = i ∧ i < l.length then f (l.getD j d) else l.getD j d := by
  by_cases hj : j = i
  · subst hj
    by_cases hlt : j < l.length
    · rw [modAt_getD_same _ _ _ _ hlt, if_pos ⟨rfl, hlt⟩]
    · rw [if_neg (fun h => hlt h.2), modAt_past _ _ _ (Nat.le_of_not_lt hlt)]
  · rw [modAt_getD_other _ _ _ _ _ hj, if_neg (fun h => hj h.1)]

theorem State.modCd_cd (s : State) (d e : Nat) (f : Cd → Cd) :
    (s.modCd d f).cd e = if e = d ∧ d < s.cds.length then f (s.cd e) else s.cd e := modAt_getD ..

theorem State.modHub_hub (s : State) (k h : Nat) (f : Hub → Hub) :
    (s.modHub k f).hub h = if h = k ∧ k < s.hubs.length then f (s.hub h) else s.hub h := modAt_getD ..

theorem State.modUd_ud (s : State) (k u : Nat) (f : Ud → Ud) :
    (s.modUd k f).ud u = if u = k ∧ k < s.uds.length then f (s.ud u) else s.ud u := modAt_getD ..

theorem State.modLe_le (s : State) (k m : Nat) (f : Le → Le) :
    (s.modLe k f).le m = if m = k ∧ k < s.les.length then f (s.le m) else s.le m := modAt_getD ..

/-- A part of a die that a change leaves. -/
theorem State.modCd_cd_keeps {α : Type} (s : State) (d e : Nat) {f : Cd → Cd} (v : Cd → α) (hf : ∀ c, v (f c) = v c) :
    v ((s.modCd d f).cd e) = v (s.cd e) := by
  rw [State.modCd_cd]
  split
  · exact hf _
  · rfl

theorem State.cd_past {s : State} {d : Nat} (h : s.cds.length ≤ d) : s.cd d = {} := by
  simp [State.cd, h]

theorem State.step?_die_lt {s : State} {d n : Nat} {u : StepRun} (h : (s.cd d).seq.step? n = some u) : d < s.cds.length := by
  refine Nat.lt_of_not_le fun hle => ?_
  rw [State.cd_past hle] at h
  cases h

theorem State.rec?_of_step {s : State} {r : RecRef} {u : StepRun} (h : (s.cd r.die).seq.step? r.step = some u) :
    s.rec? r = u.recs[r.cmd]? := by
  simp only [State.rec?, h]

/-- A record belongs to a begun step of a die that is there. -/
theorem State.rec?_some {s : State} {r : RecRef} {x : RecState} (h : s.rec? r = some x) :
    ∃ u, (s.cd r.die).seq.step? r.step = some u ∧ u.recs[r.cmd]? = some x := by
  unfold State.rec? at h
  split at h
  · next u hu => exact ⟨u, hu, h⟩
  · cases h

theorem State.rec?_die_lt {s : State} {r : RecRef} {x : RecState} (h : s.rec? r = some x) : r.die < s.cds.length := by
  obtain ⟨u, hu, -⟩ := State.rec?_some h
  exact State.step?_die_lt hu

theorem State.rec?_of_steps {s t : State} {r : RecRef} (h : (t.cd r.die).seq.steps = (s.cd r.die).seq.steps) :
    t.rec? r = s.rec? r := by
  simp only [State.rec?, Seq.step?, h]

theorem Seq.step?_step {q : Seq} {n : Nat} {u : StepRun} (h : q.step? n = some u) : u.step = n := by
  simpa using List.find?_some h

theorem Seq.step?_modStep {q : Seq} {n : Nat} {f : StepRun → StepRun} (hf : ∀ u, (f u).step = u.step) {u : StepRun}
    (h : q.step? n = some u) : (q.modStep n f).step? n = some (f u) := by
  have hcomp : ((fun t : StepRun => t.step == n) ∘ fun t : StepRun => if t.step == n then f t else t) =
      fun t => t.step == n := by
    funext t
    simp only [Function.comp]
    split <;> simp [hf]
  rw [Seq.step?] at h
  rw [Seq.step?, Seq.modStep, List.find?_map, hcomp, h, Option.map_some, if_pos (by simpa using Seq.step?_step h)]

theorem State.step?_modRec {s : State} {r : RecRef} {u : StepRun} (h : (s.cd r.die).seq.step? r.step = some u)
    (f : RecState → RecState) :
    ((s.modRec r f).cd r.die).seq.step? r.step = some { u with recs := modAt u.recs r.cmd f } := by
  rw [State.modRec, State.modSeq_eq, State.modCd_cd_same _ _ _ (State.step?_die_lt h)]
  exact Seq.step?_modStep (by exact fun _ => rfl) h

/-- The entries of a list with their places. -/
theorem mem_range_zip {α : Type} {l : List α} {i : Nat} {a : α} :
    (i, a) ∈ (List.range l.length).zip l ↔ l[i]? = some a := by
  rw [List.mem_iff_getElem?]
  constructor
  · rintro ⟨j, hj⟩
    obtain ⟨h1, h2⟩ := List.getElem?_zip_eq_some.1 hj
    obtain ⟨hlt, hij⟩ := List.getElem?_eq_some_iff.1 h1
    rw [List.getElem_range] at hij
    rwa [show j = i from hij] at h2
  · intro h
    obtain ⟨hlt, -⟩ := List.getElem?_eq_some_iff.1 h
    exact ⟨i, List.getElem?_zip_eq_some.2 ⟨by simp [hlt], h⟩⟩

/-! ## A power block -/

theorem look_missing {α : Type} {t : List (Nat × α)} {k : Nat} (h : k ∉ t.map (·.1)) (d : α) : look t k d = d := by
  induction t with
  | nil => rfl
  | cons a t ih =>
    simp only [List.map_cons, List.mem_cons, not_or] at h
    obtain ⟨hne, hrest⟩ := h
    simp [look, Ne.symm hne, ih hrest]

theorem look_all_default (l : List Nat) {α : Type} (k : Nat) (d : α) : look (l.map fun i => (i, d)) k d = d := by
  induction l with
  | nil => rfl
  | cons i l ih =>
    rw [List.map_cons, look]
    split
    · rfl
    · exact ih

theorem look_modKey {α : Type} (t : List (Nat × α)) (i k : Nat) (f : α → α) (d : α) :
    look (modKey t i f) k d = if k = i ∧ k ∈ t.map (·.1) then f (look t k d) else look t k d := by
  induction t with
  | nil => simp [modKey, look]
  | cons a t ih =>
    obtain ⟨j, v⟩ := a
    by_cases hj : j = k
    · subst hj
      by_cases hi : j = i <;> simp [modKey, look, hi]
    · have hrest : look (modKey ((j, v) :: t) i f) k d = look (modKey t i f) k d := by
        rw [modKey, List.map_cons]
        split <;> simp [look, hj, modKey]
      have hskip : look ((j, v) :: t) k d = look t k d := by simp [look, hj]
      rw [hrest, ih, hskip]
      simp only [List.map_cons, List.mem_cons, Ne.symm hj, false_or]

/-- Whether the module has a block. -/
def State.hasBlk (s : State) : BlockRef → Prop
  | .die d i => d < s.cds.length ∧ i ∈ (s.cd d).pwr.blocks.map (·.1)
  | .hub h => h < s.hubs.length
  | .ud u => u < s.uds.length
  | .le m => m < s.les.length

/-- A block that the module does not have reads as one that runs, and sleeps never. -/
theorem State.asleep_hasBlk {s : State} {b : BlockRef} (h : (s.blk b).asleep = true) : s.hasBlk b := by
  refine Classical.byContradiction fun hno => ?_
  suffices hrun : (s.blk b).asleep = false by rw [hrun] at h; cases h
  cases b with
  | die d i =>
    by_cases hd : d < s.cds.length
    · have hkey : i ∉ (s.cd d).pwr.blocks.map (·.1) := fun hi => hno ⟨hd, hi⟩
      rw [State.blk, look_missing hkey]
      rfl
    · rw [State.blk, State.cd_past (Nat.le_of_not_lt hd), show ({} : Cd).pwr.blocks = _ from rfl, look_all_default]
      rfl
  | hub k =>
    simp only [State.hasBlk, Nat.not_lt] at hno
    simp [State.blk, State.hub, hno, PwrBlock.asleep]
  | ud u =>
    simp only [State.hasBlk, Nat.not_lt] at hno
    simp [State.blk, State.ud, hno, PwrBlock.asleep]
  | le m =>
    simp only [State.hasBlk, Nat.not_lt] at hno
    simp [State.blk, State.le, hno, PwrBlock.asleep]

open Classical in
theorem State.modBlk_blk (s : State) (c b : BlockRef) (f : PwrBlock → PwrBlock) :
    (s.modBlk c f).blk b = if b = c ∧ s.hasBlk c then f (s.blk b) else s.blk b := by
  cases c with
  | die d i =>
    cases b with
    | die e j =>
      simp only [State.modBlk, State.blk, State.modDiePwr_eq, State.modCd_cd, State.hasBlk, BlockRef.die.injEq]
      by_cases he : e = d ∧ d < s.cds.length
      · obtain ⟨rfl, hd⟩ := he
        simp only [hd, and_self, if_true, look_modKey, true_and]
        by_cases hj : j = i <;> simp [hj]
      · rw [if_neg he, if_neg (fun h => he ⟨h.1.1, h.2.1⟩)]
    | _ => simp [State.modBlk, State.blk]
  | hub k =>
    cases b with
    | hub h =>
      simp only [State.modBlk, State.blk, State.modHub_hub, State.hasBlk, BlockRef.hub.injEq]
      split <;> rfl
    | _ => simp [State.modBlk, State.blk]
  | ud k =>
    cases b with
    | ud u =>
      simp only [State.modBlk, State.blk, State.modUd_ud, State.hasBlk, BlockRef.ud.injEq]
      split <;> rfl
    | _ => simp [State.modBlk, State.blk]
  | le k =>
    cases b with
    | le m =>
      simp only [State.modBlk, State.blk, State.modLe_le, State.hasBlk, BlockRef.le.injEq]
      split <;> rfl
    | _ => simp [State.modBlk, State.blk]

/-- A part of a block that a change of a block leaves. -/
theorem State.modBlk_blk_keeps {α : Type} (s : State) (c b : BlockRef) {f : PwrBlock → PwrBlock} (v : PwrBlock → α)
    (hf : ∀ x, v (f x) = v x) : v ((s.modBlk c f).blk b) = v (s.blk b) := by
  classical
  rw [State.modBlk_blk]
  split
  · exact hf _
  · rfl

/-! ## A die's sequencer changed -/

section
variable (s : State) (d : Nat) (f : Seq → Seq)

theorem State.modSeq_blk (b : BlockRef) : (s.modSeq d f).blk b = s.blk b := by
  rw [State.modSeq_eq]
  cases b with
  | die e i => exact State.modCd_cd_keeps s d e (fun c => look c.pwr.blocks i {}) fun _ => rfl
  | _ => rfl

theorem State.modSeq_awake (b : BlockRef) : (s.modSeq d f).awake b = s.awake b := by
  have hstopped : (s.modSeq d f).segStopped b = s.segStopped b := by
    cases b with
    | die e i => exact State.modCd_cd_keeps s d e (fun c => (c.pwr.segs.getD (blockSeg i) { limit := 0 }).stopped) fun _ => rfl
    | _ => rfl
  rw [State.awake, State.modSeq_blk, hstopped, State.awake]

theorem State.modSeq_pad (e : Nat) : (s.modSeq d f).pad e = s.pad e :=
  State.modCd_cd_keeps s d e (fun c => c.scratch.store) fun _ => rfl

theorem State.modRec_pad (r : RecRef) (g : RecState → RecState) (e : Nat) : (s.modRec r g).pad e = s.pad e :=
  State.modSeq_pad s r.die _ e

theorem State.modRec_replays (r : RecRef) (g : RecState → RecState) (e : Nat) :
    ((s.modRec r g).cd e).seq.replays = (s.cd e).seq.replays :=
  State.modCd_cd_keeps s r.die e (fun c => c.seq.replays) fun _ => rfl

end

/-! ## Changes of power blocks alone -/

/-- Between s and t nothing but power blocks differs. -/
structure BlocksOnly (s t : State) : Prop where
  pending : t.pending = s.pending
  ctrl : t.ctrl = s.ctrl
  parts : t.parts = s.parts
  baith : t.baith = s.baith
  ports : t.ports = s.ports
  length : t.cds.length = s.cds.length
  cd : ∀ d, t.cd d = { s.cd d with pwr := { (s.cd d).pwr with blocks := (t.cd d).pwr.blocks } }
  mem : ∀ h, (t.hub h).mem = (s.hub h).mem

section
variable {s t v : State}

theorem BlocksOnly.refl (s : State) : BlocksOnly s s := ⟨rfl, rfl, rfl, rfl, rfl, rfl, fun _ => rfl, fun _ => rfl⟩

theorem BlocksOnly.trans (a : BlocksOnly s t) (b : BlocksOnly t v) : BlocksOnly s v where
  pending := b.pending.trans a.pending
  ctrl := b.ctrl.trans a.ctrl
  parts := b.parts.trans a.parts
  baith := b.baith.trans a.baith
  ports := b.ports.trans a.ports
  length := b.length.trans a.length
  cd d := by rw [b.cd d, a.cd d]
  mem h := (b.mem h).trans (a.mem h)

theorem BlocksOnly.modBlk (s : State) (b : BlockRef) (f : PwrBlock → PwrBlock) : BlocksOnly s (s.modBlk b f) := by
  cases b with
  | die d i =>
    refine ⟨rfl, rfl, rfl, rfl, rfl, modAt_length .., fun e => ?_, fun _ => rfl⟩
    rw [State.modBlk, State.modDiePwr_eq, State.modCd_cd]
    split <;> rfl
  | hub k =>
    refine ⟨rfl, rfl, rfl, rfl, rfl, rfl, fun _ => rfl, fun h => ?_⟩
    rw [State.modBlk, State.modHub_hub]
    split <;> rfl
  | ud u => exact ⟨rfl, rfl, rfl, rfl, rfl, rfl, fun _ => rfl, fun _ => rfl⟩
  | le m => exact ⟨rfl, rfl, rfl, rfl, rfl, rfl, fun _ => rfl, fun _ => rfl⟩

theorem BlocksOnly.forAll {α : Type} (l : List α) {f : α → State → State} (hf : ∀ a t, BlocksOnly t (f a t))
    (s : State) : BlocksOnly s (forAll l f s) :=
  forAll_holds (BlocksOnly s) l (fun a _ t ht => ht.trans (hf a t)) (.refl s)

theorem BlocksOnly.requestWake (b : BlockRef) (cls : Nat) (s : State) : BlocksOnly s (requestWake b cls s) := by
  unfold Machine.requestWake
  split
  · exact .modBlk ..
  · exact .refl s

theorem BlocksOnly.requestWakes (bs : List BlockRef) (cls : Nat) (s : State) :
    BlocksOnly s (Machine.forAll bs (fun b t => Machine.requestWake b cls t) s) :=
  .forAll bs (fun b t => .requestWake b cls t) s

theorem BlocksOnly.wakeLull1 (bs : List BlockRef) (s : State) : BlocksOnly s (wakeLull1 bs s) :=
  .forAll bs (fun _ t => .modBlk t _ _) s

variable (h : BlocksOnly s t)
include h

theorem BlocksOnly.seq (d : Nat) : (t.cd d).seq = (s.cd d).seq := by rw [h.cd d]

theorem BlocksOnly.pad (d : Nat) : t.pad d = s.pad d := by rw [State.pad, h.cd d, State.pad]

theorem BlocksOnly.rec? (r : RecRef) : t.rec? r = s.rec? r := State.rec?_of_steps (by rw [h.seq])

theorem BlocksOnly.part (p : Nat) : t.part p = s.part p := by simp only [State.part, h.parts]

theorem BlocksOnly.partOfCd (d : Nat) : t.partOfCd d = s.partOfCd d := by
  simp only [State.partOfCd, State.partWith, h.part]

end

/-! ## Wakes requested (R406) -/

theorem requestWake_awake {s : State} {b : BlockRef} (h : (s.blk b).asleep = false) (cls : Nat) : requestWake b cls s = s := by
  simp [requestWake, h]

/-- Where none of a list of blocks sleeps, no wake is requested. -/
theorem requestWakes_awake {bs : List BlockRef} {s : State} (h : ∀ b ∈ bs, (s.blk b).asleep = false) (cls : Nat) :
    forAll bs (fun b t => requestWake b cls t) s = s :=
  forAll_holds (fun t => t = s) bs (fun b hb t ht => by rw [ht, requestWake_awake (h b hb)]) rfl

theorem requestWake_asleep (b c : BlockRef) (cls : Nat) (s : State) :
    ((requestWake c cls s).blk b).asleep = (s.blk b).asleep := by
  unfold requestWake
  split
  · exact State.modBlk_blk_keeps s c b PwrBlock.asleep fun _ => rfl
  · rfl

theorem requestWake_keeps_request (b c : BlockRef) (cls : Nat) {s : State} (h : (s.blk b).request.isSome = true) :
    ((requestWake c cls s).blk b).request.isSome = true := by
  classical
  unfold requestWake
  split
  · rw [State.modBlk_blk]
    split
    · cases hq : (s.blk b).request <;> simp
    · exact h
  · exact h

theorem requestWake_requests {s : State} {b : BlockRef} (h : (s.blk b).asleep = true) (cls : Nat) :
    ((requestWake b cls s).blk b).request.isSome = true := by
  classical
  rw [requestWake, if_pos h, State.modBlk_blk, if_pos ⟨rfl, State.asleep_hasBlk h⟩]
  cases hq : (s.blk b).request <;> simp

/-- Of a list of blocks whose wakes are requested, each that sleeps has a request. -/
theorem requestWakes_requests {bs : List BlockRef} {b : BlockRef} (hb : b ∈ bs) (cls : Nat) {s : State}
    (h : (s.blk b).asleep = true) :
    ((forAll bs (fun b t => requestWake b cls t) s).blk b).request.isSome = true :=
  forAll_brings (W := fun t => (t.blk b).asleep = true) (P := fun t => (t.blk b).request.isSome = true) hb
    (fun c t ht => (requestWake_asleep b c cls t).trans ht) (fun _ ht => requestWake_requests ht cls)
    (fun c _ _ hreq => requestWake_keeps_request b c cls hreq) h

end Sys2Proof.Machine
end

section
/-! PROOF. CHOICE (03 R86 to R88, 16 R413): the alternate that it takes, and what it leaves of the records of its step. -/

namespace Sys2Proof.Machine

/-! ## Alternates -/

/-- An alternate's first record comes after its CHOICE. -/
theorem alternates_first_le {words : List Word} {at0 n i : Nat} {a : Alternate} (h : a ∈ alternates words at0 n i) :
    at0 ≤ a.first := by
  induction n generalizing at0 i with
  | zero => cases h
  | succ n ih =>
    rcases List.mem_cons.mp h with rfl | hrest
    · exact Nat.le_refl _
    · exact Nat.le_trans (Nat.le_add_right _ _) (ih hrest)

/-- Whether a record belongs to another alternate than k. -/
def inOther (alts : List Alternate) (k c : Nat) : Bool :=
  alts.zipIdx.any fun a => a.2 != k && a.1.first ≤ c && c < a.1.first + a.1.records

theorem inOther_eq (alts : List Alternate) (k c : Nat) : inOther alts k c =
    ((List.range alts.length).zip alts).any fun a => a.1 != k && a.2.first ≤ c && c < a.2.first + a.2.records := by
  rw [inOther, Bool.eq_iff_iff, List.any_eq_true, List.any_eq_true]
  constructor
  · rintro ⟨⟨a, i⟩, hmem, h⟩
    exact ⟨(i, a), mem_range_zip.2 (List.mem_zipIdx_iff_getElem?.1 hmem), h⟩
  · rintro ⟨⟨i, a⟩, hmem, h⟩
    exact ⟨(a, i), List.mem_zipIdx_iff_getElem?.2 (mem_range_zip.1 hmem), h⟩

/-- A CHOICE is in none of its own alternates. -/
theorem inOther_self (c : Record) (cmd k : Nat) : inOther (c.alternates cmd) k cmd = false := by
  refine List.any_eq_false.2 fun ⟨a, i⟩ hmem => ?_
  have hfirst : cmd + 1 ≤ a.first := alternates_first_le (List.mem_of_getElem? (List.mem_zipIdx_iff_getElem?.1 hmem))
  simp [Nat.not_le.2 hfirst]

/-- Of the records of a step those of the alternates that were not chosen never start, and every other stays (R88). -/
theorem dropUnchosen_getElem? (alts : List Alternate) (k : Nat) (recs : List RecState) (c : Nat) :
    (dropUnchosen alts k recs)[c]? = recs[c]?.map fun y => if inOther alts k c then { y with phase := .never } else y := by
  simp only [dropUnchosen, ← inOther_eq]
  rw [List.getElem?_map]
  by_cases hc : c < recs.length <;> simp [hc]

/-- The alternate picked is the first that qualifies, or the last (R87). -/
theorem pickAlternate_spec (s : State) (d : Nat) (recs : List RecState) {alts : List Alternate} (h : alts ≠ []) (i : Nat) :
    let good := fun a => alternateAwake s d recs a && alternateFits (s.cd d).pwr.head a
    ∃ k, pickAlternate s d recs alts i = i + k ∧ k < alts.length ∧ (∀ j < k, (alts[j]?.map good) = some false) ∧
      (k + 1 < alts.length → alts[k]?.map good = some true) := by
  intro good
  induction alts generalizing i with
  | nil => exact absurd rfl h
  | cons a as ih =>
    obtain _ | ⟨b, bs⟩ := as
    · exact ⟨0, rfl, Nat.one_pos, fun j hj => absurd hj (Nat.not_lt_zero j), fun hlt => absurd hlt (by simp)⟩
    · have hpick : pickAlternate s d recs (a :: b :: bs) i =
          if good a then i else pickAlternate s d recs (b :: bs) (i + 1) := rfl
      cases hgood : good a with
      | true => exact ⟨0, by rw [hpick, hgood]; rfl, Nat.succ_pos _, fun j hj => absurd hj (Nat.not_lt_zero j),
          fun _ => by simp [hgood]⟩
      | false =>
        obtain ⟨k, hk, hlt, hbefore, hlast⟩ := ih (by simp) (i + 1)
        refine ⟨k + 1, by rw [hpick, hgood, if_neg Bool.false_ne_true, hk]; omega, Nat.succ_lt_succ hlt, fun j hj => ?_,
          fun hmore => hlast (by simpa using hmore)⟩
        cases j with
        | zero => simp [hgood]
        | succ j => exact hbefore j (by omega)

/-! ## The decision carried out -/

/-- The wakes of an alternate's blocks requested, if it is there (R406). -/
def wakeAlternate (d : Nat) (recs : List RecState) (a : Option Alternate) (s : State) : State :=
  a.elim s fun a => forAll (alternateBlocks d recs a) (fun b t => requestWake b 1 t) s

/-- The decision of CHOICE r for alternate k recorded: in s62, in the records of its step, and among its partition's
counts. -/
def State.decideChoice (s : State) (r : RecRef) (p k : Nat) (alts : List Alternate) : State :=
  ((s.modSeq r.die fun q =>
      { q.modStep r.step fun v => { v with recs := dropUnchosen alts k v.recs } with lastChoice := k }).modRec r
    fun y => { y with pick := some k, decided := true }).modStream p
    fun st => { st with choices := st.choices.modify k fun n => min (n + 1) 0xFFFFFFFF }

theorem modAt_eq_modify {α : Type} (l : List α) (i : Nat) (f : α → α) : modAt l i f = l.modify i f := by
  refine List.ext_getElem? fun j => ?_
  rw [modAt_getElem?, List.getElem?_modify]
  by_cases h : i = j
  · simp [h]
  · simp [h, Ne.symm h]

theorem wakeAlternate_blocksOnly (d : Nat) (recs : List RecState) (a : Option Alternate) (s : State) :
    BlocksOnly s (wakeAlternate d recs a s) := by
  cases a with
  | none => exact .refl s
  | some a => exact .requestWakes ..

section
variable {s : State} {r : RecRef} {x : RecState} {u : StepRun} {p : Nat} (h : s.runs r 0x0705 x)
  (hu : (s.cd r.die).seq.step? r.step = some u) (hp : s.partOfCd r.die = some p)
include h

/-- A CHOICE that has been decided is not decided again (R88). -/
theorem execChoice_decided (hd : x.decided = true) : exec (.choice r) s = .next (s.marked r) := by
  refine (runOp_runs _ h).trans ?_
  simp [hd]

include hu hp

theorem execChoice_decides (hd : x.decided = false) :
    let alts := x.record.alternates r.cmd
    let k := choicePick s r u x
    exec (.choice r) s = .next (((wakeAlternate r.die u.recs alts[k]? s).decideChoice r p k alts).marked r) := by
  intro alts k
  have hpart := ((wakeAlternate_blocksOnly r.die u.recs alts[k]? s).partOfCd r.die).trans hp
  refine (runOp_runs _ h).trans ?_
  simp only [hd, Bool.false_eq_true, if_false, hu, State.decideChoice]
  cases ha : alts[k]? with
  | none =>
    rw [ha] at hpart
    simp only [modAt_eq_modify]
    split
    · next p' hp' => cases hp'.symm.trans hpart; rfl
    · next hp' => cases hp'.symm.trans hpart
  | some a =>
    rw [ha] at hpart
    simp only [modAt_eq_modify]
    split
    · next p' hp' => cases hp'.symm.trans hpart; rfl
    · next hp' => cases hp'.symm.trans hpart

end

/-- The alternate that a CHOICE takes: the one picked at its slot's boundary, or the first that qualifies now. -/
theorem choicePick_spec {s : State} {r : RecRef} {u : StepRun} {x : RecState} (h : x.record.alternates r.cmd ≠ []) :
    let alts := x.record.alternates r.cmd
    let good := fun a => alternateAwake s r.die u.recs a && alternateFits (s.cd r.die).pwr.head a
    let k := choicePick s r u x
    (∀ j, x.pick = some j → k = j) ∧
      (x.pick = none → k < alts.length ∧ (∀ j < k, (alts[j]?.map good) = some false) ∧
        (k + 1 < alts.length → alts[k]?.map good = some true)) := by
  intro alts good k
  refine ⟨fun j hj => by simp [k, choicePick, hj], fun hnone => ?_⟩
  obtain ⟨m, hm, hspec⟩ := pickAlternate_spec s r.die u.recs h 0
  have hk : k = m := by simp only [k, choicePick, hnone, Option.getD_none, hm, Nat.zero_add]
  rw [hk]
  exact hspec

/-! ## What the decision leaves -/

section
variable {s : State} {r : RecRef} {u : StepRun} {p k : Nat} {alts : List Alternate}
  (hu : (s.cd r.die).seq.step? r.step = some u)
include hu

/-- The step of a CHOICE once it is decided and marked. -/
theorem decide_step : (((s.decideChoice r p k alts).marked r).cd r.die).seq.step? r.step =
    some { u with recs := modAt (dropUnchosen alts k u.recs) r.cmd fun y =>
      { y with executed := true, pick := some k, decided := true } } := by
  have hchosen : (((s.modSeq r.die fun q =>
      { q.modStep r.step fun v => { v with recs := dropUnchosen alts k v.recs } with lastChoice := k }).cd r.die).seq.step?
      r.step) = some { u with recs := dropUnchosen alts k u.recs } := by
    rw [State.modSeq_eq, State.modCd_cd_same _ _ _ (State.step?_die_lt hu)]
    exact Seq.step?_modStep (f := fun v => { v with recs := dropUnchosen alts k v.recs }) (fun _ => rfl) hu
  have hmarked := State.step?_modRec (State.step?_modRec hchosen fun y => { y with pick := some k, decided := true })
    fun y => { y with executed := true }
  rw [modAt_modAt] at hmarked
  exact hmarked

theorem decide_rec? (c : Nat) : ((s.decideChoice r p k alts).marked r).rec? ⟨r.die, r.step, c⟩ = u.recs[c]?.map fun y =>
    let z := if inOther alts k c then { y with phase := .never } else y
    if c = r.cmd then { z with executed := true, pick := some k, decided := true } else z := by
  have hstep : (((s.decideChoice r p k alts).marked r).cd r.die).seq.step? r.step = _ := decide_step hu
  rw [State.rec?_of_step (r := ⟨r.die, r.step, c⟩) hstep]
  dsimp only
  rw [modAt_getElem?, dropUnchosen_getElem?]
  by_cases hc : c = r.cmd
  · simp [hc, Function.comp_def]
  · simp [hc]

theorem decide_lastChoice : (((s.decideChoice r p k alts).marked r).cd r.die).seq.lastChoice = k := by
  have hlen : r.die < s.cds.length := State.step?_die_lt hu
  simp only [State.decideChoice, State.marked, State.modRec, State.modSeq_eq, State.modStream_eq, State.modCd_modCd]
  rw [State.modCd_cd_same _ _ _ (by simpa using hlen), State.modPart_cd, State.modCd_cd_same _ _ _ hlen]
  rfl

end

/-- A die's partition is in the list of partitions. -/
theorem State.partOfCd_lt {s : State} {d p : Nat} (h : s.partOfCd d = some p) : p < s.parts.length := by
  refine Nat.lt_of_not_le fun hle => ?_
  have hp := List.find?_some h
  simp [State.part, hle] at hp

theorem decide_choices {s : State} {r : RecRef} {p k : Nat} {alts : List Alternate} (hp : s.partOfCd r.die = some p) :
    (((s.decideChoice r p k alts).marked r).part p).stream.choices =
      (s.part p).stream.choices.modify k fun n => min (n + 1) 0xFFFFFFFF := by
  have hlt : p < s.parts.length := State.partOfCd_lt hp
  change ((State.modPart _ p _).part p).stream.choices = _
  rw [State.modPart_part_same]
  · rfl
  · exact hlt

theorem decide_pad (s : State) (r : RecRef) (p k : Nat) (alts : List Alternate) (d : Nat) :
    ((s.decideChoice r p k alts).marked r).pad d = s.pad d := by
  rw [State.marked, State.modRec_pad]
  change (State.modRec _ r _).pad d = s.pad d
  rw [State.modRec_pad, State.modSeq_pad]

end Sys2Proof.Machine

open Sys2Proof.Machine

/-- Settles O14: the alternate is the one picked at the boundary or the first that qualifies (choicePick_spec), and the
decision's effects are read off the state that it answers (execChoice_decides). -/
theorem choicePicks : Obligations.ChoicePicks := by
  intro s r x u p hr hu hp alts good
  obtain ⟨⟨-, hrec, -⟩, -⟩ := id hr
  refine ⟨execChoice_decided hr, fun hd halts => ?_⟩
  obtain ⟨hpicked, hchosen⟩ := choicePick_spec (s := s) (r := r) (u := u) halts
  have hb := wakeAlternate_blocksOnly r.die u.recs alts[choicePick s r u x]? s
  have hexec : exec (.choice r) s = .next (((wakeAlternate r.die u.recs alts[choicePick s r u x]? s).decideChoice r p
    (choicePick s r u x) alts).marked r) := execChoice_decides hr hu hp hd
  generalize wakeAlternate r.die u.recs alts[choicePick s r u x]? s = w at hb hexec
  generalize choicePick s r u x = k at *
  have hu' : (w.cd r.die).seq.step? r.step = some u := by rw [hb.seq]; exact hu
  have hx : u.recs[r.cmd]? = some x := (State.rec?_of_step hu).symm.trans hrec
  have hrecs := decide_rec? (p := p) (k := k) (alts := alts) hu'
  refine ⟨_, k, hexec, hpicked, hchosen, decide_lastChoice hu', ?_, ?_, fun c y hy hne => ?_,
    hb.pending, hb.ctrl, hb.baith, hb.ports, fun d => ?_, hb.mem⟩
  · rw [decide_choices ((hb.partOfCd r.die).trans hp), hb.part]
  · rw [hrecs r.cmd, hx]
    simp [alts, inOther_self]
  · rw [hrecs c, hy]
    constructor <;> intro hin <;> simp [hne, inOther, hin]
  · rw [decide_pad, hb.pad]

end

section
/-! PROOF. A record that starts (03 R79, R81, R92; 16 R406): what RECORD_ISSUE and REPLAY_RANGE_RERUN do of a record whose
blocks are awake and of one whose blocks sleep, and what holds a record back. -/

namespace Sys2Proof.Machine

/-! ## The words of a record that starts (R79) -/

/-- A block that runs or is in lull-1 is so after those in lull-1 have woken, and no other. -/
theorem wakeLull1_up (bs : List BlockRef) (b : BlockRef) (s : State) :
    (((wakeLull1 bs s).blk b).mode == .running || ((wakeLull1 bs s).blk b).mode == .lull1) =
      ((s.blk b).mode == .running || (s.blk b).mode == .lull1) :=
  forAll_keeps (fun t => ((t.blk b).mode == .running || (t.blk b).mode == .lull1)) bs (fun c t =>
    State.modBlk_blk_keeps t c b (fun y => (y.mode == .running || y.mode == .lull1)) fun y => by
      cases h : y.mode <;> simp [h]) s

theorem wakeLull1_wakeMask (bs : List BlockRef) (s : State) (d : Nat) : (wakeLull1 bs s).wakeMask d = s.wakeMask d := by
  have hctrl : (wakeLull1 bs s).ctrl = s.ctrl := (BlocksOnly.wakeLull1 bs s).ctrl
  have hlive : ∀ site, (wakeLull1 bs s).live site = s.live site := fun site => by
    simp only [State.live, State.status, State.isCut, hctrl]
  simp only [State.wakeMask, wakeLull1_up, hlive]

theorem BlocksOnly.sreg {s t : State} (h : BlocksOnly s t) {d : Nat} (hm : t.wakeMask d = s.wakeMask d) (i : Nat) :
    t.sreg d i = s.sreg d i := by
  have hhead : (t.cd d).pwr.head = (s.cd d).pwr.head := by rw [h.cd d]
  have htime : ∀ p, t.partTime p = s.partTime p := fun p => by
    simp only [State.partTime, State.now, h.part, h.ctrl]
  simp only [State.sreg, h.seq, h.partOfCd, h.part, hhead, htime, hm]

theorem substituted_getElem? (d : Nat) (c : Record) (s : State) {i : Nat} (hi : i < 11) {w : Word} (hw : c.ops[i]? = some w) :
    (substituted d c s)[i]? =
      some (if c.subst.testBit i then (s.sreg d (w.toNat % 64)).setWidth 32 else w) := by
  have hzip : ((List.range 11).zip c.ops)[i]? = some (i, w) :=
    List.getElem?_zip_eq_some.2 ⟨by simp [hi], hw⟩
  rw [substituted, List.getElem?_map, hzip]
  rfl

/-! ## A record starts -/

/-- State t is state s in which record r, which was x there, has started and is now y. -/
structure Started (s : State) (r : RecRef) (x : RecState) (t : State) (y : RecState) : Prop where
  recd : t.rec? r = some y
  phase : y.phase = .running
  executed : y.executed = false
  lost : y.lost = false
  record : y.record = x.record
  image : y.image = (s.partOfCd r.die).bind fun p => (s.part p).active
  words : ∀ i < 11, ∀ w, x.record.ops[i]? = some w →
    y.words[i]? = some (if x.record.subst.testBit i then (s.sreg r.die (w.toNat % 64)).setWidth 32 else w)
  pad : ∀ d, t.pad d = s.pad d
  mem : ∀ h, (t.hub h).mem = (s.hub h).mem
  ctrl : t.ctrl = s.ctrl
  parts : t.parts = s.parts
  baith : t.baith = s.baith
  ports : t.ports = s.ports
  pending : t.pending = s.pending
  replays : (t.cd r.die).seq.replays = (s.cd r.die).seq.replays

/-- A record put into running, of a unit that is there: a GATHER has its index array. -/
theorem startRecord_eq {s : State} {r : RecRef} {x : RecState} (hcut : s.targetCut r x = false)
    (hpad : x.record.opcode = 0x0402 → (s.pad r.die).sound = true) :
    ∃ index bad, startRecord r x s = s.modRec r fun _ => { x.started r s with index, indexBad := bad } := by
  have hruns : ¬ (x.started r s).executed = true := fun h => by rw [RecState.started, hcut] at h; cases h
  unfold startRecord
  dsimp only
  rw [if_neg hruns]
  split
  · next hgather =>
    have hop : x.record.opcode = 0x0402 := by
      simp only [Bool.and_eq_true, decide_eq_true_eq] at hgather
      exact hgather.1
    have hsound : ((s.modRec r fun _ => x.started r s).pad r.die).sound = true := by rw [State.modRec_pad]; exact hpad hop
    rw [readIndices, readScratch_sound hsound]
    exact ⟨_, false, State.modRec_modRec s r _ _⟩
  · exact ⟨(x.started r s).index, (x.started r s).indexBad, rfl⟩

section
variable {s : State} {r : RecRef} {x : RecState}

theorem targetCut_of (h : ∀ v, x.target r.die = some v → s.isCut v = false) : s.targetCut r x = false := by
  unfold State.targetCut
  cases ht : x.target r.die with
  | none => rfl
  | some v => exact h v ht

/-- A record whose blocks are awake, of a unit that is there, starts. -/
theorem startOrWake_starts (hx : s.rec? r = some x) (hcut : s.targetCut r x = false)
    (hpad : x.record.opcode = 0x0402 → (s.pad r.die).sound = true) (hawake : (recBlocks r x).all s.awake = true) :
    ∃ y, Started s r x (startOrWake r x [] s) y := by
  have hb : BlocksOnly s (wakeLull1 (recBlocks r x) s) := .wakeLull1 _ s
  have hsreg := fun i => hb.sreg (wakeLull1_wakeMask (recBlocks r x) s r.die) i
  have hstart : startOrWake r x [] s = startRecord r x (wakeLull1 (recBlocks r x) s) := by
    simp only [startOrWake, hawake, Bool.or_true, if_true]
    rfl
  rw [hstart]
  generalize wakeLull1 (recBlocks r x) s = w at hb hsreg
  have hcut' : w.targetCut r x = false := by
    rw [← hcut, State.targetCut, State.targetCut]
    simp only [State.isCut, hb.ctrl]
  obtain ⟨index, bad, heq⟩ := startRecord_eq hcut' fun h => by rw [hb.pad]; exact hpad h
  rw [heq]
  refine ⟨{ x.started r w with index, indexBad := bad }, ?_, rfl, hcut', hcut', rfl, ?_, fun i hi v hv => ?_, fun d => ?_,
    hb.mem, hb.ctrl, hb.parts, hb.baith, hb.ports, hb.pending, ?_⟩
  · rw [State.rec?_modRec, hb.rec?, hx]
    rfl
  · simp only [RecState.started, hb.partOfCd, hb.part]
  · rw [← hsreg]
    exact substituted_getElem? r.die x.record w hi hv
  · rw [State.modRec_pad, hb.pad]
  · rw [State.modRec_replays, hb.seq]

/-- A record of a unit that is there with a block that is not awake does not start: only wakes are requested. -/
theorem startOrWake_wakes (hcut : s.targetCut r x = false) (hawake : (recBlocks r x).all s.awake = false) :
    BlocksOnly s (startOrWake r x [] s) ∧
      ∀ b ∈ recBlocks r x, (s.blk b).asleep = true → ((startOrWake r x [] s).blk b).request.isSome = true := by
  have hwake : startOrWake r x [] s = forAll (recBlocks r x) (fun b t => requestWake b 1 t) s := by
    simp only [startOrWake, hcut, hawake, Bool.or_self, Bool.false_eq_true, if_false]
  rw [hwake]
  exact ⟨.requestWakes .., fun b hb hsleep => requestWakes_requests hb 1 hsleep⟩

/-! ## What holds a record back -/

variable {u : StepRun} {p : Nat}

theorem execRecordIssue_eq (hwf : r.wf = true) (hp : s.partOfCd r.die = some p)
    (hu : (s.cd r.die).seq.step? r.step = some u) (hx : s.rec? r = some x) :
    exec (.recordIssue r []) s = .next (if startable p u r x s then startOrWake r x [] s else s) := by
  have hwf' : Instr.wf (.recordIssue r []) = true := by rw [Instr.wf, hwf]; rfl
  change execRecordIssue r [] s = _
  rw [execRecordIssue, hwf', hp, hu, hx, onlyIf_true]

/-- A unit other than the COE is not free while a record of it runs (R81). -/
theorem unitFree_of_running (hunit : x.record.unit ≠ 0x0E)
    (h : ((s.dieRecs r.die).any fun y => y.2.record.unit == x.record.unit && y.2.phase == .running) = true) :
    unitFree r x s = false := by
  obtain ⟨y, hy, hrun⟩ := List.any_eq_true.1 h
  simp only [Bool.and_eq_true, beq_iff_eq] at hrun
  obtain ⟨hsame, hphase⟩ := hrun
  rw [unitFree, if_neg hunit]
  exact List.all_eq_false.2 ⟨y, List.mem_filter.2 ⟨hy, by simpa using hsame⟩, by simp [hphase]⟩

theorem startable_of_phase (h : x.phase ≠ .waiting) : startable p u r x s = false := by
  simp [startable, mayStart, h]

theorem startable_of_slot (h : (s.part p).disc.tick < u.startTick + x.record.slot) : startable p u r x s = false := by
  simp [startable, mayStart, Nat.not_le.2 h]

theorem startable_of_event (hev : x.record.waitEv < 64)
    (h : (s.cd r.die).seq.ev.getD (64 * (r.step % 2) + x.record.waitEv) 0 < x.record.waitValue) :
    startable p u r x s = false := by
  have hwait : ¬ x.record.waitValue ≤ (s.cd r.die).seq.event r.step x.record.waitEv := Nat.not_le.2 h
  simp [startable, mayStart, Nat.not_le.2 hev, hwait]

theorem startable_of_unit (h : unitFree r x s = false) : startable p u r x s = false := by
  simp [startable, mayStart, h]

theorem startable_of_mxeFirst (h : mxeFirst p r.die x.tilesRead s = true) : startable p u r x s = false := by
  simp [startable, h]

end

/-! ## The next record of a replay (R92) -/

section
variable {s : State} {d n c p : Nat} {x : RecState} {y : ReplayRun} {more : List ReplayRun} {rest : List (Nat × Nat)}

/-- Whether something holds record r, next of replay y, back: a running record of the replay, its unit or a tile. -/
def State.rerunHeld (s : State) (p : Nat) (r : RecRef) (x : RecState) (y : ReplayRun) : Bool :=
  (y.todo.any fun k => (s.rec? ⟨r.die, k.1, k.2⟩).elim false fun z => z.phase == .running) ||
    decide ((if x.record.unit = 0x0E then 16 else 1) ≤
      ((s.dieRecs r.die).filter fun z => z.2.record.unit == x.record.unit && z.2.phase == .running).length) ||
    !tilesFree r x s || mxeFirst p r.die x.tilesRead s

theorem rerunHeld_eq (s : State) (p : Nat) (r : RecRef) (x : RecState) (y : ReplayRun) : s.rerunHeld p r x y =
    ((y.todo.any fun k => (s.rec? ⟨r.die, k.1, k.2⟩).elim false fun z => z.phase == .running) ||
      !(unitIdle r x s && tilesFree r x s && !mxeFirst p r.die x.tilesRead s)) := by
  simp only [State.rerunHeld, unitIdle, Bool.not_and, Bool.not_not, ← decide_not, Nat.not_lt, Bool.or_assoc]

/-- The replay's next record, once no record of its range runs. -/
theorem nextRerun_eq (hy : (s.cd d).seq.replays = y :: more) (htodo : y.todo = (n, c) :: rest)
    (hx : s.rec? ⟨d, n, c⟩ = some x) :
    s.nextRerun d = if y.todo.any fun k => (s.rec? ⟨d, k.1, k.2⟩).elim false fun z => z.phase == .running then none
      else some (y, ⟨d, n, c⟩, x) := by
  unfold State.nextRerun
  simp only [hy]
  split
  · rfl
  · simp [htodo, hx]

/-- The state with its replay in progress no longer draining. -/
def State.drained (s : State) (d : Nat) (y : ReplayRun) : State :=
  s.modSeq d fun q => { q with replays := { y with draining := false } :: q.replays.drop 1 }

theorem State.drained_rec? (s : State) (r : RecRef) (y : ReplayRun) : (s.drained r.die y).rec? r = s.rec? r :=
  State.rec?_of_steps (State.modCd_cd_keeps s r.die r.die (fun c => c.seq.steps) fun _ => rfl)

theorem State.drained_replays (hy : (s.cd d).seq.replays = y :: more) (hlt : d < s.cds.length) :
    ((s.drained d y).cd d).seq.replays = { y with draining := false } :: more := by
  rw [State.drained, State.modSeq_eq, State.modCd_cd_same _ _ _ hlt]
  simp [hy]

theorem execReplayRangeRerun_none (hd : d < 16) (hnone : s.nextRerun d = none) : exec (.replayRangeRerun d) s = .next s := by
  change execReplayRangeRerun d s = _
  rw [execReplayRangeRerun, decide_eq_true hd, onlyIf_true, hnone]

theorem execReplayRangeRerun_some (hd : d < 16) (hp : s.partOfCd d = some p) {r : RecRef}
    (hnext : s.nextRerun d = some (y, r, x)) :
    exec (.replayRangeRerun d) s = .next (if unitIdle r x s && tilesFree r x s && !mxeFirst p d x.tilesRead s then
      startOrWake r x [] (s.drained d y) else s) := by
  change execReplayRangeRerun d s = _
  rw [execReplayRangeRerun, decide_eq_true hd, onlyIf_true, hnext, hp]
  rfl

theorem execReplayRangeRerun_eq (hd : d < 16) (hp : s.partOfCd d = some p) (hy : (s.cd d).seq.replays = y :: more)
    (htodo : y.todo = (n, c) :: rest) (hx : s.rec? ⟨d, n, c⟩ = some x) :
    exec (.replayRangeRerun d) s =
      .next (if s.rerunHeld p ⟨d, n, c⟩ x y then s else startOrWake ⟨d, n, c⟩ x [] (s.drained d y)) := by
  have hnext := nextRerun_eq hy htodo hx
  rw [rerunHeld_eq]
  cases hrun : y.todo.any fun k => (s.rec? ⟨d, k.1, k.2⟩).elim false fun z => z.phase == .running with
  | true =>
    rw [hrun, if_pos rfl] at hnext
    rw [execReplayRangeRerun_none hd hnext, Bool.true_or, if_pos rfl]
  | false =>
    rw [hrun, if_neg Bool.false_ne_true] at hnext
    rw [execReplayRangeRerun_some hd hp hnext, Bool.false_or]
    cases unitIdle ⟨d, n, c⟩ x s && tilesFree ⟨d, n, c⟩ x s && !mxeFirst p d x.tilesRead s <;> simp

end

end Sys2Proof.Machine

open Sys2Proof.Machine

/-- Settles O15: RECORD_ISSUE starts a startable record, and what starts it is said once (startOrWake_starts). -/
theorem recordStarts : Obligations.RecordStarts := by
  intro s r x u p hwf hp hu hx hstart hawake hcut hpad
  obtain ⟨y, h⟩ := startOrWake_starts hx (targetCut_of hcut) hpad hawake
  refine ⟨_, y, by rw [execRecordIssue_eq hwf hp hu hx, if_pos hstart], h.recd, h.phase, h.executed, h.lost, h.record, ?_,
    h.words, h.pad, h.mem, h.ctrl, h.parts, h.baith, h.ports, h.pending⟩
  rw [h.image, hp]
  rfl

/-- Settles O16: each condition named makes the record not startable, and one whose blocks sleep has only their wakes
requested (startOrWake_wakes). -/
theorem recordWaits : Obligations.RecordWaits := by
  intro s r x u p hwf hp hu hx
  have hexec := execRecordIssue_eq hwf hp hu hx
  have hstays : startable p u r x s = false → exec (.recordIssue r []) s = .next s := fun h => by
    rw [hexec, h, if_neg Bool.false_ne_true]
  refine ⟨fun h => hstays (startable_of_phase h), fun h => hstays (startable_of_slot h),
    fun hev h => hstays (startable_of_event hev h), fun hunit h => hstays (startable_of_unit (unitFree_of_running hunit h)),
    fun h => hstays (startable_of_mxeFirst h), fun hstart hawake hcut => ?_⟩
  obtain ⟨hb, hrequests⟩ := startOrWake_wakes (targetCut_of hcut) hawake
  exact ⟨_, by rw [hexec, if_pos hstart], by rw [hb.rec?, hx], hrequests⟩

/-- Settles O18: the replay's next record goes the way of every record that may start (startOrWake_starts,
startOrWake_wakes), from the state in which the replay has drained. -/
theorem replayRuns : Obligations.ReplayRuns := by
  intro s d hd
  refine ⟨fun hnone => execReplayRangeRerun_none hd (by simp only [State.nextRerun, hnone]), ?_⟩
  intro y more n c rest x p hy htodo hp hx
  have hexec := execReplayRangeRerun_eq hd hp hy htodo hx
  refine ⟨fun hheld => hexec.trans (congrArg _ (if_pos hheld)), fun hfree hcut => ?_⟩
  have hruns : exec (.replayRangeRerun d) s = .next (startOrWake ⟨d, n, c⟩ x [] (s.drained d y)) :=
    hexec.trans (congrArg _ (if_neg fun hheld => Bool.false_ne_true (hfree.symm.trans hheld)))
  have hx' : (s.drained d y).rec? ⟨d, n, c⟩ = some x := (s.drained_rec? ⟨d, n, c⟩ y).trans hx
  have hawake : (recBlocks ⟨d, n, c⟩ x).all (s.drained d y).awake = (recBlocks ⟨d, n, c⟩ x).all s.awake :=
    congrArg _ (funext (s.modSeq_awake d _))
  have hcut' : (s.drained d y).targetCut ⟨d, n, c⟩ x = false := targetCut_of hcut
  have hpads : ∀ e, (s.drained d y).pad e = s.pad e := s.modSeq_pad d _
  refine ⟨fun hall hpad => ?_, fun hsome => ?_⟩
  · obtain ⟨z, h⟩ := startOrWake_starts hx' hcut' (fun hop => by rw [hpads]; exact hpad hop) (hawake.trans hall)
    exact ⟨_, z, hruns, h.recd, h.phase, h.executed, h.record,
      h.replays.trans (State.drained_replays hy (State.rec?_die_lt hx)), fun e => (h.pad e).trans (hpads e)⟩
  · obtain ⟨hb, hrequests⟩ := startOrWake_wakes hcut' (hawake.trans hsome)
    refine ⟨_, hruns, (hb.rec? _).trans hx', fun b hmem hsleep => hrequests b hmem ?_, fun e => (hb.pad e).trans (hpads e)⟩
    exact (congrArg PwrBlock.asleep (s.modSeq_blk d _ b)).trans hsleep

end

section
/-! PROOF. Streams that stop (03 R85): what stopping, retiring and closing leave of the dies and of their partition, and the
writes of ST_CTRL. -/

namespace Sys2Proof.Machine

/-! ## A die's stream memory -/

/-- A die as it is but for the room left in its stream memory. -/
def Cd.RoomOnly (c c' : Cd) : Prop := ∃ n, c' = { c with seq := { c.seq with free := n } }

theorem Cd.RoomOnly.refl (c : Cd) : c.RoomOnly c := ⟨c.seq.free, rfl⟩

theorem Cd.RoomOnly.trans {a b c : Cd} (hab : a.RoomOnly b) (hbc : b.RoomOnly c) : a.RoomOnly c := by
  obtain ⟨m, rfl⟩ := hab
  obtain ⟨n, rfl⟩ := hbc
  exact ⟨n, rfl⟩

/-- A die's sequencer changed, where the change leaves a fresh one. -/
theorem State.modSeq_cd (s : State) (d e : Nat) {f : Seq → Seq} (hf : f {} = {}) :
    (s.modSeq d f).cd e = if e = d then { s.cd e with seq := f (s.cd e).seq } else s.cd e := by
  rw [State.modSeq_eq, State.modCd_cd]
  by_cases he : e = d
  · by_cases hd : d < s.cds.length
    · rw [if_pos ⟨he, hd⟩, if_pos he]
    · have hpast : s.cd e = {} := State.cd_past (by omega)
      rw [if_neg (fun h => hd h.2), if_pos he, hpast, show ({} : Cd).seq = {} from rfl, hf]
  · rw [if_neg (fun h => he h.1), if_neg he]

/-- One change, that leaves a fresh sequencer and does nothing twice, made of each of a list of dies. -/
theorem forAll_modSeq_cd {f : Seq → Seq} (hf : f {} = {}) (htwice : ∀ q, f (f q) = f q) (l : List Nat) (s : State) (e : Nat) :
    (forAll l (fun d t => t.modSeq d f) s).cd e = if e ∈ l then { s.cd e with seq := f (s.cd e).seq } else s.cd e := by
  induction l generalizing s with
  | nil => rfl
  | cons d l ih =>
    refine (ih (s.modSeq d f)).trans ?_
    rw [s.modSeq_cd d e hf]
    by_cases hd : e = d <;> by_cases hl : e ∈ l <;> simp [hd, hl, htwice]

/-! ## Records that start no more -/

/-- A record that does not start any more. -/
def RecState.stopped (x : RecState) : RecState := if x.phase = .waiting then { x with phase := .never } else x

theorem RecState.stopped_phase (x : RecState) : x.stopped.phase ≠ .waiting := by
  unfold RecState.stopped
  split
  · exact fun h => by cases h
  · assumption

theorem RecState.stopped_of_phase {x : RecState} (h : x.phase ≠ .waiting) : x.stopped = x := if_neg h

/-- A sequencer none of whose records starts any more. -/
def Seq.stopped (q : Seq) : Seq :=
  { q with steps := q.steps.map fun u => { u with recs := u.recs.map RecState.stopped }, replays := [] }

theorem Seq.stopped_twice (q : Seq) : q.stopped.stopped = q.stopped := by
  have h : RecState.stopped ∘ RecState.stopped = RecState.stopped :=
    funext fun x => RecState.stopped_of_phase x.stopped_phase
  simp [Seq.stopped, h]

theorem stopStarts_eq (p : Nat) (s : State) :
    stopStarts p s = forAll (s.part p).frame.cds (fun d t => t.modSeq d Seq.stopped) s := rfl

theorem stopStarts_cd (p : Nat) (s : State) (e : Nat) : (stopStarts p s).cd e =
    if e ∈ (s.part p).frame.cds then { s.cd e with seq := (s.cd e).seq.stopped } else s.cd e := by
  rw [stopStarts_eq, forAll_modSeq_cd rfl Seq.stopped_twice]

/-! ## Steps that are over -/

/-- A sequencer whose steps that are over have left its stream memory. -/
def Seq.retired (q : Seq) : Seq :=
  { q with steps := q.steps.filter fun u => !(u.recs.all (·.ended) && !q.replaysStep u.step) }

theorem dropQueued_room (p : Nat) (s : State) (e : Nat) : (s.cd e).RoomOnly ((dropQueued p s).cd e) := by
  refine forAll_holds (fun t => (s.cd e).RoomOnly (t.cd e)) _ (fun g _ t ht => ?_) (.refl _)
  refine forAll_holds (fun v => (s.cd e).RoomOnly (v.cd e)) _ (fun x _ v hv => hv.trans ?_) ht
  rw [State.modSeq_eq, State.modCd_cd]
  split
  · exact ⟨_, rfl⟩
  · exact .refl _

theorem closeStream_room (p n : Nat) (s : State) (e : Nat) : (s.cd e).RoomOnly ((closeStream p n s).cd e) := by
  have hpeers : (closeStream p n s).cd e = (dropQueued p s).cd e :=
    forAll_keeps (·.cd e) _ (fun m t => cd_of_units (decidePeer_units m t) e) _
  rw [hpeers]
  exact dropQueued_room p s e

theorem endIfDone_room (p : Nat) (s : State) (e : Nat) : (s.cd e).RoomOnly ((endIfDone p s).cd e) := by
  unfold endIfDone
  split
  · exact closeStream_room p 4 s e
  · exact .refl _

theorem retireSteps_cd (p d : Nat) (s : State) (e : Nat) :
    (if e = d then { s.cd e with seq := (s.cd e).seq.retired } else s.cd e).RoomOnly ((retireSteps p d s).cd e) := by
  refine Cd.RoomOnly.trans ?_ (endIfDone_room p _ e)
  rw [State.modSeq_eq, State.modCd_cd]
  by_cases he : e = d
  · subst he
    by_cases hlt : e < s.cds.length
    · rw [if_pos rfl, if_pos ⟨rfl, hlt⟩]
      exact ⟨_, rfl⟩
    · rw [if_pos rfl, if_neg (fun h => hlt h.2), State.cd_past (by omega)]
      exact .refl _
  · rw [if_neg he, if_neg (fun h => he h.1)]
    exact .refl _

/-! ## What is beside the dies -/

/-- The memory and update dies and the waiting commands. -/
def State.beside (s : State) : List Hub × List Ud × List Instr := (s.hubs, s.uds, s.pending)

theorem stopStarts_beside (p : Nat) (s : State) : (stopStarts p s).beside = s.beside :=
  forAll_keeps State.beside _ (by exact fun _ _ => rfl) s

theorem dropQueued_beside (p : Nat) (s : State) : (dropQueued p s).beside = s.beside :=
  forAll_keeps State.beside _ (by exact fun _ t => forAll_keeps State.beside _ (by exact fun _ _ => rfl) t) s

theorem closeStream_beside (p n : Nat) (s : State) : (closeStream p n s).beside = s.beside :=
  (forAll_keeps State.beside _ (by exact fun m t => (congrArg State.beside (decidePeer_units m t) :)) _).trans
    (dropQueued_beside p s)

theorem endIfDone_beside (p : Nat) (s : State) : (endIfDone p s).beside = s.beside := by
  unfold endIfDone
  split
  · exact closeStream_beside p 4 s
  · rfl

theorem retireSteps_beside (p d : Nat) (s : State) : (retireSteps p d s).beside = s.beside := endIfDone_beside p _

theorem abortNow_beside (p : Nat) (s : State) : (abortNow p s).beside = s.beside :=
  calc (abortNow p s).beside = (dropQueued p (stopStarts p s)).beside :=
        (endIfDone_beside p _).trans (forAll_keeps State.beside _ (fun d t => retireSteps_beside p d t) _)
    _ = s.beside := (dropQueued_beside p _).trans (stopStarts_beside p s)

/-! ## The partition of a stream that closes -/

theorem State.part_lt {s : State} {p : Nat} (h : (s.part p).stream.state ≠ 0) : p < s.parts.length := by
  refine Nat.lt_of_not_le fun hle => h ?_
  simp [State.part, hle]

theorem stopStarts_part (p : Nat) (s : State) (k : Nat) : (stopStarts p s).part k = s.part k :=
  forAll_part _ (by exact fun _ _ => rfl) s

theorem dropQueued_parts (p : Nat) (s : State) :
    (dropQueued p s).parts = (s.modStream p fun st => { st with queued := [] }).parts := by
  have hkeep : (forAll (s.part p).stream.queued (fun g t => forAll g.dies
      (fun e v => v.modSeq e.die fun q => { q with free := q.free + e.records.length }) t) s).parts = s.parts :=
    forAll_keeps State.parts _ (by exact fun _ t => forAll_keeps State.parts _ (by exact fun _ _ => rfl) t) s
  simp only [dropQueued, State.modStream_eq, State.modPart_parts, hkeep]

theorem dropQueued_part {p : Nat} {s : State} (hp : p < s.parts.length) : (dropQueued p s).part p =
    { s.part p with stream := { (s.part p).stream with queued := [] } } := by
  rw [State.part, dropQueued_parts]
  exact State.modPart_part_same s p _ hp

theorem closeStream_part {p : Nat} {s : State} (hp : p < s.parts.length) (n : Nat) :
    ((closeStream p n s).part p).frame = (s.part p).frame ∧ ((closeStream p n s).part p).stream.queued = [] ∧
      ((closeStream p n s).part p).stream.state = n := by
  have hlt : p < (dropQueued p s).parts.length := by
    rw [dropQueued_parts]
    simpa using hp
  have hsteady : ((closeStream p n s).part p).steady = _ :=
    part_of_units (forAll_units _ (fun m t => decidePeer_units m t) _) p
  rw [State.modPart_part_same _ _ _ hlt, dropQueued_part hp] at hsteady
  exact ⟨(congrArg Part.frame hsteady :), (congrArg (fun q : Part => q.stream.queued) hsteady :),
    (congrArg (fun q : Part => q.stream.state) hsteady :)⟩

/-! ## An aborted stream ends -/

/-- Partition p, of the dies ds, stops with no segment left, or has ended with no step left. -/
structure Aborting (p : Nat) (ds : List Nat) (s : State) : Prop where
  cds : (s.part p).frame.cds = ds
  queued : (s.part p).stream.queued = []
  state : (s.part p).stream.state = 3 ∨ (s.part p).stream.state = 4 ∧ s.stepsLeft p = false

section
variable {p : Nat} {ds : List Nat} {s : State}

theorem stepsLeft_of_room {s t : State} {p : Nat} (hframe : (t.part p).frame = (s.part p).frame)
    (h : ∀ e, (s.cd e).RoomOnly (t.cd e)) : t.stepsLeft p = s.stepsLeft p := by
  have hsteps : ∀ e, (t.cd e).seq.steps = (s.cd e).seq.steps := fun e => by
    obtain ⟨n, hn⟩ := h e
    rw [hn]
  simp only [State.stepsLeft, hframe, hsteps]

theorem Aborting.endIfDone (h : Aborting p ds s) : Aborting p ds (Machine.endIfDone p s) := by
  unfold Machine.endIfDone
  split
  · next hdone =>
    obtain ⟨hstate, hleft⟩ : (s.part p).stream.state = 3 ∧ s.stepsLeft p = false := by simpa using hdone
    obtain ⟨hframe, hqueued, hclosed⟩ := closeStream_part (State.part_lt (by omega)) (s := s) (p := p) 4
    exact ⟨by rw [hframe]; exact h.cds, hqueued,
      .inr ⟨hclosed, (stepsLeft_of_room hframe (closeStream_room p 4 s)).trans hleft⟩⟩
  · exact h

theorem Aborting.retireSteps (d : Nat) (h : Aborting p ds s) : Aborting p ds (Machine.retireSteps p d s) := by
  refine Aborting.endIfDone ⟨h.cds, h.queued, h.state.imp_right fun ⟨hstate, hleft⟩ => ⟨hstate, ?_⟩⟩
  refine List.any_eq_false.2 fun e he => ?_
  have hnone : (s.cd e).seq.steps = [] := by simpa using List.any_eq_false.1 hleft e he
  rw [State.modSeq_eq, State.modCd_cd]
  split <;> simp [hnone]

/-- An aborting stream that is looked at has ended just if no step is left. -/
theorem Aborting.endIfDone_state (h : Aborting p ds s) : ((Machine.endIfDone p s).part p).stream.state =
    if (Machine.endIfDone p s).stepsLeft p then 3 else 4 := by
  unfold Machine.endIfDone
  split
  · next hdone =>
    obtain ⟨hstate, hleft⟩ : (s.part p).stream.state = 3 ∧ s.stepsLeft p = false := by simpa using hdone
    obtain ⟨hframe, -, hclosed⟩ := closeStream_part (State.part_lt (by omega)) (s := s) (p := p) 4
    rw [hclosed, stepsLeft_of_room hframe (closeStream_room p 4 s), hleft]
    rfl
  · next hdone =>
    rcases h.state with hstate | ⟨hstate, hleft⟩
    · have hleft : s.stepsLeft p = true := by simpa [hstate] using hdone
      rw [hstate, hleft, if_pos rfl]
    · rw [hstate, hleft, if_neg Bool.false_ne_true]

end

/-- The state in which an abort's steps retire. -/
def stopping (p : Nat) (s : State) : State :=
  (dropQueued p (stopStarts p s)).modStream p fun st => { st with state := 3, abortReq := true }

theorem abortNow_eq (p : Nat) (s : State) : abortNow p s =
    endIfDone p (forAll ((stopping p s).part p).frame.cds (fun d t => retireSteps p d t) (stopping p s)) := rfl

theorem stopping_cd (p : Nat) (s : State) (e : Nat) :
    (if e ∈ (s.part p).frame.cds then { s.cd e with seq := (s.cd e).seq.stopped } else s.cd e).RoomOnly
      ((stopping p s).cd e) := by
  rw [← stopStarts_cd]
  exact dropQueued_room p _ e

theorem stopping_aborting {p : Nat} {s : State} (hp : p < s.parts.length) :
    Aborting p (s.part p).frame.cds (stopping p s) := by
  have hlt : p < (stopStarts p s).parts.length := by
    rw [stopStarts_eq, forAll_keeps State.parts _ (by exact fun _ _ => rfl) s]
    exact hp
  have hlt' : p < (dropQueued p (stopStarts p s)).parts.length := by
    rw [dropQueued_parts]
    simpa using hlt
  have hpart : (stopping p s).part p =
      { s.part p with stream := { (s.part p).stream with queued := [], state := 3, abortReq := true } } := by
    rw [stopping, State.modStream_eq, State.modPart_part_same _ _ _ hlt', dropQueued_part hlt, stopStarts_part]
  refine ⟨?_, ?_, .inl ?_⟩ <;> rw [hpart]

/-- What the retiring of each of a partition's dies keeps of an aborting stream, the steps' records among it. -/
theorem retireAll_holds {p : Nat} {P : State → Prop} (hP : ∀ d t, P t → P (retireSteps p d t)) {s : State} (l : List Nat)
    (hs : P s) : P (forAll l (fun d t => retireSteps p d t) s) :=
  forAll_holds P l (fun d _ t ht => hP d t ht) hs

theorem Cd.RoomOnly.seq {c c' : Cd} (h : c.RoomOnly c') : c'.seq.steps = c.seq.steps ∧ c'.seq.replays = c.seq.replays ∧
    c'.seq.ev = c.seq.ev ∧ c'.seq.lastStatus = c.seq.lastStatus ∧ c'.seq.log = c.seq.log := by
  obtain ⟨n, rfl⟩ := h
  exact ⟨rfl, rfl, rfl, rfl, rfl⟩

theorem Cd.RoomOnly.other {c c' : Cd} (h : c.RoomOnly c') : c'.eng = c.eng ∧ c'.scratch = c.scratch ∧ c'.pwr = c.pwr := by
  obtain ⟨n, rfl⟩ := h
  exact ⟨rfl, rfl, rfl⟩

/-- The parts of a die that retiring steps leaves. -/
theorem retireSteps_other (p d : Nat) (s : State) (e : Nat) : ((retireSteps p d s).cd e).eng = (s.cd e).eng ∧
    ((retireSteps p d s).cd e).scratch = (s.cd e).scratch ∧ ((retireSteps p d s).cd e).pwr = (s.cd e).pwr := by
  have h := (retireSteps_cd p d s e).other
  split at h <;> exact h

theorem abortNow_other (p : Nat) (s : State) (e : Nat) :
    ((abortNow p s).cd e).scratch = (s.cd e).scratch ∧ ((abortNow p s).cd e).pwr = (s.cd e).pwr := by
  have hstopping : ((stopping p s).cd e).scratch = (s.cd e).scratch ∧ ((stopping p s).cd e).pwr = (s.cd e).pwr := by
    obtain ⟨-, hscratch, hpwr⟩ := (stopping_cd p s e).other
    rw [hscratch, hpwr]
    split <;> exact ⟨rfl, rfl⟩
  have hretired := retireAll_holds (p := p) (P := fun t => (t.cd e).scratch = (s.cd e).scratch ∧ (t.cd e).pwr = (s.cd e).pwr)
    (fun d t ⟨h1, h2⟩ => by
      obtain ⟨-, hscratch, hpwr⟩ := retireSteps_other p d t e
      exact ⟨hscratch.trans h1, hpwr.trans h2⟩) ((stopping p s).part p).frame.cds hstopping
  obtain ⟨-, hscratch, hpwr⟩ := (endIfDone_room p (forAll ((stopping p s).part p).frame.cds (fun d t => retireSteps p d t)
    (stopping p s)) e).other
  rw [abortNow_eq]
  exact ⟨hscratch.trans hretired.1, hpwr.trans hretired.2⟩

/-- A step that a retired sequencer still has is one that it had. -/
theorem Seq.mem_retired {q : Seq} {u : StepRun} (h : u ∈ q.retired.steps) : u ∈ q.steps := (List.mem_filter.1 h).1

theorem Seq.step?_mem {q : Seq} {n : Nat} {u : StepRun} (h : q.step? n = some u) : u ∈ q.steps := List.mem_of_find?_eq_some h

theorem retireSteps_mem {p d : Nat} {s : State} {e : Nat} {u : StepRun} (h : u ∈ ((retireSteps p d s).cd e).seq.steps) :
    u ∈ (s.cd e).seq.steps := by
  have hroom := (retireSteps_cd p d s e).seq.1
  rw [hroom] at h
  split at h
  · exact Seq.mem_retired h
  · exact h

/-- After an abort no record of the partition's dies waits to start. -/
theorem abortNow_noneWaits {p : Nat} {s : State} {e : Nat} (he : e ∈ (s.part p).frame.cds) :
    ∀ u ∈ ((abortNow p s).cd e).seq.steps, ∀ x ∈ u.recs, x.phase ≠ .waiting := by
  have hstopping : ∀ u ∈ ((stopping p s).cd e).seq.steps, ∀ x ∈ u.recs, x.phase ≠ .waiting := by
    intro u hu x hx
    rw [(stopping_cd p s e).seq.1, if_pos he] at hu
    obtain ⟨v, -, rfl⟩ := List.mem_map.1 hu
    obtain ⟨y, -, rfl⟩ := List.mem_map.1 hx
    exact y.stopped_phase
  intro u hu
  rw [abortNow_eq, (endIfDone_room p _ e).seq.1] at hu
  exact retireAll_holds (p := p) (P := fun t => ∀ u ∈ (t.cd e).seq.steps, ∀ x ∈ u.recs, x.phase ≠ .waiting)
    (fun d t ht u hu => ht u (retireSteps_mem hu)) _ hstopping u hu

/-- A step with a running record does not retire. -/
theorem Seq.retired_step? {q : Seq} {n c : Nat} {u : StepRun} {x : RecState} (hu : q.step? n = some u) (hx : u.recs[c]? = some x)
    (hrun : x.phase = .running) : q.retired.step? n = some u := by
  have hlive : u.recs.all (·.ended) = false :=
    List.all_eq_false.2 ⟨x, List.mem_of_getElem? hx, by simp [RecState.ended, hrun]⟩
  obtain ⟨hn, as, bs, hsteps, hbefore⟩ := List.find?_eq_some_iff_append.1 hu
  refine List.find?_eq_some_iff_append.2 ⟨hn, as.filter (fun u => !(u.recs.all (·.ended) && !q.replaysStep u.step)),
    bs.filter (fun u => !(u.recs.all (·.ended) && !q.replaysStep u.step)), ?_, fun a ha => hbefore a (List.mem_filter.1 ha).1⟩
  simp [Seq.retired, hsteps, hlive]

theorem rec?_of_retired {s t : State} {r : RecRef} {x : RecState} (hx : s.rec? r = some x) (hrun : x.phase = .running)
    (ht : (t.cd r.die).seq.steps = (s.cd r.die).seq.retired.steps) : t.rec? r = some x := by
  obtain ⟨u, hu, hux⟩ := State.rec?_some hx
  have hstep : (t.cd r.die).seq.step? r.step = some u := by
    rw [Seq.step?, ht]
    exact Seq.retired_step? hu hux hrun
  exact (State.rec?_of_step hstep).trans hux

theorem retireSteps_rec? {p d : Nat} {s : State} {r : RecRef} {x : RecState} (hx : s.rec? r = some x)
    (hrun : x.phase = .running) : (retireSteps p d s).rec? r = some x := by
  have hsteps := (retireSteps_cd p d s r.die).seq.1
  split at hsteps
  · exact rec?_of_retired hx hrun hsteps
  · exact (State.rec?_of_steps hsteps).trans hx

/-- A sequencer whose records start no more has its running records as they were. -/
theorem Seq.stopped_step? {q : Seq} {n : Nat} {u : StepRun} (h : q.step? n = some u) :
    q.stopped.step? n = some { u with recs := u.recs.map RecState.stopped } := by
  simp only [Seq.step?, Seq.stopped] at h ⊢
  rw [List.find?_map]
  exact congrArg (Option.map fun u : StepRun => { u with recs := u.recs.map RecState.stopped }) h

theorem stopping_rec? {p : Nat} {s : State} {r : RecRef} {x : RecState} (hx : s.rec? r = some x) (hrun : x.phase = .running) :
    (stopping p s).rec? r = some x := by
  have hsteps := (stopping_cd p s r.die).seq.1
  split at hsteps
  · obtain ⟨u, hu, hux⟩ := State.rec?_some hx
    have hstep : ((stopping p s).cd r.die).seq.step? r.step = some { u with recs := u.recs.map RecState.stopped } := by
      rw [Seq.step?, hsteps]
      exact Seq.stopped_step? hu
    rw [State.rec?_of_step hstep, List.getElem?_map, hux]
    exact congrArg some (RecState.stopped_of_phase (by rw [hrun]; exact fun h => by cases h))
  · exact (State.rec?_of_steps hsteps).trans hx

/-- A record that runs goes on when its stream is aborted. -/
theorem abortNow_rec? {p : Nat} {s : State} {r : RecRef} {x : RecState} (hx : s.rec? r = some x) (hrun : x.phase = .running) :
    (abortNow p s).rec? r = some x := by
  rw [abortNow_eq, State.rec?_of_steps (endIfDone_room p _ r.die).seq.1]
  exact retireAll_holds (P := fun t => t.rec? r = some x) (fun _ _ ht => retireSteps_rec? ht hrun) _ (stopping_rec? hx hrun)

theorem abortNow_cd {p : Nat} {s : State}
    (hqueued : ∀ g ∈ (s.part p).stream.queued, ∀ e ∈ g.dies, e.die ∈ (s.part p).frame.cds)
    {d : Nat} (hd : d ∉ (s.part p).frame.cds) : (abortNow p s).cd d = s.cd d := by
  obtain ⟨-, hspares⟩ := (spares_abortNow s).spares ⟨rfl, hqueued⟩
  obtain ⟨hseq, heng⟩ := hspares d hd
  obtain ⟨hscratch, hpwr⟩ := abortNow_other p s d
  cases hc : (abortNow p s).cd d
  simp_all

section
variable {p : Nat} {s : State} (hp : p < s.parts.length)
include hp

theorem retireAll_aborting : Aborting p (s.part p).frame.cds
    (forAll ((stopping p s).part p).frame.cds (fun d t => retireSteps p d t) (stopping p s)) :=
  retireAll_holds (fun d _ ht => ht.retireSteps d) _ (stopping_aborting hp)

theorem abortNow_aborting : Aborting p (s.part p).frame.cds (abortNow p s) := by
  rw [abortNow_eq]
  exact (retireAll_aborting hp).endIfDone

/-- An aborted stream has ended just if no step is left on any die. -/
theorem abortNow_state : ((abortNow p s).part p).stream.state =
    if (s.part p).frame.cds.any fun d => !((abortNow p s).cd d).seq.steps.isEmpty then 3 else 4 := by
  have hstate := (retireAll_aborting hp).endIfDone_state
  rw [← abortNow_eq, State.stepsLeft, (abortNow_aborting hp).cds] at hstate
  exact hstate

end

/-! ## ST_CTRL written -/

theorem hostWrite_stCtrl {s : State} {b p : Nat} (hp : p < 4) (h : s.grants b winCtrl (0x20028 + 0x100 * p) true) (v : Word) :
    hostWrite b winCtrl (0x20028 + 0x100 * p) v s = streamControl p v s := by
  rw [hostWrite_ctrl h (by omega), writeCtrl, if_neg (by simp; omega), if_pos (by simp; omega), if_pos (by omega),
    show (0x20028 + 0x100 * p) / 0x100 % 4 = p by omega]

theorem streamControl_stop (p : Nat) (s : State) : streamControl p 1 s =
    if (s.part p).stream.running then s.modStream p fun v => { v with stopReq := true } else s := by
  have h0 : bit (1 : Word).toNat 0 = true := by decide
  have h1 : bit (1 : Word).toNat 1 = false := by decide
  simp only [streamControl, h0, h1, Bool.true_and, Bool.false_and, Bool.false_eq_true, if_false]

theorem streamControl_abort (p : Nat) (s : State) : streamControl p 2 s = if (s.part p).stream.running then
    if (s.part p).atStepBoundary then s.modStream p fun v => { v with abortReq := true } else abortNow p s else s := by
  have h0 : bit (2 : Word).toNat 0 = false := by decide
  have h1 : bit (2 : Word).toNat 1 = true := by decide
  simp only [streamControl, h0, h1, Bool.true_and, Bool.false_and, Bool.false_eq_true, if_false]

section
variable {s : State} {b p : Nat} (hb : b < 4) (hp : p < 4) (h : s.grants b winCtrl (0x20028 + 0x100 * p) true)
include hb hp h

theorem execStStop_granted : exec (.stStop b p) s =
    .next (if (s.part p).stream.running then s.modStream p fun v => { v with stopReq := true } else s) := by
  change execStStop b p s = _
  rw [execStStop, decide_eq_true hb, decide_eq_true hp, Bool.and_self, onlyIf_true, hostWrite_stCtrl hp h, streamControl_stop]

theorem execStAbort_granted : exec (.stAbort b p) s = .next (if (s.part p).stream.running then
    if (s.part p).atStepBoundary then s.modStream p fun v => { v with abortReq := true } else abortNow p s else s) := by
  change execStAbort b p s = _
  rw [execStAbort, decide_eq_true hb, decide_eq_true hp, Bool.and_self, onlyIf_true, hostWrite_stCtrl hp h, streamControl_abort]

end

end Sys2Proof.Machine

open Sys2Proof.Machine

/-- Settles O19: ST_CTRL's two bits are streamControl, and an abort that acts at once keeps Aborting to its end. That an
asked stop or abort waits for the next step or tick boundary is the boundary's (log entry 28); here it is only asked. -/
theorem streamStops : Obligations.StreamStops := by
  intro s b p hb hp hg st runs
  have hrunning : (s.part p).stream.running = true ↔ runs := by simp [Stream.running, runs, st, or_assoc]
  have hstop := execStStop_granted hb hp hg
  have habort := execStAbort_granted hb hp hg
  refine ⟨fun hidle => ?_, fun hruns => ⟨?_, fun hat => ?_, fun hnot hqueued => ?_⟩⟩
  · have hoff : (s.part p).stream.running = false := by simpa using fun h => hidle (hrunning.1 h)
    rw [hoff, if_neg Bool.false_ne_true] at hstop habort
    exact ⟨hstop, habort⟩
  · rw [hstop, if_pos (hrunning.2 hruns)]
  · have hat' : (s.part p).atStepBoundary = true := by simpa [Part.atStepBoundary] using hat
    rw [habort, if_pos (hrunning.2 hruns), if_pos hat']
  · have hat' : ¬ (s.part p).atStepBoundary = true := by
      simpa [Part.atStepBoundary, Classical.or_iff_not_imp_left] using hnot
    have hlt : p < s.parts.length := State.part_lt fun h0 => by simp [runs, st, h0] at hruns
    have hbeside := abortNow_beside p s
    simp only [State.beside, Prod.mk.injEq] at hbeside
    obtain ⟨hhubs, huds, hpending⟩ := hbeside
    refine ⟨abortNow p s, by rw [habort, if_pos (hrunning.2 hruns), if_neg hat'], (abortNow_aborting hlt).queued,
      abortNow_state hlt,
      fun r y hr hy hwait => ?_, fun r x hx hrun => abortNow_rec? hx hrun, fun d hd => abortNow_cd hqueued hd, fun d => ?_,
      hhubs, huds, hpending⟩
    · obtain ⟨u, hu, hy⟩ := State.rec?_some hy
      exact abortNow_noneWaits hr u (Seq.step?_mem hu) y (List.mem_of_getElem? hy) hwait
    · rw [State.pad, (abortNow_other p s d).1, State.pad]

end

section
/-! PROOF. Records that complete (03 R81, R99, R262): the status posted, which nothing that follows from it alters, and the
event raised. -/

namespace Sys2Proof.Machine

/-! ## A completion posted -/

/-- A record that is over. -/
def RecState.over (x : RecState) : RecState := { x with phase := .done, becalmed := none }

/-- Record r's die has posted status st and has the log given, and r is done in every step it names. -/
structure Posted (r : RecRef) (st : Nat) (log : Ring LogEntry) (q : Seq) : Prop where
  status : q.lastStatus = st
  log : q.log = log
  done : ∀ u ∈ q.steps, u.step = r.step → ∀ x, u.recs[r.cmd]? = some x → x.phase = .done

section
variable {r : RecRef} {st : Nat} {log : Ring LogEntry} {q : Seq}

/-- What keeps the status and the log, and each step but for records that go on, keeps a completion posted. -/
theorem Posted.map (h : Posted r st log q) {q' : Seq} {f : StepRun → StepRun} (hsteps : q'.steps = q.steps.map f)
    (hstatus : q'.lastStatus = q.lastStatus) (hlog : q'.log = q.log) (hf : ∀ u, (f u).step = u.step)
    (hdone : ∀ u y, (f u).recs[r.cmd]? = some y → ∃ x, u.recs[r.cmd]? = some x ∧ (x.phase = .done → y.phase = .done)) :
    Posted r st log q' := by
  refine ⟨hstatus.trans h.status, hlog.trans h.log, fun u hu hn y hy => ?_⟩
  rw [hsteps] at hu
  obtain ⟨v, hv, rfl⟩ := List.mem_map.1 hu
  obtain ⟨x, hx, hxy⟩ := hdone v y hy
  exact hxy (h.done v hv ((hf v).symm.trans hn) x hx)

theorem Posted.of_eq (h : Posted r st log q) {q' : Seq} (hsteps : q'.steps = q.steps) (hstatus : q'.lastStatus = q.lastStatus)
    (hlog : q'.log = q.log) : Posted r st log q' :=
  h.map (f := id) (hsteps.trans (List.map_id _).symm) hstatus hlog (fun _ => rfl) fun _ y hy => ⟨y, hy, id⟩

theorem Posted.retired (h : Posted r st log q) : Posted r st log q.retired :=
  ⟨h.status, h.log, fun u hu => h.done u (Seq.mem_retired hu)⟩

theorem Posted.stopped (h : Posted r st log q) : Posted r st log q.stopped := by
  refine h.map (q' := q.stopped) rfl rfl rfl (fun _ => rfl) fun u y hy => ?_
  obtain ⟨x, hx, rfl⟩ := List.getElem?_map .. ▸ hy |> Option.map_eq_some_iff.1
  exact ⟨x, hx, fun hdone => by rw [RecState.stopped_of_phase (by rw [hdone]; exact fun h => by cases h), hdone]⟩

/-- A record changed that keeps its phase. -/
theorem Posted.modRec (h : Posted r st log q) (n c : Nat) {g : RecState → RecState} (hg : ∀ x, (g x).phase = x.phase) :
    Posted r st log (q.modStep n fun u => { u with recs := modAt u.recs c g }) := by
  refine h.map rfl rfl rfl (fun u => ?_) fun u y hy => ?_
  · split <;> rfl
  · split at hy
    · rw [modAt_getElem?] at hy
      split at hy
      · obtain ⟨x, hx, rfl⟩ := Option.map_eq_some_iff.1 hy
        exact ⟨x, hx, fun hdone => (hg x).trans hdone⟩
      · exact ⟨y, hy, id⟩
    · exact ⟨y, hy, id⟩

end

/-- Once record r is over in the step it names, it is done in every step of that number. -/
theorem over_done {r : RecRef} {q q' : Seq}
    (h : q'.steps = (q.modStep r.step fun v => { v with recs := modAt v.recs r.cmd RecState.over }).steps) :
    ∀ u ∈ q'.steps, u.step = r.step → ∀ x, u.recs[r.cmd]? = some x → x.phase = .done := by
  intro u hu hn y hy
  rw [h] at hu
  obtain ⟨v, -, rfl⟩ := List.mem_map.1 hu
  split at hy
  · rw [modAt_getElem?, if_pos rfl] at hy
    obtain ⟨x, -, rfl⟩ := Option.map_eq_some_iff.1 hy
    rfl
  · next hne =>
    rw [if_neg hne] at hn
    exact absurd (beq_iff_eq.2 hn) hne

/-! ## What follows a completion keeps it posted -/

section
variable {r : RecRef} {st : Nat} {log : Ring LogEntry} {s : State} (h : Posted r st log (s.cd r.die).seq)
include h

theorem Posted.modSeq (d : Nat) {f : Seq → Seq} (hf : ∀ q, Posted r st log q → Posted r st log (f q)) :
    Posted r st log ((s.modSeq d f).cd r.die).seq := by
  rw [State.modSeq_eq, State.modCd_cd]
  split
  · exact hf _ h
  · exact h

theorem Posted.modStream (p : Nat) (f : Stream → Stream) : Posted r st log ((s.modStream p f).cd r.die).seq := h

theorem Posted.room {t : State} (ht : (s.cd r.die).RoomOnly (t.cd r.die)) : Posted r st log (t.cd r.die).seq := by
  obtain ⟨hsteps, -, -, hstatus, hlog⟩ := ht.seq
  exact h.of_eq hsteps hstatus hlog

theorem Posted.signal (d n e : Nat) : Posted r st log ((signal d n e s).cd r.die).seq := by
  unfold Machine.signal
  split
  · exact h.modSeq d fun q hq => hq.of_eq rfl rfl rfl
  · exact h

theorem Posted.signalled (k : RecRef) : Posted r st log ((s.modRec k fun y => { y with signalled := true }).cd r.die).seq :=
  h.modSeq k.die fun _ hq => hq.modRec k.step k.cmd fun _ => rfl

theorem Posted.choiceSignal (d : Nat) (u : StepRun) (c : Nat) : Posted r st log ((choiceSignal d u c s).cd r.die).seq := by
  unfold Machine.choiceSignal
  split
  · exact h
  · split
    · exact (h.signalled ⟨d, u.step, c⟩).signal ..
    · exact h

theorem Posted.postSignals (k : RecRef) (x : RecState) : Posted r st log ((postSignals k x s).cd r.die).seq := by
  unfold Machine.postSignals
  extract_lets t
  have hown : Posted r st log (t.cd r.die).seq := by
    simp only [t]
    split
    · exact h
    · exact (h.signalled k).signal ..
  split
  · exact hown
  · split
    · exact hown.choiceSignal ..
    · split
      · exact hown.choiceSignal ..
      · exact hown

theorem Posted.abandonStep (p : Nat) (k : RecRef) (unit a : Nat) : Posted r st log ((abandonStep p k unit a s).cd r.die).seq := by
  unfold Machine.abandonStep
  split
  · have hstopped : Posted r st log ((stopStarts p s).cd r.die).seq := by
      rw [stopStarts_cd]
      split
      · exact h.stopped
      · exact h
    exact Posted.room (by exact hstopped) (closeStream_room p 5 _ r.die)
  · exact h

theorem Posted.openReplay (k : RecRef) (a : Nat) (u : StepRun) (g : ReplayRange) :
    Posted r st log ((openReplay k a u g s).cd r.die).seq := h.modSeq k.die fun _ hq => hq.of_eq rfl rfl rfl

theorem Posted.advanceReplay (p : Nat) (y : ReplayRun) (k : RecRef) (x : RecState) :
    Posted r st log ((advanceReplay p y k x s).cd r.die).seq := by
  unfold Machine.advanceReplay
  split
  · exact h.modSeq k.die fun _ hq => hq.of_eq rfl rfl rfl
  · refine Posted.postSignals (Posted.modStream ?_ p _) k x
    exact h.modSeq k.die fun _ hq => hq.of_eq rfl rfl rfl

theorem Posted.lineBadEnds (p : Nat) (k : RecRef) (x : RecState) : Posted r st log ((lineBadEnds p k x s).cd r.die).seq := by
  unfold Machine.lineBadEnds
  dsimp only
  split
  · split
    · exact h.openReplay ..
    · exact h.postSignals k x
  · exact (h.postSignals k x).abandonStep ..

theorem Posted.afterCompletion (p : Nat) (k : RecRef) (x : RecState) :
    Posted r st log ((afterCompletion p k x s).cd r.die).seq := by
  unfold Machine.afterCompletion
  dsimp only
  split
  · exact (h.postSignals k x).abandonStep ..
  · split
    · split
      · exact (h.postSignals k x).abandonStep ..
      · exact h.advanceReplay ..
    · split
      · exact h.lineBadEnds ..
      · exact h.postSignals k x

theorem Posted.retireSteps (p d : Nat) : Posted r st log ((retireSteps p d s).cd r.die).seq := by
  obtain ⟨hsteps, -, -, hstatus, hlog⟩ := (retireSteps_cd p d s r.die).seq
  split at hsteps
  · next hd =>
    rw [if_pos hd] at hstatus hlog
    exact h.retired.of_eq hsteps hstatus hlog
  · next hd =>
    rw [if_neg hd] at hstatus hlog
    exact h.of_eq hsteps hstatus hlog

end

/-! ## The state in which a completion has been posted -/

theorem tidy_seq (p : Nat) (r : RecRef) {x : RecState} (s : State) (hop : x.record.opcode ≠ 0x0603) (e : Nat) :
    ((tidy p r x s).cd e).seq = (s.cd e).seq := by
  unfold tidy
  rw [if_neg hop]
  split
  · exact State.modCd_cd_keeps s r.die e (·.seq) fun _ => rfl
  · rfl

theorem countRecord_seq (r : RecRef) (x : RecState) (s : State) (e : Nat) : ((countRecord r x s).cd e).seq = (s.cd e).seq := by
  have heng : ∀ f, ((s.modEng r.die f).cd e).seq = (s.cd e).seq := fun f =>
    State.modCd_cd_keeps s r.die e (·.seq) fun _ => rfl
  unfold countRecord
  dsimp only
  split
  · exact heng _
  · split
    iterate 6 exact heng _
    all_goals rfl

/-- The state in which the completion of record r, being x, has been posted. -/
def State.posted (s : State) (p : Nat) (u : StepRun) (r : RecRef) (x : RecState) : State :=
  countRecord r x (postStatus p u r x ((tidy p r x s).modRec r RecState.over))

section
variable {s : State} {p : Nat} {u : StepRun} {r : RecRef} {x : RecState}

theorem execRecordComplete_eq (hwf : r.wf = true) (hp : s.partOfCd r.die = some p)
    (hu : (s.cd r.die).seq.step? r.step = some u) (hx : s.rec? r = some x) (hop : x.record.opcode ≠ 0x0603) :
    exec (.recordComplete r) s = .next (if x.phase = .running && x.executed && settled p r x s && !s.suspended r x then
      retireSteps p r.die (afterCompletion p r x (s.posted p u r x)) else s) := by
  have htidy : (tidy p r x s).rec? r = some x := (State.rec?_of_steps (by rw [tidy_seq p r s hop])).trans hx
  change execRecordComplete r s = _
  rw [execRecordComplete, hwf, onlyIf_true, hp, hu, hx]
  simp only [htidy, Option.getD_some]
  rfl

theorem execRecordComplete_suspended (hwf : r.wf = true) (hp : s.partOfCd r.die = some p)
    (hu : (s.cd r.die).seq.step? r.step = some u) (hx : s.rec? r = some x) (h : s.suspended r x = true) :
    exec (.recordComplete r) s = .next s := by
  change execRecordComplete r s = _
  rw [execRecordComplete, hwf, onlyIf_true, hp, hu, hx]
  simp only [h, Bool.not_true, Bool.and_false, Bool.false_eq_true, if_false]

theorem telem_cd (p : Nat) (m : Telem) (s : State) (d : Nat) : (telem p m s).cd d = s.cd d := rfl

theorem State.modSeq_seq_same {s : State} {d : Nat} (hd : d < s.cds.length) (f : Seq → Seq) :
    ((s.modSeq d f).cd d).seq = f (s.cd d).seq := by
  rw [State.modSeq_eq, State.modCd_cd_same _ _ _ hd]

/-- What posting a completion makes of the record's die: its status is s61 and, unless 0, at the head of the log. -/
theorem posted_seq (hx : s.rec? r = some x) (hop : x.record.opcode ≠ 0x0603) :
    let q := (s.cd r.die).seq
    let t := ((s.posted p u r x).cd r.die).seq
    ∃ late, t.lastStatus = x.status ∧
      t.log = (if x.status = 0 then q.log else q.log.push 256 ⟨r.step, r.cmd, x.record.unit, x.status, late⟩) ∧
      t.steps = (q.modStep r.step fun v => { v with recs := modAt v.recs r.cmd RecState.over }).steps ∧
      t.ev = q.ev ∧ t.replays = q.replays := by
  intro q t
  have htidy : ((tidy p r x s).cd r.die).seq = q := tidy_seq p r s hop r.die
  have hlt : r.die < (tidy p r x s).cds.length :=
    State.rec?_die_lt ((State.rec?_of_steps (by rw [htidy])).trans hx : (tidy p r x s).rec? r = some x)
  have hover : (((tidy p r x s).modRec r RecState.over).cd r.die).seq =
      q.modStep r.step fun v => { v with recs := modAt v.recs r.cmd RecState.over } := by
    rw [State.modRec, State.modSeq_seq_same hlt, htidy]
  have hlt' : r.die < ((tidy p r x s).modRec r RecState.over).cds.length := by
    rw [State.modRec, State.modSeq_eq]
    simpa using hlt
  refine ⟨lateTicks u x (((tidy p r x s).modRec r RecState.over).part p).disc.tick, ?_, ?_, ?_, ?_, ?_⟩ <;>
    simp only [t, State.posted, countRecord_seq, postStatus, telem_cd, State.modSeq_seq_same hlt', hover] <;> rfl

end

/-! ## The event of a completion (R80, R88) -/

/-- A record is in no alternate just if it is in none of those that its step's CHOICEs list. -/
theorem choiceOf_none_iff (u : StepRun) (c : Nat) : u.choiceOf c = none ↔
    ∀ (i : Nat) (x : RecState), u.recs[i]? = some x →
    ¬ (x.record.opcode == 0x0705 && (x.record.alternates i).any fun a => a.first ≤ c && c < a.first + a.records) = true := by
  rw [StepRun.choiceOf, List.head?_eq_none_iff, List.filter_eq_nil_iff]
  exact ⟨fun h i x hx => h (i, x) (mem_range_zip.2 hx), fun h a ha => h a.1 a.2 (mem_range_zip.1 ha)⟩

/-- A record changed that stays the same command leaves the alternates of its step. -/
theorem choiceOf_modAt {u : StepRun} {c : Nat} (h : u.choiceOf c = none) (k : Nat) {g : RecState → RecState}
    (hg : ∀ x, (g x).record = x.record) : ({ u with recs := modAt u.recs k g } : StepRun).choiceOf c = none := by
  rw [choiceOf_none_iff] at h ⊢
  intro i y hy
  rw [modAt_getElem?] at hy
  split at hy
  · obtain ⟨x, hx, rfl⟩ := Option.map_eq_some_iff.1 hy
    rw [hg]
    exact h i x hx
  · exact h i y hy

section
variable {s : State} {p : Nat} {u : StepRun} {r : RecRef} {x : RecState}

/-- A record with status 0 outside any replay only signals. -/
theorem afterCompletion_ok (hst : x.status = 0) (hreplays : (s.cd r.die).seq.replays = []) :
    afterCompletion p r x s = postSignals r x s := by
  have hnone : rerunning? r s = none := by simp only [rerunning?, hreplays, List.head?_nil, Option.filter_none]
  have hkeep : updateAbandons r x s = false := by simp [updateAbandons, hst]
  simp [afterCompletion, hkeep, hnone, hst]

/-- A record that is no CHOICE and in no alternate raises its event, if it has not done so. -/
theorem postSignals_eq (hu : (s.cd r.die).seq.step? r.step = some u) (hsig : x.signalled = false)
    (hop : x.record.opcode ≠ 0x0705) (halt : u.choiceOf r.cmd = none) (hev : x.record.signalEv < 64) :
    postSignals r x s = (s.modRec r fun y => { y with signalled := true }).modSeq r.die fun q =>
      q.raise r.step x.record.signalEv 1 := by
  have hown : signal r.die r.step x.record.signalEv (s.modRec r fun y => { y with signalled := true }) =
      (s.modRec r fun y => { y with signalled := true }).modSeq r.die fun q => q.raise r.step x.record.signalEv 1 := if_pos hev
  have hmarked := State.step?_modRec hu fun y => { y with signalled := true }
  have hsteps : (((s.modRec r fun y => { y with signalled := true }).modSeq r.die fun q =>
      q.raise r.step x.record.signalEv 1).cd r.die).seq.steps =
      ((s.modRec r fun y => { y with signalled := true }).cd r.die).seq.steps :=
    State.modCd_cd_keeps _ r.die r.die (·.seq.steps) fun _ => rfl
  have hstep : (((s.modRec r fun y => { y with signalled := true }).modSeq r.die fun q =>
      q.raise r.step x.record.signalEv 1).cd r.die).seq.step? r.step =
      some { u with recs := modAt u.recs r.cmd fun y => { y with signalled := true } } := by
    rw [Seq.step?, hsteps]
    exact hmarked
  have hout := choiceOf_modAt halt r.cmd (g := fun y => { y with signalled := true }) fun _ => rfl
  unfold postSignals
  simp only [hop, hsig, decide_false, Bool.or_self, Bool.false_eq_true, if_false, hown, hstep, hout]

end

theorem retireSteps_ev (p d : Nat) (s : State) (e : Nat) : ((retireSteps p d s).cd e).seq.ev = (s.cd e).seq.ev := by
  obtain ⟨-, -, hev, -⟩ := (retireSteps_cd p d s e).seq
  rw [hev]
  split <;> rfl

/-- The event counters of a die once record r's event has been raised by one. -/
theorem signalled_ev {s : State} {r : RecRef} (hd : r.die < s.cds.length) (e : Nat) :
    (((s.modRec r fun y => { y with signalled := true }).modSeq r.die fun q => q.raise r.step e 1).cd r.die).seq.ev =
      (s.cd r.die).seq.ev.set (64 * (r.step % 2) + e) (((s.cd r.die).seq.ev.getD (64 * (r.step % 2) + e) 0 + 1) % 65536) := by
  rw [State.modSeq_seq_same (by rw [State.modRec, State.modSeq_eq]; simpa using hd), State.modRec, State.modSeq_seq_same hd,
    Seq.raise_ev]
  rfl

end Sys2Proof.Machine

open Sys2Proof.Machine

/-- Settles O17: the completion is posted (posted_seq) and what follows keeps it so (Posted.afterCompletion); with status 0
outside a replay and a CHOICE that is the record's own event alone (postSignals_eq). -/
theorem recordCompletes : Obligations.RecordCompletes := by
  intro s r x u p hwf hp hu hx
  refine ⟨execRecordComplete_suspended hwf hp hu hx, fun hrun hexec hsettled hsusp hop => ?_⟩
  intro st q i
  have hgo : (decide (x.phase = .running) && x.executed && settled p r x s && !s.suspended r x) = true := by
    rw [decide_eq_true hrun, hexec, hsettled, hsusp]
    rfl
  obtain ⟨late, hstatus, hlog, hsteps, hev, hreps⟩ := posted_seq (p := p) (u := u) hx hop
  have hposted : Posted r st _ ((s.posted p u r x).cd r.die).seq := ⟨hstatus, hlog, over_done hsteps⟩
  have hend := (hposted.afterCompletion p r x).retireSteps p r.die
  refine ⟨_, (execRecordComplete_eq hwf hp hu hx hop).trans (congrArg _ (if_pos hgo)), hend.status, fun y hy => ?_,
    fun h0 => ?_, fun h0 => ⟨late, ?_⟩, fun h0 hreplays hsig hchoice halt hsev => ?_⟩
  · obtain ⟨v, hv, hy⟩ := State.rec?_some hy
    exact hend.done v (Seq.step?_mem hv) (Seq.step?_step hv) y hy
  · exact hend.log.trans (if_pos h0)
  · exact hend.log.trans (if_neg h0)
  · have hstep : ((s.posted p u r x).cd r.die).seq.step? r.step = some { u with recs := modAt u.recs r.cmd RecState.over } := by
      rw [Seq.step?, hsteps]
      exact Seq.step?_modStep (by exact fun _ => rfl) hu
    rw [afterCompletion_ok h0 (hreps.trans hreplays),
      postSignals_eq hstep hsig hchoice (choiceOf_modAt halt r.cmd fun _ => rfl) hsev, retireSteps_ev,
      signalled_ev (State.step?_die_lt hstep), hev]

end

section
/-! PROOF. What a clean frame in its turn, a quiet sample and a restart do (03 R88, 13 R317 to R322, 16 R414): nothing on the way
that could stop them or change more. -/

namespace Sys2Proof.Machine

/-! ## A receive lane changed -/

/-- A part of a port that a change leaves. -/
theorem State.modPort_port_keeps {α : Type} (s : State) (n k : Nat) {f : Port → Port} (v : Port → α)
    (hf : ∀ q, v (f q) = v q) : v ((s.modPort n f).port k) = v (s.port k) := by
  by_cases hk : k = n
  · subst hk
    by_cases hlt : k < s.ports.length
    · rw [State.modPort_port_same _ _ _ hlt, hf]
    · rw [State.modPort, modAt_past _ _ _ (Nat.le_of_not_lt hlt)]
  · rw [State.modPort_port_other _ _ _ _ hk]

/-- Two changes that agree on a port as it is make the same state. -/
theorem State.modPort_congr (s : State) (n : Nat) {f g : Port → Port} (h : f (s.port n) = g (s.port n)) :
    s.modPort n f = s.modPort n g := by
  have hports : modAt s.ports n f = modAt s.ports n g := by
    refine List.ext_getElem? fun k => ?_
    rw [modAt_getElem?, modAt_getElem?]
    by_cases hk : k = n
    · subst hk
      cases hq : s.ports[k]? with
      | none => rfl
      | some q =>
        have hport : s.port k = q := by rw [State.port, List.getD_eq_getElem?_getD, hq, Option.getD_some]
        rw [hport] at h
        simp [h]
    · simp [hk]
  simp only [State.modPort, hports]

section
variable (s : State) (n l : Nat) (f g : RxLane → RxLane)

theorem State.modRx_modRx : (s.modRx n l f).modRx n l g = s.modRx n l fun x => g (f x) := by
  simp only [State.modRx_eq, State.modPort_modPort, modAt_modAt]

theorem State.modRx_link (k : Nat) : ((s.modRx n l f).port k).link = (s.port k).link :=
  s.modPort_port_keeps n k (·.link) fun _ => rfl

theorem State.modRx_arb (k : Nat) : ((s.modRx n l f).port k).arb = (s.port k).arb :=
  s.modPort_port_keeps n k (·.arb) fun _ => rfl

variable {s n l f}

theorem State.modRx_lane (hn : n < s.ports.length) (hl : l < (s.port n).rx.length) :
    ((s.modRx n l f).port n).rx.getD l {} = f ((s.port n).rx.getD l {}) := by
  rw [State.modRx, State.modPort_port_same _ _ _ hn]
  exact modAt_getD_same _ _ _ _ hl

end

/-- A whole module's port has its eight lanes. -/
theorem State.rx_length {s : State} (hw : s.whole = true) {n : Nat} (hn : n < 128) :
    n < s.ports.length ∧ (s.port n).rx.length = 8 := by
  obtain ⟨-, -, -, -, -, -, hports, -, -, hall⟩ := (State.whole_iff s).1 hw
  have hlt : n < s.ports.length := by rw [hports]; exact hn
  refine ⟨hlt, ?_⟩
  have hq := List.all_eq_true.1 hall _ (List.getElem_mem hlt)
  simp only [Port.whole, Bool.and_eq_true, beq_iff_eq] at hq
  obtain ⟨⟨hrx, -⟩, -⟩ := hq
  rw [State.port, List.getD_eq_getElem _ _ hlt]
  exact hrx

/-! ## A clean frame (R317) -/

/-- A lane's counts after a frame none of whose codewords was uncorrectable, in the millisecond ms. -/
def RxLane.counted (x : RxLane) (ms : Nat) (y : LineFrame) : RxLane :=
  { x with
    descr := y.state, corrected := (x.corrected + y.corrected) % 2 ^ 64, uncorr := min x.uncorr 0xFFFFFFFF
    msStart := ms, uncorrMs := if x.msStart = ms then x.uncorrMs else 0, runCorrected := x.runCorrected + y.corrected }

section
variable {s : State} {n i : Nat} {y : LineFrame}

theorem countErrors_clean (hn : n < s.ports.length) (hi : i < (s.port n).rx.length)
    (hms : ((s.port n).rx.getD i {}).uncorrMs ≤ 16) :
    countErrors n i y.corrected 0 (descrambled n i y s) = s.modRx n i fun z => z.counted (s.now / 1000000) y := by
  unfold countErrors
  simp only [descrambled, State.modRx_modRx, Nat.add_zero, if_true, wrap64, satAdd]
  rw [if_neg]
  · rfl
  · rw [State.modRx_lane hn hi]
    have hle : (if ((s.port n).rx.getD i {}).msStart = s.now / 1000000 then ((s.port n).rx.getD i {}).uncorrMs
        else 0) ≤ 16 := by
      split <;> omega
    simp only [Bool.and_eq_true, decide_eq_true_eq, not_and]
    intro h
    exact absurd h.2 (Nat.not_lt.2 hle)

theorem leAt_slice (b : List Byte) (o : Nat) : leAt (slice b o 256) 0 1 = leAt b o 1 := by
  simp [leAt, slice_eq_map, leNat]

/-- A flit that is no control flit, or is IDLE, does nothing as it arrives. -/
theorem arriveFlit_quiet {ctl : Bool} {b : List Byte} (h : ctl = true → leAt b 0 1 = 1) (n l : Nat) (s : State) :
    arriveFlit n l ctl b s = s := by
  cases ctl with
  | false => rfl
  | true => simp [arriveFlit, h rfl]

theorem arriveFlits_quiet {b : List Byte} {map : Nat} (h : ∀ k < 10, map.testBit k = true → leAt b (10 + 256 * k) 1 = 1)
    (n l : Nat) (s : State) :
    forAll ((List.range 10).zip (frameFlits b)) (fun f t => arriveFlit n l (bit map f.1) f.2 t) s = s := by
  refine forAll_holds (fun t => t = s) _ (fun f hf t ht => ?_) rfl
  obtain ⟨k, hk⟩ := List.mem_iff_getElem?.1 hf
  obtain ⟨h1, h2⟩ := List.getElem?_zip_eq_some.1 hk
  obtain ⟨hlt, hf1⟩ := List.getElem?_eq_some_iff.1 h1
  rw [List.length_range] at hlt
  rw [List.getElem_range] at hf1
  have hf2 : f.2 = slice b (10 + 256 * k) 256 := by
    rw [frameFlits, List.getElem?_map, List.getElem?_range hlt] at h2
    exact (Option.some.inj h2).symm
  rw [ht]
  refine arriveFlit_quiet (fun hctl => ?_) n l s
  rw [hf2, leAt_slice]
  exact h k hlt (by rw [hf1]; exact hctl)

variable {p : Nat} (hn : n < s.ports.length) (hi : i < (s.port n).rx.length) (hp : s.partOfPort n = some p)
  (hclean : y.uncorrectable = 0) (hcrc : (crc32c (slice y.bytes 0 6 ++ y.bytes.drop 10)).toNat = leAt y.bytes 6 4)
  (hms : ((s.port n).rx.getD i {}).uncorrMs ≤ 16) (hreads : ((s.port n).rx.getD i {}).reads = true)
include hn hi hp hclean hcrc hms hreads

/-- A clean frame of its kind whose control flits are all IDLE is counted, and taken further only if it is sequenced. -/
theorem takeFrame_clean (sequenced : Bool) (hkind : leAt y.bytes 0 4 / 2 ^ 30 = if sequenced then 0 else 2)
    (hidle : ∀ k < 10, (leAt y.bytes 0 4 / 2 ^ 20 % 1024).testBit k = true → leAt y.bytes (10 + 256 * k) 1 = 1) :
    takeFrame n i y sequenced (descrambled n i y s) =
      let heard := s.modRx n i fun z => z.counted (s.now / 1000000) y
      if sequenced && ((s.port n).rx.getD i {}).state = 3 && (s.port n).link.light = 3 then
        takeSequenced p n { seq := leAt y.bytes 0 4 % 2 ^ 20, epoch := leAt y.bytes 4 2, map := leAt y.bytes 0 4 / 2 ^ 20 % 1024,
                            flits := frameFlits y.bytes } heard
      else heard := by
  have hp' : (descrambled n i y s).partOfPort n = some p := hp
  have hlane : ((descrambled n i y s).port n).rx.getD i {} = { (s.port n).rx.getD i {} with descr := y.state } :=
    State.modRx_lane hn hi
  have hreads' : ({ (s.port n).rx.getD i {} with descr := y.state } : RxLane).reads = true := hreads
  have hok : frameOk y.bytes 0 = true := by simpa [frameOk] using hcrc
  have hlane' := State.modRx_lane (f := fun z => z.counted (s.now / 1000000) y) hn hi
  unfold takeFrame
  simp only [hp', hlane, hreads', hclean, hok, hkind, countErrors_clean hn hi hms, arriveFlits_quiet hidle, hlane',
    State.modRx_link, Bool.not_true, Bool.false_eq_true, if_false, bne_self_eq_false, Bool.or_self]
  rfl

end

/-! ## A sequenced frame in its turn (R322) -/

theorem State.modLink_link {s : State} {n : Nat} (hn : n < s.ports.length) (f : Link → Link) :
    ((s.modLink n f).port n).link = f (s.port n).link := by
  rw [State.modLink_eq, State.modPort_port_same _ _ _ hn]

theorem State.modLink_arb (s : State) (n k : Nat) (f : Link → Link) : ((s.modLink n f).port k).arb = (s.port k).arb :=
  s.modPort_port_keeps n k (·.arb) fun _ => rfl

theorem deliverHeld_none {s : State} {n : Nat} (h : (s.port n).link.held = []) (p k : Nat) : deliverHeld p n k s = s := by
  cases k with
  | zero => rfl
  | succ k => simp [deliverHeld, h]

/-- A data flit of the partition's epoch does nothing on a port of a known peer where no message is current. -/
theorem deliverFlit_quiet {s : State} {n : Nat} (hpeer : (s.port n).arb.peer = 1 ∨ (s.port n).arb.peer = 2)
    (hcur : (s.port n).link.current = none) (p : Nat) (b : List Byte) : deliverFlit p n true false b s = s := by
  rcases hpeer with h | h <;> simp [deliverFlit, h, deliverData, hcur]

theorem frameData_none {flits : List (Bool × List Byte)} (h : ∀ f ∈ flits, f.1 = false) : frameData none flits = [] := by
  induction flits with
  | nil => rfl
  | cons f fs ih =>
    obtain ⟨ctl, b⟩ := f
    obtain rfl : ctl = false := h _ List.mem_cons_self
    exact ih fun g hg => h g (List.mem_cons_of_mem _ hg)

/-- A frame without control flits is not held back on a port where no message is current. -/
theorem frameHeld_quiet {s : State} {n : Nat} (hcur : (s.port n).link.current = none) (p : Nat) {x : HeldFrame}
    (hmap : x.map = 0) : frameHeld p n x s = false := by
  have hdata : ∀ f ∈ ((List.range x.flits.length).zip x.flits).map fun f => (bit x.map f.1, f.2), f.1 = false := by
    intro f hf
    obtain ⟨g, -, rfl⟩ := List.mem_map.1 hf
    simp [bit, hmap]
  unfold frameHeld
  generalize ((List.range x.flits.length).zip x.flits).map (fun f => (bit x.map f.1, f.2)) = flits at hdata ⊢
  have hheads : (flits.filterMap fun f => if f.1 && leAt f.2 0 1 == 1 then some (Head.of f.2) else none) = [] :=
    List.filterMap_eq_nil_iff.2 fun f hf => by simp [hdata f hf]
  simp only [hheads, hcur, Option.bind_none, frameData_none hdata]
  split <;> simp

theorem takeSequenced_next {s : State} {n : Nat} (hn : n < s.ports.length) (p : Nat) {x : HeldFrame}
    (hseq : x.seq = (s.port n).link.rxSeq) (hheld : (s.port n).link.held = []) (hcur : (s.port n).link.current = none)
    (hmap : x.map = 0) (hepoch : x.epoch = (s.part p).epoch16)
    (hpeer : (s.port n).arb.peer = 1 ∨ (s.port n).arb.peer = 2) :
    takeSequenced p n x s = s.modLink n fun k =>
      { k with rxSeq := (k.rxSeq + 1) % 2 ^ 20, rxFrames := (k.rxFrames + 1) % 2 ^ 64 } := by
  set w := s.modLink n fun k => { k with held := k.held ++ [x] } with hw
  have hwlink : (w.port n).link = { (s.port n).link with held := [x] } := by
    rw [hw, State.modLink_link hn, hheld]
    rfl
  set v := w.modLink n fun k => { k with
    rxSeq := (k.rxSeq + 1) % 2 ^ 20, rxFrames := wrap64 k.rxFrames 1, held := k.held.filter fun y => y.seq != x.seq } with hv
  have hvlink : (v.port n).link = { (s.port n).link with
      rxSeq := ((s.port n).link.rxSeq + 1) % 2 ^ 20, rxFrames := wrap64 (s.port n).link.rxFrames 1, held := [] } := by
    rw [hv, State.modLink_link (by rw [hw, State.modLink_eq]; simpa using hn), hwlink]
    simp
  have hdeliver : deliverFrame p n x w = v := by
    have hok : (x.epoch == (w.part p).epoch16) = true := beq_iff_eq.2 hepoch
    unfold deliverFrame
    rw [hok]
    refine forAll_holds (fun t => t = v) _ (fun f _ t ht => ?_) hv.symm
    rw [ht, show bit x.map f.1 = false by simp [bit, hmap]]
    exact deliverFlit_quiet (by rw [hv, State.modLink_arb, hw, State.modLink_arb]; exact hpeer) (by rw [hvlink]; exact hcur) p f.2
  have hstep : deliverHeld p n 257 w = v := by
    rw [show (257 : Nat) = 256 + 1 from rfl, deliverHeld]
    simp only [hwlink, List.find?_cons_of_pos, hseq, beq_self_eq_true, frameHeld_quiet (by rw [hwlink]; exact hcur) p hmap,
      Bool.false_eq_true, if_false, hdeliver]
    exact deliverHeld_none (by rw [hvlink]) p 256
  have htake : takeSequenced p n x s = deliverHeld p n 257 w := by
    unfold takeSequenced
    exact if_pos (by simp [hseq, hheld])
  rw [htake, hstep, hv, hw, State.modLink_eq, State.modLink_eq, State.modPort_modPort, State.modLink_eq]
  refine s.modPort_congr n ?_
  simp [hheld, wrap64]

/-! ## Frames heard -/

/-- Bit k of a header's map of control flits is bit 20 + k of its word. -/
theorem testBit_ctlMap (w : Nat) {k : Nat} (hk : k < 10) : (w / 2 ^ 20 % 1024).testBit k = w.testBit (20 + k) := by
  rw [show (1024 : Nat) = 2 ^ 10 from rfl, Nat.testBit_mod_two_pow, Nat.testBit_div_two_pow, decide_eq_true hk, Bool.true_and,
    Nat.add_comm]

section
variable {s : State} {n i : Nat} {sent : List Byte} {scr : Nat} {noise : List (Nat × Byte)} (hn : n < 128) (hi : i < 8)
  (hlen : (arriving false sent scr noise).length = 2720) (hlight : 2 ≤ (s.port n).link.light)
include hlen hlight

theorem hearFrame_lit (sequenced : Bool) : hearFrame n i (arriving false sent scr noise) sequenced s =
    let y := decodeFrame false ((s.port n).rx.getD i {}).descr (arriving false sent scr noise)
    takeFrame n i y sequenced (descrambled n i y s) := by
  have hhears : s.hears n (arriving false sent scr noise) = true := by
    rw [State.hears, decide_eq_true hlight, hlen]
    rfl
  rw [hearFrame, hhears, if_pos rfl]
  rfl

include hn hi

theorem execFrameReceive_lit : exec (.frameReceive n i sent scr noise) s =
    .next (let y := decodeFrame false ((s.port n).rx.getD i {}).descr (arriving false sent scr noise)
      takeFrame n i y true (descrambled n i y s)) := by
  change execFrameReceive n i sent scr noise s = _
  rw [execFrameReceive, laneWf, decide_eq_true hn, decide_eq_true hi, Bool.and_self, onlyIf_true,
    hearFrame_lit hlen hlight]

theorem execLinkOnlyFrameReceive_lit : exec (.linkOnlyFrameReceive n i sent scr noise) s =
    .next (let y := decodeFrame false ((s.port n).rx.getD i {}).descr (arriving false sent scr noise)
      takeFrame n i y false (descrambled n i y s)) := by
  change execLinkOnlyFrameReceive n i sent scr noise s = _
  rw [execLinkOnlyFrameReceive, laneWf, decide_eq_true hn, decide_eq_true hi, Bool.and_self, onlyIf_true,
    hearFrame_lit hlen hlight]

end

/-! ## A sample in no squall and no stop (R414) -/

theorem thermal_quiet {s : State} {b : BlockRef} {temp : Int} (ht : temp < 1600) (hsquall : (s.blk b).squall = none)
    (hhalted : (s.blk b).halted = false) : thermal b temp s = s := by
  have h1760 : ¬ 1760 ≤ temp := by omega
  have h1600 : ¬ 1600 ≤ temp := by omega
  simp [thermal, h1760, h1600, hsquall, hhalted]

/-- A part of a segment that a change of it leaves. -/
theorem State.modSeg_seg_keeps {α : Type} (s : State) (d g : Nat) {f : Segment → Segment} (v : Segment → α)
    (hf : ∀ y, v (f y) = v y) : v ((s.modSeg d g f).seg d g) = v (s.seg d g) := by
  refine State.modCd_cd_keeps s d d (fun c => v (c.pwr.segs.getD g { limit := 0 })) fun c => ?_
  dsimp only
  rw [modAt_getD]
  split
  · exact hf _
  · rfl

theorem execSegmentCurrentSample_quiet {s : State} {d g mean peak : Nat} (hd : d < 16) (hg : g < 4)
    (hpeak : peak * 100 ≤ (s.seg d g).limit * 115) (hstopped : (s.seg d g).stopped = false) (hmean : mean ≤ (s.seg d g).limit)
    (hsquall : (s.seg d g).squall = none) : exec (.segmentCurrentSample d g mean peak) s = .next (s.modSeg d g fun z =>
      { z with current := mean, sumTick := z.sumTick + mean, samples := z.samples + 1 }) := by
  have hstopped' := State.modSeg_seg_keeps s d g (·.stopped) (f := fun z =>
    { z with current := mean, sumTick := z.sumTick + mean, samples := z.samples + 1 }) fun _ => rfl
  have hsquall' := State.modSeg_seg_keeps s d g (·.squall) (f := fun z =>
    { z with current := mean, sumTick := z.sumTick + mean, samples := z.samples + 1 }) fun _ => rfl
  change execSegmentCurrentSample d g mean peak s = _
  rw [execSegmentCurrentSample, decide_eq_true hd, decide_eq_true hg, Bool.and_self, onlyIf_true]
  simp only [gt_iff_lt, Nat.not_lt.2 hpeak, if_false, hstopped', hstopped, Bool.false_eq_true, Nat.not_lt.2 hmean, hsquall',
    hsquall, Option.isSome_none, Bool.false_and]

theorem execCurrentStopRestart_stopped {s : State} {d g : Nat} (hd : d < 16) (hg : g < 4) (h : (s.seg d g).stopped = true) :
    exec (.currentStopRestart d g) s = .next (forAll (dieSegBlocks d g) (fun c t => t.modBlk c fun x =>
      if x.mode = .stopped ∧ x.halted = false then { x with mode := .throttled, clock := 400, climb := 0 } else x)
      (s.modSeg d g fun y => { y with stopped := false })) := by
  change execCurrentStopRestart d g s = _
  rw [execCurrentStopRestart, decide_eq_true hd, decide_eq_true hg, Bool.and_self, onlyIf_true, if_pos h]
  simp only [Bool.and_eq_true, beq_iff_eq, Bool.not_eq_true']

end Sys2Proof.Machine

open Sys2Proof.Machine

/-- Settles O3: a CHOICE as execChoice_decides has it, with no wake to request; a clean frame as takeFrame_clean and
takeSequenced_next have it; and the samples and the restart, where no squall, limit or stop stands in the way. That no block in
a thermal stop restarts is log entry 79. -/
theorem undisturbedEvents : Obligations.UndisturbedEvents := by
  intro s hw
  refine ⟨fun r x u p k hr hu hp hd hk hawake => ?_, ?_, fun b temp mw hb ht hsquall hhalted => ?_, fun d hd g hg =>
    ⟨fun mean peak hpeak hstopped hmean hsquall => execSegmentCurrentSample_quiet hd hg hpeak hstopped hmean hsquall,
      execCurrentStopRestart_stopped hd hg⟩⟩
  · have hpick : choicePick s r u x = k := by rw [choicePick, hk, Option.getD_some]
    have hwake : wakeAlternate r.die u.recs (x.record.alternates r.cmd)[k]? s = s := by
      cases ha : (x.record.alternates r.cmd)[k]? with
      | none => rfl
      | some a => exact requestWakes_awake (hawake a ha) 1
    have hexec := execChoice_decides hr hu hp hd
    simp only [hpick, hwake] at hexec
    exact hexec
  · intro n i p sent scr noise hn hi hp line hlen l x y b w ms heard hclean hcrc hms
    obtain ⟨hports, hlanes⟩ := State.rx_length hw hn
    have hlane : i < (s.port n).rx.length := by rw [hlanes]; exact hi
    refine ⟨fun hlight hreads hkind hidle => ?_, fun hlight hstate htop hseq hheld hcur hepoch hpeer => ?_⟩
    · have hquiet : ∀ k < 10, (w / 2 ^ 20 % 1024).testBit k = true → leAt b (10 + 256 * k) 1 = 1 := fun k hk hbit =>
        hidle k hk (by rwa [testBit_ctlMap w hk] at hbit)
      have htake := takeFrame_clean hports hlane hp hclean hcrc hms hreads false hkind hquiet
      rw [execLinkOnlyFrameReceive_lit hn hi hlen hlight]
      exact congrArg Host.Outcome.next htake
    · have hreads : x.reads = true := by simp [RxLane.reads, hstate]
      have hlit : 2 ≤ (s.port n).link.light := Nat.le_trans (by decide) hlight.ge
      have hkind : w / 2 ^ 30 = 0 := by omega
      have hmap : w / 2 ^ 20 % 1024 = 0 := by rw [htop]
      have hquiet : ∀ k < 10, (w / 2 ^ 20 % 1024).testBit k = true → leAt b (10 + 256 * k) 1 = 1 := fun k _ hbit => by
        rw [hmap, Nat.zero_testBit] at hbit
        cases hbit
      have htake := takeFrame_clean hports hlane hp hclean hcrc hms hreads true hkind hquiet
      have hnext := takeSequenced_next (s := heard) (n := n)
        (x := ⟨w % 2 ^ 20, leAt b 4 2, w / 2 ^ 20 % 1024, frameFlits b, false⟩)
        (by simpa [heard] using hports) p (by rw [State.modRx_link]; exact hseq) (by rw [State.modRx_link]; exact hheld)
        (by rw [State.modRx_link]; exact hcur) hmap hepoch (by rw [State.modRx_arb]; exact hpeer)
      rw [execFrameReceive_lit hn hi hlen hlit]
      refine congrArg Host.Outcome.next (htake.trans ((if_pos ?_).trans hnext))
      rw [Bool.true_and, decide_eq_true hstate, decide_eq_true hlight, Bool.and_self]
  · change execJunctionSample b temp mw s = _
    rw [execJunctionSample, hb, onlyIf_true, thermal_quiet ht]
    · exact (State.modBlk_blk_keeps s b b (·.squall) (by exact fun _ => rfl)).trans hsquall
    · exact (State.modBlk_blk_keeps s b b (·.halted) (by exact fun _ => rfl)).trans hhalted

end

section
/-! PROOF. The tables of the module (05 R130, 07 R192, 10 R258, 12 R299): which changes of one unit leave the value of
`State.tablesWf`, and which keep it true. Few operations write a tile, a CVE or retire table or an update die's pending
amax and recorded scales; those that do set one key (`place_rising`), drop keys (`filter_rising`) or begin anew. -/

namespace Sys2Proof.Machine

/-! ## One unit changed -/

@[simp] theorem State.ite_tablesWf (c : Prop) [Decidable c] (s t : State) :
    (if c then s else t).tablesWf = if c then s.tablesWf else t.tablesWf := apply_ite ..

theorem State.tablesWf_ite {c : Prop} [Decidable c] {a b : State} (ha : a.tablesWf = true) (hb : b.tablesWf = true) :
    (if c then a else b).tablesWf = true := by rw [State.ite_tablesWf, ha, hb, ite_self]

/-- A matrix engine whose tiles are in canonical form. -/
def Mxe.tilesWf (m : Mxe) : Bool := m.tiles.all fun t => rising t.pairs

/-- A die whose tiles and CVE table are. -/
def Cd.tablesWf (c : Cd) : Bool := rising c.eng.cve.table && c.eng.mxe.all Mxe.tilesWf

/-- An update die whose pending amax and recorded scales are. -/
def Ud.tablesWf (d : Ud) : Bool := rising d.pendAmax && rising d.wcScale

theorem State.tablesWf_eq (s : State) : s.tablesWf =
    (s.cds.all Cd.tablesWf && s.hubs.all (fun h => rising h.chk.ret) && s.uds.all Ud.tablesWf) := (rfl)

theorem Cd.tablesWf_congr {a b : Cd} (ht : a.eng.cve.table = b.eng.cve.table)
    (hm : a.eng.mxe.map (·.tiles) = b.eng.mxe.map (·.tiles)) : a.tablesWf = b.tablesWf := by
  have h : ∀ c : Cd, c.eng.mxe.all Mxe.tilesWf = (c.eng.mxe.map (·.tiles)).all (·.all fun t => rising t.pairs) := fun c => by
    simp only [List.all_map]; rfl
  simp only [Cd.tablesWf, ht, h, hm]

@[simp] theorem State.modCd_tablesWf (s : State) (d : Nat) {f : Cd → Cd} (ht : ∀ c, (f c).eng.cve.table = c.eng.cve.table)
    (hm : ∀ c, (f c).eng.mxe.map (·.tiles) = c.eng.mxe.map (·.tiles)) : (s.modCd d f).tablesWf = s.tablesWf := by
  have hf : ∀ c, (f c).tablesWf = c.tablesWf := fun c => Cd.tablesWf_congr (ht c) (hm c)
  simp [State.tablesWf_eq, hf]

@[simp] theorem State.modHub_tablesWf (s : State) (h : Nat) {f : Hub → Hub} (hf : ∀ b, (f b).chk.ret = b.chk.ret) :
    (s.modHub h f).tablesWf = s.tablesWf := by
  simp [State.tablesWf_eq, hf]

@[simp] theorem State.modUd_tablesWf (s : State) (u : Nat) {f : Ud → Ud} (ha : ∀ d, (f d).pendAmax = d.pendAmax)
    (hw : ∀ d, (f d).wcScale = d.wcScale) : (s.modUd u f).tablesWf = s.tablesWf := by
  have hf : ∀ d, (f d).tablesWf = d.tablesWf := fun d => by simp only [Ud.tablesWf, ha, hw]
  simp [State.tablesWf_eq, hf]

@[simp] theorem State.modPart_tablesWf (s : State) (p : Nat) (f : Part → Part) : (s.modPart p f).tablesWf = s.tablesWf := (rfl)
@[simp] theorem State.modBp_tablesWf (s : State) (b : Nat) (f : Baith → Baith) : (s.modBp b f).tablesWf = s.tablesWf := (rfl)
@[simp] theorem State.modLe_tablesWf (s : State) (m : Nat) (f : Le → Le) : (s.modLe m f).tablesWf = s.tablesWf := (rfl)
@[simp] theorem State.modPort_tablesWf (s : State) (n : Nat) (f : Port → Port) : (s.modPort n f).tablesWf = s.tablesWf := (rfl)
@[simp] theorem State.modCtrl_tablesWf (s : State) (f : Ctrl → Ctrl) : (s.modCtrl f).tablesWf = s.tablesWf := (rfl)
@[simp] theorem State.drawn_tablesWf (s : State) : s.drawn.tablesWf = s.tablesWf := (rfl)
@[simp] theorem State.modLoader_tablesWf (s : State) (t : WrTarget) (f : Loader → Loader) :
    (s.modLoader t f).tablesWf = s.tablesWf := by cases t <;> simp
@[simp] theorem State.modBlk_tablesWf (s : State) (b : BlockRef) (f : PwrBlock → PwrBlock) :
    (s.modBlk b f).tablesWf = s.tablesWf := by cases b <;> simp [State.modBlk]

/-! ## A table written -/

/-- A die whose tables stay in canonical form. -/
theorem tablesWf_modCd_of {s : State} (d : Nat) {f : Cd → Cd} (hf : ∀ c, c.tablesWf = true → (f c).tablesWf = true)
    (h : s.tablesWf = true) : (s.modCd d f).tablesWf = true := by
  simp only [State.tablesWf_eq, Bool.and_eq_true] at h ⊢
  obtain ⟨⟨hc, hh⟩, hu⟩ := h
  exact ⟨⟨modAt_all _ _ _ _ hf hc, hh⟩, hu⟩

/-- An engine whose tiles stay in canonical form. -/
theorem tablesWf_modMxe {s : State} (d e : Nat) {f : Mxe → Mxe} (hf : ∀ m, m.tilesWf = true → (f m).tilesWf = true)
    (h : s.tablesWf = true) : (s.modMxe d e f).tablesWf = true :=
  tablesWf_modCd_of d (fun c hc => by
    simp only [Cd.tablesWf, Bool.and_eq_true] at hc ⊢
    exact ⟨hc.1, modAt_all _ _ _ _ hf hc.2⟩) h

/-- A CVE table that stays in canonical form. -/
theorem tablesWf_modCve {s : State} (d : Nat) {f : Cve → Cve}
    (hf : ∀ c, rising c.table = true → rising (f c).table = true) (h : s.tablesWf = true) :
    (s.modCve d f).tablesWf = true :=
  tablesWf_modCd_of d (fun c hc => by
    simp only [Cd.tablesWf, Bool.and_eq_true] at hc ⊢
    exact ⟨hf _ hc.1, hc.2⟩) h

/-- An update die whose tables stay in canonical form. -/
theorem tablesWf_modUd {s : State} (u : Nat) {f : Ud → Ud} (hf : ∀ d, d.tablesWf = true → (f d).tablesWf = true)
    (h : s.tablesWf = true) : (s.modUd u f).tablesWf = true := by
  simp only [State.tablesWf_eq, Bool.and_eq_true] at h ⊢
  obtain ⟨hc, hu⟩ := h
  exact ⟨hc, modAt_all _ _ _ _ hf hu⟩

/-! ## A result that holds a state -/

/-- What every step of a fold leaves, the fold leaves. -/
theorem foldl_keeps {α β γ : Type} (v : β → γ) (l : List α) {f : β → α → β} (hf : ∀ r a, v (f r a) = v r) (r : β) :
    v (l.foldl f r) = v r := by
  induction l generalizing r with
  | nil => rfl
  | cons a l ih => rw [List.foldl_cons, ih, hf]

@[simp] theorem foldl_tablesWf {α : Type} (l : List α) {f : State → α → State} (hf : ∀ t a, (f t a).tablesWf = t.tablesWf)
    (s : State) : (l.foldl f s).tablesWf = s.tablesWf := foldl_keeps State.tablesWf l hf s

@[simp] theorem foldl_fst_tablesWf {α β : Type} (l : List α) {f : State × β → α → State × β}
    (hf : ∀ r a, (f r a).1.tablesWf = r.1.tablesWf) (r : State × β) : (l.foldl f r).1.tablesWf = r.1.tablesWf :=
  foldl_keeps (fun r : State × β => r.1.tablesWf) l hf r

@[simp] theorem foldl_span_tablesWf {α : Type} (l : List α) {f : SpanRes → α → SpanRes}
    (hf : ∀ r a, (f r a).state.tablesWf = r.state.tablesWf) (r : SpanRes) :
    (l.foldl f r).state.tablesWf = r.state.tablesWf := foldl_keeps (fun r : SpanRes => r.state.tablesWf) l hf r

@[simp] theorem foldl_fst_span_tablesWf {α β : Type} (l : List α) {f : SpanRes × β → α → SpanRes × β}
    (hf : ∀ r a, (f r a).1.state.tablesWf = r.1.state.tablesWf) (r : SpanRes × β) :
    (l.foldl f r).1.state.tablesWf = r.1.state.tablesWf :=
  foldl_keeps (fun r : SpanRes × β => r.1.state.tablesWf) l hf r

@[simp] theorem foldl_dma_tablesWf {α : Type} (l : List α) {f : DmaRes → α → DmaRes}
    (hf : ∀ r a, (f r a).state.tablesWf = r.state.tablesWf) (r : DmaRes) :
    (l.foldl f r).state.tablesWf = r.state.tablesWf := foldl_keeps (fun r : DmaRes => r.state.tablesWf) l hf r

@[simp] theorem forAll_tablesWf {α : Type} (l : List α) {f : α → State → State}
    (hf : ∀ a t, (f a t).tablesWf = t.tablesWf) (s : State) : (forAll l f s).tablesWf = s.tablesWf :=
  forAll_keeps State.tablesWf l hf s

@[simp] theorem forRange_tablesWf (n : Nat) {f : Nat → State → State} (hf : ∀ i t, (f i t).tablesWf = t.tablesWf)
    (s : State) : (forRange n f s).tablesWf = s.tablesWf := forAll_keeps State.tablesWf _ hf s

theorem tablesWf_forAll {α : Type} (l : List α) {f : α → State → State}
    (hf : ∀ a t, t.tablesWf = true → (f a t).tablesWf = true) {s : State} (h : s.tablesWf = true) :
    (forAll l f s).tablesWf = true := forAll_holds (fun t => t.tablesWf = true) l (fun a _ => hf a) h

theorem tablesWf_forRange (n : Nat) {f : Nat → State → State}
    (hf : ∀ i t, t.tablesWf = true → (f i t).tablesWf = true) {s : State} (h : s.tablesWf = true) :
    (forRange n f s).tablesWf = true := tablesWf_forAll _ hf h

end Sys2Proof.Machine
end

section

/-! PROOF. What each operation of the model does to `State.tablesWf`, in the model's order. `X_tablesWf` says that `X` leaves
its value: `X` is made of changes of single units that write no table, and of operations before it. `tablesWf_X` says of
an `X` that writes a table, or makes a unit anew, that tables in canonical form stay so. -/

namespace Sys2Proof.Machine

/-! ## Logs and telemetry (20) -/

@[simp] theorem logEvent_tablesWf (kind site part : Nat) (payload : List Byte) (s : State) :
    (logEvent kind site part payload s).tablesWf = s.tablesWf := by simp [logEvent]
@[simp] theorem errorOnly_tablesWf (site part : Nat) (names : List Nat) (s : State) :
    (errorOnly site part names s).tablesWf = s.tablesWf := by simp [errorOnly]
@[simp] theorem telem_tablesWf (p : Nat) (t : Telem) (s : State) : (telem p t s).tablesWf = s.tablesWf := by simp [telem]

@[simp] theorem telemTo_tablesWf (p : Option Nat) (t : Telem) (s : State) : (telemTo p t s).tablesWf = s.tablesWf := by
  unfold telemTo
  split <;> simp

@[simp] theorem raiseAlert_tablesWf (i : Nat) (s : State) : (raiseAlert i s).tablesWf = s.tablesWf := by simp [raiseAlert]
@[simp] theorem sendFault_tablesWf (site : Nat) (p : Option Nat) (f : FaultRec) (s : State) :
    (sendFault site p f s).tablesWf = s.tablesWf := by simp [sendFault]

/-! ## Lines and their checks (12) -/

@[simp] theorem hubFault_tablesWf (h : Nat) (f : RawFault) (s : State) : (hubFault h f s).tablesWf = s.tablesWf := by
  simp [hubFault]

/-! ## A hub's lines (11, 12) -/

@[simp] theorem Hub.flush_chk (h : Hub) (c : CacheLine) : (h.flush c).hub.chk = h.chk := by
  simp only [Hub.flush]
  split <;> rfl

@[simp] theorem Hub.makeRoom_chk (h : Hub) (l : Nat) : (h.makeRoom l).1.hub.chk = h.chk := by
  simp only [Hub.makeRoom]
  split
  · rfl
  · split
    · rfl
    · split
      · exact Hub.flush_chk ..
      · rfl

@[simp] theorem Hub.fillLine_chk (h : Hub) (l : Nat) (d : List Byte) (c : Half) (b : Bool) :
    (h.fillLine l d c b).hub.chk = h.chk := Hub.makeRoom_chk h l

@[simp] theorem Hub.readStack_chk (h : Hub) (l src salt : Nat) : (h.readStack l src salt).hub.chk = h.chk := by
  simp only [Hub.readStack]
  split <;> rfl

@[simp] theorem Hub.read_chk (h : Hub) (alloc : Bool) (l src salt : Nat) : (h.read alloc l src salt).hub.chk = h.chk := by
  simp only [Hub.read]
  split
  · split
    · rfl
    · split
      · split <;> rfl
      · split <;> rfl
  · split
    · exact (Hub.fillLine_chk ..).trans (Hub.readStack_chk ..)
    · exact Hub.readStack_chk ..

@[simp] theorem Hub.write_chk (h : Hub) (wb : Bool) (l : Nat) (d : List Byte) : (h.write wb l d).hub.chk = h.chk := by
  simp only [Hub.write]
  split
  · rfl
  · split
    · split <;> rfl
    · split
      · exact Hub.fillLine_chk ..
      · rfl

@[simp] theorem Hub.cleanAll_chk (h : Hub) : h.cleanAll.hub.chk = h.chk := by
  refine foldl_keeps (fun r : HubRes => r.hub.chk) _ (fun r c => ?_) _
  split
  · exact Hub.flush_chk ..
  · rfl

@[simp] theorem Hub.dropWays_chk (h : Hub) (w : Nat) : (h.dropWays w).hub.chk = h.chk := by
  refine foldl_keeps (fun r : HubRes => r.hub.chk) _ (fun r c => ?_) _
  split
  · exact Hub.flush_chk ..
  · rfl

/-- A hub's result that leaves its line checks leaves the tables. -/
@[simp] theorem State.setHub_tablesWf (s : State) (h : Nat) {r : HubRes} (hr : r.hub.chk = (s.hub h).chk) :
    (s.setHub h r).tablesWf = s.tablesWf := by
  have hset : (s.modHub h fun _ => r.hub).tablesWf = s.tablesWf := by
    have hret := map_modAt s.hubs h (fun _ => r.hub) (·.chk.ret) fun b hb => by
      rw [hr, show s.hub h = b by simp [State.hub, hb]]
    have hall : ∀ l : List Hub, l.all (fun b => rising b.chk.ret) = (l.map (·.chk.ret)).all rising := fun l => by
      rw [List.all_map]; rfl
    simp [State.tablesWf_eq, hall, hret]
  simp [State.setHub, hset]

@[simp] theorem scratchFault_tablesWf (d kind src line : Nat) (stored computed : Half) (s : State) :
    (scratchFault d kind src line stored computed s).tablesWf = s.tablesWf := by simp [scratchFault]

@[simp] theorem readScratchLine_fst_tablesWf (d src line : Nat) (s : State) :
    (readScratchLine d src line s).1.tablesWf = s.tablesWf := by
  simp only [readScratchLine]
  split <;> simp

@[simp] theorem readScratch_state_tablesWf (d src a n : Nat) (s : State) :
    (readScratch d src a n s).state.tablesWf = s.tablesWf := by simp [readScratch]

@[simp] theorem writeScratchPiece_fst_tablesWf (d src : Nat) (p : Piece) (bs : List Byte) (s : State) :
    (writeScratchPiece d src p bs s).1.tablesWf = s.tablesWf := by
  simp only [writeScratchPiece]
  repeat' split
  all_goals simp

@[simp] theorem writeScratch_state_tablesWf (d src a : Nat) (bs : List Byte) (s : State) :
    (writeScratch d src a bs s).state.tablesWf = s.tablesWf := by simp [writeScratch]

@[simp] theorem readRegionLine_fst_tablesWf (p r o src : Nat) (path : Path) (s : State) :
    (readRegionLine p r o src path s).1.tablesWf = s.tablesWf := by
  unfold readRegionLine
  repeat' split
  all_goals simp

@[simp] theorem readRegion_state_tablesWf (p r o n src : Nat) (path : Path) (s : State) :
    (readRegion p r o n src path s).state.tablesWf = s.tablesWf := by simp [readRegion]

@[simp] theorem writeRegionPiece_fst_tablesWf (p r src : Nat) (path : Path) (q : Piece) (bs : List Byte) (s : State) :
    (writeRegionPiece p r src path q bs s).1.tablesWf = s.tablesWf := by
  simp only [writeRegionPiece]
  repeat' split
  all_goals simp

@[simp] theorem writeRegion_state_tablesWf (p r o src : Nat) (path : Path) (bs : List Byte) (s : State) :
    (writeRegion p r o src path bs s).state.tablesWf = s.tablesWf := by simp [writeRegion]

@[simp] theorem applyUpset_tablesWf (u : Upset) (s : State) : (applyUpset u s).tablesWf = s.tablesWf := by
  unfold applyUpset
  split <;> simp

/-! ## Reductions at a hub (08) -/

@[simp] theorem completeGranule_tablesWf (h : Nat) (g : Granule) (s : State) :
    (completeGranule h g s).tablesWf = s.tablesWf := by simp [completeGranule]
@[simp] theorem excessArrival_tablesWf (h : Nat) (a : Arrival) (s : State) : (excessArrival h a s).tablesWf = s.tablesWf := by
  simp [excessArrival]

@[simp] theorem landArrival_tablesWf (h : Nat) (a : Arrival) (s : State) : (landArrival h a s).tablesWf = s.tablesWf := by
  unfold landArrival
  split <;> simp

@[simp] theorem takeArrival_tablesWf (h : Nat) (a : Arrival) (s : State) : (takeArrival h a s).tablesWf = s.tablesWf := by
  unfold takeArrival
  split <;> simp

@[simp] theorem discardGranule_tablesWf (h : Nat) (g : Granule) (s : State) :
    (discardGranule h g s).tablesWf = s.tablesWf := by simp [discardGranule]

/-! ## Blocks and rail segments (16) -/

@[simp] theorem State.modSeg_tablesWf (s : State) (d g : Nat) (f : Segment → Segment) :
    (s.modSeg d g f).tablesWf = s.tablesWf := by simp [State.modSeg]

@[simp] theorem clearShares_tablesWf (s : State) : (clearShares s).tablesWf = s.tablesWf := by
  have hc : ∀ c : Cd, Cd.tablesWf { c with pwr := { c.pwr with
      blocks := c.pwr.blocks.map fun e => (e.1, { e.2 with share := 0 }) } } = c.tablesWf := fun c => (rfl)
  have hu : ∀ d : Ud, Ud.tablesWf { d with pwr := { d.pwr with share := 0 } } = d.tablesWf := fun d => (rfl)
  simp [clearShares, State.tablesWf_eq, Function.comp_def, hc, hu]

@[simp] theorem setShares_tablesWf (p : Nat) (s : State) : (setShares p s).tablesWf = s.tablesWf := by simp [setShares]
@[simp] theorem requestWake_tablesWf (b : BlockRef) (cls : Nat) (s : State) : (requestWake b cls s).tablesWf = s.tablesWf := by
  simp [requestWake]
@[simp] theorem clearSlice_tablesWf (d j : Nat) (s : State) : (clearSlice d j s).tablesWf = s.tablesWf := by simp [clearSlice]

@[simp] theorem writeSquall_tablesWf (home : Option Nat) (win : Nat) (hosts : List Nat) (q : SquallRec) (s : State) :
    (writeSquall home win hosts q s).tablesWf = s.tablesWf := by
  unfold writeSquall
  split <;> simp

@[simp] theorem touchSquall_tablesWf (b : BlockRef) (kind : Nat) (s : State) :
    (touchSquall b kind s).tablesWf = s.tablesWf := by simp [touchSquall]

@[simp] theorem endSquall_tablesWf (b : BlockRef) (s : State) : (endSquall b s).tablesWf = s.tablesWf := by
  unfold endSquall
  split <;> simp

@[simp] theorem thermal_tablesWf (b : BlockRef) (temp : Int) (s : State) : (thermal b temp s).tablesWf = s.tablesWf := by
  simp [thermal]
@[simp] theorem touchSegSquall_tablesWf (d g kind amps : Nat) (s : State) :
    (touchSegSquall d g kind amps s).tablesWf = s.tablesWf := by simp [touchSegSquall]

@[simp] theorem endSegSquall_tablesWf (d g : Nat) (s : State) : (endSegSquall d g s).tablesWf = s.tablesWf := by
  unfold endSegSquall
  split <;> simp

@[simp] theorem publishHead_tablesWf (b : BlockRef) (s : State) : (publishHead b s).tablesWf = s.tablesWf := by
  simp [publishHead]
@[simp] theorem publishHeads_tablesWf (p : Nat) (s : State) : (publishHeads p s).tablesWf = s.tablesWf := by
  simp [publishHeads]

/-! ## Records in flight (03) -/

@[simp] theorem State.modRec_tablesWf (s : State) (r : RecRef) (f : RecState → RecState) :
    (s.modRec r f).tablesWf = s.tablesWf := by simp [State.modRec]
@[simp] theorem State.withImage_tablesWf (s : State) (p : Nat) (i : Option JobImage) :
    (s.withImage p i).tablesWf = s.tablesWf := by simp [State.withImage]

theorem tablesWf_underImage (r : RecRef) (x : RecState) {f : State → State}
    (hf : ∀ t, t.tablesWf = true → (f t).tablesWf = true) {s : State} (h : s.tablesWf = true) :
    (underImage r x f s).tablesWf = true := by
  unfold underImage
  split
  · exact hf s h
  · rw [State.withImage_tablesWf]
    exact hf _ (by rwa [State.withImage_tablesWf])

@[simp] theorem underImage_tablesWf (r : RecRef) (x : RecState) {f : State → State}
    (hf : ∀ t, (f t).tablesWf = t.tablesWf) (s : State) : (underImage r x f s).tablesWf = s.tablesWf := by
  unfold underImage
  split <;> simp [hf]

@[simp] theorem counted_tablesWf {f : RecState → State → State} (hf : ∀ y t, (f y t).tablesWf = t.tablesWf) (x : RecState)
    (s : State) : (counted f x s).tablesWf = s.tablesWf := by simp [counted, hf]

@[simp] theorem noteBad_tablesWf (r : RecRef) (bad : Option Nat) (s : State) : (noteBad r bad s).tablesWf = s.tablesWf := by
  unfold noteBad
  split <;> simp

@[simp] theorem noteBadScratch_tablesWf (r : RecRef) (bad : Option Nat) (s : State) :
    (noteBadScratch r bad s).tablesWf = s.tablesWf := by simp [noteBadScratch]
@[simp] theorem State.setSreg_tablesWf (s : State) (d i : Nat) (v : DWord) : (s.setSreg d i v).tablesWf = s.tablesWf := by
  simp [State.setSreg]
@[simp] theorem signal_tablesWf (d step e : Nat) (s : State) : (signal d step e s).tablesWf = s.tablesWf := by simp [signal]
@[simp] theorem pickChoices_tablesWf (n d : Nat) (s : State) : (pickChoices n d s).tablesWf = s.tablesWf := by
  simp [pickChoices]

/-! ## Messages between collective engines (15) -/

@[simp] theorem countLost_tablesWf (p step : Nat) (s : State) : (countLost p step s).tablesWf = s.tablesWf := by
  simp [countLost]
@[simp] theorem markLost_tablesWf (p : Nat) (r : RecRef) (s : State) : (markLost p r s).tablesWf = s.tablesWf := by
  simp [markLost]
@[simp] theorem sendMessage_tablesWf (p : Nat) (m : OutMsg) (s : State) : (sendMessage p m s).tablesWf = s.tablesWf := by
  simp [sendMessage]
@[simp] theorem sendMesh_tablesWf (p : Nat) (m : MeshMsg) (s : State) : (sendMesh p m s).tablesWf = s.tablesWf := by
  simp [sendMesh]
@[simp] theorem countOut_tablesWf (d n : Nat) (s : State) : (countOut d n s).tablesWf = s.tablesWf := by simp [countOut]

@[simp] theorem writeInbound_state_tablesWf (p d region offset : Nat) (data : List Byte) (skip : List Nat) (s : State) :
    (writeInbound p d region offset data skip s).state.tablesWf = s.tablesWf := by
  unfold writeInbound
  split <;> simp

@[simp] theorem rejectInbound_tablesWf (d : Nat) (s : State) : (rejectInbound d s).tablesWf = s.tablesWf := by
  simp [rejectInbound]
@[simp] theorem countPut_tablesWf (d channel step n : Nat) (s : State) :
    (countPut d channel step n s).tablesWf = s.tablesWf := by simp [countPut]

@[simp] theorem sendShard_tablesWf (p : Nat) (g : RingProgress) (m : Nat × Nat) (offset : Nat) (empty : Bool)
    (s : State) : (sendShard p g m offset empty s).tablesWf = s.tablesWf := by
  unfold sendShard
  split <;> simp

@[simp] theorem State.modRingag_tablesWf (s : State) (p : Nat) (r : RecRef) (f : RingProgress → RingProgress) :
    (s.modRingag p r f).tablesWf = s.tablesWf := by simp [State.modRingag]
@[simp] theorem noteBroken_tablesWf (p ring : Nat) (s : State) : (noteBroken p ring s).tablesWf = s.tablesWf := by
  simp [noteBroken]
@[simp] theorem breakRing_tablesWf (p : Nat) (g : RingProgress) (s : State) : (breakRing p g s).tablesWf = s.tablesWf := by
  simp [breakRing]

@[simp] theorem sendOn_tablesWf (p : Nat) (g : RingProgress) (pos : Nat) (empty fwd : Bool) (s : State) :
    (sendOn p g pos empty fwd s).tablesWf = s.tablesWf := by
  unfold sendOn
  split <;> simp

@[simp] theorem closeRing_tablesWf (p : Nat) (r : RecRef) (s : State) : (closeRing p r s).tablesWf = s.tablesWf := by
  unfold closeRing
  split <;> simp

@[simp] theorem passShard_tablesWf (p : Nat) (g : RingProgress) (pos : Nat) (empty : Bool) (s : State) :
    (passShard p g pos empty s).tablesWf = s.tablesWf := by simp [passShard]
@[simp] theorem takeShard_tablesWf (p : Nat) (g : RingProgress) (pos : Nat) (empty : Bool) (s : State) :
    (takeShard p g pos empty s).tablesWf = s.tablesWf := by simp [takeShard]

@[simp] theorem shardArrived_tablesWf (p d step ring region offset : Nat) (empty : Bool) (s : State) :
    (shardArrived p d step ring region offset empty s).tablesWf = s.tablesWf := by
  unfold shardArrived
  repeat' split
  all_goals simp

@[simp] theorem takeEarly_tablesWf (p : Nat) (r : RecRef) (s : State) : (takeEarly p r s).tablesWf = s.tablesWf := by
  unfold takeEarly
  split <;> simp

@[simp] theorem sendElement_fst_tablesWf (a : Arrival) (s : State) : (sendElement a s).1.tablesWf = s.tablesWf := by
  simp only [sendElement]
  repeat' split
  all_goals simp

@[simp] theorem sendElements_fst_tablesWf (a : Arrival) (first : Nat) (data : List Byte) (s : State) :
    (sendElements a first data s).1.tablesWf = s.tablesWf := by simp [sendElements]

/-! ## Lanes, rings and sites (13, 14, 15) -/

@[simp] theorem holdover_tablesWf (p : Nat) (s : State) : (holdover p s).tablesWf = s.tablesWf := by simp [holdover]

@[simp] theorem holdoverOn_tablesWf (n : Nat) (s : State) : (holdoverOn n s).tablesWf = s.tablesWf := by
  unfold holdoverOn
  split <;> simp

@[simp] theorem reacquireOn_tablesWf (n : Nat) (s : State) : (reacquireOn n s).tablesWf = s.tablesWf := by
  unfold reacquireOn
  split <;> simp

@[simp] theorem miswiredOut_tablesWf (p m : Nat) (s : State) : (miswiredOut p m s).tablesWf = s.tablesWf := by
  simp [miswiredOut]
@[simp] theorem peerAlert_tablesWf (p n old new : Nat) (s : State) : (peerAlert p n old new s).tablesWf = s.tablesWf := by
  simp [peerAlert]

@[simp] theorem decidePeer_tablesWf (n : Nat) (s : State) : (decidePeer n s).tablesWf = s.tablesWf := by
  unfold decidePeer
  split <;> simp

@[simp] theorem countWithdraw_tablesWf (n : Nat) (s : State) : (countWithdraw n s).tablesWf = s.tablesWf := by
  simp [countWithdraw]
@[simp] theorem txWithdraw_tablesWf (n l c : Nat) (s : State) : (txWithdraw n l c s).tablesWf = s.tablesWf := by
  simp [txWithdraw]
@[simp] theorem rxWithdraw_tablesWf (n l c : Nat) (held : Bool) (s : State) :
    (rxWithdraw n l c held s).tablesWf = s.tablesWf := by simp [rxWithdraw]
@[simp] theorem tryPortUp_tablesWf (n : Nat) (s : State) : (tryPortUp n s).tablesWf = s.tablesWf := by simp [tryPortUp]
@[simp] theorem admitTx_tablesWf (n : Nat) (s : State) : (admitTx n s).tablesWf = s.tablesWf := by simp [admitTx]
@[simp] theorem txClear_tablesWf (n l c : Nat) (s : State) : (txClear n l c s).tablesWf = s.tablesWf := by simp [txClear]
@[simp] theorem forgetShift_tablesWf (n : Nat) (s : State) : (forgetShift n s).tablesWf = s.tablesWf := by simp [forgetShift]

@[simp] theorem dropRequest_tablesWf (m : OutMsg) (s : State) : (dropRequest m s).tablesWf = s.tablesWf := by
  unfold dropRequest
  split <;> simp

@[simp] theorem unbindAll_tablesWf (n : Nat) (s : State) : (unbindAll n s).tablesWf = s.tablesWf := by
  unfold unbindAll
  split <;> simp

@[simp] theorem downPort_tablesWf (n cause : Nat) (s : State) : (downPort n cause s).tablesWf = s.tablesWf := by
  simp [downPort]
@[simp] theorem darkPort_tablesWf (n cause : Nat) (s : State) : (darkPort n cause s).tablesWf = s.tablesWf := by simp [darkPort]
@[simp] theorem engineAlert_tablesWf (m : Nat) (t : Telem) (s : State) : (engineAlert m t s).tablesWf = s.tablesWf := by
  simp [engineAlert]

/-! ## Operand arrays (03) -/

@[simp] theorem readRows_fst_tablesWf (d src addr stride rows n : Nat) (s : State) :
    (readRows d src addr stride rows n s).1.tablesWf = s.tablesWf := by simp [readRows]

@[simp] theorem readOperand_fst_tablesWf (d src addr stride : Nat) (trans : Bool) (fmt outer k scaleAddr : Nat)
    (entry : Option CtlWord) (s : State) :
    (readOperand d src addr stride trans fmt outer k scaleAddr entry s).1.tablesWf = s.tablesWf := by
  unfold readOperand
  repeat' split
  all_goals simp

/-! ## The collective engine (07) -/

@[simp] theorem readPlace_fst_tablesWf (r : RecRef) (c : CoePlace) (n : Nat) (s : State) :
    (readPlace r c n s).1.tablesWf = s.tablesWf := by
  unfold readPlace
  split <;> simp

@[simp] theorem putRun_tablesWf (r : RecRef) (x : RecState) (s : State) : (putRun r x s).tablesWf = s.tablesWf := by
  simp [putRun]
@[simp] theorem touchChan_tablesWf (r : RecRef) (x : RecState) (s : State) : (touchChan r x s).tablesWf = s.tablesWf := by
  simp [touchChan]
@[simp] theorem waitRun_tablesWf (r : RecRef) (x : RecState) (s : State) : (waitRun r x s).tablesWf = s.tablesWf := by
  simp [waitRun]
@[simp] theorem accumRun_tablesWf (r : RecRef) (x : RecState) (s : State) : (accumRun r x s).tablesWf = s.tablesWf := by
  simp [accumRun]

@[simp] theorem ringRun_tablesWf (r : RecRef) (x : RecState) (s : State) : (ringRun r x s).tablesWf = s.tablesWf := by
  simp only [ringRun]
  split <;> simp

/-! ## The matrix engines (05) -/

@[simp] theorem fennelSelect_tablesWf (r : RecRef) (e : Nat) (f : MmaOp) (k : Nat) (before after : Tile)
    (es : List (Nat × ElemRes)) (s : State) : (fennelSelect r e f k before after es s).tablesWf = s.tablesWf := by
  simp only [fennelSelect]
  repeat' split
  all_goals simp

theorem Mxe.tilesWf_modTile {m : Mxe} (h : m.tilesWf = true) (i : Nat) {f : Tile → Tile}
    (hf : ∀ t, rising t.pairs = true → rising (f t).pairs = true) : (m.modTile i f).tilesWf = true := modAt_all _ _ _ _ hf h
theorem Mxe.latch_tilesWf (m : Mxe) (r : RecRef) (tile : Nat) (scale : NvEvent → Nat) (evs : List NvEvent) :
    (m.latch r tile scale evs).tilesWf = m.tilesWf := by simp only [Mxe.tilesWf, Mxe.latch_tiles]

/-- Every tile of a module whose tables are in canonical form. -/
theorem State.tile_rising {s : State} (h : s.tablesWf = true) (d e i : Nat) : rising ((s.mxe d e).tile i).pairs = true := by
  rw [State.tablesWf_eq, Bool.and_eq_true, Bool.and_eq_true] at h
  have hcd : (s.cd d).tablesWf = true := by
    rw [State.cd, List.getD_eq_getElem?_getD]
    cases hc : s.cds[d]? with
    | none => rfl
    | some c => exact List.all_eq_true.1 h.1.1 c (List.mem_of_getElem? hc)
  have hmxe : (s.mxe d e).tilesWf = true := by
    rw [State.mxe, List.getD_eq_getElem?_getD]
    cases hm : (s.cd d).eng.mxe[e]? with
    | none => rfl
    | some m => exact List.all_eq_true.1 (Bool.and_eq_true_iff.1 hcd).2 m (List.mem_of_getElem? hm)
  rw [Mxe.tile, List.getD_eq_getElem?_getD]
  cases ht : (s.mxe d e).tiles[i]? with
  | none => rfl
  | some t => exact List.all_eq_true.1 hmxe t (List.mem_of_getElem? ht)

theorem Tile.clearPart_rising {t : Tile} (h : rising t.pairs = true) (m n : Nat) : rising (t.clearPart m n).pairs = true :=
  filter_rising _ _ h

theorem MmaOp.start_rising (f : MmaOp) (k : Nat) {t : Tile} (h : rising t.pairs = true) :
    rising (f.start k t).pairs = true := by
  unfold MmaOp.start
  split
  · exact Tile.clearPart_rising h _ _
  · exact h

/-- Entries placed one after another. -/
theorem foldl_place_rising {α β : Type} [DecidableEq β] (es : List α) (key : α → Nat) (d : β) (v : α → β)
    {acc : List (Nat × β)} (h : rising acc = true) :
    rising (es.foldl (fun acc e => place acc (key e) d (v e)) acc) = true := by
  induction es generalizing acc with
  | nil => exact h
  | cons e es ih => exact ih (place_rising _ _ _ _ h)

theorem mmaTile_pairs (f : MmaOp) (k : Nat) (t : Tile) (es : List (Nat × ElemRes)) :
    (mmaTile f k t es).pairs = es.foldl (fun acc e => place acc e.1 {} e.2.pair) t.pairs := by
  change (es.foldl (fun t e => t.set e.1 e.2.pair) t).pairs = _
  induction es generalizing t with
  | nil => rfl
  | cons e es ih => exact ih _

theorem mmaTile_rising (f : MmaOp) (k : Nat) {t : Tile} (h : rising t.pairs = true) (es : List (Nat × ElemRes)) :
    rising (mmaTile f k t es).pairs = true := by
  rw [mmaTile_pairs]
  exact foldl_place_rising es _ _ _ h

@[simp] theorem tablesWf_mmaRun (r : RecRef) (x : RecState) {s : State} (h : s.tablesWf = true) :
    (mmaRun r x s).tablesWf = true := by
  unfold mmaRun
  extract_lets f e k t0 s0 entry a b es t1 fl scale fl1 s1
  have ht : rising t0.pairs = true := f.start_rising _ (State.tile_rising h _ _ _)
  have h0 : s0.tablesWf = true := tablesWf_modMxe _ _ (fun m hm => m.tilesWf_modTile hm _ fun _ _ => ht) h
  have hb : b.1.tablesWf = true := by simp [b, a, h0]
  have h1 : s1.tablesWf = true := tablesWf_modMxe _ _ (fun m hm => by
    rw [Mxe.latch_tilesWf]
    exact m.tilesWf_modTile hm _ fun _ _ => mmaTile_rising f k ht es) hb
  exact State.tablesWf_ite h0 (by simp [h1])

@[simp] theorem tablesWf_astRun (r : RecRef) (x : RecState) {s : State} (h : s.tablesWf = true) :
    (astRun r x s).tablesWf = true := by
  unfold astRun
  extract_lets f e t el rows fl evs w whole s1
  have hw : w.state.tablesWf = true := by simp [w, h]
  have h1 : s1.tablesWf = true := tablesWf_modMxe _ _ (fun m hm => by
    have hl : Mxe.tilesWf (({ m with flags := Flags.or m.flags fl }).latch r f.tile (fun _ => 0) evs) = true := by
      rw [Mxe.latch_tilesWf]; exact hm
    dsimp only
    split
    · refine Mxe.tilesWf_modTile hl _ fun t ht => ?_
      split <;> exact Tile.clearPart_rising ht _ _
    · exact hl) hw
  simp [h1]

/-! ## The conversion engine (07) -/

@[simp] theorem fillRun_tablesWf (r : RecRef) (x : RecState) (s : State) : (fillRun r x s).tablesWf = s.tablesWf := by
  simp [fillRun]

@[simp] theorem cvtSource_fst_tablesWf (d : Nat) (f : CvtOp) (n : Nat) (s : State) :
    (cvtSource d f n s).1.tablesWf = s.tablesWf := by
  unfold cvtSource
  repeat' split
  all_goals simp

theorem CvtOp.clearTile_rising (f : CvtOp) (n : Nat) {t : Tile} (h : rising t.pairs = true) :
    rising (f.clearTile n t).pairs = true := by
  unfold CvtOp.clearTile
  dsimp only
  split <;> exact filter_rising _ _ h

theorem Cve.setEntry_rising {c : Cve} (h : rising c.table = true) (t : Nat) (e : CveEntry) :
    rising (c.setEntry t e).table = true := place_rising _ _ _ _ h

@[simp] theorem tablesWf_cvtRun (r : RecRef) (x : RecState) {s : State} (h : s.tablesWf = true) :
    (cvtRun r x s).tablesWf = true := by
  unfold cvtRun
  extract_lets f n entry sc src out y z s1 s2
  have hz : z.state.tablesWf = true := by simp [z, y, src, h]
  have h1 : s1.tablesWf = true := tablesWf_modCve _ (fun c hc => by
    dsimp only
    split
    · exact Cve.setEntry_rising (by exact hc) _ _
    · exact hc) hz
  have h2 : s2.tablesWf = true := State.tablesWf_ite
    (tablesWf_modMxe _ _ (fun m hm => m.tilesWf_modTile hm _ fun _ => f.clearTile_rising n) h1) h1
  simp [h2]

@[simp] theorem amxoutRun_tablesWf (r : RecRef) (x : RecState) (s : State) : (amxoutRun r x s).tablesWf = s.tablesWf := by
  simp [amxoutRun]

/-- Entries of a die's CVE table written one after another. -/
theorem tablesWf_setEntries {s : State} (h : s.tablesWf = true) (d n t0 : Nat) (f : Nat → Cve → CveEntry) :
    (forRange n (fun i u => u.modCve d fun c => c.setEntry (t0 + i) (f i c)) s).tablesWf = true :=
  tablesWf_forRange n (fun _ _ => tablesWf_modCve d fun _ hc => Cve.setEntry_rising hc _ _) h

@[simp] theorem tablesWf_amxpushRun (r : RecRef) (x : RecState) {s : State} (h : s.tablesWf = true) :
    (amxpushRun r x s).tablesWf = true := by
  unfold amxpushRun
  extract_lets t0 y bytes s1
  have h1 : s1.tablesWf = true := tablesWf_setEntries (s := y.state) (by simp [y, h]) _ _ _
    fun i c => (c.entry (t0 + i)).push (wordAt bytes (4 * i))
  simp [h1]

@[simp] theorem tablesWf_scselRun (r : RecRef) (x : RecState) {s : State} (h : s.tablesWf = true) :
    (scselRun r x s).tablesWf = true := tablesWf_setEntries h _ _ _ _
@[simp] theorem tstRun_tablesWf (r : RecRef) (x : RecState) (s : State) : (tstRun r x s).tablesWf = s.tablesWf := by
  simp [tstRun]

@[simp] theorem tablesWf_tldRun (r : RecRef) (x : RecState) {s : State} (h : s.tablesWf = true) :
    (tldRun r x s).tablesWf = true := by
  unfold tldRun
  extract_lets t0 y bytes s1
  have h1 : s1.tablesWf = true := tablesWf_setEntries (s := y.state) (by simp [y, h]) _ _ _
    fun i _ => CveEntry.ofBytes (slice bytes (128 * i) 128)
  simp [h1]

/-! ## The step control word (09) -/

@[simp] theorem State.modGather_tablesWf (s : State) (p step : Nat) (f : Gather → Gather) :
    (s.modGather p step f).tablesWf = s.tablesWf := by simp [State.modGather]
@[simp] theorem restartWord_tablesWf (p step : Nat) (s : State) : (restartWord p step s).tablesWf = s.tablesWf := by
  simp [restartWord]
@[simp] theorem contribution_fst_tablesWf (r : RecRef) (x : RecState) (s : State) :
    (contribution r x s).1.tablesWf = s.tablesWf := by simp [contribution]
@[simp] theorem passVerdict_tablesWf (us : List Nat) (step : Nat) (v : Verdict) (s : State) :
    (passVerdict us step v s).tablesWf = s.tablesWf := by simp [passVerdict]

@[simp] theorem endStepword_tablesWf (r : RecRef) (x : RecState) (v : Verdict) (block : List Byte) (amax : List Word)
    (next : Int) (fields : Nat) (s : State) : (endStepword r x v block amax next fields s).tablesWf = s.tablesWf := by
  simp [endStepword]

@[simp] theorem lostStepword_tablesWf (r : RecRef) (x : RecState) (s : State) :
    (lostStepword r x s).tablesWf = s.tablesWf := by simp [lostStepword]

@[simp] theorem lostWord_tablesWf (p step : Nat) (s : State) : (lostWord p step s).tablesWf = s.tablesWf := by
  refine forAll_tablesWf _ (fun e t => ?_) s
  dsimp only
  split
  · split <;> simp
  · rfl

@[simp] theorem sendWord_tablesWf (p : Nat) (g : Gather) (k : Nat) (skipped : List Nat) (w : StepWordVal) (s : State) :
    (sendWord p g k skipped w s).tablesWf = s.tablesWf := by simp [sendWord]

@[simp] theorem ringAdvance_tablesWf (p step : Nat) (s : State) : (ringAdvance p step s).tablesWf = s.tablesWf := by
  simp only [ringAdvance]
  repeat' split
  all_goals simp

@[simp] theorem wordArrived_tablesWf (p step : Nat) (data : List Byte) (s : State) :
    (wordArrived p step data s).tablesWf = s.tablesWf := by simp [wordArrived]

@[simp] theorem deliverDie_tablesWf (step : Nat) (w : StepWordVal) (d cmd : Nat) (s : State) :
    (deliverDie step w d cmd s).tablesWf = s.tablesWf := by
  simp only [deliverDie]
  split <;> simp

/-! ## The panel mesh (07) -/

@[simp] theorem shareArrived_tablesWf (p ud step : Nat) (sh : Share) (s : State) :
    (shareArrived p ud step sh s).tablesWf = s.tablesWf := by simp [shareArrived]
@[simp] theorem restartIdle_tablesWf (p : Nat) (f : RecRef → RecState → Bool) (s : State) :
    (restartIdle p f s).tablesWf = s.tablesWf := by simp [restartIdle]
@[simp] theorem inputCame_tablesWf (p d step : Nat) (f : RecState → Bool) (s : State) :
    (inputCame p d step f s).tablesWf = s.tablesWf := by simp [inputCame]

@[simp] theorem meshArrive_tablesWf (p : Nat) (m : MeshMsg) (s : State) : (meshArrive p m s).tablesWf = s.tablesWf := by
  unfold meshArrive
  repeat' split
  all_goals simp

@[simp] theorem dropMesh_tablesWf (p : Nat) (m : MeshMsg) (s : State) : (dropMesh p m s).tablesWf = s.tablesWf := by
  simp [dropMesh]

@[simp] theorem forwardRing_tablesWf (p kind step ring region offset : Nat) (src : Nat × Nat) (d : Nat) (close : Bool)
    (data : List Byte) (s : State) :
    (forwardRing p kind step ring region offset src d close data s).tablesWf = s.tablesWf := by
  simp only [forwardRing]
  repeat' split
  all_goals simp

/-! ## Update dies (10) -/

@[simp] theorem readOwn_state_tablesWf (p region o n src u : Nat) (s : State) :
    (readOwn p region o n src u s).state.tablesWf = s.tablesWf := by
  unfold readOwn
  split <;> simp

@[simp] theorem writeOwn_state_tablesWf (p region o src u : Nat) (bs : List Byte) (s : State) :
    (writeOwn p region o src u bs s).state.tablesWf = s.tablesWf := by
  unfold writeOwn
  split <;> simp

@[simp] theorem foldRun_tablesWf (r : RecRef) (x : RecState) (s : State) (t : Nat × UpdEntry × OwnedRun) :
    (foldRun r x s t).tablesWf = s.tablesWf := by simp [foldRun]
@[simp] theorem noteFrozen_tablesWf (r : RecRef) (x : RecState) (s : State) : (noteFrozen r x s).tablesWf = s.tablesWf := by
  simp [noteFrozen]
@[simp] theorem ufoldRun_tablesWf (r : RecRef) (x : RecState) (s : State) : (ufoldRun r x s).tablesWf = s.tablesWf := by
  simp [ufoldRun]

theorem Ud.takeAmax_tablesWf {d : Ud} (h : d.tablesWf = true) (t : Nat) (a : Word) : (d.takeAmax t a).tablesWf = true := by
  simp only [Ud.tablesWf, Bool.and_eq_true] at h ⊢
  exact ⟨place_rising _ _ _ _ h.1, h.2⟩

theorem Ud.recordScale_tablesWf {d : Ud} (h : d.tablesWf = true) (e : Nat) (wc : Int) :
    (d.recordScale e wc).tablesWf = true := by
  simp only [Ud.tablesWf, Bool.and_eq_true] at h ⊢
  exact ⟨h.1, place_rising _ _ _ _ h.2⟩

@[simp] theorem tablesWf_updateRun (r : RecRef) (x : RecState) (c : UpdCtx) {s : State} (t : Nat × UpdEntry × OwnedRun)
    (h : s.tablesWf = true) : (updateRun r x c s t).tablesWf = true := by
  unfold updateRun
  extract_lets p u e w src o n st ym y1 y2 yg bad gs words wr
  have hg : yg.state.tablesWf = true := by simp [yg, y2, y1, ym, h, apply_ite SpanRes.state]
  have hwr : ∀ region off bs acc, (wr region off bs acc).state.tablesWf = acc.state.tablesWf := fun _ _ _ _ => by simp [wr]
  refine State.tablesWf_ite (by simp [h]) ?_
  split
  · extract_lets out ths f8 bf z1 z2 z3 z4 z5 fl moments nf big s1
    have hz : z5.state.tablesWf = true := by simp [z5, z4, z3, z2, z1, hwr, hg, apply_ite SpanRes.state]
    have h1 : s1.tablesWf = true :=
      tablesWf_modUd u (fun d hd => (Ud.recordScale_tablesWf (Ud.takeAmax_tablesWf hd _ _) _ _ :)) hz
    simp [h1]
  · simp [hg]

@[simp] theorem tablesWf_applyUpdate (r : RecRef) (x : RecState) (v : Verdict) {s : State} (h : s.tablesWf = true) :
    (applyUpdate r x v s).tablesWf = true := by
  have hf : ∀ (l : List (Nat × UpdEntry × OwnedRun)) (c : UpdCtx) {t : State}, t.tablesWf = true →
      (l.foldl (updateRun r x c) t).tablesWf = true := fun l c _ ht =>
    tablesWf_forAll l (fun a t ht => tablesWf_updateRun r x c a ht) ht
  simp only [applyUpdate]
  split
  · exact h
  · simp [h, hf]

@[simp] theorem tablesWf_finishUpdate (r : RecRef) (x : RecState) (v : Verdict) {s : State} (h : s.tablesWf = true) :
    (finishUpdate r x v s).tablesWf = true := by simp [finishUpdate, h]

/-! ## A hub's own work on its stack (12) -/

@[simp] theorem checkStack_state_tablesWf (h line src kind : Nat) (s : State) :
    (checkStack h line src kind s).state.tablesWf = s.tablesWf := by
  refine State.setHub_tablesWf s h ?_
  dsimp only
  split
  · simp
  · cases ((s.hub h).readStack line src s.free).data <;> exact Hub.readStack_chk ..

@[simp] theorem checkLine_state_tablesWf (h line src kind : Nat) (s : State) :
    (checkLine h line src kind s).state.tablesWf = s.tablesWf := by
  simp only [checkLine]
  repeat' split
  all_goals simp [Hub.setCache]

@[simp] theorem scrubRun_tablesWf (r : RecRef) (x : RecState) (s : State) : (scrubRun r x s).tablesWf = s.tablesWf := by
  refine foldl_tablesWf _ (fun t i => ?_) s
  split
  · split <;> simp
  · rfl

@[simp] theorem startPass_tablesWf (h : Nat) (s : State) : (startPass h s).tablesWf = s.tablesWf := by
  simp [startPass, apply_ite LineCheck.ret]
@[simp] theorem stopPass_tablesWf (h : Nat) (s : State) : (stopPass h s).tablesWf = s.tablesWf := by simp [stopPass]
@[simp] theorem passLine_tablesWf (h line : Nat) (s : State) : (passLine h line s).tablesWf = s.tablesWf := by simp [passLine]
@[simp] theorem startWriteback_tablesWf (h : Nat) (s : State) : (startWriteback h s).tablesWf = s.tablesWf := by
  simp [startWriteback]

@[simp] theorem rebuildElem_fst_tablesWf (p h region el : Nat) (s : State) :
    (rebuildElem p h region el s).1.tablesWf = s.tablesWf := by
  simp only [rebuildElem]
  repeat' split
  all_goals simp

@[simp] theorem rebuildLine_fst_tablesWf (p h region o : Nat) (s : State) :
    (rebuildLine p h region o s).1.tablesWf = s.tablesWf := by
  unfold rebuildLine
  split
  · rfl
  · dsimp only
    split
    · rfl
    · refine foldl_fst_tablesWf _ (fun a k => ?_) _
      split <;> simp

@[simp] theorem breezeFault_tablesWf (h line kind : Nat) (r : LineCheckRes) (s : State) :
    (breezeFault h line kind r s).tablesWf = s.tablesWf := by simp [breezeFault]

@[simp] theorem breezeRepair_tablesWf (h line : Nat) (r : LineCheckRes) (s : State) :
    (breezeRepair h line r s).tablesWf = s.tablesWf := by
  unfold breezeRepair
  split
  · simp
  · split
    · simp
    · split
      · simp
      · next p _ _ region o _ _ =>
        have ht := rebuildLine_fst_tablesWf p h region o s
        split <;> next e => rw [e] at ht; simpa using ht

@[simp] theorem LineCheck.advance_ret (c : LineCheck) : c.advance.ret = c.ret := by
  unfold LineCheck.advance
  split <;> rfl

@[simp] theorem breezeLine_tablesWf (h : Nat) (s : State) : (breezeLine h s).tablesWf = s.tablesWf := by
  simp only [breezeLine]
  repeat' split
  all_goals simp

/-- An entry of a hub's retire table set. -/
theorem tablesWf_setRet {s : State} (k i : Nat) (e : RetEntry) (h : s.tablesWf = true) :
    (s.modHub k fun b => b.setRet (place b.chk.ret i {} e)).tablesWf = true :=
  tablesWf_modHub k (fun _ hb => place_rising _ _ _ _ hb) h

@[simp] theorem tablesWf_retireNow (k : Nat) {s : State} (h : s.tablesWf = true) : (retireNow k s).tablesWf = true := by
  unfold retireNow
  split
  · exact h
  · next i e _ =>
    have hr : ∀ {t : State}, t.tablesWf = true → _ := fun {t} => tablesWf_setRet (s := t) k i e
    simp [h, hr]

@[simp] theorem retireRefuse_tablesWf (h : Nat) (s : State) : (retireRefuse h s).tablesWf = s.tablesWf := by
  simp [retireRefuse]

@[simp] theorem tablesWf_writeRetire (k i : Nat) (v : Word) {s : State} (h : s.tablesWf = true) :
    (writeRetire k i v s).tablesWf = true := by
  have hr := tablesWf_setRet (s := retireNow k s) k i { q := field v 30 26, granule := field v 20 0 } (by simp [h])
  rw [writeRetire]
  refine State.tablesWf_ite hr (State.tablesWf_ite (by simp [h]) ?_)
  split
  · simp [h]
  · simp [hr]

/-! ## Fabric messages (15) -/

@[simp] theorem State.modMsg_tablesWf (s : State) (p id : Nat) (f : OutMsg → OutMsg) :
    (s.modMsg p id f).tablesWf = s.tablesWf := by simp [State.modMsg]
@[simp] theorem afterFlit_tablesWf (p n id : Nat) (last : Bool) (s : State) :
    (afterFlit p n id last s).tablesWf = s.tablesWf := by simp [afterFlit]

theorem holderFlit_tablesWf {p n : Nat} {s : State} {x : Sent} (h : holderFlit p n s = some x) :
    x.state.tablesWf = s.tablesWf := by
  simp only [holderFlit] at h
  split at h
  · cases h
  · split at h <;> cases h <;> simp

@[simp] theorem holderFlits_fst_tablesWf (p n k : Nat) (s : State) : (holderFlits p n k s).1.tablesWf = s.tablesWf := by
  induction k generalizing s with
  | zero => rfl
  | succ k ih =>
    unfold holderFlits
    split
    · rfl
    · next h => exact (ih _).trans (holderFlit_tablesWf h)

@[simp] theorem parkRest_tablesWf (p n : Nat) (m : OutMsg) (s : State) : (parkRest p n m s).tablesWf = s.tablesWf := by
  simp [parkRest]
@[simp] theorem loseRecord_tablesWf (p : Nat) (r : RecRef) (x : RecState) (s : State) :
    (loseRecord p r x s).tablesWf = s.tablesWf := by simp [loseRecord]
@[simp] theorem discardMsg_tablesWf (p : Nat) (waited : Bool) (m : InMsg) (s : State) :
    (discardMsg p waited m s).tablesWf = s.tablesWf := by simp [discardMsg]

@[simp] theorem completeMsg_tablesWf (p : Nat) (m : InMsg) (s : State) : (completeMsg p m s).tablesWf = s.tablesWf := by
  simp only [completeMsg]
  repeat' split
  all_goals simp

@[simp] theorem takeBytes_tablesWf (p : Nat) (h : Head) (off : Nat) (data : List Byte) (s : State) :
    (takeBytes p h off data s).tablesWf = s.tablesWf := by
  simp only [takeBytes]
  repeat' split
  all_goals simp

@[simp] theorem countStale_tablesWf (p : Nat) (s : State) : (countStale p s).tablesWf = s.tablesWf := by simp [countStale]
@[simp] theorem noCurrent_tablesWf (n : Nat) (s : State) : (noCurrent n s).tablesWf = s.tablesWf := by simp [noCurrent]

@[simp] theorem deliverHead_tablesWf (p n : Nat) (h : Head) (s : State) : (deliverHead p n h s).tablesWf = s.tablesWf := by
  simp only [deliverHead]
  repeat' split
  all_goals simp

@[simp] theorem deliverData_tablesWf (p n : Nat) (b : List Byte) (s : State) :
    (deliverData p n b s).tablesWf = s.tablesWf := by
  simp only [deliverData]
  repeat' split
  all_goals simp

@[simp] theorem deliverFlit_tablesWf (p n : Nat) (epochOk ctl : Bool) (b : List Byte) (s : State) :
    (deliverFlit p n epochOk ctl b s).tablesWf = s.tablesWf := by simp [deliverFlit]
@[simp] theorem deliverFrame_tablesWf (p n : Nat) (x : HeldFrame) (s : State) :
    (deliverFrame p n x s).tablesWf = s.tablesWf := by simp [deliverFrame]

@[simp] theorem deliverHeld_tablesWf (p n k : Nat) (s : State) : (deliverHeld p n k s).tablesWf = s.tablesWf := by
  induction k generalizing s with
  | zero => rfl
  | succ k ih =>
    unfold deliverHeld
    dsimp only
    split
    · rfl
    · split
      · split <;> simp
      · simp [ih]

@[simp] theorem tablesWf_endUpdateWait (r : RecRef) (x : RecState) {s : State} (h : s.tablesWf = true) :
    (endUpdateWait r x s).tablesWf = true := by
  refine State.tablesWf_ite (by simp [h]) (State.tablesWf_ite ?_ h)
  split
  · exact tablesWf_underImage r x (fun _ => tablesWf_finishUpdate r x _) h
  · exact h

@[simp] theorem dropMessages_tablesWf (p : Nat) (f : OutMsg → Bool) (s : State) :
    (dropMessages p f s).tablesWf = s.tablesWf := by simp [dropMessages]
@[simp] theorem loseTargets_tablesWf (site : Site) (s : State) : (loseTargets site s).tablesWf = s.tablesWf := by
  simp [loseTargets]
@[simp] theorem tablesWf_cutCd (d : Nat) {s : State} (h : s.tablesWf = true) : (cutCd d s).tablesWf = true :=
  tablesWf_modCd_of d (fun _ _ => rfl) (by simp [h])
@[simp] theorem cutUd_tablesWf (u : Nat) (s : State) : (cutUd u s).tablesWf = s.tablesWf := by simp [cutUd]

@[simp] theorem cutStack_tablesWf (h : Nat) (s : State) : (cutStack h s).tablesWf = s.tablesWf := by
  have hm : ∀ (r : RecRef) (t : State), ((t.partOfCd r.die).elim t fun p => markLost p r t).tablesWf = t.tablesWf :=
    fun r t => by cases t.partOfCd r.die <;> simp
  simp [cutStack, hm]

@[simp] theorem cutLe_tablesWf (m : Nat) (s : State) : (cutLe m s).tablesWf = s.tablesWf := by simp [cutLe]
@[simp] theorem tablesWf_cutOut (site : Site) (cause : Nat) {s : State} (h : s.tablesWf = true) :
    (cutOut site cause s).tablesWf = true := by cases site <;> simp [cutOut, h]
@[simp] theorem tablesWf_takePoll (a : PollAnswer) {s : State} (h : s.tablesWf = true) : (takePoll a s).tablesWf = true := by
  simp [takePoll, h]

/-! ## The transposer and the gather engine (07) -/

@[simp] theorem txpRun_tablesWf (r : RecRef) (x : RecState) (s : State) : (txpRun r x s).tablesWf = s.tablesWf := by
  simp [txpRun]

@[simp] theorem writeChunks_state_tablesWf (d src a : Nat) (cs : List Chunk) (s : State) :
    (writeChunks d src a cs s).state.tablesWf = s.tablesWf :=
  foldl_span_tablesWf cs (fun t c => by split <;> simp) { state := s }

@[simp] theorem loadRun_tablesWf (r : RecRef) (x : RecState) (s : State) : (loadRun r x s).tablesWf = s.tablesWf := by
  simp [loadRun]

@[simp] theorem storeRun_tablesWf (r : RecRef) (x : RecState) (s : State) : (storeRun r x s).tablesWf = s.tablesWf := by
  unfold storeRun
  extract_lets f p y s1
  have hy : y.1.state.tablesWf = s.tablesWf := by
    refine foldl_fst_span_tablesWf _ (fun a j => ?_) _
    refine (foldl_span_tablesWf _ (fun t c => ?_) _).trans (by simp)
    split <;> simp
  simp [s1, hy]

@[simp] theorem askLine_tablesWf (d h : Nat) (s : State) : (askLine d h s).tablesWf = s.tablesWf := by simp [askLine]

@[simp] theorem askNext_tablesWf (d : Nat) (s : State) : (askNext d s).tablesWf = s.tablesWf := by
  unfold askNext
  split <;> simp

@[simp] theorem readIndices_tablesWf (r : RecRef) (x : RecState) (s : State) : (readIndices r x s).tablesWf = s.tablesWf := by
  simp [readIndices]

@[simp] theorem gatherRow_fst_state_tablesWf (r : RecRef) (f : GatherOp) (p len : Nat) (z : SpanRes × Option Nat)
    (i : Nat × Option Nat) : (gatherRow r f p len z i).1.state.tablesWf = z.1.state.tablesWf := by
  unfold gatherRow
  split
  · rfl
  · dsimp only
    split
    · simp
    · refine (foldl_tablesWf _ (fun u k => ?_) _).trans (by simp)
      split <;> simp

@[simp] theorem gatherRun_tablesWf (r : RecRef) (x : RecState) (s : State) : (gatherRun r x s).tablesWf = s.tablesWf := by
  simp [gatherRun]

/-! ## The vector engine (06) -/

@[simp] theorem readSource_fst_tablesWf (d : Nat) (f : VxeOp) (o : VxeSrc) (n : Nat) (s : State) :
    (readSource d f o n s).1.tablesWf = s.tablesWf := by
  unfold readSource
  split <;> simp

@[simp] theorem vxeFinish_tablesWf (r : RecRef) (f : VxeOp) (count : Nat) (red : Bool) (out : List (Nat × Flags))
    (bad : Option Nat) (s : State) : (vxeFinish r f count red out bad s).tablesWf = s.tablesWf := by simp [vxeFinish]
@[simp] theorem vxeRun_tablesWf (r : RecRef) (x : RecState) (s : State) : (vxeRun r x s).tablesWf = s.tablesWf := by
  simp [vxeRun]
@[simp] theorem vredRun_tablesWf (r : RecRef) (x : RecState) (s : State) : (vredRun r x s).tablesWf = s.tablesWf := by
  simp [vredRun]

/-! ## A record's start and end (03) -/

@[simp] theorem startRecord_tablesWf (r : RecRef) (x : RecState) (s : State) : (startRecord r x s).tablesWf = s.tablesWf := by
  unfold startRecord
  dsimp only
  split
  · cases (s.modRec r fun _ => x.started r s).partOfCd r.die <;> simp
  · simp

@[simp] theorem wakeLull1_tablesWf (bs : List BlockRef) (s : State) : (wakeLull1 bs s).tablesWf = s.tablesWf := by
  simp [wakeLull1]
@[simp] theorem startOrWake_tablesWf (r : RecRef) (x : RecState) (upsets : List Upset) (s : State) :
    (startOrWake r x upsets s).tablesWf = s.tablesWf := by simp [startOrWake]
@[simp] theorem stopStarts_tablesWf (p : Nat) (s : State) : (stopStarts p s).tablesWf = s.tablesWf := by simp [stopStarts]

@[simp] theorem dropQueued_tablesWf (p : Nat) (s : State) : (dropQueued p s).tablesWf = s.tablesWf := by
  have hg : ∀ (g : SegmentImg) t, (forAll g.dies (fun e v => v.modSeq e.die fun q =>
    { q with free := q.free + e.records.length }) t).tablesWf = t.tablesWf := fun g t => by simp
  simp only [dropQueued, State.modStream_eq, State.modPart_tablesWf, forAll_tablesWf _ hg]

@[simp] theorem closeStream_tablesWf (p state : Nat) (s : State) : (closeStream p state s).tablesWf = s.tablesWf := by
  simp [closeStream]
@[simp] theorem abandonStep_tablesWf (p : Nat) (r : RecRef) (unit addr : Nat) (s : State) :
    (abandonStep p r unit addr s).tablesWf = s.tablesWf := by simp [abandonStep]
@[simp] theorem endIfDone_tablesWf (p : Nat) (s : State) : (endIfDone p s).tablesWf = s.tablesWf := by simp [endIfDone]
@[simp] theorem retireSteps_tablesWf (p d : Nat) (s : State) : (retireSteps p d s).tablesWf = s.tablesWf := by
  simp [retireSteps]
@[simp] theorem abortNow_tablesWf (p : Nat) (s : State) : (abortNow p s).tablesWf = s.tablesWf := by simp [abortNow]
@[simp] theorem streamControl_tablesWf (p : Nat) (v : Word) (s : State) : (streamControl p v s).tablesWf = s.tablesWf := by
  simp [streamControl]

@[simp] theorem countRecord_tablesWf (r : RecRef) (x : RecState) (s : State) : (countRecord r x s).tablesWf = s.tablesWf := by
  simp only [countRecord]
  repeat' split
  all_goals simp

@[simp] theorem postStatus_tablesWf (p : Nat) (u : StepRun) (r : RecRef) (x : RecState) (s : State) :
    (postStatus p u r x s).tablesWf = s.tablesWf := by simp [postStatus]
@[simp] theorem tidy_tablesWf (p : Nat) (r : RecRef) (x : RecState) (s : State) : (tidy p r x s).tablesWf = s.tablesWf := by
  simp [tidy]

@[simp] theorem choiceSignal_tablesWf (d : Nat) (u : StepRun) (cmd : Nat) (s : State) :
    (choiceSignal d u cmd s).tablesWf = s.tablesWf := by
  unfold choiceSignal
  split <;> simp

@[simp] theorem postSignals_tablesWf (r : RecRef) (x : RecState) (s : State) : (postSignals r x s).tablesWf = s.tablesWf := by
  simp only [postSignals]
  repeat' split
  all_goals simp

@[simp] theorem openReplay_tablesWf (r : RecRef) (a : Nat) (u : StepRun) (g : ReplayRange) (s : State) :
    (openReplay r a u g s).tablesWf = s.tablesWf := by simp [openReplay]

@[simp] theorem advanceReplay_tablesWf (p : Nat) (y : ReplayRun) (r : RecRef) (x : RecState) (s : State) :
    (advanceReplay p y r x s).tablesWf = s.tablesWf := by
  unfold advanceReplay
  split <;> simp

@[simp] theorem lineBadEnds_tablesWf (p : Nat) (r : RecRef) (x : RecState) (s : State) :
    (lineBadEnds p r x s).tablesWf = s.tablesWf := by
  simp only [lineBadEnds]
  split <;> simp

@[simp] theorem afterCompletion_tablesWf (p : Nat) (r : RecRef) (x : RecState) (s : State) :
    (afterCompletion p r x s).tablesWf = s.tablesWf := by
  unfold afterCompletion
  repeat' split
  all_goals simp

/-! ## Stream segments (03) -/

@[simp] theorem acceptSegment_tablesWf (bytes : List Byte) (s : State) : (acceptSegment bytes s).tablesWf = s.tablesWf := by
  simp [acceptSegment]
@[simp] theorem refuseSegment_tablesWf (p : Nat) (r : SegRefusal) (s : State) :
    (refuseSegment p r s).tablesWf = s.tablesWf := by simp [refuseSegment]

/-! ## Windrose images (02) -/

@[simp] theorem refuseImage_tablesWf (t : WrTarget) (r : ImgRefusal) (s : State) :
    (refuseImage t r s).tablesWf = s.tablesWf := by simp [refuseImage]
@[simp] theorem acceptImage_tablesWf (b : List Byte) (s : State) : (acceptImage b s).tablesWf = s.tablesWf := by
  simp [acceptImage]

@[simp] theorem withdrawImage_tablesWf (t : WrTarget) (s : State) : (withdrawImage t s).tablesWf = s.tablesWf := by
  unfold withdrawImage
  repeat' split
  all_goals simp

/-! ## Published sets (02) -/

@[simp] theorem publishArb_tablesWf (n : Nat) (s : State) : (publishArb n s).tablesWf = s.tablesWf := by simp [publishArb]
@[simp] theorem publishPwr_tablesWf (b : BlockRef) (s : State) : (publishPwr b s).tablesWf = s.tablesWf := by simp [publishPwr]
@[simp] theorem publishBrz_tablesWf (h : Nat) (s : State) : (publishBrz h s).tablesWf = s.tablesWf := by simp [publishBrz]
@[simp] theorem publishUd_tablesWf (u : Nat) (s : State) : (publishUd u s).tablesWf = s.tablesWf := by simp [publishUd]
@[simp] theorem publishTick_tablesWf (p : Nat) (s : State) : (publishTick p s).tablesWf = s.tablesWf := by simp [publishTick]

@[simp] theorem Cve.publishScale_table (c : Cve) (step : Nat) : (c.publishScale step).table = c.table := by
  simp only [Cve.publishScale]
  split
  · rfl
  · split <;> rfl

theorem Cve.owed_table (c : Cve) : c.owed.table = c.table :=
  foldl_keeps Cve.table c.adjusts (f := fun c a => c.adjustFor a.2) (fun _ _ => rfl) c
@[simp] theorem Cve.adjustNow_table (c : Cve) (step : Nat) (done : Nat → Bool) : (c.adjustNow step done).table = c.table :=
  Cve.owed_table { c with adjusts := c.adjusts.filter fun a => done a.1 }
@[simp] theorem publishStep_tablesWf (p step : Nat) (s : State) : (publishStep p step s).tablesWf = s.tablesWf := by
  simp [publishStep]

/-! ## The commit of an image (02) -/

@[simp] theorem cellArea_tablesWf (h : Nat) (on : Bool) (s : State) : (cellArea h on s).tablesWf = s.tablesWf := by
  simp [cellArea]

@[simp] theorem tablesWf_commitHub (i : JobImage) (n : Nat) (newMap : Bool) (k : Nat) {s : State} (h : s.tablesWf = true) :
    (commitHub i n newMap k s).tablesWf = true := by
  unfold commitHub
  extract_lets use cap m s1 s2 s3 s4 breeze
  have h4 : s4.tablesWf = true := by simp [s4, s3, s2, s1, h]
  refine tablesWf_modHub k (fun b hb => ?_) h4
  dsimp only
  split
  · exact hb
  · rfl

@[simp] theorem commitPwr_tablesWf (y : Policy) (lull : Bool) (b : BlockRef) (s : State) :
    (commitPwr y lull b s).tablesWf = s.tablesWf := by simp [commitPwr]
@[simp] theorem commitFennel_tablesWf (k d : Nat) (s : State) : (commitFennel k d s).tablesWf = s.tablesWf := by
  simp [commitFennel, Function.comp_def]

@[simp] theorem tablesWf_commitJob (p n : Nat) {s : State} (h : s.tablesWf = true) : (commitJob p n s).tablesWf = true := by
  have hc : ∀ (i : JobImage) (m : Nat) (newMap : Bool) (l : List Nat) {t : State}, t.tablesWf = true →
      (forAll l (fun k t => commitPwr i.policy false (.hub k) (commitHub i m newMap k t)) t).tablesWf = true :=
    fun i m newMap l _ ht => tablesWf_forAll l (fun k t ht => by simp [ht]) ht
  simp only [commitJob]
  split
  · exact h
  · simp [h, hc]

@[simp] theorem commitFrame_tablesWf (n : Nat) (s : State) : (commitFrame n s).tablesWf = s.tablesWf := by
  unfold commitFrame
  split <;> simp

/-! ## Lulls and wakes (16) -/

@[simp] theorem wakePoints_tablesWf (p : Nat) (s : State) : (wakePoints p s).tablesWf = s.tablesWf := by
  refine forAll_tablesWf _ (fun b t => ?_) s
  dsimp only
  split
  · split
    · split <;> simp
    · rfl
  · rfl

/-! ## Rings and lasers (14) -/

@[simp] theorem assignPort_tablesWf (n : Nat) (s : State) : (assignPort n s).tablesWf = s.tablesWf := by simp [assignPort]
@[simp] theorem identifyPort_tablesWf (n : Nat) (obs : SearchObs) (s : State) :
    (identifyPort n obs s).tablesWf = s.tablesWf := by simp [identifyPort]
@[simp] theorem parkRing_tablesWf (n k : Nat) (s : State) : (parkRing n k s).tablesWf = s.tablesWf := by simp [parkRing]
@[simp] theorem confirmRing_tablesWf (n k named : Nat) (s : State) : (confirmRing n k named s).tablesWf = s.tablesWf := by
  simp [confirmRing]
@[simp] theorem confirmPort_tablesWf (n : Nat) (obs : SearchObs) (s : State) :
    (confirmPort n obs s).tablesWf = s.tablesWf := by simp [confirmPort]
@[simp] theorem lightLasers_tablesWf (m : Nat) (s : State) : (lightLasers m s).tablesWf = s.tablesWf := by simp [lightLasers]
@[simp] theorem endSearch_tablesWf (m : Nat) (s : State) : (endSearch m s).tablesWf = s.tablesWf := by simp [endSearch]

@[simp] theorem searchPhase_tablesWf (m : Nat) (obs : SearchObs) (s : State) : (searchPhase m obs s).tablesWf = s.tablesWf := by
  unfold searchPhase
  split <;> simp

@[simp] theorem hopRing_tablesWf (n k : Nat) (up : Bool) (s : State) : (hopRing n k up s).tablesWf = s.tablesWf := by
  simp [hopRing]
@[simp] theorem adoptShift_tablesWf (n σ : Nat) (s : State) : (adoptShift n σ s).tablesWf = s.tablesWf := by simp [adoptShift]

@[simp] theorem takeForecast_tablesWf (d f : Nat) (s : State) : (takeForecast d f s).tablesWf = s.tablesWf := by
  unfold takeForecast
  repeat' split
  all_goals simp

@[simp] theorem feedForward_tablesWf (d : Nat) (s : State) : (feedForward d s).tablesWf = s.tablesWf := by
  unfold feedForward
  split <;> simp

@[simp] theorem withdrawLine_tablesWf (m line : Nat) (s : State) : (withdrawLine m line s).tablesWf = s.tablesWf := by
  simp [withdrawLine]
@[simp] theorem writeMap_tablesWf (m line old new : Nat) (s : State) : (writeMap m line old new s).tablesWf = s.tablesWf := by
  simp [writeMap]

@[simp] theorem queueSwap_tablesWf (m line : Nat) (s : State) : (queueSwap m line s).tablesWf = s.tablesWf := by
  unfold queueSwap
  split <;> simp

@[simp] theorem removeLine_tablesWf (m line j : Nat) (s : State) : (removeLine m line j s).tablesWf = s.tablesWf := by
  simp [removeLine]
@[simp] theorem wantSpare_tablesWf (m line j : Nat) (s : State) : (wantSpare m line j s).tablesWf = s.tablesWf := by
  simp [wantSpare]
@[simp] theorem warnLaser_tablesWf (m j bias : Nat) (s : State) : (warnLaser m j bias s).tablesWf = s.tablesWf := by
  simp [warnLaser]

/-! ## Published registers (02, 11) -/

@[simp] theorem State.modSet_tablesWf (s : State) (r : SetRef) (f : PubSet → PubSet) :
    (s.modSet r f).tablesWf = s.tablesWf := by
  unfold State.modSet
  split <;> simp

@[simp] theorem afterRead_tablesWf (win off : Nat) (s : State) : (afterRead win off s).tablesWf = s.tablesWf := by
  simp [afterRead]

/-! ## The passage of time (03) -/

@[simp] theorem countSeconds_tablesWf (n : Nat) (s : State) : (countSeconds n s).tablesWf = s.tablesWf := by
  simp [countSeconds]
@[simp] theorem advanceTo_tablesWf (t : Nat) (s : State) : (advanceTo t s).tablesWf = s.tablesWf := by simp [advanceTo]
@[simp] theorem idle_tablesWf (s : State) : (idle s).tablesWf = s.tablesWf := by simp [idle]

/-! ## The logbook (20) -/

@[simp] theorem takeSnapshot_tablesWf (s : State) : (takeSnapshot s).tablesWf = s.tablesWf := by simp [takeSnapshot]
@[simp] theorem snapCommand_tablesWf (v : Word) (s : State) : (snapCommand v s).tablesWf = s.tablesWf := by simp [snapCommand]

/-! ## Firmware (19) -/

@[simp] theorem raiseSecurity_tablesWf (s : State) : (raiseSecurity s).tablesWf = s.tablesWf := by
  unfold raiseSecurity
  split <;> simp

@[simp] theorem beginWrite_tablesWf (b : List Byte) (s : State) : (beginWrite b s).tablesWf = s.tablesWf := by
  simp [beginWrite]

/-! ## Nurok links (13) -/

@[simp] theorem rxLight_tablesWf (n l : Nat) (s : State) : (rxLight n l s).tablesWf = s.tablesWf := by simp [rxLight]
@[simp] theorem peerGone_tablesWf (n : Nat) (s : State) : (peerGone n s).tablesWf = s.tablesWf := by simp [peerGone]
@[simp] theorem forgiveLosses_tablesWf (n : Nat) (s : State) : (forgiveLosses n s).tablesWf = s.tablesWf := by
  simp [forgiveLosses]

@[simp] theorem noteDeparture_tablesWf (n : Nat) (flits : List (List Byte)) (s : State) :
    (noteDeparture n flits s).tablesWf = s.tablesWf := by
  unfold noteDeparture
  split <;> simp

@[simp] theorem takeControl_fst_tablesWf (n k : Nat) (s : State) : (takeControl n k s).1.tablesWf = s.tablesWf := by
  simp [takeControl]
@[simp] theorem emit_tablesWf (n l : Nat) (identity : Bool) (bytes : List Byte) (s : State) :
    (emit n l identity bytes s).tablesWf = s.tablesWf := by simp [emit]
@[simp] theorem resend_tablesWf (n l : Nat) (f : SentFrame) (s : State) : (resend n l f s).tablesWf = s.tablesWf := by
  simp [resend]
@[simp] theorem sendSequenced_tablesWf (p n l : Nat) (s : State) : (sendSequenced p n l s).tablesWf = s.tablesWf := by
  simp [sendSequenced]
@[simp] theorem sendLinkOnly_tablesWf (n l : Nat) (s : State) : (sendLinkOnly n l s).tablesWf = s.tablesWf := by
  simp [sendLinkOnly]
@[simp] theorem ackMessage_tablesWf (p : Nat) (m : Nat × Nat) (s : State) : (ackMessage p m s).tablesWf = s.tablesWf := by
  simp [ackMessage]

@[simp] theorem takeAck_tablesWf (n a : Nat) (s : State) : (takeAck n a s).tablesWf = s.tablesWf := by
  simp only [takeAck]
  repeat' split
  all_goals simp

@[simp] theorem takeRequest_tablesWf (n : Nat) (req : Byte) (s : State) : (takeRequest n req s).tablesWf = s.tablesWf := by
  simp [takeRequest]
@[simp] theorem takeMasks_tablesWf (n : Nat) (service request done : Byte) (s : State) :
    (takeMasks n service request done s).tablesWf = s.tablesWf := by simp [takeMasks]
@[simp] theorem takeLink_tablesWf (n : Nat) (b : List Byte) (s : State) : (takeLink n b s).tablesWf = s.tablesWf := by
  simp [takeLink]
@[simp] theorem takeMeasure_tablesWf (p : Nat) (θ : Int) (s : State) : (takeMeasure p θ s).tablesWf = s.tablesWf := by
  simp [takeMeasure]

@[simp] theorem takeTime_tablesWf (n : Nat) (b : List Byte) (s : State) : (takeTime n b s).tablesWf = s.tablesWf := by
  unfold takeTime
  split <;> simp

@[simp] theorem idBad_tablesWf (n l : Nat) (s : State) : (idBad n l s).tablesWf = s.tablesWf := by simp [idBad]
@[simp] theorem mislockedLane_tablesWf (n l wave : Nat) (s : State) : (mislockedLane n l wave s).tablesWf = s.tablesWf := by
  simp [mislockedLane]

@[simp] theorem readIdentity_fst_tablesWf (n l : Nat) (b : List Byte) (s : State) :
    (readIdentity n l b s).1.tablesWf = s.tablesWf := by
  simp only [readIdentity]
  repeat' split
  all_goals simp

@[simp] theorem countErrors_tablesWf (n l corrected uncorr : Nat) (s : State) :
    (countErrors n l corrected uncorr s).tablesWf = s.tablesWf := by simp [countErrors]
@[simp] theorem qualify_tablesWf (n l : Nat) (s : State) : (qualify n l s).tablesWf = s.tablesWf := by simp [qualify]
@[simp] theorem crcDrop_tablesWf (n : Nat) (s : State) : (crcDrop n s).tablesWf = s.tablesWf := by simp [crcDrop]
@[simp] theorem descrambled_tablesWf (n lane : Nat) (y : LineFrame) (s : State) :
    (descrambled n lane y s).tablesWf = s.tablesWf := by simp [descrambled]

@[simp] theorem takeIdentity_tablesWf (n lane : Nat) (y : LineFrame) (s : State) :
    (takeIdentity n lane y s).tablesWf = s.tablesWf := by
  simp only [takeIdentity]
  repeat' split
  all_goals simp

@[simp] theorem arriveFlit_tablesWf (n l : Nat) (ctl : Bool) (b : List Byte) (s : State) :
    (arriveFlit n l ctl b s).tablesWf = s.tablesWf := by
  simp only [arriveFlit]
  repeat' split
  all_goals simp

@[simp] theorem takeSequenced_tablesWf (p n : Nat) (x : HeldFrame) (s : State) :
    (takeSequenced p n x s).tablesWf = s.tablesWf := by simp [takeSequenced]

@[simp] theorem takeFrame_tablesWf (n lane : Nat) (y : LineFrame) (sequenced : Bool) (s : State) :
    (takeFrame n lane y sequenced s).tablesWf = s.tablesWf := by
  unfold takeFrame
  split <;> simp

@[simp] theorem hearFrame_tablesWf (n lane : Nat) (line : List Byte) (sequenced : Bool) (s : State) :
    (hearFrame n lane line sequenced s).tablesWf = s.tablesWf := by simp [hearFrame]
@[simp] theorem retrainPort_tablesWf (n : Nat) (s : State) : (retrainPort n s).tablesWf = s.tablesWf := by simp [retrainPort]
@[simp] theorem holdPort_tablesWf (n : Nat) (v : Word) (s : State) :
    (holdPort n v s).tablesWf = s.tablesWf := by simp [holdPort]
@[simp] theorem holdLanes_tablesWf (n : Nat) (v : Word) (s : State) : (holdLanes n v s).tablesWf = s.tablesWf := by
  simp [holdLanes]

/-! ## Start-up and resets (17, 18) -/

/-- Dies, hubs and update dies at their reset values. -/
theorem tablesWf_fresh {s t : State} (keep : Bool) (h : s.tablesWf = true) (hc : t.cds = s.cds.map Cd.fresh)
    (hh : t.hubs = s.hubs.map (Hub.fresh keep)) (hu : ∀ d ∈ t.uds, d = {}) : t.tablesWf = true := by
  simp only [State.tablesWf_eq, Bool.and_eq_true, List.all_eq_true] at h ⊢
  obtain ⟨⟨-, hret⟩, -⟩ := h
  refine ⟨⟨fun c hm => ?_, fun b hm => ?_⟩, fun d hm => by rw [hu d hm]; rfl⟩
  · rw [hc] at hm
    obtain ⟨c, -, rfl⟩ := List.mem_map.1 hm
    rfl
  · rw [hh] at hm
    obtain ⟨b, hb, rfl⟩ := List.mem_map.1 hm
    cases keep
    · rfl
    · exact hret b hb

@[simp] theorem tablesWf_resetUnits (keep : Bool) {s : State} (h : s.tablesWf = true) :
    (resetUnits keep s).tablesWf = true := by
  refine tablesWf_fresh keep h rfl rfl fun d hd => ?_
  obtain ⟨_, -, rfl⟩ := List.mem_map.1 hd
  rfl

@[simp] theorem tablesWf_beginReset (level cause : Nat) {s : State} (h : s.tablesWf = true) :
    (beginReset level cause s).tablesWf = true := by
  have hc : ∀ t : State, (forRange 32 (fun k t => if (t.hub k).mem.state = 2 then t.setHub k (t.hub k).cleanAll else t)
      t).tablesWf = t.tablesWf := fun t => by simp
  simp [beginReset, h, hc]

@[simp] theorem tablesWf_requestReset (level cause : Nat) {s : State} (h : s.tablesWf = true) :
    (requestReset level cause s).tablesWf = true := by simp [requestReset, h]
@[simp] theorem releaseReset_tablesWf (s : State) : (releaseReset s).tablesWf = s.tablesWf := by simp [releaseReset]
@[simp] theorem tablesWf_modReset (v : Nat) {s : State} (h : s.tablesWf = true) : (modReset v s).tablesWf = true := by
  simp [modReset, h]
@[simp] theorem tablesWf_unpowered (tripped : Bool) {s : State} (h : s.tablesWf = true) :
    (unpowered tripped s).tablesWf = true := tablesWf_fresh false h rfl rfl fun _ => List.eq_of_mem_replicate
@[simp] theorem beginVerify_tablesWf (s : State) : (beginVerify s).tablesWf = s.tablesWf := by simp [beginVerify]
@[simp] theorem tablesWf_enterRecovery (check : Nat) {s : State} (h : s.tablesWf = true) :
    (enterRecovery check s).tablesWf = true := by simp [enterRecovery, h]
@[simp] theorem keepBaith_tablesWf (old s : State) : (keepBaith old s).tablesWf = s.tablesWf := (rfl)

@[simp] theorem powerGroup_tablesWf (g : Nat) (s : State) : (powerGroup g s).tablesWf = s.tablesWf := by
  simp only [powerGroup]
  repeat' split
  all_goals simp

@[simp] theorem powerEngine_tablesWf (m : Nat) (s : State) : (powerEngine m s).tablesWf = s.tablesWf := by simp [powerEngine]
@[simp] theorem applyDefaultFrame_tablesWf (s : State) : (applyDefaultFrame s).tablesWf = s.tablesWf := by
  simp [applyDefaultFrame]
@[simp] theorem logFailed_tablesWf (site : Site) (s : State) : (logFailed site s).tablesWf = s.tablesWf := by simp [logFailed]
@[simp] theorem startProbing_tablesWf (s : State) : (startProbing s).tablesWf = s.tablesWf := by simp [startProbing]
@[simp] theorem resetPort_tablesWf (n : Nat) (s : State) : (resetPort n s).tablesWf = s.tablesWf := by simp [resetPort]

@[simp] theorem tablesWf_startPartReset (p : Nat) {s : State} (h : s.tablesWf = true) :
    (startPartReset p s).tablesWf = true := by
  unfold startPartReset
  extract_lets q e s1 s2 s3 s4 tick
  have h2 : s2.tablesWf = true := by simp [s2, s1, h, Hub.fresh]
  have h3 : s3.tablesWf = true := tablesWf_forAll _ (fun d _ => tablesWf_modCd_of d fun _ _ => rfl) h2
  have h4 : s4.tablesWf = true := tablesWf_forAll _ (fun u _ => tablesWf_modUd u fun _ _ => rfl) h3
  exact State.tablesWf_ite h h4

/-! ## Baith ports (17) -/

@[simp] theorem postBlock_tablesWf (b kind tag : Nat) (payload : List Byte) (s : State) :
    (postBlock b kind tag payload s).tablesWf = s.tablesWf := by simp [postBlock]
@[simp] theorem postData_tablesWf (b kind tag : Nat) (data : List Byte) (s : State) :
    (postData b kind tag data s).tablesWf = s.tablesWf := by simp [postData]
@[simp] theorem complete_tablesWf (b : Nat) (r : ReqId) (status reason done address : Nat) (s : State) :
    (complete b r status reason done address s).tablesWf = s.tablesWf := by simp [complete]
@[simp] theorem refuse_tablesWf (b : Nat) (r : ReqId) (code address : Nat) (s : State) :
    (refuse b r code address s).tablesWf = s.tablesWf := by simp [refuse]
@[simp] theorem sendKeepAlive_tablesWf (b : Nat) (s : State) : (sendKeepAlive b s).tablesWf = s.tablesWf := by
  simp [sendKeepAlive]
@[simp] theorem returnUnits_tablesWf (b n : Nat) (s : State) : (returnUnits b n s).tablesWf = s.tablesWf := by
  simp [returnUnits]
@[simp] theorem discardUnits_tablesWf (b n : Nat) (s : State) : (discardUnits b n s).tablesWf = s.tablesWf := by
  simp [discardUnits]
@[simp] theorem showLoad_tablesWf (b kind st : Nat) (bytes : List Byte) (s : State) :
    (showLoad b kind st bytes s).tablesWf = s.tablesWf := by simp [showLoad]

@[simp] theorem dropTransfer_tablesWf (b kind : Nat) (s : State) : (dropTransfer b kind s).tablesWf = s.tablesWf := by
  unfold dropTransfer
  split <;> simp

@[simp] theorem takeTransfer_tablesWf (b : Nat) (x : Block) (s : State) : (takeTransfer b x s).tablesWf = s.tablesWf := by
  simp only [takeTransfer]
  split <;> simp

@[simp] theorem takeHead_tablesWf (b : Nat) (h : List Byte) (s : State) : (takeHead b h s).tablesWf = s.tablesWf := by
  simp [takeHead]
@[simp] theorem acceptBlock_tablesWf (b : Nat) (x : Block) (s : State) : (acceptBlock b x s).tablesWf = s.tablesWf := by
  simp [acceptBlock]
@[simp] theorem takeBlock_tablesWf (b : Nat) (bytes : List Byte) (s : State) :
    (takeBlock b bytes s).tablesWf = s.tablesWf := by simp [takeBlock]
@[simp] theorem countHunt_tablesWf (b n : Nat) (s : State) : (countHunt b n s).tablesWf = s.tablesWf := by simp [countHunt]
@[simp] theorem keepPart_tablesWf (b : Nat) (part : List Byte) (s : State) : (keepPart b part s).tablesWf = s.tablesWf := by
  simp [keepPart]

@[simp] theorem receiveBytes_tablesWf (b fuel : Nat) (bytes : List Byte) (s : State) :
    (receiveBytes b fuel bytes s).tablesWf = s.tablesWf := by
  induction fuel generalizing bytes s with
  | zero => simp [receiveBytes]
  | succ fuel ih => simp [receiveBytes, ih]

/-! ## Tick boundaries (03) -/

@[simp] theorem tablesWf_openDie (d : Nat) {s : State} (h : s.tablesWf = true) : (openDie d s).tablesWf = true :=
  tablesWf_modCd_of d (fun c hc => by
    simp only [Cd.tablesWf, Bool.and_eq_true, List.all_map] at hc ⊢
    exact ⟨hc.1, List.all_eq_true.2 fun _ _ => rfl⟩) h

@[simp] theorem beginDie_tablesWf (g : SegmentImg) (n d : Nat) (s : State) : (beginDie g n d s).tablesWf = s.tablesWf := by
  simp [beginDie]

@[simp] theorem beginGather_tablesWf (p : Nat) (g : SegmentImg) (s : State) : (beginGather p g s).tablesWf = s.tablesWf := by
  simp only [beginGather]
  split <;> simp

@[simp] theorem tablesWf_beginStep (p n : Nat) (g : SegmentImg) {s : State} (h : s.tablesWf = true) :
    (beginStep p n g s).tablesWf = true := by
  have ho : ∀ (l : List Nat) {t : State}, t.tablesWf = true → (forAll l openDie t).tablesWf = true := fun l _ =>
    tablesWf_forAll l fun d _ => tablesWf_openDie d
  simp [beginStep, h, ho]

@[simp] theorem countWait_tablesWf (p n : Nat) (s : State) : (countWait p n s).tablesWf = s.tablesWf := by simp [countWait]
@[simp] theorem endSteps_tablesWf (p n : Nat) (s : State) : (endSteps p n s).tablesWf = s.tablesWf := by simp [endSteps]
@[simp] theorem slipDie_tablesWf (p n d : Nat) (s : State) : (slipDie p n d s).tablesWf = s.tablesWf := by
  simp [slipDie, apply_ite Seq.sregs, apply_ite Seq.ev]

@[simp] theorem becalmAt_tablesWf (p n : Nat) (r : RecRef) (x : RecState) (s : State) :
    (becalmAt p n r x s).tablesWf = s.tablesWf := by
  unfold becalmAt
  split <;> simp

@[simp] theorem stallCounts_tablesWf (p n : Nat) (s : State) : (stallCounts p n s).tablesWf = s.tablesWf := by
  simp [stallCounts]
@[simp] theorem sendForecast_tablesWf (p n d : Nat) (s : State) : (sendForecast p n d s).tablesWf = s.tablesWf := by
  simp [sendForecast]
@[simp] theorem hubTiming_tablesWf (h : Nat) (s : State) : (hubTiming h s).tablesWf = s.tablesWf := by simp [hubTiming]
@[simp] theorem dieTiming_tablesWf (d : Nat) (s : State) : (dieTiming d s).tablesWf = s.tablesWf := by simp [dieTiming]

@[simp] theorem tablesWf_atBoundary (p n : Nat) {s : State} (h : s.tablesWf = true) : (atBoundary p n s).tablesWf = true := by
  unfold atBoundary
  extract_lets old s1 m begins s2 next w s3 s4 s5 s6 s7 s8 s9 s10
  have h2 : s2.tablesWf = true := by simp [s2, s1, h]
  have hw : w.tablesWf = true := by simp [w, h2]
  have h3 : s3.tablesWf = true := by
    clear_value begins next w
    simp only [s3]
    split
    · simp [h2]
    · exact State.tablesWf_ite hw (by simp [hw])
  simp [s10, s9, s8, s7, s6, s5, s4, h3]

@[simp] theorem tablesWf_passBoundary (p : Nat) {s : State} (h : s.tablesWf = true) : (passBoundary p s).tablesWf = true := by
  simp [passBoundary, h]
@[simp] theorem tablesWf_frameBoundary (m : Nat) {s : State} (h : s.tablesWf = true) : (frameBoundary m s).tablesWf = true :=
  tablesWf_forAll _ (fun p _ => tablesWf_passBoundary p) (by simp [h])

/-! ## Fennel's comparison (21) -/

@[simp] theorem compareSample_tablesWf (d : Nat) (m : FennelSample) (s : State) :
    (compareSample d m s).tablesWf = s.tablesWf := by
  simp only [compareSample]
  repeat' split
  all_goals simp

/-! ## Register writes (11) -/

@[simp] theorem writeMember_tablesWf (m : Member) (v : Word) (s : State) : (writeMember m v s).tablesWf = s.tablesWf := by
  simp [writeMember]
@[simp] theorem writeFe_tablesWf (d e : Nat) (v : Word) (s : State) : (writeFe d e v s).tablesWf = s.tablesWf := by
  simp [writeFe]
@[simp] theorem writeOor_tablesWf (d : Nat) (v : Word) (s : State) : (writeOor d v s).tablesWf = s.tablesWf := by
  simp [writeOor]
@[simp] theorem writeBad_tablesWf (d : Nat) (v : Word) (s : State) : (writeBad d v s).tablesWf = s.tablesWf := by
  simp [writeBad]

@[simp] theorem tablesWf_writeCveTable (d off : Nat) (v : Word) {s : State} (h : s.tablesWf = true) :
    (writeCveTable d off v s).tablesWf = true :=
  State.tablesWf_ite (tablesWf_modCve d (fun _ hc => Cve.setEntry_rising hc _ _) h) h

@[simp] theorem clearWaitMax_tablesWf (d g : Nat) (s : State) : (clearWaitMax d g s).tablesWf = s.tablesWf := by
  simp [clearWaitMax]

@[simp] theorem tablesWf_writeCd (d off : Nat) (v : Word) {s : State} (h : s.tablesWf = true) :
    (writeCd d off v s).tablesWf = true := by
  simp only [writeCd]
  repeat' split
  all_goals simp [h]

@[simp] theorem writeNv_tablesWf (h : Nat) (v : Word) (s : State) : (writeNv h v s).tablesWf = s.tablesWf := by simp [writeNv]
@[simp] theorem writeCacheCtrl_tablesWf (h : Nat) (v : Word) (s : State) : (writeCacheCtrl h v s).tablesWf = s.tablesWf := by
  simp [writeCacheCtrl]
@[simp] theorem writeScrub_tablesWf (h : Nat) (v : Word) (s : State) : (writeScrub h v s).tablesWf = s.tablesWf := by
  simp [writeScrub]

/-- A scrub base set, by any function of the old one: the kernel must not compare the two. -/
theorem State.setScrBase_tablesWf (s : State) (k : Nat) (f : Nat → Nat) :
    (s.modChk k fun c => { c with scrBase := f c.scrBase }).tablesWf = s.tablesWf := by simp

@[simp] theorem tablesWf_writeHub (k off : Nat) (v : Word) {s : State} (h : s.tablesWf = true) :
    (writeHub k off v s).tablesWf = true := by
  unfold writeHub
  split
  case h_5 => exact (s.setScrBase_tablesWf k (putWord · 32 0xFFFFFFFF v)).trans h
  all_goals simp [h]

@[simp] theorem writeUd_tablesWf (u off : Nat) (v : Word) (s : State) : (writeUd u off v s).tablesWf = s.tablesWf := by
  simp [writeUd]
@[simp] theorem writeArbFlag_tablesWf (n : Nat) (v : Word) (s : State) : (writeArbFlag n v s).tablesWf = s.tablesWf := by
  simp [writeArbFlag]
@[simp] theorem writeLkCmd_tablesWf (n : Nat) (v : Word) (s : State) :
    (writeLkCmd n v s).tablesWf = s.tablesWf := by simp [writeLkCmd]

@[simp] theorem writePort_tablesWf (n off : Nat) (v : Word) (s : State) : (writePort n off v s).tablesWf = s.tablesWf := by
  unfold writePort
  split <;> simp

@[simp] theorem writeSwapCmd_tablesWf (m : Nat) (v : Word) (s : State) : (writeSwapCmd m v s).tablesWf = s.tablesWf := by
  simp [writeSwapCmd]

@[simp] theorem writeLe_tablesWf (m off : Nat) (v : Word) (s : State) : (writeLe m off v s).tablesWf = s.tablesWf := by
  simp only [writeLe]
  repeat' split
  all_goals simp

@[simp] theorem setAnchor_tablesWf (v : Word) (s : State) : (setAnchor v s).tablesWf = s.tablesWf := by simp [setAnchor]
@[simp] theorem abortImage_tablesWf (t : WrTarget) (v : Word) (s : State) : (abortImage t v s).tablesWf = s.tablesWf := by
  simp [abortImage]
@[simp] theorem clearAlert_tablesWf (v : Nat) (s : State) : (clearAlert v s).tablesWf = s.tablesWf := by simp [clearAlert]

@[simp] theorem tablesWf_writeCtrl (off : Nat) (v : Word) {s : State} (h : s.tablesWf = true) :
    (writeCtrl off v s).tablesWf = true := by
  rw [writeCtrl]
  refine State.tablesWf_ite (State.tablesWf_ite (by simp [h]) h) <| State.tablesWf_ite (State.tablesWf_ite (by simp [h]) h) <|
    State.tablesWf_ite (State.tablesWf_ite (by simp [h]) h) ?_
  extract_lets clk
  have hc : ∀ f, (clk f).tablesWf = true := fun _ => h
  split <;> simp [hc, h]

@[simp] theorem tablesWf_regWrite (win off : Nat) (v : Word) {s : State} (h : s.tablesWf = true) :
    (regWrite win off v s).tablesWf = true := by
  refine State.tablesWf_ite h ?_
  split
  · simp [h]
  · refine State.tablesWf_ite h ?_
    split <;> simp [h]

@[simp] theorem denyAccess_tablesWf (b win off n : Nat) (write : Bool) (s : State) :
    (denyAccess b win off n write s).tablesWf = s.tablesWf := by
  unfold denyAccess
  split <;> simp

@[simp] theorem tablesWf_hostWrite (b win off : Nat) (v : Word) {s : State} (h : s.tablesWf = true) :
    (hostWrite b win off v s).tablesWf = true := by simp [hostWrite, h]
@[simp] theorem hostRead_tablesWf (b win off : Nat) (s : State) : (hostRead b win off s).tablesWf = s.tablesWf := by
  simp [hostRead]

/-! ## Requests of a host (17) -/

@[simp] theorem passTurn_tablesWf (b : Nat) (s : State) : (passTurn b s).tablesWf = s.tablesWf := by simp [passTurn]

@[simp] theorem serve_tablesWf (b : Nat) (f : Block → Bool) {k : Block → State → State}
    (hk : ∀ x t, (k x t).tablesWf = t.tablesWf) (s : State) : (serve b f k s).tablesWf = s.tablesWf := by
  unfold serve
  split <;> simp [hk]

theorem tablesWf_serve (b : Nat) (f : Block → Bool) {k : Block → State → State}
    (hk : ∀ x t, t.tablesWf = true → (k x t).tablesWf = true) {s : State} (h : s.tablesWf = true) :
    (serve b f k s).tablesWf = true := by
  unfold serve
  split
  · exact h
  · exact State.tablesWf_ite (hk _ _ (by simp [h])) h

@[simp] theorem takeOut_tablesWf (b : Nat) (f : Block → Bool) (s : State) : (takeOut b f s).tablesWf = s.tablesWf := by
  unfold takeOut
  split <;> simp

@[simp] theorem takeSegment_tablesWf (b : Nat) (x : Block) (s : State) : (takeSegment b x s).tablesWf = s.tablesWf := by
  unfold takeSegment
  repeat' split
  all_goals simp

@[simp] theorem endLoad_tablesWf (t : WrTarget) (s : State) : (endLoad t s).tablesWf = s.tablesWf := by simp [endLoad]

@[simp] theorem takeImage_tablesWf (b : Nat) (x : Block) (s : State) : (takeImage b x s).tablesWf = s.tablesWf := by
  unfold takeImage
  repeat' split
  all_goals simp

@[simp] theorem takeFirmware_tablesWf (b : Nat) (x : Block) (s : State) : (takeFirmware b x s).tablesWf = s.tablesWf := by
  unfold takeFirmware
  repeat' split
  all_goals simp

@[simp] theorem dmaWrite_state_tablesWf (p r o : Nat) (bs : List Byte) (s : State) :
    (dmaWrite p r o bs s).state.tablesWf = s.tablesWf := by simp [dmaWrite]

@[simp] theorem completeMem_tablesWf (b p : Nat) (r : ReqId) (done : Nat) (bad : Option Nat) (s : State) :
    (completeMem b p r done bad s).tablesWf = s.tablesWf := by
  unfold completeMem
  split <;> simp

@[simp] theorem takeWrite_tablesWf (b : Nat) (x : Block) (s : State) : (takeWrite b x s).tablesWf = s.tablesWf := by
  unfold takeWrite
  split <;> simp

@[simp] theorem takeRead_tablesWf (b : Nat) (x : Block) (s : State) : (takeRead b x s).tablesWf = s.tablesWf := by
  simp only [takeRead]
  split <;> simp

@[simp] theorem takeRegRead_tablesWf (b : Nat) (x : Block) (s : State) : (takeRegRead b x s).tablesWf = s.tablesWf := by
  simp only [takeRegRead]
  split <;> simp

@[simp] theorem tablesWf_takeRegWrite (b : Nat) (x : Block) {s : State} (h : s.tablesWf = true) :
    (takeRegWrite b x s).tablesWf = true := by
  refine State.tablesWf_ite (by simp [h]) ?_
  split
  · simp [h]
  · simp [h]
  · have hw : ∀ (n win off : Nat) {t : State}, t.tablesWf = true → (forRange n (fun i t =>
        regWrite win (off + 4 * i) (wordAt x.payload (16 + 4 * i)) t) t).tablesWf = true := fun n _ _ _ =>
      tablesWf_forRange n fun i _ => tablesWf_regWrite _ _ _
    simp [h, hw]

@[simp] theorem takeLogRead_tablesWf (b : Nat) (x : Block) (s : State) : (takeLogRead b x s).tablesWf = s.tablesWf := by
  simp [takeLogRead]
@[simp] theorem takeReport_tablesWf (b : Nat) (x : Block) (s : State) : (takeReport b x s).tablesWf = s.tablesWf := by
  simp [takeReport]
@[simp] theorem takeCerts_tablesWf (b : Nat) (x : Block) (s : State) : (takeCerts b x s).tablesWf = s.tablesWf := by
  simp [takeCerts]

/-! ## The SMBus target (18) -/

@[simp] theorem smbusAnswer_tablesWf (data : List Byte) (s : State) : (smbusAnswer data s).tablesWf = s.tablesWf := by
  simp [smbusAnswer]

end Sys2Proof.Machine
end

section
/-! PROOF. What each command does to `State.tablesWf`: it is an operation, or a choice between operations, behind the check of
the units that the command names. So every step keeps the tables. -/

namespace Sys2Proof.Machine

/-- The next state, where one is answered, has its tables in canonical form. -/
def KeepsTables (o : Host.Outcome State Fault Refusal) : Prop := ∀ t, o = .next t → t.tablesWf = true

@[simp] theorem onlyIf_keepsTables {ok : Bool} {t : State} (h : t.tablesWf = true) : KeepsTables (onlyIf ok t) :=
  fun _ e => (onlyIf_next e).2 ▸ h

@[simp] theorem next_keepsTables {t : State} (h : t.tablesWf = true) : KeepsTables (.next t) := by
  rintro _ ⟨⟩
  exact h

@[simp] theorem State.marked_tablesWf (s : State) (r : RecRef) : (s.marked r).tablesWf = s.tablesWf := by simp [State.marked]

@[simp] theorem runOp_keepsTables (r : RecRef) (code : Nat) {f : RecState → State → State}
    (hf : ∀ x t, t.tablesWf = true → (f x t).tablesWf = true) {s : State} (h : s.tablesWf = true) :
    KeepsTables (runOp r code f s) := by
  intro t e
  rcases runOp_next e with ⟨x, _, rfl⟩ | ⟨_, rfl⟩
  · rw [State.marked_tablesWf]
    exact tablesWf_underImage r x (hf x) h
  · exact h

@[simp] theorem runOpWhen_keepsTables (r : RecRef) (code : Nat) (ready : RecState → State → Bool)
    {f : RecState → State → State} (hf : ∀ x t, t.tablesWf = true → (f x t).tablesWf = true) {s : State}
    (h : s.tablesWf = true) : KeepsTables (runOpWhen r code ready f s) := by
  unfold runOpWhen
  split
  · split
    · exact runOp_keepsTables r code hf h
    · simp [h]
  · simp [h]

/-! ## The commands that write a table -/

theorem execAclr_keepsTables (r : RecRef) {s : State} (hs : s.tablesWf = true) : KeepsTables (execAclr r s) :=
  runOp_keepsTables r _ (fun _ _ => tablesWf_forRange 4 fun i _ hu =>
    State.tablesWf_ite (tablesWf_modMxe _ _ (fun m hm => m.tilesWf_modTile hm i fun _ _ => rfl) hu) hu) hs

/-- A walk over rows and, in each, columns is a walk over their places. -/
theorem foldl_rows {α β γ : Type} (f : γ → α → β → γ) (rows : List α) (cols : List β) (acc : γ) :
    rows.foldl (fun acc p => cols.foldl (fun acc n => f acc p n) acc) acc =
      (rows.flatMap fun p => cols.map (Prod.mk p)).foldl (fun acc q => f acc q.1 q.2) acc := by
  simp [List.foldl_flatMap, List.foldl_map]

theorem execAld_keepsTables (r : RecRef) {s : State} (hs : s.tablesWf = true) : KeepsTables (execAld r s) := by
  refine runOp_keepsTables r _ (fun x t ht => ?_) hs
  rw [noteBadScratch_tablesWf]
  refine tablesWf_modMxe _ _ (fun m hm => m.tilesWf_modTile hm _ fun _ _ => ?_) (by simp [ht])
  dsimp only
  rw [foldl_rows]
  exact foldl_place_rising _ _ _ _ rfl

theorem execUpdateApply_keepsTables (r : RecRef) {s : State} (hs : s.tablesWf = true) :
    KeepsTables (execUpdateApply r s) := by
  refine onlyIf_keepsTables ?_
  repeat' split
  case h_1.isTrue => exact tablesWf_underImage r _ (fun _ => tablesWf_finishUpdate r _ _) hs
  all_goals exact hs

theorem execBecalmStallLimit_keepsTables (r : RecRef) {s : State} (hs : s.tablesWf = true) :
    KeepsTables (execBecalmStallLimit r s) := by
  refine onlyIf_keepsTables ?_
  split
  · exact State.tablesWf_ite (tablesWf_endUpdateWait r _ (by simp [hs])) hs
  · exact hs

/-- A matrix engine that wakes from lull-3 has lost its tiles. -/
theorem execWakeComplete_keepsTables (blk : BlockRef) {s : State} (hs : s.tablesWf = true) :
    KeepsTables (execWakeComplete blk s) := by
  refine onlyIf_keepsTables (State.tablesWf_ite ?_ hs)
  have hb : ∀ f, (s.modBlk blk f).tablesWf = true := fun f => by simp [hs]
  split
  · refine State.tablesWf_ite (hb _) (State.tablesWf_ite ?_ (State.tablesWf_ite ?_ (State.tablesWf_ite ?_ (hb _))))
    · simp [hs]
    · exact tablesWf_modMxe _ _ (fun _ _ => rfl) (hb _)
    · simp [hs]
  · exact hb _

theorem execWaitin_keepsTables (r : RecRef) {s : State} (hs : s.tablesWf = true) : KeepsTables (execWaitin r s) := by
  unfold execWaitin
  repeat' split
  all_goals simp [hs]

theorem execAttestationSign_keepsTables {s : State} (hs : s.tablesWf = true) : KeepsTables (execAttestationSign s) := by
  unfold execAttestationSign
  split <;> simp [hs]

/-! ## Every command -/

/-- Every command keeps the tables: it writes one (`case mma` and what follows), it looks first at the state, or it is an
operation of the model for which the lemma of its name says so. -/
theorem exec_keepsTables (c : Instr) {s : State} (hs : s.tablesWf = true) : KeepsTables (exec c s) := by
  cases c
  case mma r => exact runOp_keepsTables r _ (fun x _ => tablesWf_mmaRun r x) hs
  case aclr r => exact execAclr_keepsTables r hs
  case ast r => exact runOp_keepsTables r _ (fun x _ => tablesWf_astRun r x) hs
  case ald r => exact execAld_keepsTables r hs
  case cvt r => exact runOp_keepsTables r _ (fun x _ h => State.tablesWf_ite h (tablesWf_cvtRun r x h)) hs
  case amxpush r => exact runOp_keepsTables r _ (fun x _ h => State.tablesWf_ite h (tablesWf_amxpushRun r x h)) hs
  case scsel r => exact runOp_keepsTables r _ (fun x _ h => State.tablesWf_ite h (tablesWf_scselRun r x h)) hs
  case tld r => exact runOp_keepsTables r _ (fun x _ h => State.tablesWf_ite h (tablesWf_tldRun r x h)) hs
  case updateApply r => exact execUpdateApply_keepsTables r hs
  case becalmStallLimit r => exact execBecalmStallLimit_keepsTables r hs
  case wakeComplete blk => exact execWakeComplete_keepsTables blk hs
  case registerWrite b => exact onlyIf_keepsTables (tablesWf_serve b _ (fun x _ => tablesWf_takeRegWrite b x) hs)
  case sitePoll answers =>
    exact onlyIf_keepsTables (State.tablesWf_ite (tablesWf_forAll answers (fun a _ => tablesWf_takePoll a) hs) hs)
  case powerUp => exact next_keepsTables (State.tablesWf_ite hs hs)
  case resetLFall | firmwareVerifyDone | logbookBucketRefill =>
    refine next_keepsTables (State.tablesWf_ite hs ?_)
    dsimp only
    repeat' split
    all_goals simp [hs]
  case firmwareWriteDone =>
    refine next_keepsTables ?_
    dsimp only
    repeat' split
    all_goals simp [hs]
  case replay r | ushare r =>
    refine runOp_keepsTables r _ (fun x t h => ?_) hs
    simp [h]
  case choice r =>
    refine runOp_keepsTables r _ (fun x t h => ?_) hs
    dsimp only
    repeat' split
    all_goals simp [h]
  case waitin r => exact execWaitin_keepsTables r hs
  case attestationSign => exact execAttestationSign_keepsTables hs
  case hubTrainDone =>
    refine onlyIf_keepsTables (State.tablesWf_ite ?_ hs)
    dsimp only
    repeat' split
    all_goals simp [hs]
  case heldArrivalOpen | holderStall | laserSwapStart | frameSend =>
    refine onlyIf_keepsTables ?_
    dsimp only
    repeat' split
    all_goals simp [hs]
  case ringSearchPhaseEnd | portDarkExpiry | probePulse | lightSeen | lossOfLight | windroseCommit | recordIssue |
    recordComplete | replayRangeRerun | narrowQueueFree | stepword | stepwordGatherDone | verdictDelivery | update |
    accumArrival | granuleStallDiscard | breezeHeldRecheck | stagedWrite | closingFieldWrite | timeRequestSend |
    timeResponseSend | replayTimeout | kappaFit | swapSpareTuned | swapResume | messageBind | arbitrationPhase |
    parkedEligible | receiveHeldRelease | messageStallDiscard | senderStallLimit | lullEnter | wakeBegin |
    fennelSampleCompare | meshMessageArrival =>
    refine onlyIf_keepsTables ?_
    repeat' split
    all_goals simp [hs]
  all_goals simp [exec, execStagePowerGood, execResetLReleaseStandby, execHomeGroupPower, execSiteProbeResult,
    execModuleReady, execIdentityDeriveDone, execPowerFail, execThermalTrip, execWarmToColdTimeout, execResetLRise,
    execModResetWarm, execModResetCold, execPartReset, execPartResetDone, execBaithBlockReceive, execKeepAliveReceive,
    execCommandSegmentTransfer, execWindroseTransfer, execMemoryWrite, execMemoryRead, execRegisterRead, execLogbookRead,
    execAttestationReport, execAttestationCertificates, execRecoveryFirmwareTransfer, execKeepAliveSend,
    execBlockTruncateTimeout, execBaithResendTimeout, execBaithSilenceTimeout, execBaithBlockSend, execCellAreaReady,
    execWrAbort, execTickBoundary, execStStop, execStAbort, execNop, execSmovi, execSalu, execSld, execSst, execEvadd,
    execAsv, execVadd, execVmul, execVfma, execVmin, execVmax, execVcmp, execVsel, execVred, execTxp, execLoad, execStore,
    execGather, execAmxout, execTst, execCveTableWrite, execPut, execAccum, execRingag, execFill, execScrub, execUfold,
    execHubCacheCtrl, execHubWritebackDone, execHubNarrowDepthRead, execScrubPassStart, execScrubPassStop,
    execScrubPassEnd, execBreezeRead, execRetTableWrite, execRetireEntryInForce, execMxeFeStat, execGxeOorStat,
    execGxeBadCount, execRedNvStat, execArbFlagStat, execSegWaitMax, execMtAnchorSet, execFrameReceive,
    execIdentityFrameReceive, execLinkOnlyFrameReceive, execLinkReportSend, execNakTimer, execPortDown,
    execLaneAcquireTimeout, execLaneLightLoss, execLkCmd, execLkCtrl, execLkLaneHold, execRingLockLoop, execRingUnlock,
    execToneWindowEnd, execRingRelock, execLaserBiasLoop, execLaserThresholdJudge, execLeSwapCmd, execModuleOut,
    execClockChoice, execTokenRefill, execJunctionSample, execSegmentCurrentSample, execCurrentStopRestart,
    execLifetimeSnapshot, execLbSnapCmd, execSmbusReadState, execSmbusReadCause, execSmbusReadTemp, execSmbusReadPower,
    execSmbusReadAlert, execSmbusClearAlert, execSmbusReadDescriptor, execSmbusAlertResponse, execModResetRelease,
    execLaneLightReturn, execLaneAlignmentLost, execLullEntryDone, execSnapshotWriteDone, execLogbookPageErased, hs]
theorem step_keepsTables {s : State} (hs : s.tablesWf = true) : KeepsTables (step s) := by
  cases h : s.pending with
  | nil =>
    rw [step_empty h]
    exact next_keepsTables (by rw [idle_tablesWf, hs])
  | cons c rest =>
    rw [step_front h]
    exact exec_keepsTables c hs

end Sys2Proof.Machine

open Sys2Proof.Machine

/-- Settles O7: few operations write a table, and each sets one key of it, drops keys or lists it anew. -/
theorem stepKeepsTables : Obligations.StepKeepsTables := fun _ t hs ht => step_keepsTables hs t ht
end

section
/-! PROOF. The matrix engines (05). An operation of one leaves the module but for that engine, its die's Fennel and, for AST and
ASV, the scratchpad (`State.withMxe`); the operands are read from a sound scratchpad, and elements are set one by one. -/

namespace Sys2Proof.Machine

/-! ## What a matrix engine's operation changes -/

/-- The module with engine e of die d, that die's Fennel and its scratchpad as given. -/
def State.withMxe (s : State) (d e : Nat) (m : Mxe) (fn : Fennel) (st : LineStore) : State :=
  s.modCd d fun c => { c with
    eng := { c.eng with mxe := modAt c.eng.mxe e fun _ => m, fennel := fn }
    scratch := { c.scratch with store := st } }

theorem State.withMxe_same (s : State) (d e : Nat) : s.withMxe d e (s.mxe d e) (s.cd d).eng.fennel (s.pad d) = s := by
  refine State.modCd_same _ _ ?_
  simp only [modAt_set _ _ _ ({} : Mxe)]
  have h : (s.cd d).eng.mxe.set e (s.mxe d e) = (s.cd d).eng.mxe := by
    rw [State.mxe, List.getD_eq_getElem?_getD]
    by_cases he : e < (s.cd d).eng.mxe.length
    · simp [he]
    · rw [List.set_eq_of_length_le (Nat.le_of_not_lt he)]
  rw [h]
  rfl

theorem State.withMxe_modMxe (s : State) (d e : Nat) (m : Mxe) (fn : Fennel) (st : LineStore) (f : Mxe → Mxe) :
    (s.withMxe d e m fn st).modMxe d e f = s.withMxe d e (f m) fn st := by
  simp only [State.withMxe, State.modMxe_eq, State.modCd_modCd, modAt_modAt]

theorem State.withMxe_modFennel (s : State) (d e : Nat) (m : Mxe) (fn : Fennel) (st : LineStore) (f : Fennel → Fennel) :
    (s.withMxe d e m fn st).modFennel d f = s.withMxe d e m (f fn) st := by
  simp only [State.withMxe, State.modFennel_eq, State.modCd_modCd]

/-- An engine of a die changed. -/
theorem State.modMxe_withMxe (s : State) (d e : Nat) (f : Mxe → Mxe) :
    s.modMxe d e f = s.withMxe d e (f (s.mxe d e)) (s.cd d).eng.fennel (s.pad d) := by
  rw [← State.withMxe_modMxe, State.withMxe_same]

/-- A scratchpad written. -/
theorem PadWork.withMxe {s t : State} {d : Nat} (h : PadWork d s t) (e : Nat) :
    t = s.withMxe d e (s.mxe d e) (s.cd d).eng.fennel (t.pad d) := by
  conv => lhs; rw [h.eq, ← s.withMxe_same d e]
  simp only [State.withMxe, State.modScratch_eq, State.modCd_modCd]

section
variable {s : State} {d e : Nat} {m : Mxe} {fn : Fennel} {st : LineStore} (hd : d < s.cds.length)
include hd

theorem State.withMxe_cd : (s.withMxe d e m fn st).cd d = { s.cd d with
    eng := { (s.cd d).eng with mxe := modAt (s.cd d).eng.mxe e fun _ => m, fennel := fn }
    scratch := { (s.cd d).scratch with store := st } } := State.modCd_cd_same _ _ _ hd

theorem State.withMxe_pad : (s.withMxe d e m fn st).pad d = st := by rw [State.pad, State.withMxe_cd hd]

theorem State.withMxe_mxe (he : e < (s.cd d).eng.mxe.length) : (s.withMxe d e m fn st).mxe d e = m := by
  rw [State.mxe, State.withMxe_cd hd]
  exact modAt_getD_same _ _ _ _ he

end

/-- A record marked changes only its die's sequencer. -/
theorem State.marked_cd (s : State) (r : RecRef) (hd : r.die < s.cds.length) :
    (s.marked r).cd r.die = { s.cd r.die with seq := ((s.marked r).cd r.die).seq } := by
  rw [State.marked_eq, State.modSeq_eq, State.modCd_cd_same _ _ _ hd]

/-- What such an operation leaves once its record is marked: the die's other units, and every other engine. -/
theorem State.withMxe_only {s : State} {r : RecRef} (e : Nat) (m : Mxe) (fn : Fennel) {st : LineStore}
    (hd : r.die < s.cds.length) (hst : st.sound = true) :
    let t := (s.withMxe r.die e m fn st).marked r
    dieOnly r.die s t ∧ (t.pad r.die).sound = true ∧
      t.cd r.die = { s.cd r.die with
        seq := ((s.marked r).cd r.die).seq
        eng := { (s.cd r.die).eng with mxe := (t.cd r.die).eng.mxe, fennel := (t.cd r.die).eng.fennel }
        scratch := { (s.cd r.die).scratch with store := t.pad r.die } } ∧
      ∀ k, k ≠ e → t.mxe r.die k = s.mxe r.die k := by
  intro t
  have hd' : r.die < (s.withMxe r.die e m fn st).cds.length := by simpa [State.withMxe] using hd
  have hcd : t.cd r.die = { s.cd r.die with
      seq := (t.cd r.die).seq
      eng := { (s.cd r.die).eng with mxe := modAt (s.cd r.die).eng.mxe e fun _ => m, fennel := fn }
      scratch := { (s.cd r.die).scratch with store := st } } := by
    rw [State.marked_cd _ _ hd', State.withMxe_cd hd]
  have hseq : (t.cd r.die).seq = ((s.marked r).cd r.die).seq := by
    simp only [t, State.marked_eq, State.modSeq_eq, State.withMxe, State.modCd_modCd]
    rw [State.modCd_cd_same _ _ _ hd, State.modCd_cd_same _ _ _ hd]
  have hpad : t.pad r.die = st := by rw [State.pad, hcd]
  refine ⟨⟨rfl, fun k hk => ?_⟩, hpad ▸ hst, ?_, fun k hk => ?_⟩
  · exact (State.modCd_cd_other _ _ _ _ hk).trans (State.modCd_cd_other _ _ _ _ hk)
  · rw [hpad, ← hseq, hcd]
  · rw [State.mxe, hcd]
    exact modAt_getD_other _ _ _ _ _ hk

section
variable (s : State) (r : RecRef)

theorem State.marked_mxe (hd : r.die < s.cds.length) (e : Nat) : (s.marked r).mxe r.die e = s.mxe r.die e := by
  rw [State.mxe, State.marked_cd _ _ hd]
  rfl

theorem State.marked_pad (hd : r.die < s.cds.length) : (s.marked r).pad r.die = s.pad r.die := by
  rw [State.pad, State.marked_cd _ _ hd]
  rfl

end

/-! ## Tiles -/

theorem Mxe.modTile_same {m : Mxe} {i : Nat} (h : i < m.tiles.length) (f : Tile → Tile) :
    (m.modTile i f).tile i = f (m.tile i) := modAt_getD_same _ _ _ _ h

theorem Mxe.modTile_other (m : Mxe) {i k : Nat} (h : k ≠ i) (f : Tile → Tile) : (m.modTile i f).tile k = m.tile k :=
  modAt_getD_other _ _ _ _ _ h

/-- Entries placed one after another: what key i holds where every entry for it has one value. -/
theorem look_foldl_place {α β : Type} [DecidableEq β] {es : List α} {key : α → Nat} {d : β} {v : α → β}
    {acc : List (Nat × β)} (hr : rising acc = true) {i : Nat} {b : β} (hv : ∀ e ∈ es, key e = i → v e = b)
    (h : (∃ e ∈ es, key e = i) ∨ look acc i d = b) :
    look (es.foldl (fun acc e => place acc (key e) d (v e)) acc) i d = b := by
  induction es generalizing acc with
  | nil => simpa using h
  | cons e es ih =>
    refine ih (place_rising _ _ _ _ hr) (fun a ha => hv a (.tail _ ha)) ?_
    by_cases he : key e = i
    · refine .inr ?_
      rw [← he, look_place_same _ _ _ _ hr, hv e (.head _) he]
    · rw [look_place_other _ _ _ _ _ (Ne.symm he)]
      simpa [he] using h

theorem look_filter {α : Type} (f : Nat → Bool) (t : List (Nat × α)) (i : Nat) (d : α) :
    look (t.filter fun e => f e.1) i d = if f i then look t i d else d := by
  induction t with
  | nil => simp [look]
  | cons e t ih =>
    by_cases he : e.1 = i
    · subst he
      cases hf : f e.1 <;> simp_all [look]
    · cases hf : f e.1 <;> simp_all [look]

/-- The elements of a part that is cleared. -/
theorem Tile.clearPart_get (t : Tile) (m n i : Nat) :
    (t.clearPart m n).get i = if i / 256 < m ∧ i % 256 < n then {} else t.get i := by
  rw [Tile.get, Tile.clearPart, look_filter fun i => !(i / 256 < m && i % 256 < n)]
  by_cases h : i / 256 < m ∧ i % 256 < n
  · simp [h]
  · have : (decide (i / 256 < m) && decide (i % 256 < n)) = false := by simpa [Bool.and_eq_false_imp] using h
    simp [this, h, Tile.get]

theorem MmaOp.start_get (f : MmaOp) (k : Nat) (t : Tile) (i : Nat) :
    (f.start k t).get i = if f.clear = true ∧ i / 256 < f.m ∧ i % 256 < f.n then {} else t.get i := by
  cases h : f.clear
  · simp [MmaOp.start, h]
  · simp only [MmaOp.start, h, if_true, true_and]
    exact t.clearPart_get f.m f.n i

theorem MmaOp.start_chunks (f : MmaOp) (k : Nat) (t : Tile) : (f.start k t).chunks = if f.clear then 0 else t.chunks := by
  cases h : f.clear <;> simp [MmaOp.start, h]

theorem mmaTile_chunks (f : MmaOp) (k : Nat) (t : Tile) (es : List (Nat × ElemRes)) :
    (mmaTile f k t es).chunks = if f.strict then t.chunks else min (t.chunks + (k + 31) / 32) 0xFFFFFFFF := by
  have h : (es.foldl (fun t e => t.set e.1 e.2.pair) t).chunks = t.chunks := 
    foldl_keeps Tile.chunks es (f := fun t e => t.set e.1 e.2.pair) (fun _ _ => rfl) t
  simp only [mmaTile, h]
  rfl

/-! ## Reading operands -/

/-- Rows of a sound scratchpad are read as their bytes. -/
theorem readRows_sound {s : State} {d : Nat} (h : (s.pad d).sound = true) (src addr stride rows n : Nat) :
    readRows d src addr stride rows n s = (s, (List.range rows).map fun i => s.padBytes d (addr + i * stride) n, none) := by
  refine foldl_done (P := fun done x => x = (s, done.map fun i => s.padBytes d (addr + i * stride) n, none)) rfl ?_
  rintro done i _ _ rfl
  simp only [readScratch_sound h, chunkBytes_scratch, List.map_append]
  rfl

/-- Reading an operand array from a sound scratchpad changes nothing, and no line of it fails. -/
theorem readOperand_sound {s : State} {d : Nat} (h : (s.pad d).sound = true) (src addr stride : Nat) (trans : Bool)
    (fmt outer k sa : Nat) (entry : Option CtlWord) :
    (readOperand d src addr stride trans fmt outer k sa entry s).1 = s ∧
      (readOperand d src addr stride trans fmt outer k sa entry s).2.2.2 = none := by
  unfold readOperand
  split
  · exact ⟨rfl, rfl⟩
  · next mx _ => cases trans <;> cases mx <;> simp [readRows_sound h, firstBad]

theorem range_zip_map {α : Type} (n : Nat) (g : Nat → α) : (List.range n).zip ((List.range n).map g) =
    (List.range n).map fun i => (i, g i) :=
  List.ext_getElem (by simp) fun _ _ _ => by simp

theorem elemAt_padBytes (s : State) (d a : Nat) {el : Elem} (he : el.bits = 8) {n i : Nat} (hi : i < n) :
    elemAt el (s.padBytes d a n) i = leNat (s.padBytes d (a + i) 1) := by
  simp only [elemAt, Elem.nibble, he, leAt, State.padBytes, Memory.read]
  rw [if_neg (by decide), slice_map_range _ (by omega)]
  simp [Nat.add_assoc]

/-- The operand that a byte at an address is. -/
def byteOpnd (s : State) (d : Nat) (el : Elem) (a : Nat) : Opnd :=
  let raw := leNat (s.padBytes d a 1)
  ⟨raw, Num.read el raw, (Num.read el raw).signalling, 0⟩

/-- The rows of an operand array of 8-bit elements along k (Table 05.4). -/
def byteRows (s : State) (d : Nat) (el : Elem) (addr stride outer k : Nat) : List (List Opnd) :=
  (List.range outer).map fun m => (List.range k).map fun j => byteOpnd s d el (addr + m * stride + j)

theorem readOperand_bytes {s : State} {d : Nat} (h : (s.pad d).sound = true) (src addr stride : Nat) {fmt : Nat} {el : Elem}
    (hf : fmtOf fmt = some (el, false)) (he : el.bits = 8) (outer k sa : Nat) :
    (readOperand d src addr stride false fmt outer k sa none s).2.1 = byteRows s d el addr stride outer k := by
  have hrow : rowBytes el k = k := by rw [rowBytes, he]; omega
  simp only [readOperand, hf, Bool.false_eq_true, if_false, readRows_sound h, hrow, List.map_map, List.length_map,
    List.length_range, byteRows]
  rw [range_zip_map, List.map_map]
  refine List.map_congr_left fun m _ => ?_
  simp only [Function.comp_def, elems, range_zip_map, List.map_map]
  refine List.map_congr_left fun j hj => ?_
  rw [elemAt_padBytes s d _ he (List.mem_range.1 hj)]
  rfl

end Sys2Proof.Machine
end

section
/-! PROOF. What MMA, ACLR, AST, ASV and ALD make of their engine (05 R132 to R154): the elements of an MMA lie at distinct
places of its tile, and the rows that AST and ASV write do not reach into one another. -/

namespace Sys2Proof.Machine

/-! ## MMA -/

/-- Every element that an MMA computes lies in its part of the tile. -/
theorem mmaElems_key {f : MmaOp} {t : Tile} {a b : List (List Opnd)} {p : Nat × ElemRes} (h : p ∈ mmaElems f t a b) :
    ∃ m n, m < f.m ∧ n < f.n ∧ p.1 = m * 256 + n := by
  simp only [mmaElems, List.mem_flatMap, List.mem_map] at h
  obtain ⟨ra, hra, cb, hcb, rfl⟩ := h
  exact ⟨ra.1, cb.1, List.mem_range.1 (List.of_mem_zip hra).1, List.mem_range.1 (List.of_mem_zip hcb).1, rfl⟩

/-- The elements of a fast MMA whose operand rows are all there. -/
theorem mem_mmaElems_fast {f : MmaOp} (hs : f.strict = false) {t : Tile} {a b : Nat → List Opnd} {p : Nat × ElemRes} :
    p ∈ mmaElems f t ((List.range f.m).map a) ((List.range f.n).map b) ↔ ∃ m n, m < f.m ∧ n < f.n ∧
      p = (m * 256 + n, fastElem m n (f.sa + f.sb) (t.get (m * 256 + n)) ((a m).zip (b n))) := by
  simp only [mmaElems, range_zip_map, hs, Bool.false_eq_true, if_false, List.mem_flatMap, List.mem_map, List.mem_range]
  constructor
  · rintro ⟨_, ⟨m, hm, rfl⟩, _, ⟨n, hn, rfl⟩, rfl⟩
    exact ⟨m, n, hm, hn, rfl⟩
  · rintro ⟨m, n, hm, hn, rfl⟩
    exact ⟨_, ⟨m, hm, rfl⟩, _, ⟨n, hn, rfl⟩, rfl⟩

/-- An element outside the part that an MMA addresses stays. -/
theorem mmaTile_get_outside {f : MmaOp} (hn : f.n ≤ 256) (k : Nat) {t : Tile} (ht : rising t.pairs = true)
    (a b : List (List Opnd)) {i : Nat} (hi : f.m ≤ i / 256 ∨ f.n ≤ i % 256) :
    (mmaTile f k t (mmaElems f t a b)).get i = t.get i := by
  rw [Tile.get, mmaTile_pairs]
  refine look_foldl_place ht (fun p hp hk => ?_) (.inr rfl)
  obtain ⟨m, n, _, _, hkey⟩ := mmaElems_key hp
  omega

/-- An element that a fast MMA addresses takes its terms. -/
theorem mmaTile_get_fast {f : MmaOp} (hs : f.strict = false) (hn : f.n ≤ 256) (k : Nat) {t : Tile}
    (ht : rising t.pairs = true) (a b : Nat → List Opnd) {m n : Nat} (hm' : m < f.m) (hn' : n < f.n) :
    (mmaTile f k t (mmaElems f t ((List.range f.m).map a) ((List.range f.n).map b))).get (m * 256 + n) =
      (fastElem m n (f.sa + f.sb) (t.get (m * 256 + n)) ((a m).zip (b n))).pair := by
  rw [Tile.get, mmaTile_pairs]
  refine look_foldl_place ht (fun p hp hk => ?_) (.inl ⟨_, (mem_mmaElems_fast hs).2 ⟨m, n, hm', hn', rfl⟩, rfl⟩)
  obtain ⟨m', n', _, hn'', rfl⟩ := (mem_mmaElems_fast hs).1 hp
  obtain ⟨rfl, rfl⟩ : m' = m ∧ n' = n := by
    have hk : m' * 256 + n' = m * 256 + n := hk
    omega
  rfl

/-- Fennel's selection counts at the engine and takes a sample. -/
theorem fennelSelect_withMxe (r : RecRef) (e : Nat) (f : MmaOp) (k : Nat) (before after : Tile) (es : List (Nat × ElemRes))
    (s : State) (m : Mxe) (fn : Fennel) (st : LineStore) :
    ∃ m' fn', fennelSelect r e f k before after es (s.withMxe r.die e m fn st) = s.withMxe r.die e m' fn' st ∧
      m'.tiles = m.tiles := by
  unfold fennelSelect
  dsimp only
  split
  · exact ⟨m, fn, rfl, rfl⟩
  · simp only [State.withMxe_modMxe]
    split
    · exact ⟨_, _, rfl, rfl⟩
    · split <;> exact ⟨_, _, State.withMxe_modFennel .., rfl⟩

/-- An MMA with a count of 0 heeds its clear bit only. -/
theorem mmaRun_zero (r : RecRef) {x : RecState} (s : State) (hk : x.count = 0) :
    let f := MmaOp.of x.w
    mmaRun r x s = s.withMxe r.die x.engine ((s.mxe r.die x.engine).modTile f.tile fun _ =>
      f.start 0 ((s.mxe r.die x.engine).tile f.tile)) (s.cd r.die).eng.fennel (s.pad r.die) := by
  intro f
  simp only [mmaRun, hk, if_true]
  exact State.modMxe_withMxe ..

/-- The control word by which an MMA's FP32 elements are entered (R140). -/
def MmaOp.entered (f : MmaOp) (fmt : Nat) : Option CtlWord := if fmt == 0 && !f.strict then some (ctlOf f.entry) else none

theorem fmtOf_bits_ne_zero {fmt : Nat} {el : Elem} (hf : fmtOf fmt = some (el, false)) (hb : el.bits = 8) : fmt ≠ 0 := by
  rintro rfl
  cases hf
  exact absurd hb (by decide)

/-- Operands of 8 bits along k are read as they stand, from any state with the same scratchpad. -/
theorem readOperand_entered {s s0 : State} {d : Nat} (h : (s.pad d).sound = true) (h0 : s0.pad d = s.pad d) (f : MmaOp)
    (src addr stride : Nat) {trans : Bool} {fmt : Nat} (outer k sa : Nat) {el : Elem} (hf : fmtOf fmt = some (el, false))
    (hb : el.bits = 8) (ht : trans = false) :
    (readOperand d src addr stride trans fmt outer k sa (f.entered fmt) s0).2.1 = byteRows s d el addr stride outer k := by
  have hent : f.entered fmt = none := by simp [MmaOp.entered, fmtOf_bits_ne_zero hf hb]
  rw [hent, ht, readOperand_bytes (h0 ▸ h) src addr stride hf hb]
  simp only [byteRows, byteOpnd, State.padBytes, h0]

/-- An MMA with a count of K sets its tile to what its elements make of it, which take the rows of its operands. -/
theorem mmaRun_counted {r : RecRef} {x : RecState} {s : State} (hd : r.die < s.cds.length) (h : (s.pad r.die).sound = true)
    (hk : x.count ≠ 0) :
    let f := MmaOp.of x.w
    let t0 := f.start x.count ((s.mxe r.die x.engine).tile f.tile)
    ∃ m fn a b, mmaRun r x s = s.withMxe r.die x.engine m fn (s.pad r.die) ∧
      (m.tiles = modAt (s.mxe r.die x.engine).tiles f.tile fun _ => mmaTile f x.count t0 (mmaElems f t0 a b)) ∧
      (∀ el, fmtOf f.aFmt = some (el, false) → el.bits = 8 → f.transA = false →
        a = byteRows s r.die el f.aAddr f.aStride f.m x.count) ∧
      (∀ el, fmtOf f.bFmt = some (el, false) → el.bits = 8 → f.transB = false →
        b = byteRows s r.die el f.bAddr f.bStride f.n x.count) := by
  unfold mmaRun
  extract_lets f _ e k t0 s0 entry a b es t1 fl scale fl1 s1
  rw [if_neg hk]
  have hs0 : s0 = s.withMxe r.die e ((s.mxe r.die e).modTile f.tile fun _ => t0) (s.cd r.die).eng.fennel (s.pad r.die) :=
    State.modMxe_withMxe ..
  have hpad : s0.pad r.die = s.pad r.die := by rw [hs0, State.withMxe_pad hd]
  obtain ⟨ha, ha'⟩ : a.1 = s0 ∧ a.2.2.2 = none := readOperand_sound (hpad.symm ▸ h) ..
  obtain ⟨hb, hb'⟩ : b.1 = s0 ∧ b.2.2.2 = none := ha ▸ readOperand_sound (ha.symm ▸ hpad.symm ▸ h) ..
  obtain ⟨m, fn, hm, htiles⟩ : ∃ m fn, fennelSelect r e f k t0 t1 es s1 = s.withMxe r.die e m fn (s.pad r.die) ∧
      m.tiles = modAt (s.mxe r.die e).tiles f.tile fun _ => t1 := by
    simp only [s1, hb, hs0, State.withMxe_modMxe]
    obtain ⟨m, fn, hm, htiles⟩ := fennelSelect_withMxe ..
    refine ⟨m, fn, hm, htiles.trans ?_⟩
    rw [Mxe.latch_tiles]
    exact modAt_modAt ..
  refine ⟨m, fn, a.2.1, b.2.1, ?_, htiles, fun el => readOperand_entered h hpad f _ _ _ _ _ _,
    fun el => ?_⟩
  · rw [ha', hb']
    exact hm
  · exact readOperand_entered h (ha.symm ▸ hpad) f _ _ _ _ _ _

/-! ## Rows written to scratchpad -/

/-- Rows of bytes that do not reach into the next, written to a sound scratchpad one after another. -/
structure RowsWrote (d : Nat) (place : Nat → Nat) (row : Nat → List Byte) (n : Nat) (s t : State) : Prop
    extends PadWork d s t where
  wrote : ∀ i < n, ∀ a, place i ≤ a → a < place i + (row i).length → look (t.pad d).bytes a 0 = (row i).getD (a - place i) 0
  kept : ∀ a, (∀ i < n, a < place i ∨ place i + (row i).length ≤ a) → look (t.pad d).bytes a 0 = look (s.pad d).bytes a 0

theorem RowsWrote.succ {d n : Nat} {place : Nat → Nat} {row : Nat → List Byte} {s t v : State}
    (h : RowsWrote d place row n s t) (hw : PadWrote d (place n) (row n) t v)
    (hp : ∀ i < n, place i + (row i).length ≤ place n) : RowsWrote d place row (n + 1) s v := by
  refine ⟨h.toPadWork.trans hw.toPadWork, fun i hi a h1 h2 => ?_, fun a ha => ?_⟩
  · rw [hw.wrote]
    rcases Nat.lt_succ_iff_lt_or_eq.1 hi with hi | rfl
    · have := hp i hi
      rw [if_neg (by omega)]
      exact h.wrote i hi a h1 h2
    · rw [if_pos ⟨h1, h2⟩]
  · rw [hw.wrote, if_neg (by have := ha n (Nat.lt_succ_self n); omega)]
    exact h.kept a fun i hi => ha i (Nat.lt_succ_of_lt hi)

/-- The rows that a matrix engine writes. -/
def writeRows (d src : Nat) (place : Nat → Nat) (row : Nat → List Byte) (n : Nat) (s : State) : SpanRes :=
  (List.range n).foldl (fun acc i =>
    { writeScratch d src (place i) (row i) acc.state with
      bad := firstBad acc.bad (writeScratch d src (place i) (row i) acc.state).bad }) { state := s }

theorem writeRows_sound {s : State} {d : Nat} (hd : d < s.cds.length) (hs : (s.pad d).sound = true)
    (hw : (s.pad d).bytes.wf = true) (src : Nat) {place : Nat → Nat} {row : Nat → List Byte} {n : Nat}
    (hp : ∀ i j, i < j → j < n → place i + (row i).length ≤ place j) :
    ∃ t, writeRows d src place row n s = { state := t } ∧ RowsWrote d place row n s t := by
  induction n with
  | zero => exact ⟨s, rfl, .refl hs hw, (fun _ h => absurd h (Nat.not_lt_zero _)), fun _ _ => rfl⟩
  | succ n ih =>
    obtain ⟨t, ht, hrows⟩ := ih fun i j hij hj => hp i j hij (Nat.lt_succ_of_lt hj)
    obtain ⟨v, hv, hwrote⟩ := writeScratch_sound (s := t) (by rw [hrows.eq]; simpa using hd) hrows.sound hrows.wf src
      (place n) (row n)
    refine ⟨v, ?_, hrows.succ hwrote fun i hi => hp i n hi (Nat.lt_succ_self n)⟩
    unfold writeRows at ht ⊢
    rw [List.range_succ, List.foldl_append, ht]
    simp only [List.foldl_cons, List.foldl_nil, hv]
    rfl

section
variable {d n : Nat} {place : Nat → Nat} {row : Nat → List Byte} {s t : State} (h : RowsWrote d place row n s t)
include h

theorem RowsWrote.getD {i o m : Nat} (hi : i < n) (ho : o + m ≤ (row i).length) :
    t.padBytes d (place i + o) m = (List.range m).map fun j => (row i).getD (o + j) 0 :=
  padBytes_of fun j hj => by
    rw [h.wrote i hi _ (by omega) (by omega), show place i + o + j - place i = o + j by omega]

theorem RowsWrote.padBytes {i : Nat} (hi : i < n) : t.padBytes d (place i) (row i).length = row i := by
  have := h.getD (o := 0) hi (Nat.le_of_eq (Nat.zero_add _))
  rw [Nat.add_zero] at this
  rw [this]
  exact List.ext_getElem (by simp) fun j h1 h2 => by simp [List.getD_eq_getElem?_getD, h2]

theorem RowsWrote.padSame {spans : List (Nat × Nat)}
    (hs : ∀ a, (∀ p ∈ spans, a < p.1 ∨ p.1 + p.2 ≤ a) → ∀ i < n, a < place i ∨ place i + (row i).length ≤ a) :
    padSame d spans s t := fun a ha =>
  (padBytes_of fun i hi => by rw [h.kept _ (by rw [show i = 0 by omega]; exact hs a ha), show i = 0 by omega]).trans
    (padBytes_of (f := fun i => look (s.pad d).bytes (a + i) 0) fun _ _ => rfl).symm

end

/-! ## ACLR, AST, ASV and ALD -/

/-- ACLR clears the tiles that its mask names. -/
theorem execAclr_runs {s : State} {r : RecRef} {x : RecState} (h : s.runs r 0x0101 x)
    (ht : (s.mxe r.die x.engine).tiles.length = 4) : ∃ m : Mxe,
    exec (.aclr r) s = .next ((s.withMxe r.die x.engine m (s.cd r.die).eng.fennel (s.pad r.die)).marked r) ∧
      m = { s.mxe r.die x.engine with tiles := m.tiles } ∧
      ∀ i < 4, m.tile i = if (x.w 0).getLsbD i then {} else (s.mxe r.die x.engine).tile i := by
  have key : ∃ m : Mxe, forRange 4 (fun i u =>
        if bit (x.w 0).toNat i then u.modMxe r.die x.engine fun q => q.modTile i fun _ => {} else u) s =
        s.withMxe r.die x.engine m (s.cd r.die).eng.fennel (s.pad r.die) ∧ m.tiles.length = 4 ∧
      m = { s.mxe r.die x.engine with tiles := m.tiles } ∧ ∀ i < 4, m.tile i =
        if i ∈ List.range 4 ∧ (x.w 0).getLsbD i = true then {} else (s.mxe r.die x.engine).tile i := by
    refine foldl_done (P := fun done u => ∃ m : Mxe, u = s.withMxe r.die x.engine m (s.cd r.die).eng.fennel (s.pad r.die) ∧
      m.tiles.length = 4 ∧ m = { s.mxe r.die x.engine with tiles := m.tiles } ∧ ∀ i < 4, m.tile i =
        if i ∈ done ∧ (x.w 0).getLsbD i = true then {} else (s.mxe r.die x.engine).tile i)
      ⟨_, (s.withMxe_same _ _).symm, ht, rfl, fun i _ => by simp⟩ ?_
    rintro done k _ hk ⟨m, rfl, hlen, hm, htile⟩
    rw [List.mem_range] at hk
    have hbit : bit (x.w 0).toNat k = (x.w 0).getLsbD k := rfl
    beta_reduce
    rw [hbit]
    split
    · next hb =>
      refine ⟨_, State.withMxe_modMxe .., by simpa [Mxe.modTile] using hlen, by rw [Mxe.modTile, hm], fun i hi => ?_⟩
      by_cases hik : i = k
      · subst hik
        rw [Mxe.modTile_same (by omega)]
        simp [hb]
      · rw [Mxe.modTile_other _ hik, htile i hi]
        simp [hik]
    · next hb =>
      refine ⟨m, rfl, hlen, hm, fun i hi => ?_⟩
      rw [htile i hi]
      by_cases hik : i = k
      · simp [hik, hb]
      · simp [hik]
  obtain ⟨m, hrun, -, hm, htile⟩ := key
  refine ⟨m, (runOp_runs _ h).trans (by rw [hrun]), hm, fun i hi => ?_⟩
  simpa [hi] using htile i hi

/-- The format that AST stores. -/
def AstOp.elem (f : AstOp) : Elem := ((fmtOf f.ctl.dst).map Prod.fst).getD .fp32

/-- Row m of a tile as AST stores it. -/
def AstOp.row (f : AstOp) (t : Tile) (m : Nat) : List Byte :=
  packElems f.elem ((List.range f.n).map fun n => (astElem f (t.get (m * 256 + n))).1)

/-- An engine changed once a scratchpad has been written. -/
theorem PadWork.modMxe {s t : State} {d : Nat} (h : PadWork d s t) (e : Nat) (f : Mxe → Mxe) :
    t.modMxe d e f = s.withMxe d e (f (s.mxe d e)) (s.cd d).eng.fennel (t.pad d) := by
  rw [← State.withMxe_modMxe, ← h.withMxe]

/-- AST stores its rows, and clears what it read only if told to. -/
theorem astRun_sound {s : State} {r : RecRef} {x : RecState} (hd : r.die < s.cds.length)
    (hs : (s.pad r.die).sound = true) (hw : (s.pad r.die).bytes.wf = true) :
    let f := AstOp.of x.w
    let mx := s.mxe r.die x.engine
    (f.m = 1 ∨ ∀ m < f.m, (f.row (mx.tile f.tile) m).length ≤ f.stride) →
    ∃ v m, astRun r x s = s.withMxe r.die x.engine m (s.cd r.die).eng.fennel (v.pad r.die) ∧
      RowsWrote r.die (fun m => f.dst + m * f.stride) (f.row (mx.tile f.tile)) f.m s v ∧
      (f.clear = false → m.tiles = mx.tiles) ∧
      (f.clear = true → ∃ g : Tile → Tile, m.tiles = modAt mx.tiles f.tile g ∧
        ∀ t, (g t).pairs = (t.clearPart f.m f.n).pairs) := by
  intro f mx hrow
  obtain ⟨v, hv, hrows⟩ := writeRows_sound (place := fun m => f.dst + m * f.stride) (row := f.row (mx.tile f.tile)) (n := f.m)
    hd hs hw x.engine fun i j hij hj => by
      rcases hrow with h1 | hrow
      · omega
      · have h1 := hrow i (by omega)
        have h2 : (i + 1) * f.stride ≤ j * f.stride := Nat.mul_le_mul_right _ hij
        rw [Nat.succ_mul] at h2
        omega
  unfold astRun
  extract_lets e t el rows fl evs w whole s1
  have hel : el = f.elem := by
    simp only [el, AstOp.elem]
    cases fmtOf f.ctl.dst <;> rfl
  have hwrote : w = { state := v } := by
    rw [← hv]
    simp only [w, rows, range_zip_map, List.foldl_map, List.map_map, hel]
    rfl
  obtain ⟨m, hm, hkeep, hclear⟩ : ∃ m : Mxe, s1 = s.withMxe r.die e m (s.cd r.die).eng.fennel (v.pad r.die) ∧
      (f.clear = false → m.tiles = mx.tiles) ∧
      (f.clear = true → ∃ g : Tile → Tile, m.tiles = modAt mx.tiles f.tile g ∧
        ∀ t, (g t).pairs = (t.clearPart f.m f.n).pairs) := by
    simp only [s1, hwrote, hrows.toPadWork.modMxe]
    refine ⟨_, rfl, fun hc => ?_, fun hc => ?_⟩
    · simp only [hc, Bool.false_eq_true, if_false]
      exact Mxe.latch_tiles ..
    · simp only [hc, if_true]
      refine ⟨_, congrArg (modAt · _ _) (Mxe.latch_tiles ..), fun t => ?_⟩
      split <;> rfl
  exact ⟨v, m, by rw [hwrote]; exact hm, hrows, hkeep, hclear⟩

theorem Pair.bytes_length (p : Pair) : p.bytes.length = 8 := by simp [Pair.bytes]

theorem length_flatMap_const {α : Type} {n : Nat} {g : α → List Byte} (hg : ∀ a, (g a).length = n) (l : List α) :
    (l.flatMap g).length = n * l.length := by simp [List.length_flatMap, hg, Nat.mul_comm]

/-- Byte j of the i-th of pieces that are all n bytes. -/
theorem getD_flatMap_const {α : Type} {n : Nat} {g : α → List Byte} (hg : ∀ a, (g a).length = n) {l : List α} {i j : Nat}
    (hi : i < l.length) (hj : j < n) : (l.flatMap g).getD (n * i + j) 0 = (g l[i]).getD j 0 := by
  induction l generalizing i with
  | nil => exact absurd hi (Nat.not_lt_zero _)
  | cons a l ih =>
    rw [List.flatMap_cons]
    cases i with
    | zero => rw [Nat.mul_zero, Nat.zero_add, List.getD_append _ _ _ _ (by rwa [hg])]; rfl
    | succ i =>
      rw [List.getD_append_right _ _ _ _ (by rw [hg, Nat.mul_succ]; omega), hg, Nat.mul_succ,
        show n * i + n + j - n = n * i + j by omega, ih (by simpa using hi)]
      rfl

/-- Row m of a tile as ASV stores it. -/
def Tile.rawRow (t : Tile) (m : Nat) : List Byte := (List.range 256).flatMap fun n => (t.get (m * 256 + n)).bytes

theorem Tile.rawRow_length (t : Tile) (m : Nat) : (t.rawRow m).length = 2048 := by
  rw [Tile.rawRow, length_flatMap_const (fun _ => Pair.bytes_length _), List.length_range]

theorem Tile.rawRow_getD (t : Tile) (m : Nat) {n j : Nat} (hn : n < 256) (hj : j < 8) :
    (t.rawRow m).getD (8 * n + j) 0 = (t.get (m * 256 + n)).bytes.getD j 0 := by
  rw [Tile.rawRow, getD_flatMap_const (fun _ => Pair.bytes_length _) (by simpa using hn) hj, List.getElem_range]

/-- ASV stores its tile row by row. -/
theorem execAsv_runs {s : State} {r : RecRef} {x : RecState} (h : s.runs r 0x0103 x) (hd : r.die < s.cds.length)
    (hs : (s.pad r.die).sound = true) (hw : (s.pad r.die).bytes.wf = true) : ∃ v,
    exec (.asv r) s = .next (v.marked r) ∧ RowsWrote r.die (fun m => (x.w 0).toNat + 2048 * m)
      ((s.mxe r.die x.engine).tile (field (x.w 1) 1 0)).rawRow 128 s v := by
  obtain ⟨v, hv, hrows⟩ := writeRows_sound (place := fun m => (x.w 0).toNat + 2048 * m)
    (row := ((s.mxe r.die x.engine).tile (field (x.w 1) 1 0)).rawRow) (n := 128) hd hs hw x.engine
    fun i j hij _ => by rw [Tile.rawRow_length]; omega
  refine ⟨v, (runOp_runs _ h).trans ?_, hrows⟩
  change Host.Outcome.next ((noteBadScratch r (writeRows r.die x.engine _ (Tile.rawRow _) 128 s).bad
    (writeRows r.die x.engine _ (Tile.rawRow _) 128 s).state).marked r) = _
  rw [hv]
  rfl

/-- The pairs of a tile that ASV has stored. -/
theorem RowsWrote.pair {s v : State} {d a : Nat} {t : Tile} (h : RowsWrote d (fun m => a + 2048 * m) t.rawRow 128 s v)
    {i : Nat} (hi : i < 32768) : v.padBytes d (a + 8 * i) 8 = (t.get i).bytes := by
  have hrow := h.getD (i := i / 256) (o := 8 * (i % 256)) (m := 8) (by omega) (by rw [t.rawRow_length]; omega)
  rw [show a + 2048 * (i / 256) + 8 * (i % 256) = a + 8 * i by omega] at hrow
  rw [hrow]
  refine List.ext_getElem (by simp [Pair.bytes_length]) fun j h1 h2 => ?_
  have hj : j < 8 := by simpa using h1
  rw [List.getElem_map, List.getElem_range, t.rawRow_getD _ (Nat.mod_lt _ (by decide)) hj,
    show i / 256 * 256 + i % 256 = i by omega, List.getD_eq_getElem _ _ h2]

/-- The pairs that ALD lists of a tile's rows. -/
def aldPairs (rows : List (List Byte)) : List (Nat × Pair) :=
  ((List.range 128).zip rows).foldl (fun acc p => (List.range 256).foldl (fun acc n =>
    place acc (p.1 * 256 + n) {} (aldPair (wordAt p.2 (8 * n)) (wordAt p.2 (8 * n + 4)))) acc) []

theorem aldPairs_look (row : Nat → List Byte) {m n : Nat} (hm : m < 128) (hn : n < 256) :
    look (aldPairs ((List.range 128).map row)) (m * 256 + n) {} =
      aldPair (wordAt (row m) (8 * n)) (wordAt (row m) (8 * n + 4)) := by
  rw [aldPairs, foldl_rows, range_zip_map]
  refine look_foldl_place rfl (fun p hp hk => ?_) (.inl ⟨((m, row m), n), by simpa using ⟨hm, hn⟩, rfl⟩)
  simp only [List.mem_flatMap, List.mem_map, List.mem_range] at hp
  obtain ⟨_, ⟨m', _, rfl⟩, n', hn', rfl⟩ := hp
  obtain ⟨rfl, rfl⟩ : m' = m ∧ n' = n := by
    have hk : m' * 256 + n' = m * 256 + n := hk
    omega
  rfl

/-- A word of a span of a scratchpad. -/
theorem wordAt_padBytes (s : State) (d a : Nat) {o n : Nat} (h : o + 4 ≤ n) :
    wordAt (s.padBytes d a n) o = BitVec.ofNat 32 (leNat (s.padBytes d (a + o) 4)) := by
  rw [wordAt, leAt, State.padBytes, Memory.read, slice_map_range _ h]
  simp only [State.padBytes, Memory.read, Nat.add_assoc]

/-- What ALD makes of a tile. -/
def RecState.loaded (x : RecState) (s : State) (d : Nat) (t : Tile) : Tile :=
  { t with
    pairs := aldPairs ((List.range 128).map fun m => s.padBytes d ((x.w 0).toNat + m * 2048) 2048)
    chunks := (x.w 2).toNat }

theorem RecState.loaded_get (x : RecState) (s : State) (d : Nat) (t : Tile) {i : Nat} (hi : i < 32768) :
    (x.loaded s d t).get i = aldPair (BitVec.ofNat 32 (leNat (s.padBytes d ((x.w 0).toNat + 8 * i) 4)))
      (BitVec.ofNat 32 (leNat (s.padBytes d ((x.w 0).toNat + 8 * i + 4) 4))) := by
  have h := aldPairs_look (fun m => s.padBytes d ((x.w 0).toNat + m * 2048) 2048) (m := i / 256) (n := i % 256) (by omega)
    (by omega)
  rw [wordAt_padBytes _ _ _ (by omega), wordAt_padBytes _ _ _ (by omega), show i / 256 * 256 + i % 256 = i by omega,
    show (x.w 0).toNat + i / 256 * 2048 + 8 * (i % 256) = (x.w 0).toNat + 8 * i by omega,
    show (x.w 0).toNat + i / 256 * 2048 + (8 * (i % 256) + 4) = (x.w 0).toNat + 8 * i + 4 by omega] at h
  rw [Tile.get, RecState.loaded, h]

theorem execAld_runs {s : State} {r : RecRef} {x : RecState} (h : s.runs r 0x0104 x) (hs : (s.pad r.die).sound = true) :
    exec (.ald r) s = .next ((s.withMxe r.die x.engine ((s.mxe r.die x.engine).modTile (field (x.w 1) 1 0)
      (x.loaded s r.die)) (s.cd r.die).eng.fennel (s.pad r.die)).marked r) := by
  refine (runOp_runs _ h).trans ?_
  rw [readRows_sound hs, ← s.modMxe_withMxe r.die x.engine fun q => q.modTile (field (x.w 1) 1 0) (x.loaded s r.die)]
  rfl

end Sys2Proof.Machine
end

section
/-! PROOF. Each instruction of a running record on an engine that is there (05): what it leaves, read back from the die. -/

namespace Sys2Proof.Machine

/-! ## The engine of a running record -/

/-- The engines that a whole die has, and their tiles. -/
theorem State.whole_mxe {s : State} (hw : s.whole = true) {d e : Nat} (hd : d < 16) (he : e < 10) :
    d < s.cds.length ∧ e < (s.cd d).eng.mxe.length ∧ (s.mxe d e).tiles.length = 4 := by
  obtain ⟨-, -, hlen, -, -, -, -, hcds, -⟩ := s.whole_iff.mp hw
  have hd' : d < s.cds.length := by omega
  have hc : (s.cd d).whole = true := by
    rw [State.cd, List.getD_eq_getElem _ _ hd']
    exact List.all_eq_true.1 hcds _ (List.getElem_mem hd')
  simp only [Cd.whole, Bool.and_eq_true, beq_iff_eq] at hc
  obtain ⟨⟨⟨⟨⟨-, h10⟩, htiles⟩, -⟩, -⟩, -⟩ := hc
  have he' : e < (s.cd d).eng.mxe.length := by omega
  refine ⟨hd', he', ?_⟩
  rw [State.mxe, List.getD_eq_getElem _ _ he']
  simpa using List.all_eq_true.1 htiles _ (List.getElem_mem he')

theorem field_lt_four (w : Word) (lo : Nat) : field w (lo + 1) lo < 4 := by
  rw [field, show lo + 1 + 1 - lo = 2 by omega]
  exact Nat.mod_lt _ (by decide)

theorem MmaOp.n_le (w : Nat → Word) : (MmaOp.of w).n ≤ 256 := Nat.succ_le_of_lt (Nat.mod_lt _ (by decide))

/-- Engine e of die d, with its tiles, on a die whose scratchpad is sound. -/
structure MxeThere (s : State) (d e : Nat) : Prop where
  die : d < s.cds.length
  engine : e < (s.cd d).eng.mxe.length
  tiles : (s.mxe d e).tiles.length = 4
  rising : ∀ i, rising ((s.mxe d e).tile i).pairs = true
  sound : (s.pad d).sound = true
  wf : (s.pad d).bytes.wf = true

theorem State.mxeThere {s : State} (hw : s.whole = true) (hm : s.memWf = true) (ht : s.tablesWf = true) {d e : Nat}
    (hd : d < 16) (he : e < 10) (hs : (s.pad d).sound = true) : MxeThere s d e := by
  obtain ⟨hd', he', htiles⟩ := State.whole_mxe hw hd he
  exact ⟨hd', he', htiles, State.tile_rising ht d e, hs, State.pad_wf hm hd'⟩

/-- Between s and t only engine e of record r's die, that die's Fennel and its scratchpad differ, and the record's mark. -/
def MxeOnly (s : State) (r : RecRef) (e : Nat) (t : State) : Prop :=
  dieOnly r.die s t ∧ (t.pad r.die).sound = true ∧
    t.cd r.die = { s.cd r.die with
      seq := ((s.marked r).cd r.die).seq
      eng := { (s.cd r.die).eng with mxe := (t.cd r.die).eng.mxe, fennel := (t.cd r.die).eng.fennel }
      scratch := { (s.cd r.die).scratch with store := t.pad r.die } } ∧
    ∀ k, k ≠ e → t.mxe r.die k = s.mxe r.die k

/-- Of the engine only the tiles differ, and nothing of Fennel. -/
def MxeQuiet (s : State) (r : RecRef) (e : Nat) (t : State) : Prop :=
  MxeOnly s r e t ∧ (t.cd r.die).eng.fennel = (s.cd r.die).eng.fennel ∧
    t.mxe r.die e = { s.mxe r.die e with tiles := (t.mxe r.die e).tiles }

section
variable {s : State} {r : RecRef} {e : Nat} (hm : MxeThere s r.die e)
include hm

/-- What an operation leaves once its record is marked. -/
theorem State.withMxe_marked (m : Mxe) (fn : Fennel) {st : LineStore} (hst : st.sound = true) :
    let t := (s.withMxe r.die e m fn st).marked r
    MxeOnly s r e t ∧ (t.cd r.die).eng.fennel = fn ∧ t.mxe r.die e = m ∧ t.pad r.die = st := by
  have hd : r.die < (s.withMxe r.die e m fn st).cds.length := by simpa [State.withMxe] using hm.die
  refine ⟨State.withMxe_only e m fn hm.die hst, ?_, ?_, ?_⟩
  · rw [State.marked_cd _ _ hd, State.withMxe_cd hm.die]
  · rw [State.marked_mxe _ _ hd, State.withMxe_mxe hm.die hm.engine]
  · rw [State.marked_pad _ _ hd, State.withMxe_pad hm.die]

theorem State.withMxe_quiet {m : Mxe} {st : LineStore} (hst : st.sound = true)
    (ht : m = { s.mxe r.die e with tiles := m.tiles }) :
    let t := (s.withMxe r.die e m (s.cd r.die).eng.fennel st).marked r
    MxeQuiet s r e t ∧ t.mxe r.die e = m ∧ t.pad r.die = st := by
  obtain ⟨honly, hfn, hmx, hpad⟩ := State.withMxe_marked hm m (s.cd r.die).eng.fennel hst
  exact ⟨⟨honly, hfn, by rw [hmx]; exact ht⟩, hmx, hpad⟩

end

/-! ## Each instruction -/

section
variable {s : State} {r : RecRef} {x : RecState} (hm : MxeThere s r.die x.engine)
include hm

theorem execAclr_does (h : s.runs r 0x0101 x) : ∃ t, exec (.aclr r) s = .next t ∧ MxeQuiet s r x.engine t ∧
    t.pad r.die = s.pad r.die ∧ ∀ i < 4, (t.mxe r.die x.engine).tile i =
      if (x.w 0).getLsbD i then {} else (s.mxe r.die x.engine).tile i := by
  obtain ⟨m, hrun, hmx, htile⟩ := execAclr_runs h hm.tiles
  obtain ⟨hq, ht, hpad⟩ := State.withMxe_quiet hm hm.sound hmx
  exact ⟨_, hrun, hq, hpad, by rwa [ht]⟩

theorem execAld_does (h : s.runs r 0x0104 x) : ∃ t, exec (.ald r) s = .next t ∧ MxeQuiet s r x.engine t ∧
    t.pad r.die = s.pad r.die ∧
    (∀ i, i ≠ field (x.w 1) 1 0 → (t.mxe r.die x.engine).tile i = (s.mxe r.die x.engine).tile i) ∧
    (t.mxe r.die x.engine).tile (field (x.w 1) 1 0) =
      x.loaded s r.die ((s.mxe r.die x.engine).tile (field (x.w 1) 1 0)) := by
  obtain ⟨hq, ht, hpad⟩ := State.withMxe_quiet hm (m := (s.mxe r.die x.engine).modTile (field (x.w 1) 1 0) (x.loaded s r.die))
    hm.sound rfl
  refine ⟨_, execAld_runs h hm.sound, hq, hpad, ?_⟩
  rw [ht]
  exact ⟨fun i hi => Mxe.modTile_other _ hi _, Mxe.modTile_same (hm.tiles ▸ field_lt_four _ 0) _⟩

theorem execAsv_does (h : s.runs r 0x0103 x) : ∃ t, exec (.asv r) s = .next t ∧ MxeQuiet s r x.engine t ∧
    t.mxe r.die x.engine = s.mxe r.die x.engine ∧
    (∀ i < 32768, t.padBytes r.die ((x.w 0).toNat + 8 * i) 8 =
      (((s.mxe r.die x.engine).tile (field (x.w 1) 1 0)).get i).bytes) ∧
    padSame r.die [((x.w 0).toNat, 262144)] s t := by
  obtain ⟨v, hrun, hrows⟩ := execAsv_runs h hm.die hm.sound hm.wf
  obtain ⟨hq, ht, hpad⟩ := State.withMxe_quiet hm (m := s.mxe r.die x.engine) hrows.sound rfl
  rw [← hrows.withMxe] at hq ht hpad
  refine ⟨_, hrun, hq, ht, fun i hi => ?_, fun a ha => ?_⟩
  · rw [State.padBytes, hpad]
    exact hrows.pair hi
  · rw [State.padBytes, hpad]
    refine hrows.padSame (spans := [((x.w 0).toNat, 262144)]) (fun b hb i hi => ?_) a ha
    have := hb _ (.head _)
    rw [Tile.rawRow_length]
    omega

theorem execAst_does (h : s.runs r 0x0102 x) :
    let f := AstOp.of x.w
    let old := (s.mxe r.die x.engine).tile f.tile
    (f.m = 1 ∨ ∀ m < f.m, (f.row old m).length ≤ f.stride) →
    ∃ t, exec (.ast r) s = .next t ∧ MxeOnly s r x.engine t ∧
      (∀ i, i ≠ f.tile → (t.mxe r.die x.engine).tile i = (s.mxe r.die x.engine).tile i) ∧
      (∀ m < f.m, t.padBytes r.die (f.dst + m * f.stride) (f.row old m).length = f.row old m) ∧
      padSame r.die ((List.range f.m).map fun m => (f.dst + m * f.stride, (f.row old m).length)) s t ∧
      (f.clear = false → (t.mxe r.die x.engine).tile f.tile = old) ∧
      (f.clear = true → ∀ i, ((t.mxe r.die x.engine).tile f.tile).get i =
        if i / 256 < f.m ∧ i % 256 < f.n then {} else old.get i) := by
  intro f old hrow
  obtain ⟨v, m, hrun, hrows, hkeep, hclear⟩ := astRun_sound (x := x) hm.die hm.sound hm.wf hrow
  obtain ⟨honly, -, ht, hpad⟩ := State.withMxe_marked hm m (s.cd r.die).eng.fennel hrows.sound
  rw [← hrun] at honly ht hpad
  refine ⟨_, runOp_runs _ h, honly, fun i hi => ?_, fun i hi => ?_, fun a ha => ?_, fun hc => ?_, fun hc i => ?_⟩
  · rw [ht]
    cases hc : f.clear with
    | false => rw [Mxe.tile, hkeep hc]; rfl
    | true =>
      obtain ⟨g, hg, -⟩ := hclear hc
      rw [Mxe.tile, hg]
      exact modAt_getD_other _ _ _ _ _ hi
  · rw [State.padBytes, hpad]
    exact hrows.padBytes hi
  · rw [State.padBytes, hpad]
    refine hrows.padSame (fun b hb i hi => ?_) a ha
    exact hb _ (List.mem_map_of_mem (List.mem_range.2 hi))
  · rw [ht, Mxe.tile, hkeep hc]
    rfl
  · obtain ⟨g, hg, hpairs⟩ := hclear hc
    have htile : m.tile f.tile = g old := by
      rw [Mxe.tile, hg]
      exact modAt_getD_same _ _ _ _ (hm.tiles ▸ field_lt_four _ 16)
    rw [ht, htile, Tile.get, hpairs]
    exact old.clearPart_get f.m f.n i

end

/-! ## MMA as a whole -/

section
variable {s : State} {r : RecRef} {x : RecState} (hm : MxeThere s r.die x.engine) (h : s.runs r 0x0100 x)
include hm h

/-- With a count of 0 only the clear bit is heeded. -/
theorem execMma_zero (hk : x.count = 0) :
    let f := MmaOp.of x.w
    let old := (s.mxe r.die x.engine).tile f.tile
    ∃ t, exec (.mma r) s = .next t ∧ MxeQuiet s r x.engine t ∧ t.pad r.die = s.pad r.die ∧
      t.mxe r.die x.engine = (s.mxe r.die x.engine).modTile f.tile fun _ => f.start 0 old := by
  intro f old
  obtain ⟨hq, ht, hpad⟩ := State.withMxe_quiet hm (m := (s.mxe r.die x.engine).modTile f.tile fun _ => f.start 0 old)
    hm.sound rfl
  exact ⟨_, (runOp_runs _ h).trans (by rw [mmaRun_zero r s hk]), hq, hpad, ht⟩

/-- With a count of K the tile becomes what the elements make of it. -/
theorem execMma_counted (hk : x.count ≠ 0) :
    let f := MmaOp.of x.w
    let t0 := f.start x.count ((s.mxe r.die x.engine).tile f.tile)
    ∃ t a b, exec (.mma r) s = .next t ∧ MxeOnly s r x.engine t ∧ t.pad r.die = s.pad r.die ∧
      (∀ i, i ≠ f.tile → (t.mxe r.die x.engine).tile i = (s.mxe r.die x.engine).tile i) ∧
      (t.mxe r.die x.engine).tile f.tile = mmaTile f x.count t0 (mmaElems f t0 a b) ∧
      (∀ el, fmtOf f.aFmt = some (el, false) → el.bits = 8 → f.transA = false →
        a = byteRows s r.die el f.aAddr f.aStride f.m x.count) ∧
      (∀ el, fmtOf f.bFmt = some (el, false) → el.bits = 8 → f.transB = false →
        b = byteRows s r.die el f.bAddr f.bStride f.n x.count) := by
  intro f t0
  obtain ⟨m, fn, a, b, hrun, htiles, ha, hb⟩ := mmaRun_counted (x := x) hm.die hm.sound hk
  obtain ⟨honly, -, ht, hpad⟩ := State.withMxe_marked hm m fn hm.sound
  refine ⟨_, a, b, (runOp_runs _ h).trans (by rw [hrun]), honly, hpad, fun i hi => ?_, ?_, ha, hb⟩
  · rw [ht, Mxe.tile, htiles]
    exact modAt_getD_other _ _ _ _ _ hi
  · rw [ht, Mxe.tile, htiles]
    exact modAt_getD_same _ _ _ _ (hm.tiles ▸ field_lt_four _ 16)

end

/-- A clear element of the part that an MMA addresses. -/
theorem MmaOp.start_get_inside (f : MmaOp) (k : Nat) (t : Tile) {m n : Nat} (hm : m < f.m) (hn : n < f.n) (h : n < 256) :
    (f.start k t).get (m * 256 + n) = if f.clear then {} else t.get (m * 256 + n) := by
  rw [MmaOp.start_get, show (m * 256 + n) / 256 = m by omega, show (m * 256 + n) % 256 = n by omega]
  simp [hm, hn]

theorem MmaOp.start_get_outside (f : MmaOp) (k : Nat) (t : Tile) {i : Nat} (hi : f.m ≤ i / 256 ∨ f.n ≤ i % 256) :
    (f.start k t).get i = t.get i := by
  rw [MmaOp.start_get, if_neg (by omega)]

end Sys2Proof.Machine

open Sys2Proof.Machine

/-- Settles O49: each instruction of a matrix engine in turn. An MMA with a count of 0 heeds its clear bit; with a count its
elements, at distinct places of the tile, are set one by one to what their terms come to. -/
theorem matrixTiles : Obligations.MatrixTiles := by
  intro s r x hw hmem ht hs he d e tile only quiet
  have hthere : ∀ {code}, s.runs r code x → MxeThere s r.die x.engine := fun h =>
    State.mxeThere hw hmem ht (of_decide_eq_true h.1.1) he hs
  refine ⟨fun h => ?_, fun h => execAclr_does (hthere h) h, fun h => ?_, fun h => ?_, fun h => ?_⟩
  all_goals have hm := hthere h
  · intro f old k
    have hf : f.tile < (s.mxe r.die x.engine).tiles.length := hm.tiles ▸ field_lt_four _ 16
    by_cases hk : k = 0
    · obtain ⟨t, hrun, hq, hpad, hmx⟩ := execMma_zero hm h hk
      have htile : tile t f.tile = f.start 0 old := (congrArg (·.tile f.tile) hmx).trans (Mxe.modTile_same hf _)
      refine ⟨t, hrun, hq.1, hpad, fun i hi => (congrArg (·.tile i) hmx).trans (Mxe.modTile_other _ hi _), fun i hi => ?_,
        fun _ => ⟨hq, fun hc => ?_, fun hc => ⟨?_, fun m n h1 h2 h3 => ?_⟩⟩,
        fun _ hpos => absurd hk (Nat.pos_iff_ne_zero.1 hpos),
        fun _ _ _ _ _ _ _ _ _ hpos => absurd hk (Nat.pos_iff_ne_zero.1 hpos)⟩
      · rw [htile]
        exact f.start_get_outside 0 old hi
      · rw [htile, MmaOp.start, hc]
        rfl
      · rw [htile, MmaOp.start_chunks, hc]
        rfl
      · rw [htile, f.start_get_inside 0 old h1 h2 h3, hc]
        rfl
    · obtain ⟨t, a, b, hrun, honly, hpad, hother, htile, ha, hb⟩ := execMma_counted hm h hk
      have hstart : rising (f.start k old).pairs = true := f.start_rising k (hm.rising _)
      refine ⟨t, hrun, honly, hpad, hother, fun i hi => ?_, fun h0 => absurd h0 hk, fun hstrict _ => ?_,
        fun ea eb hfa hfb hea heb hstrict hta htb _ m n h1 h2 h3 => ?_⟩
      · calc (tile t f.tile).get i = (mmaTile f k (f.start k old) (mmaElems f (f.start k old) a b)).get i :=
              congrArg (·.get i) htile
          _ = (f.start k old).get i := mmaTile_get_outside (MmaOp.n_le _) k hstart a b hi
          _ = old.get i := f.start_get_outside k old hi
      · refine (congrArg Tile.chunks htile).trans ?_
        rw [mmaTile_chunks, MmaOp.start_chunks, if_neg (by simpa using hstrict)]
        rfl
      · rw [ha ea hfa hea hta, hb eb hfb heb htb] at htile
        refine (congrArg (·.get (m * 256 + n)) htile).trans ?_
        refine (mmaTile_get_fast hstrict (MmaOp.n_le _) k hstart _ _ h1 h2).trans ?_
        rw [f.start_get_inside k old h1 h2 h3, List.zip_map']
        rfl
  · intro f el row hrow
    have hel : el = f.elem := by
      simp only [el, AstOp.elem]
      cases fmtOf f.ctl.dst <;> rfl
    have hrows : row = f.row (tile s f.tile) := by
      simp only [row, hel]
      rfl
    rw [hrows] at hrow ⊢
    exact execAst_does hm h hrow
  · obtain ⟨t, hrun, hq, hmx, hpairs, hsame⟩ := execAsv_does hm h
    exact ⟨t, hrun, hq, fun i => congrArg (·.tile i) hmx, hpairs, hsame⟩
  · obtain ⟨t, hrun, hq, hpad, hother, htile⟩ := execAld_does hm h
    refine ⟨t, hrun, hq, hpad, hother, (congrArg Tile.chunks htile).trans rfl, fun i hi => ?_⟩
    exact (congrArg (·.get i) htile).trans (RecState.loaded_get _ _ _ _ hi)
end

section
/-! PROOF. The status registers of latches (05 R157, 07 R186, R187, 08 R219, 15 R375) and SEG_WAIT_MAX (16 R417): a granted
write of one of them is the write of that register alone. -/

namespace Sys2Proof.Machine

/-! ## A granted write that meets no set member -/

section
variable {s : State} {b off : Nat} (hoff : off < 0x800000) (v : Word)
include hoff

theorem hostWrite_cd {d : Nat} (hd : d < 16) (h : s.grants b (winCd d) off true)
    (hm : memberAt s.ctrl.ident.part (winCd d) off = none) : hostWrite b (winCd d) off v s = writeCd d off v s := by
  obtain ⟨-, -, -, hthere⟩ := id h
  have hsite : windowSite (winCd d) = some (.cd d) := if_pos hd
  rw [hsite] at hthere
  simp only [Option.elim] at hthere
  simp [hostWrite_granted h, regWrite, hsite, hthere, shadowBase, Nat.not_le.2 hoff, hm]

theorem hostWrite_hub {k : Nat} (hk : k < 32) (h : s.grants b (winHub k) off true)
    (hm : memberAt s.ctrl.ident.part (winHub k) off = none) : hostWrite b (winHub k) off v s = writeHub k off v s := by
  obtain ⟨-, -, -, hthere⟩ := id h
  have hsite : windowSite (winHub k) = some (.stack k) := by
    have hwin : ¬ 0x20 + k < 0x10 ∧ 0x20 + k < 0x40 := by omega
    simp [windowSite, winHub, hwin]
  rw [hsite] at hthere
  simp only [Option.elim] at hthere
  simp [hostWrite_granted h, regWrite, hsite, hthere, shadowBase, Nat.not_le.2 hoff, hm]

theorem hostWrite_le {m : Nat} (hm8 : m < 8) (h : s.grants b (winLe m) off true)
    (hm : memberAt s.ctrl.ident.part (winLe m) off = none) : hostWrite b (winLe m) off v s = writeLe m off v s := by
  obtain ⟨-, -, -, hthere⟩ := id h
  have hsite : windowSite (winLe m) = some (.le m) := by
    have hwin : ¬ 0x60 + m < 0x10 ∧ ¬ 0x60 + m < 0x40 ∧ ¬ 0x60 + m < 0x60 ∧ 0x60 + m < 0x68 := by omega
    simp [windowSite, winLe, hwin]
  rw [hsite] at hthere
  simp only [Option.elim] at hthere
  simp [hostWrite_granted h, regWrite, hsite, hthere, shadowBase, Nat.not_le.2 hoff, hm]

end

/-! ## The registers -/

/-- A compute die's window holds sets from the conversion engine's to its last power block's (Table 02.10). -/
theorem memberAt_cd_none {d off : Nat} (hd : d < 16) (h : off < 0x80080 ∨ 0xC0C00 ≤ off) (part : Nat) :
    memberAt part (winCd d) off = none := by
  have hp : pwrAt d off = none := by simp [pwrAt, hd]; omega
  have hset : off ≠ 0x80080 ∧ off ≠ 0x80084 ∧ off ≠ 0x80088 ∧ off ≠ 0x8008C := by omega
  simp [memberAt, winCd, hp, hd, hset]

theorem memberAt_redNv (k part : Nat) : memberAt part (winHub k) 0x10024 = none := by
  simp [memberAt, pwrAt, winHub]

theorem memberAt_arbFlag (n part : Nat) : memberAt part (winLe (n / 16)) (portOff n 0x7C) = none := by
  have hoff : portOff n 0x7C % 0x400 = 0x7C ∧ ¬ 0x50000 ≤ portOff n 0x7C := by simp only [portOff]; omega
  have hwin : ¬ winLe (n / 16) < 0x10 ∧ ¬ winLe (n / 16) < 0x40 ∧ ¬ winLe (n / 16) < 0x60 := by simp only [winLe]; omega
  have hpwr : pwrAt (winLe (n / 16)) (portOff n 0x7C) = none := by simp [pwrAt, hwin, hoff]
  simp [memberAt, hpwr, hwin, hoff]

theorem writeCd_fe {d e : Nat} (he : e < 10) (v : Word) (s : State) :
    writeCd d (0x40008 + 0x100 * e) v s = writeFe d e v s := by
  have hpage : (0x40008 + 0x100 * e) / 0x10000 = 4 ∧ (0x40008 + 0x100 * e) % 0x10000 = 8 + 0x100 * e := by omega
  have hreg : (8 + 0x100 * e) % 0x100 = 8 ∧ (8 + 0x100 * e) / 0x100 = e := by omega
  simp only [writeCd, hpage, hreg]
  rw [if_neg (by simp; omega), if_neg (by omega)]

theorem writeCd_waitMax {d g : Nat} (hg : g < 4) (v : Word) (s : State) :
    writeCd d (0xC1014 + 0x40 * g) v s = clearWaitMax d g s := by
  have hpage : (0xC1014 + 0x40 * g) / 0x10000 = 0xC ∧ (0xC1014 + 0x40 * g) % 0x10000 = 0x1014 + 0x40 * g := by omega
  have hreg : (0x1014 + 0x40 * g) % 0x40 = 0x14 ∧ (0x1014 + 0x40 * g - 0x1000) / 0x40 = g := by omega
  simp only [writeCd, hpage, hreg]
  rw [if_neg (by simp; omega), if_pos (by simp; omega)]

theorem writeLe_arbFlag {n : Nat} (v : Word) (s : State) :
    writeLe (n / 16) (portOff n 0x7C) v s = writeArbFlag n v s := by
  have hoff : 0x10000 ≤ portOff n 0x7C ∧ portOff n 0x7C < 0x14000 ∧ portOff n 0x7C % 0x400 = 0x7C ∧
      16 * (n / 16) + (portOff n 0x7C - 0x10000) / 0x400 = n := by simp only [portOff]; omega
  simp [writeLe, hoff, writePort]

/-- A latch that bit 0 of the value clears, or leaves. -/
theorem cleared_or_same (v : Word) (s t : State) :
    let u := if bit v.toNat 0 then t else s
    (v.getLsbD 0 = true → u = t) ∧ (¬ v.getLsbD 0 = true → u = s) := by
  rw [bit_zero]
  exact ⟨fun h => if_pos h, fun h => if_neg h⟩

end Sys2Proof.Machine

open Sys2Proof.Machine

/-- Settles O20: a granted write of each register is the write that its section names, which bit 0 decides
(`cleared_or_same`). That GXE_OOR_STAT clears the fields of its latch with it is log entry 85. -/
theorem latchesClear : Obligations.LatchesClear := by
  intro s b d e h n g v hb hd he hh hn hg on
  refine ⟨fun hw => ⟨_, ?_, cleared_or_same v s _⟩, fun hw => ⟨_, ?_, cleared_or_same v s _⟩,
    fun hw => ⟨_, ?_, cleared_or_same v s _⟩, fun hw => ⟨_, ?_, cleared_or_same v s _⟩,
    fun hw => ⟨_, ?_, cleared_or_same v s _⟩, fun hw => ?_⟩
  · have := hostWrite_cd (by omega) v hd hw (memberAt_cd_none hd (by omega) _)
    simp [exec, execMxeFeStat, onlyIf, hb, hd, he, this, writeCd_fe he]
    rfl
  · have := hostWrite_cd (by omega) v hd hw (memberAt_cd_none hd (by omega) _)
    simp [exec, execGxeOorStat, onlyIf, hb, hd, this]
    rfl
  · have := hostWrite_cd (by omega) v hd hw (memberAt_cd_none hd (by omega) _)
    simp [exec, execGxeBadCount, onlyIf, hb, hd, this]
    rfl
  · have := hostWrite_hub (by omega) v hh hw (memberAt_redNv h _)
    simp [exec, execRedNvStat, onlyIf, hb, hh, this]
    rfl
  · have := hostWrite_le (by simp only [portOff]; omega) v (by omega) hw (memberAt_arbFlag n _)
    simp [exec, execArbFlagStat, onlyIf, hb, hn, this, writeLe_arbFlag]
    rfl
  · have := hostWrite_cd (by omega) v hd hw (memberAt_cd_none hd (by omega) _)
    simp [exec, execSegWaitMax, onlyIf, hb, hd, hg, this, writeCd_waitMax hg]
    rfl
end
